-- ==== Sys2Proof/Word.lean ====
section
/-! DEFINITION. The widths of the machine and the plainest operations on them (02_numbers, 03_encoding R45). -/
namespace Sys2Proof

/-- A 64-bit scalar register, address or system register (01_machine R13). -/
abbrev W64 := BitVec 64
/-- One 16-bit instruction word (03_encoding R45). -/
abbrev W16 := BitVec 16
/-- A 512-bit vector register or one 64-byte line (05_vector R106). -/
abbrev W512 := BitVec 512
/-- One byte of memory. -/
abbrev Byte := BitVec 8
/-- A register number of 5 bits (03_encoding R47). -/
abbrev Reg := BitVec 5
/-- A 3-bit field that holds a code or a queue register (03_encoding R47). -/
abbrev Code3 := BitVec 3
/-- A table of values by number, in rising order of the number. -/
abbrev Tbl (α : Type) := List (Nat × α)

end Sys2Proof
end

