-- ==== Sys2Proof/Syntax.lean ====
section
/-! DEFINITION. The instructions of spec/opcode_table.json, one constructor for each row: the 246 encoded
instructions (03_encoding R65 to R69) and the 125 events of the device, which have no encoding
(95_what_each_step_holds). -/
namespace Sys2Proof

/-- Element types with their codes 0 to 13 in order (03_encoding R64, 00_scope R7). -/
inductive ETy
  | f32 | f16 | bf16 | e4m3 | e5m2 | e2m1 | i8 | i16 | i32 | i64 | n8 | n16 | n32 | n64
  deriving DecidableEq, Repr

/-- Scalar access sizes of 1, 2, 4 and 8 bytes (00_scope R7). -/
inductive Sz
  | b | h | w | d
  deriving DecidableEq, Repr

/-- The sizes .w and .d of the atomics and of WAITA (03_encoding R67). -/
inductive Wd
  | w | d
  deriving DecidableEq, Repr

/-- The sizes of SEXT and ZEXT (04_core R95). -/
inductive Sz3
  | b | h | w
  deriving DecidableEq, Repr

/-- Ordering scopes with their codes 0 to 5 (07_ordering R170). -/
inductive Scope
  | core | quad | cluster | die | device | system
  deriving DecidableEq, Repr

/-- Message classes a SEND may name: codes 0, 1 and 3 (10_queue R271). -/
inductive MCls
  | req | rep | sys
  deriving DecidableEq, Repr

/-- Conditions of VCMP (05_vector R127). -/
inductive Cond
  | eq | ne | lt | le
  deriving DecidableEq, Repr

/-- Kinds of VRED and VSCAN (05_vector R129). -/
inductive RKind
  | sum | min | max
  deriving DecidableEq, Repr

/-- Shared-exponent block formats (02_numbers R29). -/
inductive SxF
  | sx3 | sx5 | sx8
  deriving DecidableEq, Repr

/-- The mask register number (0 for none) and the agnostic bit of the MOD word (03_encoding R51). -/
structure Msk where
  m : Code3
  ag : Bool
  deriving DecidableEq, Repr

/-- No mask. -/
def Msk.none : Msk := ⟨0, false⟩

/-- The rows of the opcode table. Registers are 5-bit numbers formed under R47; immediates are the values formed under
R49; an event carries nothing: the numbers that say what it happens to stand in the State. -/
inductive Instr
  | addShort (d : Reg) (a : Reg) (b : Reg)
  | subShort (d : Reg) (a : Reg) (b : Reg)
  | andShort (d : Reg) (a : Reg) (b : Reg)
  | orShort (d : Reg) (a : Reg) (b : Reg)
  | xorShort (d : Reg) (a : Reg) (b : Reg)
  | addiShort (d : Reg) (a : Reg) (imm : W64)
  | shliShort (d : Reg) (a : Reg) (imm : W64)
  | shriShort (d : Reg) (a : Reg) (imm : W64)
  | ldiShort (d : Reg) (imm : W64)
  | movShort (d : Reg) (a : Reg)
  | sltShort (d : Reg) (a : Reg) (b : Reg)
  | mulShort (d : Reg) (a : Reg) (b : Reg)
  | ldDShort (d : Reg) (a : Reg) (imm : W64)
  | ldWShort (d : Reg) (a : Reg) (imm : W64)
  | stDShort (d : Reg) (a : Reg) (imm : W64)
  | stWShort (d : Reg) (a : Reg) (imm : W64)
  | leaShort (d : Reg) (a : Reg) (imm : W64)
  | brShort (imm : W64)
  | beqShort (d : Reg) (a : Reg) (imm : W64)
  | bneShort (d : Reg) (a : Reg) (imm : W64)
  | bzShort (d : Reg) (imm : W64)
  | bnzShort (d : Reg) (imm : W64)
  | callShort (imm : W64)
  | vaddF32Short (d : Reg) (a : Reg) (b : Reg) (m : Msk)
  | vmulF32Short (d : Reg) (a : Reg) (b : Reg) (m : Msk)
  | vfmaF32Short (d : Reg) (a : Reg) (b : Reg) (m : Msk)
  | vldF32Short (d : Reg) (a : Reg) (imm : W64) (m : Msk)
  | vstF32Short (d : Reg) (a : Reg) (imm : W64) (m : Msk)
  | sendReqShort (d : Reg) (a : Reg) (b : Reg)
  | add (d : Reg) (a : Reg) (b : Reg)
  | sub (d : Reg) (a : Reg) (b : Reg)
  | and (d : Reg) (a : Reg) (b : Reg)
  | or (d : Reg) (a : Reg) (b : Reg)
  | xor (d : Reg) (a : Reg) (b : Reg)
  | shl (d : Reg) (a : Reg) (b : Reg)
  | shr (d : Reg) (a : Reg) (b : Reg)
  | sar (d : Reg) (a : Reg) (b : Reg)
  | mul (d : Reg) (a : Reg) (b : Reg)
  | mulh (d : Reg) (a : Reg) (b : Reg)
  | mulhn (d : Reg) (a : Reg) (b : Reg)
  | div (d : Reg) (a : Reg) (b : Reg)
  | divn (d : Reg) (a : Reg) (b : Reg)
  | rem (d : Reg) (a : Reg) (b : Reg)
  | remn (d : Reg) (a : Reg) (b : Reg)
  | min (d : Reg) (a : Reg) (b : Reg)
  | max (d : Reg) (a : Reg) (b : Reg)
  | minn (d : Reg) (a : Reg) (b : Reg)
  | maxn (d : Reg) (a : Reg) (b : Reg)
  | slt (d : Reg) (a : Reg) (b : Reg)
  | sltn (d : Reg) (a : Reg) (b : Reg)
  | seq (d : Reg) (a : Reg) (b : Reg)
  | sne (d : Reg) (a : Reg) (b : Reg)
  | caddr (d : Reg) (a : Reg) (b : Reg)
  | csplit (d : Reg) (a : Reg)
  | clz (d : Reg) (a : Reg)
  | ctz (d : Reg) (a : Reg)
  | popc (d : Reg) (a : Reg)
  | brev (d : Reg) (a : Reg)
  | sext (s : Sz3) (d : Reg) (a : Reg)
  | zext (s : Sz3) (d : Reg) (a : Reg)
  | mov (d : Reg) (a : Reg)
  | addi (d : Reg) (a : Reg) (imm : W64)
  | andi (d : Reg) (a : Reg) (imm : W64)
  | ori (d : Reg) (a : Reg) (imm : W64)
  | xori (d : Reg) (a : Reg) (imm : W64)
  | shli (d : Reg) (a : Reg) (imm : W64)
  | shri (d : Reg) (a : Reg) (imm : W64)
  | sari (d : Reg) (a : Reg) (imm : W64)
  | lea (d : Reg) (a : Reg) (imm : W64)
  | ldi (d : Reg) (imm : W64)
  | ldih (d : Reg) (imm : W64)
  | br (imm : W64)
  | call (imm : W64)
  | beq (d : Reg) (a : Reg) (imm : W64)
  | bne (d : Reg) (a : Reg) (imm : W64)
  | blt (d : Reg) (a : Reg) (imm : W64)
  | bge (d : Reg) (a : Reg) (imm : W64)
  | bltn (d : Reg) (a : Reg) (imm : W64)
  | bgen (d : Reg) (a : Reg) (imm : W64)
  | bz (d : Reg) (imm : W64)
  | bnz (d : Reg) (imm : W64)
  | jmpr (a : Reg)
  | callr (a : Reg)
  | align (imm : W64)
  | dly (imm : W64)
  | srr (d : Reg) (imm : W64)
  | srw (d : Reg) (imm : W64)
  | srset (d : Reg) (imm : W64)
  | srclr (d : Reg) (imm : W64)
  | ctxsw (a : Reg) (b : Reg)
  | trap (imm : W64)
  | brk (imm : W64)
  | ld (s : Sz) (d : Reg) (a : Reg) (imm : W64)
  | st (s : Sz) (d : Reg) (a : Reg) (imm : W64)
  | ldx (s : Sz) (d : Reg) (a : Reg) (b : Reg)
  | stx (s : Sz) (d : Reg) (a : Reg) (b : Reg)
  | ldf (s : Sz) (d : Reg) (a : Reg)
  | ldfTagged (s : Sz) (a : Reg) (b : Reg)
  | stf (s : Sz) (d : Reg) (a : Reg) (b : Reg)
  | pref (d : Code3) (a : Reg) (imm : W64)
  | discard (a : Reg) (b : Reg)
  | fence (c : Scope)
  | fenceAcq (c : Scope)
  | fenceRel (c : Scope)
  | ldaq (c : Scope) (s : Sz) (d : Reg) (a : Reg)
  | strl (c : Scope) (s : Sz) (d : Reg) (a : Reg)
  | atomAdd (s : Wd) (d : Reg) (a : Reg) (b : Reg)
  | atomAnd (s : Wd) (d : Reg) (a : Reg) (b : Reg)
  | atomOr (s : Wd) (d : Reg) (a : Reg) (b : Reg)
  | atomXor (s : Wd) (d : Reg) (a : Reg) (b : Reg)
  | atomMin (s : Wd) (d : Reg) (a : Reg) (b : Reg)
  | atomMax (s : Wd) (d : Reg) (a : Reg) (b : Reg)
  | atomMinn (s : Wd) (d : Reg) (a : Reg) (b : Reg)
  | atomMaxn (s : Wd) (d : Reg) (a : Reg) (b : Reg)
  | atomSwap (s : Wd) (d : Reg) (a : Reg) (b : Reg)
  | cas (s : Wd) (d : Reg) (a : Reg) (b : Reg)
  | binc (s : Wd) (d : Reg) (a : Reg) (b : Reg)
  | waita (s : Wd) (d : Reg) (a : Reg) (b : Reg)
  | tlbinv (a : Reg) (b : Reg)
  | pgq (d : Reg) (a : Reg) (b : Reg)
  | pgpin (d : Reg) (a : Reg) (b : Reg)
  | vadd (t : ETy) (d : Reg) (a : Reg) (b : Reg) (m : Msk)
  | vsub (t : ETy) (d : Reg) (a : Reg) (b : Reg) (m : Msk)
  | vmul (t : ETy) (d : Reg) (a : Reg) (b : Reg) (m : Msk)
  | vdiv (t : ETy) (d : Reg) (a : Reg) (b : Reg) (m : Msk)
  | vfma (t : ETy) (d : Reg) (a : Reg) (b : Reg) (m : Msk)
  | vfms (t : ETy) (d : Reg) (a : Reg) (b : Reg) (m : Msk)
  | vfnma (t : ETy) (d : Reg) (a : Reg) (b : Reg) (m : Msk)
  | vmin (t : ETy) (d : Reg) (a : Reg) (b : Reg) (m : Msk)
  | vmax (t : ETy) (d : Reg) (a : Reg) (b : Reg) (m : Msk)
  | vabs (t : ETy) (d : Reg) (a : Reg) (m : Msk)
  | vneg (t : ETy) (d : Reg) (a : Reg) (m : Msk)
  | vrcp (t : ETy) (d : Reg) (a : Reg) (m : Msk)
  | vrsq (t : ETy) (d : Reg) (a : Reg) (m : Msk)
  | vexp2 (t : ETy) (d : Reg) (a : Reg) (m : Msk)
  | vlog2 (t : ETy) (d : Reg) (a : Reg) (m : Msk)
  | vand (t : ETy) (d : Reg) (a : Reg) (b : Reg) (m : Msk)
  | vor (t : ETy) (d : Reg) (a : Reg) (b : Reg) (m : Msk)
  | vxor (t : ETy) (d : Reg) (a : Reg) (b : Reg) (m : Msk)
  | vnot (t : ETy) (d : Reg) (a : Reg) (m : Msk)
  | vshl (t : ETy) (d : Reg) (a : Reg) (b : Reg) (m : Msk)
  | vshr (t : ETy) (d : Reg) (a : Reg) (b : Reg) (m : Msk)
  | vsar (t : ETy) (d : Reg) (a : Reg) (b : Reg) (m : Msk)
  | vdot (t : ETy) (d : Reg) (a : Reg) (b : Reg) (m : Msk)
  | vsel (t : ETy) (d : Reg) (a : Reg) (b : Reg) (m : Msk)
  | vcmp (c : Cond) (t : ETy) (d : Reg) (a : Reg) (b : Reg) (m : Msk)
  | vred (k : RKind) (t : ETy) (d : Reg) (a : Reg) (m : Msk)
  | vscan (k : RKind) (t : ETy) (d : Reg) (a : Reg) (m : Msk)
  | vcvt (t : ETy) (ts : ETy) (d : Reg) (a : Reg) (m : Msk)
  | vperm (t : ETy) (d : Reg) (a : Reg) (b : Reg) (m : Msk)
  | vbcast (t : ETy) (d : Reg) (a : Reg) (m : Msk)
  | vins (t : ETy) (d : Reg) (a : Reg) (b : Reg)
  | vext (t : ETy) (d : Reg) (a : Reg) (b : Reg)
  | vld (t : ETy) (d : Reg) (a : Reg) (imm : W64) (m : Msk)
  | vst (t : ETy) (d : Reg) (a : Reg) (imm : W64) (m : Msk)
  | vlds (t : ETy) (d : Reg) (a : Reg) (b : Reg) (m : Msk)
  | vsts (t : ETy) (d : Reg) (a : Reg) (b : Reg) (m : Msk)
  | vldx (t : ETy) (d : Reg) (a : Reg) (b : Reg) (m : Msk)
  | vstx (t : ETy) (d : Reg) (a : Reg) (b : Reg) (m : Msk)
  | vsxpack (x : SxF) (t : ETy) (d : Reg) (a : Reg)
  | vsxunpack (x : SxF) (t : ETy) (d : Reg) (a : Reg)
  | mand (d : Reg) (a : Reg) (b : Reg)
  | mor (d : Reg) (a : Reg) (b : Reg)
  | mnot (d : Reg) (a : Reg)
  | mpopc (d : Reg) (a : Reg)
  | mfirst (d : Reg) (a : Reg)
  | mset (d : Reg) (a : Reg)
  | vclaim (d : Code3)
  | vyield (d : Code3)
  | vgive (a : Reg) (b : Code3)
  | vtake (d : Reg) (b : Code3)
  | vframes (d : Reg)
  | mma (t : ETy) (d : Reg) (a : Reg) (b : Reg)
  | mtsub (d : Reg) (a : Reg)
  | mgang (d : Reg) (a : Reg) (b : Reg)
  | mdrainHandle (d : Reg) (a : Reg) (b : Reg)
  | mdrainTicket (d : Reg) (a : Reg) (b : Reg)
  | mclrReserve (d : Reg) (a : Reg)
  | mclrRelease (d : Reg) (a : Reg)
  | mclrClear (d : Reg) (a : Reg)
  | mclrTicket (d : Reg) (a : Reg)
  | mscl (d : Code3) (a : Reg) (b : Reg)
  | mstat (d : Reg) (a : Reg) (b : Reg)
  | mwait (d : Reg) (a : Reg)
  | send (c : MCls) (d : Reg) (a : Reg) (b : Reg)
  | sendb (d : Reg) (a : Reg) (b : Reg)
  | mcast (c : MCls) (d : Reg) (a : Reg) (b : Reg)
  | inbq (d : Reg) (a : Reg)
  | bind (d : Reg) (a : Reg) (b : Reg)
  | unbind (d : Reg) (a : Reg)
  | qtry (d : Reg) (a : Code3)
  | qw (d : Code3) (a : Reg)
  | qr (d : Reg) (a : Code3)
  | fork (d : Reg) (a : Reg) (b : Reg)
  | join (d : Reg) (a : Reg)
  | joinCont (d : Reg) (a : Reg) (b : Reg)
  | klaunch (d : Reg) (a : Reg)
  | kwait (d : Reg) (a : Reg)
  | yield (a : Reg) (b : Reg)
  | gmake (d : Reg) (a : Reg) (b : Reg)
  | gdrop (a : Reg)
  | ginfo (d : Reg) (a : Reg) (b : Reg)
  | pair (d : Reg) (a : Reg)
  | bcfg (d : Reg) (a : Reg) (b : Reg)
  | barr (d : Reg) (a : Reg) (b : Reg)
  | bwait (d : Reg) (a : Reg) (b : Reg)
  | barw (d : Reg) (a : Reg) (b : Reg)
  | bqry (d : Reg) (a : Reg) (b : Reg)
  | bleave (d : Reg) (a : Reg)
  | cpy (d : Code3) (a : Reg)
  | cpyf (d : Code3) (a : Reg)
  | gath (d : Code3) (a : Reg)
  | scat (d : Code3) (a : Reg)
  | strm (d : Reg) (a : Reg)
  | strmx (d : Reg) (a : Reg)
  | cpyst (d : Reg) (a : Reg) (b : Reg)
  | exroute (d : Reg) (a : Reg) (b : Reg)
  | exback (d : Reg) (a : Reg) (b : Reg)
  | exgrow (d : Reg) (a : Reg)
  | exretire (d : Reg) (a : Reg) (b : Reg)
  | exjoin (d : Reg) (a : Reg) (b : Reg)
  | exupd (d : Reg) (a : Reg) (b : Reg)
  | exstat (d : Reg) (a : Reg) (b : Reg)
  | hsift (d : Reg) (a : Reg) (b : Reg)
  | nnq (d : Code3) (a : Reg)
  | nnres (d : Code3) (a : Reg) (b : Reg)
  | nncan (d : Reg) (a : Reg)
  | nnload (d : Reg) (a : Reg) (b : Reg)
  | nnstat (d : Reg) (a : Reg) (b : Reg)
  | reside (d : Reg)
  | unreside (d : Reg)
  | swapq (d : Reg) (a : Reg)
  | aredSum (d : Reg) (a : Reg) (b : Reg)
  | aredMax (d : Reg) (a : Reg) (b : Reg)
  | aredMin (d : Reg) (a : Reg) (b : Reg)
  | agath (d : Reg) (a : Reg) (b : Reg)
  | retShort
  | doneShort
  | ret
  | nop
  | tret
  | wfi
  | halt
  | ifence
  | done
  | unpair
  -- Events of the device (95_what_each_step_holds). The numbers an event happens to stand in the State (its
  -- EvArg: a, b, c, f, w, line), in the order the comment names them.
  | interruptEntry -- a core, b cause
  | sliceExpiry -- a core
  | fetchBlockArrival -- a core
  | alignRelease -- a core
  | waitComplete -- a core
  | claimServed -- a quad
  | poolStall -- a quad
  | frameImageAck -- a quad
  | reloadServed -- a quad
  | vtakeTimeout -- a core
  | loadReply -- a core
  | remoteAccessAtHome -- a packet
  | atomicAtHome -- a packet
  | storeAck -- a packet
  | waitaWake -- a core
  | waitaPoll -- a core
  | waitaTimeout -- a core
  | ratioChangeRequest -- a stack, b ratio
  | stackRetrainStart -- a stack
  | forcedRetrain -- a stack
  | stackRetrainComplete -- a stack, f ok
  | rowExchange -- a stack, b bank, c row
  | rowExchangeComplete -- a stack, b bank
  | refreshIntervalEnd -- a stack
  | clockBeat -- a die
  | beatArrival -- a src, b dst
  | crossDieWriteApply -- a packet
  | rdcSweep -- a die
  | hostMemWrite -- a addr, b size, line data
  | hostMemRead -- a addr, b size
  | hostCacheSnoop -- a addr
  | hostDoorbell -- a ctx
  | pageWalkComplete -- a cluster, b asid, w va
  | keyWrite -- a key, b off, c size, line data
  | contextAllocate -- a ctx, w life
  | contextTeardown -- a ctx
  | saveComplete -- a core
  | restoreComplete -- a core
  | messageArrival -- a packet
  | attachmentComplete -- a packet
  | mcastCopy -- a core
  | qbindWrite -- a core, b q, w value
  | portResult -- a core, b q
  | graphAdmission -- a cp
  | nodeStart -- a cp
  | kernelRunning -- a slot
  | nodeComplete -- a graph, b node
  | waitNodeSatisfied -- a graph, b node
  | waitNodeTimeout -- a graph, b node
  | graphEnd -- a graph
  | weightSwitchCopy -- a graph, b node
  | weightSwitchCommit -- a graph, b node
  | dequeSteal -- a core
  | joinContinuation -- a core
  | barrierTimeout -- a bar
  | mmaApply -- a cluster, b engine
  | sharePlacement -- a cluster
  | shareAgeing -- a cluster, b ticket
  | tileChunk -- a cluster, b slot
  | drainComplete -- a cluster, b slot
  | shapeDecrementAtHome -- a packet
  | tileFaultTrap -- a core
  | copyBlockRead -- a cluster, b slot
  | copyPieceStart -- a cluster, b slot
  | copyComplete -- a cluster, b slot
  | completionQueueAppend -- a cluster, b slot
  | gatherRowAtOwner -- a cluster, b slot, c row
  | streamStripFetch -- a core, b reg
  | excfgInstall -- a entry, w value
  | excfgRemove -- a entry, w value
  | directoryCopyUpdate -- a entry, b die
  | reservationAtPort -- a resv
  | expertRowPulled -- a resv
  | accordEvaluation -- a entry
  | replicaFillComplete -- a entry, b rep
  | handoverStart -- a entry, b rep
  | handoverComplete -- a entry, b rep
  | queryVectorRead -- a query
  | querySchedule -- a stack
  | distanceBatch -- a batch
  | queryHop -- a query
  | queryResume -- a query
  | queryComplete -- a query
  | queryAgeing -- a query
  | arbWindowClose -- a stack, b chan
  | attarStarvation -- a stack, b chan
  | swapInstant -- a die
  | swapSubround -- a die
  | swapExchangeComplete -- a core
  | forwardingEnd -- a core
  | linkTrainingComplete -- a link, b outcome, c the peer's chip
  | linkLaneLoss -- a link
  | linkErrorThreshold -- a link
  | linkRetrainComplete -- a link, b outcome
  | linkFlitArrival -- a link
  | lctlEnWrite -- a link, f en
  | lctlQrel -- a link
  | lctlRetrain -- a link
  | twinWrite -- w value
  | dstatWfaultClear -- w value
  | ptpSync -- a gm, w offset
  | collectiveContribution -- a coll, b member, c kind, line data
  | collectiveResult -- a coll
  | collectiveTimeout -- a core
  | powerOnReset
  | coldStart -- f ok, b the cores that fail their test and c the stacks that fail to train, bit by bit, w guard + 2^32 x used
  | warmStart -- f ok, a digest of the image verified, b the stacks and c the links that retrain, bit by bit, w as coldStart
  | drydownReplan -- a guard, b used, f drift, c the stack that drifted
  | debugHaltRequest -- a pos
  | debugResume -- a pos
  | debugStep -- a pos
  | debugClrdly -- a pos
  | debugDataWrite -- a pos, w value
  | logControlWrite -- a log, w value
  | replayStall -- a log, b unit
  | delukIdentity
  | delukStatus
  | delukNotices
  | delukDebug -- a pos, b off, f write, w value
  | delukFirmware -- a image
  | delukPower -- a cap, b guard, c used
  | delukReset -- f warm
  | registerWrite -- a off, b size, w value
  | spillBufferWrite -- a core
  | backInvalidateResponse -- a addr
  deriving DecidableEq, Repr

end Sys2Proof
end

