-- ==== Sys2Proof/Machine/Bits.lean ====
section
/-! DEFINITION. Bit fields, byte order and sign extension (00_scope R3: little-endian; 04_core R90). -/
namespace Sys2Proof.Machine

/-- Bits `hi` down to `lo` as a number. -/
def fld {n : Nat} (w : BitVec n) (hi lo : Nat) : Nat := (w.toNat >>> lo) % 2 ^ (hi + 1 - lo)

/-- A mask of ones in bits `hi` down to `lo`. -/
def ones (hi lo : Nat) : W64 := BitVec.ofNat 64 ((2 ^ (hi + 1 - lo) - 1) * 2 ^ lo)

/-- The word with bits `hi` down to `lo` replaced by `v`. -/
def setFld (w : W64) (hi lo v : Nat) : W64 :=
  (w &&& ~~~ ones hi lo) ||| (BitVec.ofNat 64 (v % 2 ^ (hi + 1 - lo)) <<< lo)

/-- The word with bit `i` set to `b`. -/
def setBit (w : W64) (i : Nat) (b : Bool) : W64 := setFld w i i (if b then 1 else 0)

/-- A bit as a number. -/
def b2n (b : Bool) : Nat := if b then 1 else 0

/-- A number at bit position `lo` of a word. -/
def putAt (v lo : Nat) : Nat := v <<< lo

/-- The low `k` bytes of a number, lowest first. -/
def bytesOf (v : Nat) : Nat → List Byte
  | 0 => []
  | k + 1 => BitVec.ofNat 8 v :: bytesOf (v / 256) k

/-- The number whose bytes are given, lowest first. -/
def ofBytes : List Byte → Nat
  | [] => 0
  | b :: r => b.toNat + 256 * ofBytes r

/-- A word of bytes, lowest first. -/
def wordOf (l : List Byte) : W64 := BitVec.ofNat 64 (ofBytes l)
/-- A line of bytes, lowest first. -/
def lineOf (l : List Byte) : W512 := BitVec.ofNat 512 (ofBytes l)

/-- The low `bits` bits of a number read as two's complement. -/
def sgnOf (bits v : Nat) : Int :=
  let u := v % 2 ^ bits
  if u < 2 ^ (bits - 1) then (u : Int) else (u : Int) - 2 ^ bits

/-- Sign extension of the low `bits` bits to 64. -/
def sext (bits : Nat) (w : W64) : W64 := BitVec.ofInt 64 (sgnOf bits w.toNat)
/-- Zero extension of the low `bits` bits to 64. -/
def zext (bits : Nat) (w : W64) : W64 := BitVec.ofNat 64 (w.toNat % 2 ^ bits)

/-- Element `i` of width `w` bits (05_vector R106). -/
def elem {n : Nat} (v : BitVec n) (w i : Nat) : Nat := (v.toNat >>> (i * w)) % 2 ^ w

/-- A register from its elements of `w` bits, element 0 first. -/
def packNat (w : Nat) : List Nat → Nat
  | [] => 0
  | e :: r => e % 2 ^ w + 2 ^ w * packNat w r

def pack (w : Nat) (l : List Nat) : W512 := BitVec.ofNat 512 (packNat w l)

/-- One step of CRC-16 with polynomial 0x1021 (25_life R443). -/
def crcBit (c : BitVec 16) : BitVec 16 := if c.msb then (c <<< 1) ^^^ 0x1021#16 else c <<< 1

/-- CRC-16 with polynomial 0x1021 and initial value 0xFFFF over bytes in ascending order, each from its highest bit (25_life
R443). -/
def crc16 (l : List Byte) : BitVec 16 :=
  l.foldl (fun c b => (List.range 8).foldl (fun c _ => crcBit c) (c ^^^ ((b.zeroExtend 16 : BitVec 16) <<< (8 : Nat)))) 0xFFFF#16

/-- The number of bits of a number. -/
def bitLen (n : Nat) : Nat := if n = 0 then 0 else Nat.log2 n + 1

/-- Ones in a list of bits. -/
def popCount (v : Nat) : Nat → Nat
  | 0 => 0
  | k + 1 => v % 2 + popCount (v / 2) k

/-- Serial comparison of 32-bit values (07_ordering R177): `a` is below `b`. -/
def serialLt {n : Nat} (a b : BitVec n) : Bool :=
  let d := (b - a).toNat
  decide (1 ≤ d) && decide (d < 2 ^ (n - 1))

/-- Serial comparison: `a` is at least `b`. -/
def serialGe {n : Nat} (a b : BitVec n) : Bool := !serialLt a b

/-- Trailing zeros among the low `k` bits, `k` when there is no one. -/
def ctzNat (v : Nat) : Nat → Nat
  | 0 => 0
  | k + 1 => if v % 2 = 1 then 0 else 1 + ctzNat (v / 2) k

/-- The bits reversed within `k` bits. -/
def revNat (v : Nat) : Nat → Nat
  | 0 => 0
  | k + 1 => (v % 2) * 2 ^ k + revNat (v / 2) k

/-- Replace the first entry that meets a condition. -/
def mapFirst {α : Type} (p : α → Bool) (f : α → α) : List α → List α
  | [] => []
  | x :: r => if p x then f x :: r else x :: mapFirst p f r

/-- Remove the first entry that meets a condition. -/
def dropFirst {α : Type} (p : α → Bool) : List α → List α
  | [] => []
  | x :: r => if p x then r else x :: dropFirst p r

/-- The entry that a rank puts first: lower rank first, earlier entry on a tie. -/
def bestBy {α : Type} (rank : α → α → Bool) : List α → Option α
  | [] => none
  | x :: r => match bestBy rank r with
    | none => some x
    | some y => if rank y x then some y else some x

/-- Numbers from 0 to `n` - 1. -/
def upTo (n : Nat) : List Nat := List.range n

/-- The lowest number below `n` that meets a condition. -/
def firstNat (p : Nat → Bool) (n : Nat) : Option Nat := (List.range n).find? p

/-- An element placed before the first that it does not follow. -/
def insertBy {α : Type} (le : α → α → Bool) (x : α) : List α → List α
  | [] => [x]
  | y :: r => if le x y then x :: y :: r else y :: insertBy le x r

/-- A list in an order; equals keep their places. -/
def sortBy {α : Type} (le : α → α → Bool) (l : List α) : List α := l.foldr (insertBy le) []

end Sys2Proof.Machine
end

