-- ==== Sys2Proof/Machine/Aes.lean ====
section
/-! DEFINITION. AES-XTS-256, the cipher of a line of HBM (08_page R212): AES with a 256-bit key on each of the line's four
16-byte blocks, masked by the encrypted tweak times a power of x. The spec names the cipher; its tables are those of the
standard it names (PRESUMED: FIPS 197 and IEEE 1619, log 4). Bytes are numbers below 256, a block is a list of 16 in the order
of the line's bytes. -/
namespace Sys2Proof.Machine

/-- Doubling in the field of AES. -/
def gfDouble (a : Nat) : Nat := (2 * a % 256) ^^^ (if a < 128 then 0 else 0x1B)

/-- The product in the field of AES: one term for each bit of `b`. -/
def gfMulGo : Nat → Nat → Nat → Nat
  | 0, _, _ => 0
  | n + 1, a, b => (if b % 2 = 1 then a else 0) ^^^ gfMulGo n (gfDouble a) (b / 2)

def gfMul (a b : Nat) : Nat := gfMulGo 8 a b

/-- The inverse, which is the 254th power; 0 for 0. -/
def gfInv (a : Nat) : Nat :=
  let a2 := gfMul a a
  let a4 := gfMul a2 a2
  let a8 := gfMul a4 a4
  let a16 := gfMul a8 a8
  let a32 := gfMul a16 a16
  let a64 := gfMul a32 a32
  let a128 := gfMul a64 a64
  gfMul (gfMul (gfMul a2 a4) (gfMul a8 a16)) (gfMul (gfMul a32 a64) a128)

/-- A byte turned left by `k` bits. -/
def rotByte (a k : Nat) : Nat := a * 2 ^ k % 256 + a / 2 ^ (8 - k)

def subByte (a : Nat) : Nat :=
  let i := gfInv a
  i ^^^ rotByte i 1 ^^^ rotByte i 2 ^^^ rotByte i 3 ^^^ rotByte i 4 ^^^ 0x63

def unsubByte (a : Nat) : Nat := gfInv (rotByte a 1 ^^^ rotByte a 3 ^^^ rotByte a 6 ^^^ 0x05)

def xorBytes (a b : List Nat) : List Nat := (a.zip b).map (fun p => p.1 ^^^ p.2)

/-- The key schedule: words of four bytes, 60 in all, from the 8 of the key. -/
def keyGrow : Nat → List (List Nat) → List (List Nat)
  | 0, ws => ws
  | n + 1, ws =>
    let i := ws.length
    let last := ws.getD (i - 1) []
    let turned := if i % 8 = 0 then
        match ((last.drop 1) ++ (last.take 1)).map subByte with
        | a :: l => (a ^^^ 2 ^ (i / 8 - 1)) :: l
        | [] => []
      else if i % 8 = 4 then last.map subByte else last
    keyGrow n (ws ++ [xorBytes (ws.getD (i - 8) []) turned])

/-- The 15 round keys of 16 bytes. -/
def roundKeys (key : Nat) : List (List Nat) :=
  let ws := keyGrow 52 ((List.range 8).map (fun i => (List.range 4).map (fun j => key >>> (8 * (4 * i + j)) % 256)))
  (List.range 15).map (fun r => ((ws.drop (4 * r)).take 4).flatten)

/-- Row `r` of the block turned by `r` columns, to the left or to the right. -/
def shiftRows (b : List Nat) : List Nat := (List.range 16).map (fun i => b.getD ((i + 4 * (i % 4)) % 16) 0)
def unshiftRows (b : List Nat) : List Nat := (List.range 16).map (fun i => b.getD ((i + 12 * (i % 4)) % 16) 0)

/-- Each column times the circulant matrix whose first row is `m`. -/
def mixBy (m b : List Nat) : List Nat :=
  (List.range 16).map (fun i =>
    (List.range 4).foldl (fun s j => s ^^^ gfMul (m.getD ((j + 4 - i % 4) % 4) 0) (b.getD (i / 4 * 4 + j) 0)) 0)

def aesEncGo : List (List Nat) → List Nat → List Nat
  | [], b => b
  | [k], b => xorBytes (shiftRows (b.map subByte)) k
  | k :: r, b => aesEncGo r (xorBytes (mixBy [2, 3, 1, 1] (shiftRows (b.map subByte))) k)

/-- One block encrypted under the round keys. -/
def aesEnc (ks : List (List Nat)) (b : List Nat) : List Nat :=
  match ks with
  | [] => b
  | k :: r => aesEncGo r (xorBytes b k)

def aesDecGo : List (List Nat) → List Nat → List Nat
  | [], b => b
  | [k], b => xorBytes ((unshiftRows b).map unsubByte) k
  | k :: r, b => aesDecGo r (mixBy [14, 11, 13, 9] (xorBytes ((unshiftRows b).map unsubByte) k))

/-- One block decrypted under the round keys. -/
def aesDec (ks : List (List Nat)) (b : List Nat) : List Nat :=
  match ks.reverse with
  | [] => b
  | k :: r => aesDecGo r (xorBytes b k)

def toBlock (w : Nat) : List Nat := (List.range 16).map (fun i => w >>> (8 * i) % 256)
def ofBlock (b : List Nat) : Nat := b.foldr (fun x n => x + 256 * n) 0

/-- The mask of the next block: times x in the field of 128 bits. -/
def tweakNext (t : Nat) : Nat := (2 * t % 2 ^ 128) ^^^ (if t < 2 ^ 127 then 0 else 0x87)

/-- The blocks of a line in order, each masked, passed through `f` and masked again. -/
def xtsGo (f : List Nat → List Nat) : Nat → Nat → Nat → Nat
  | 0, _, _ => 0
  | n + 1, t, d => (ofBlock (f (toBlock (d % 2 ^ 128 ^^^ t))) ^^^ t) + 2 ^ 128 * xtsGo f n (tweakNext t) (d / 2 ^ 128)

/-- The encrypted tweak: the physical address of the line as a number of 16 bytes, least significant first. -/
def xtsTweak (key : BitVec 512) (addr : Nat) : Nat :=
  ofBlock (aesEnc (roundKeys (key.toNat / 2 ^ 256)) (toBlock addr))

/-- A line encrypted under a key of 64 bytes: data key in bytes 0 to 31, tweak key in bytes 32 to 63 (R212, R213). -/
def xtsEnc (key : BitVec 512) (addr : Nat) (data : W512) : W512 :=
  BitVec.ofNat 512 (xtsGo (aesEnc (roundKeys (key.toNat % 2 ^ 256))) 4 (xtsTweak key addr) data.toNat)

/-- A line decrypted. -/
def xtsDec (key : BitVec 512) (addr : Nat) (data : W512) : W512 :=
  BitVec.ofNat 512 (xtsGo (aesDec (roundKeys (key.toNat % 2 ^ 256))) 4 (xtsTweak key addr) data.toNat)

end Sys2Proof.Machine
end

