-- ==== Sys2Proof/Config.lean ====
section
/-! DEFINITION. What the manual leaves open: constants with no body, so that nothing can be proved of their values
(notes/assumptions/4.md). Each is applied to a counter of the State or to the operands it depends on. -/
namespace Sys2Proof

/-- A free number, by the counter State.fresh. -/
opaque Config.freeNat : Nat → Nat
/-- A free 64-bit word, by the counter State.fresh. -/
opaque Config.freeWord : Nat → W64
/-- Which of two results that land in the same cycle lands last (03_encoding R61): true for the later issued. -/
opaque Config.landTie : Nat → Bool
/-- How many cycles beyond the least of 4 a division takes, by its operands (04_core R93: 4 to 36). -/
opaque Config.divExtra : W64 → W64 → Nat
/-- The way of a full L2 or RDC set that gives room (06_memory R150). -/
opaque Config.victim : Nat → Nat
/-- The bank and row that hold a physical HBM address (06_memory R156; the geometry is not given). -/
opaque Config.bankRow : Nat → Nat × Nat
/-- The link of a route that carries the flits of a pair (23_link R429: a hash of the pair that is not given). -/
opaque Config.linkHash : Nat → Nat → Nat
/-- The key of a number on a peer chip, which only that chip holds (08_page R212). -/
opaque Config.peerKey : Nat → Nat → BitVec 512
/-- The power the module draws (25_life R452). -/
opaque Config.powerDraw : Nat → W64
/-- The duration of a start in ms and other measured figures of BOOTSTAT (25_life R441). -/
opaque Config.startMs : Nat → Nat
/-- The device certificate that Deluk returns, and the signature of a quote of a firmware digest and BOOTSTAT (25_life R452; log 4). -/
opaque Config.certificate : Nat
opaque Config.quoteSign : Nat → Nat → W64 → Nat

end Sys2Proof
end

