-- ==== Sys2Proof/Machine/State.lean ====
section
/-! DEFINITION. The state of one Follin chip: every core, every memory, every unit the manual gives registers or states
to, the packets in flight, and the model's own record of what moves next. INVENTORY.md lists each piece with its rule.
State is plain data. -/
namespace Sys2Proof.Machine

/-! ### The core (04_core, 05_vector, 09_context, 10_queue) -/

/-- The states of a core (04_core R76). -/
inductive Run
  | reset | idle | running | waiting | switching | halted | swapping | frozen | disabled
  deriving DecidableEq, Repr

/-- How the instruction being issued ended: nothing yet, completed, trapped, or waiting with no effect. -/
inductive Mark
  | none | done | trapped | blocked
  deriving DecidableEq, Repr

/-- The vector clock of four dies (07_ordering R177). -/
structure Clock where
  c0 : BitVec 32
  c1 : BitVec 32
  c2 : BitVec 32
  c3 : BitVec 32
  deriving DecidableEq, Repr

/-- A translation held by a TLB (08_page R216): the entry's two words, its page size code and its key of lookup. -/
structure TlbEnt where
  asid : Nat
  vpage : Nat
  size : Nat
  w0 : W64
  w1 : W64
  pin : Bool
  deriving DecidableEq, Repr

/-- What a waiting core has already done of its instruction and waits for (04_core R77). -/
inductive WaitFor
  /-- nothing done: the condition is judged afresh at each issue -/
  | plain
  /-- ALIGN waits: an interrupt completes it (R103) -/
  | align
  /-- WFI waits: an interrupt completes it (R250) -/
  | wfi
  /-- VCLAIM stands in the claim queue (R139) -/
  | claim
  /-- VCLAIM has been served -/
  | claimed
  /-- VTAKE waits for an offer (R113) -/
  | take
  /-- VTAKE has its frame, given by core `giver` -/
  | taken (giver : Nat)
  /-- a claim for the evicted slots stands in the reload queue (R107, R116) -/
  | reload
  /-- an arrival is held at a barrier for its layer (R318) -/
  | held (bar : Nat)
  /-- an arrival counts toward phase `ph` of barrier `bar`; the registers of the BARW (R321) -/
  | phase (bar : Nat) (ph : BitVec 32) (d b : Reg)
  /-- a held arrival of a BARR or BLEAVE has proceeded and counts toward phase `ph` (R318) -/
  | arrived (ph : BitVec 32)
  /-- BWAIT waits for the end of phase `ph` of barrier `bar` (R322) -/
  | bwait (bar : Nat) (ph : BitVec 32)
  /-- PAIR waits in the forming entry `g` (R306) -/
  | pair (g : Nat)
  /-- PAIR or UNPAIR has been completed by the partner, with result `g` -/
  | paired (g : Nat)
  /-- a contribution to collective `c` stands; the register that holds its tag (R435) -/
  | coll (c : Nat) (b : Reg)
  /-- a reservation `r` is out (R381) -/
  | route (r : Nat)
  /-- the answer of the router or of a peer chip's directory (R369, R381): a result, or TVAL of cause 0x10 -/
  | routed (word : W64) (traps : Bool)
  /-- a cancel of query `q` is pending (R412) -/
  | cancel (q : Nat)
  /-- the wait of the instruction is over by a trap the unit raises: cause and value -/
  | failed (cause : BitVec 8) (value : W64)
  /-- EXJOIN or EXUPD goes through its stages (R385, R386) -/
  | update
  /-- the drain of an accumulator runs (R344) -/
  | drain (slot : Nat)
  /-- a load overlaps a store of its own core that is not acknowledged; it reads at the home (07_ordering R176) -/
  | ownStore
  /-- a release whose counter has stepped waits for its time window (07_ordering R173) -/
  | stepped
  /-- the phase waited for has completed: the result, the barrier's scope and what its arrivals released (R313, R314) -/
  | opened (word : BitVec 32) (scope : Scope) (seen : Clock)
  /-- an engine command of a checked pair's member waits to be matched by the partner's (12_group R299) -/
  | command
  /-- it has been matched and carried out, with this answer -/
  | answered (word : W64)
  /-- KWAIT waits for the kernel of this handle (11_kernel R295) -/
  | kernel (h : BitVec 32)
  /-- it has completed, with this status -/
  | status (code : Nat)
  /-- TLBINV has removed these entries and waits for what used them (08_page R221) -/
  | inval (gone : List TlbEnt)
  deriving DecidableEq, Repr

/-- Whether what the instruction waited for has happened, so that it goes on at its core's next turn. -/
def WaitFor.over : WaitFor → Bool
  | .claimed => true
  | .taken _ => true
  | .arrived _ => true
  | .paired _ => true
  | .routed _ _ => true
  | .failed _ _ => true
  | .opened _ _ _ => true
  | .answered _ => true
  | .status _ => true
  | _ => false

/-- A wait: the cycle it began and what it is for. -/
structure Wait where
  since : Nat
  what : WaitFor
  deriving DecidableEq, Repr

/-- A fixed-latency result that has not landed (03_encoding R59 to R61). -/
inductive Pend
  | x (r : Reg) (val : W64) (lands : Nat)
  | v (r : Reg) (val : W512) (lands : Nat)
  deriving DecidableEq, Repr

/-- One aligned 32-byte block of code (04_core R80). -/
structure Block where
  addr : W64
  data : BitVec 256
  deriving DecidableEq, Repr

/-- A vector register slot (05_vector R107). -/
inductive Slot
  | unmapped
  | mapped (frame : Nat)
  | evicted
  deriving DecidableEq, Repr

/-- A stream register in stream mode (16_copy R361 to R363, R366). -/
structure Stream where
  base : W64
  s1 : BitVec 32
  s2 : BitVec 32
  s3 : BitVec 32
  c1 : BitVec 16
  c2 : BitVec 16
  c3 : BitVec 16
  dir : Bool
  i1 : Nat
  i2 : Nat
  i3 : Nat
  exh : Bool
  count : Nat
  fetched : List W512
  deriving DecidableEq, Repr

/-- A unit that sends: the senders of the class order (10_queue R255, R257). -/
inductive Src
  | core (n : Nat)
  /-- a memory home of a die: an L2 slice, a local memory or a scratchpad bank (10_queue R255) -/
  | home (die unit : Nat)
  | engine (cluster e : Nat)
  | cp (die : Nat)
  | router (die : Nat)
  | host
  | link (i : Nat)
  deriving DecidableEq, Repr

/-- What a message is beside its 64 bytes: an ordinary message, the wake of a kernel (11_kernel R285), or a forked item
with its optional join counter (R289, R293). -/
inductive Origin
  | plain
  | wake (handle : BitVec 32)
  | item (handle : BitVec 32) (counter : Option Nat)
  /-- a backward expert row, whose handler's DONE closes the receipt (17_expert R375) -/
  | receipt (entry rep slot : Nat)
  deriving DecidableEq, Repr

/-- A message with what the device carries beside it (10_queue R253, R258 to R260). -/
structure Msg where
  handler : BitVec 32
  sender : BitVec 32
  tag : BitVec 16
  cls : Nat
  alen : BitVec 8
  stime : BitVec 32
  payload : BitVec 384
  src : Src
  origin : Origin
  clock : Clock
  far : Bool
  /-- order of arrival at the receiver -/
  age : Nat
  /-- low TIME at arrival -/
  arrived : BitVec 32
  /-- the attachment is still being written (R272) -/
  attaching : Bool
  deriving DecidableEq, Repr

/-- An item of a deque (11_kernel R289). -/
structure Item where
  handler : BitVec 32
  payload : BitVec 384
  forker : BitVec 32
  time : BitVec 32
  kernel : BitVec 32
  counter : Option Nat
  /-- the clock of the forking core's die at the FORK (R290) -/
  clock : Clock
  deriving DecidableEq, Repr

/-! ### Packets in flight (06_memory R158 to R162, 07_ordering R176, R177) -/

/-- Where an address lies (08_page R211, 06_memory R144). -/
inductive Place
  | loc (core : Nat)
  | scr (cluster : Nat)
  /-- HBM of this chip: home die, cacheable, key -/
  | hbm (die : Nat) (cached : Bool) (kid : Nat)
  | host (cached : Bool)
  /-- HBM of a peer chip, with the KEYID its requests carry (08_page R212) -/
  | peer (chip kid : Nat)
  | aperture
  deriving DecidableEq, Repr

/-- The new value an atomic forms (06_memory R163 to R165). -/
inductive AOp
  | add | and | or | xor | min | max | minn | maxn | swap | cas | binc
  deriving DecidableEq, Repr

/-- The attachment of a bulk message: read from an address once the message is accepted (10_queue R272), or a row of an
expert token already pulled, with the lines that could not be read (17_expert R373, R374); and the offset it lands at. -/
inductive Att
  | read (from_ : W64) (off : Nat)
  | row (bytes : List Byte) (off : Nat) (bad : List Nat)
  /-- the message had been accepted before a save, which found no room for it in the message queue (09_context R241) -/
  | held
  deriving DecidableEq, Repr

/-- One command in a queue register's FIFO: a word of QW, or a copy that CPY, CPYF, GATH or SCAT has read: kind, address,
block and the handler taken at issue (10_queue R269; 16_copy R364). -/
inductive QCmd
  /-- a word of QW, with CPYVEC.DEFH and the mode at its issue (16_copy R353; 14_tile R343) -/
  | word (w : W64) (defh : BitVec 32) (mode : Nat)
  | copy (kind : Nat) (addr : W64) (block : BitVec 384) (handler : BitVec 32) (mode : Nat)
  /-- a query packet whose header NNQ has read and checked (20_query R410) -/
  | query (addr : W64) (hdr : BitVec 512)
  /-- a request of NNRES: identifier, first index, count (20_query R411) -/
  | collect (id : BitVec 32) (first count : Nat)
  deriving DecidableEq, Repr

/-- What a core asks of the directory of another chip (17_expert R369). -/
inductive ExOp
  | route | back | grow | retire | stat
  deriving DecidableEq, Repr

/-- A request for a name of another chip: its number at the chip that asks, the asking core and its context, and the operands of
its instruction (17_expert R369). -/
structure ExAsk where
  id : Nat
  op : ExOp
  core : Nat
  ctx : Nat
  xa : W64
  xb : W64
  deriving DecidableEq, Repr

/-- What a packet does at its home. -/
inductive Body
  /-- store these cells (memory key and byte) -/
  | store (place : Place) (cells : List Host.Cell)
  /-- posted atomic: key of the word, bytes, operation, expected value, operand -/
  | atomic (place : Place) (key : Nat) (bytes : Nat) (op : AOp) (expect : W64) (arg : W64)
  /-- tagged far load -/
  | farLoad (place : Place) (key : Nat) (bytes : Nat) (tag : BitVec 16)
  /-- far store whose acknowledgement is a reply -/
  | farStore (place : Place) (cells : List Host.Cell) (tag : BitVec 16)
  /-- message to a logical core, with the attachment's source and offset when it has one -/
  | msg (dest : Nat) (m : Msg) (att : Option Att)
  /-- decrement of a successor's SHAPE word for a record (14_tile R337) -/
  | shape (place : Place) (key : Nat) (cluster : Nat) (ticket : Nat)
  /-- clock beat to a die (07_ordering R177) -/
  | beat (die : Nat)
  /-- the attachment of an accepted bulk message: receiver, the message's age and packet, source, offset and bytes (10_queue
  R272) -/
  | attach (dest age by_ : Nat) (from_ : W64) (off bytes : Nat)
  /-- engine command of a checked pair's member, held only in the comparison buffer: kind, operands, and the queue register's
  command that its release posts (12_group R299) -/
  | cmd (kind : Nat) (words : List W64) (post : Option (Nat × QCmd))
  /-- a read that its port has parked: the unit that asked waits for it (08_page R220) -/
  | probe (dest : Nat)
  /-- the sub-list of a gather or scatter for one owner: the cluster and slot of its transfer, and its entries in the order of
  the index list (16_copy R360) -/
  | sub (dest cl slot : Nat) (entries : List Nat)
  /-- a row of a gather or scatter on its way between its owner and the buffer: cluster, slot, entry and bytes (16_copy R360) -/
  | row (cl slot k : Nat) (bytes : List Byte)
  /-- a request to the directory of another chip (17_expert R369) -/
  | ask (chip : Nat) (a : ExAsk)
  /-- an answer to another chip: of its request `id` with whether it traps, or of a collective for its member `id`
  (17_expert R369; 23_link R434) -/
  | told (chip id : Nat) (words : List W64) (traps : Bool)
  deriving DecidableEq, Repr

/-- A packet: flying, or applied with its acknowledgement on the way (with the failing address when it failed). -/
inductive PkSt
  | flying
  | acked (err : Option W64)
  deriving DecidableEq, Repr

structure Packet where
  id : Nat
  src : Src
  /-- context and ASID it runs under -/
  ctx : Nat
  asid : Nat
  /-- sending die and the clock it carries -/
  die : Nat
  stamp : Clock
  sent : Nat
  window : Nat
  /-- the address as the program named it -/
  addr : W64
  body : Body
  st : PkSt
  /-- released pair entry, or unreleased entry of a checked pair's member (R299) -/
  counted : Bool
  /-- the absent address for which it is parked; none for one that has parked behind another (08_page R220) -/
  park : Option W64
  deriving DecidableEq, Repr

/-! ### The core, continued -/

/-- A monitor notice: MONINFO and MONADDR (09_context R236). -/
structure Notice where
  info : W64
  addr : W64
  deriving DecidableEq, Repr

/-- A bound queue register: QBIND, command words not consumed, results not popped, and the words of commands the port has
taken whose answers are due, oldest first (10_queue R268, R269). -/
structure QReg where
  kind : Nat
  unit : Nat
  cmd : List QCmd
  res : List W64
  /-- answers owed in push order: none while the answer is not known -/
  owed : List (Nat × List W64)
  /-- words of a malformed command of the collective port still to be discarded (23_link R436) -/
  skip : Nat
  deriving DecidableEq, Repr

/-- A save or restore in progress (09_context R241, R243, R245, R252). -/
structure SwJob where
  /-- true while saving, false while restoring -/
  saving : Bool
  /-- the context to load when the save is done, or none -/
  load : Option Nat
  deadline : W64
  began : Nat
  /-- the save was redirected to the alternate area (R245) -/
  alt : Bool
  deriving DecidableEq, Repr

/-- An entry of the delay table (25_life R451). -/
structure DlyEnt where
  sender : BitVec 32
  count : BitVec 32
  transit : W64
  wait : W64
  runtime : W64
  deriving DecidableEq, Repr

/-- A release mark that holds later stores (07_ordering R173, R203): its scope and the packets it still waits for. -/
structure RelMark where
  scope : Scope
  packets : List Nat
  /-- the time window that must have closed (R179) -/
  window : Option Nat
  deriving DecidableEq, Repr

/-- System registers that are plain words (09_context R225 and the chapters it names). -/
structure SysRegs where
  status : W64
  epc : W64
  cause : W64
  tval : W64
  tvec : W64
  scratch : W64
  slink : W64
  monpc : W64
  monwhy : W64
  moninfo : W64
  monaddr : W64
  monentry : W64
  monkeep : W64
  monlink : W64
  asid : W64
  prio : W64
  fflags : W64
  frm : W64
  fp4x : W64
  framewait : W64
  cpyid : W64
  cpydefh : BitVec 32
  btimeout : W64
  kargs : W64
  kfirst : W64
  kcount : W64
  deriving DecidableEq, Repr

/-- Scalar registers in their ring, and the window registers (04_core R83 to R88). -/
structure Scalars where
  glob : Tbl W64
  ring : Tbl W64
  /-- ring position of x8 -/
  base : Nat
  res : Nat
  spilled : Nat
  wsp : W64
  wlimit : W64
  /-- the return stack that predicts RET (R81), newest first -/
  rstack : List W64
  /-- the spill engine's buffer is still being written out (R86) -/
  spillBusy : Bool
  deriving DecidableEq, Repr

/-- The issue latch: what the step hands to exec about the instruction it issues. -/
structure Issue where
  npc : W64
  word : W16
  idx : Nat
  busy : Nat
  mark : Mark
  /-- the instruction that waits, as it was decoded (04_core R77, R82) -/
  instr : Option Instr
  /-- the watchpoint the instruction has matched (25_life R447) -/
  watch : Option Nat
  /-- the stall count of the instruction (03_encoding R60) -/
  stall : Nat
  deriving DecidableEq, Repr

/-- Vector registers, frames and streams of a core (05_vector R106 to R108, 16_copy R361). -/
structure Vectors where
  own : Tbl W512
  s1 : Slot
  s2 : Slot
  s3 : Slot
  streams : Tbl Stream
  deriving DecidableEq, Repr

/-- Messages and queues of a core (10_queue, 11_kernel R289, 16_copy R358). -/
structure Mail where
  inbox : List Msg
  insvc : Option Msg
  /-- inbox message the delay accounting runs for: sender and dispatch TIME (25_life R451) -/
  runSince : Option (BitVec 32 × BitVec 32)
  /-- copies of an MCAST that have not entered the interface (10_queue R271) -/
  mcast : List Packet
  tags : List (BitVec 16 × BitVec 32)
  q : Tbl QReg
  deque : List Item
  cpyq : List (BitVec 32 × BitVec 32)
  /-- messages that have arrived: the ages of R259 -/
  arrivals : Nat
  deriving DecidableEq, Repr

/-- Interrupts, notices, slices and errors of a core (09_context R230 to R239, 06_memory R159, 14_tile R338). -/
structure Events where
  p80 : Bool
  p81 : Bool
  p83 : Option W64
  notices : List Notice
  pend0B : List W64
  /-- TVAL of a breakpoint or watchpoint trap that waits for the copies of an MCAST (04_core R89; 25_life R447) -/
  point : Option W64
  ferr : Option W64
  /-- stores of handlers that have executed DONE are reported by notice (R159): packet ids below this -/
  doneBelow : Nat
  uinDepth : Nat
  /-- call depth before the last entry into the monitor, to whose window a save goes back (09_context R252) -/
  monDepth : Nat
  haltSince : Nat
  /-- the cycle the core last entered the halted state, by a step too (05_vector R114) -/
  haltedAt : Nat
  /-- the cycle the core became idle (05_vector R114) -/
  idleSince : Nat
  sliceRem : BitVec 32
  sliceLen : BitVec 32
  clampCount : BitVec 32
  saveCycles : Option Nat
  restoreCycles : Option Nat
  /-- handlers that interrupted a core which owed a reload before its next instruction: 0 user, 1 system, 2 monitor; 3 once
  such a handler has returned (05_vector R116) -/
  reloadOwed : List Nat
  deriving DecidableEq, Repr

/-- The resident task of a core and its traffic (22_resident R418). -/
structure Resident where
  mov : Bool
  sdest : Tbl W64
  result : Nat
  age : Nat
  partner : Nat
  inst : Nat
  deriving DecidableEq, Repr

/-- One core (01_machine R13). -/
structure Core where
  /-- logical number (R11) -/
  num : Nat
  /-- physical position (R12) -/
  pos : Nat
  run : Run
  former : Run
  pc : W64
  issue : Issue
  sc : Scalars
  vec : Vectors
  sys : SysRegs
  fbuf : Option Block
  rreg : Option Block
  /-- a block fetch that has been requested into the return register (R80) -/
  freq : Option W64
  pend : List Pend
  /-- registers whose interlocked result is not present yet, by place, with the cycle it is delivered (03_encoding R59) -/
  locks : Tbl Nat
  /-- the cycle until which the divider serves an instruction (04_core R93) -/
  divUntil : Nat
  wait : Option Wait
  mail : Mail
  ev : Events
  tlb : List TlbEnt
  marks : List RelMark
  tagged : Nat
  peerWindow : Option Nat
  handles : Tbl Nat
  /-- collectives issued with each tag, and contributions standing (23_link R434, R435) -/
  collCount : Tbl Nat
  collOpen : Tbl Nat
  task : Resident
  job : Option SwJob
  dly : List DlyEnt
  cycleBase : Nat
  /-- instructions completed, which a checked pair counts (12_group R299) -/
  retired : Nat
  /-- clocks of the replies since the last acquire (07_ordering R174) -/
  replyClock : Option Clock
  /-- the images of the core's frames stand in the alternate save area, which its last restore read (09_context R243) -/
  altArea : Bool
  /-- the image number of the image last restored (09_context R241) -/
  seq : BitVec 32
  deriving DecidableEq, Repr

/-! ### Frames (05_vector R111 to R118) -/

structure Offer where
  seq : Nat
  /-- the frame of a live offer; none when evicted -/
  frame : Option Nat
  image : Nat
  giver : Nat
  target : Option Nat
  ctx : Nat
  deriving DecidableEq, Repr

inductive Reload
  /-- the evicted slots of a core -/
  | slots (core : Nat)
  /-- a take of an evicted offer into a slot -/
  | offer (core slot : Nat) (o : Offer)
  deriving DecidableEq, Repr

structure Pool where
  /-- frames mapped to (core, slot) -/
  used : Tbl (Nat × Nat)
  offers : List Offer
  /-- waiting VCLAIMs: core and slot set -/
  claims : List (Nat × Nat)
  reloads : List Reload
  /-- waiting VTAKEs: core and slot -/
  takers : List (Nat × Nat)
  seq : Nat
  stallSince : Option Nat
  /-- frames whose image write is not acknowledged (R114) -/
  writing : List Nat
  deriving DecidableEq, Repr

/-! ### Memory units (06_memory, 07_ordering, 08_page) -/

structure L2Line where
  data : W512
  dirty : Bool
  kid : Nat
  deriving DecidableEq, Repr

/-- A line of an RDC (R151): a store never stays in one, so its dirty bit (01_machine R17) is clear. -/
structure RdcLine where
  data : W512
  clock : Clock
  dirty : Bool
  kid : Nat
  /-- a host write to the line has been applied at its home since (07_ordering R183) -/
  stale : Bool
  deriving DecidableEq, Repr

/-- A line of a cluster instruction cache (01_machine R14; 04_core R79). -/
structure CodeLine where
  data : W512
  kid : Nat
  deriving DecidableEq, Repr

/-- A page walk (08_page R217): the ASID and address that missed, and the entry it finds; none while it waits for one of the
cluster's 64 walks to end. -/
structure Walk where
  asid : Nat
  va : Nat
  ent : Option TlbEnt
  deriving DecidableEq, Repr

structure Die where
  vc : Clock
  floor : Clock
  /-- largest clock received from each die (R177) -/
  heard : Tbl Clock
  beatDue : Bool
  lastBeat : Nat
  /-- the cycle of the last step of the release counter (07_ordering R177) -/
  lastStep : Option Nat
  notice : Nat
  deriving DecidableEq, Repr

inductive StackSt
  | up | pending | retraining | failed
  deriving DecidableEq, Repr

structure Stack where
  st : StackSt
  ratio : Nat
  newRatio : Nat
  retrains : BitVec 16
  rowSwaps : BitVec 32
  tries : Nat
  requested : Bool
  /-- activations of rows, keyed by bank and row, in this refresh interval (R156) -/
  acts : Tbl Nat
  /-- the indirection table of the banks: rows that do not stand at their own place -/
  perm : Tbl Nat
  busy : Tbl Nat
  starve : Nat
  window : Nat
  /-- pseudo-channels whose arbitration window is open, with the time the last ordinary read was served -/
  open_ : Tbl Nat
  /-- Attar reads that wait at a pseudo-channel: the time they began plus 1; and the last admission (20_query R407) -/
  held : Tbl Nat
  /-- the bursts of each that are still to start there (R407) -/
  bursts : Tbl Nat
  /-- the time the refresh interval began (R156) -/
  interval : Nat
  deriving DecidableEq, Repr

/-- Key gathering and installation, and the key in force: data key in bytes 0 to 31, tweak key in bytes 32 to 63 (08_page
R213). -/
structure KeySt where
  bytes : BitVec 512
  have_ : BitVec 64
  installed : Bool
  value : BitVec 512
  deriving DecidableEq, Repr

/-! ### Groups, pairs and barriers (12_group, 13_barrier) -/

structure Group where
  kind : Nat
  ctx : Nat
  live : Bool
  members : List Nat
  deriving DecidableEq, Repr

/-- A live checked pair: the two sides of the comparison buffer and the release points reached (R299, R300). -/
structure PairSt where
  lead : List Packet
  follow : List Packet
  leadAt : Option Nat
  followAt : Option Nat
  /-- an interrupt both members take: its cause, the count of completed instructions, and the members that owe it -/
  intAt : Option (BitVec 8 × Nat × List Nat)
  /-- synchronous traps of one member that the other has not raised yet: the member and its count of completed instructions
  (R301) -/
  trapped : List (Nat × Nat)
  /-- what one member has dispatched and the other has not, oldest first: the member that owes it, and the age of the entry, or
  none for the bottom of its own deque (R299) -/
  picks : List (Nat × Option Nat)
  /-- ages that messages of one member to itself, by YIELD and JOIN, have taken and the other's have still to take: that other
  member and the age (R299) -/
  selfAges : List (Nat × Nat)
  deriving DecidableEq, Repr

structure HeldArr where
  core : Nat
  parity : Bool
  leave : Bool
  b : BitVec 32
  /-- the registers d and b of a BARW, which waits once it has arrived -/
  stays : Option (Reg × Reg)
  deriving DecidableEq, Repr

structure Barrier where
  ctx : Nat
  count : Nat
  phase : BitVec 32
  arr : Nat
  carried : Nat
  carry : Bool
  hold : Bool
  layer : Nat
  tlim : Nat
  clock : Option Nat
  broken : Bool
  waiting : List HeldArr
  /-- what the arrivals of the current phase, and those carried, have released: the core, 2^25 for an engine, and the clock; and
  what those of each completed phase have (R314) -/
  seen : List (Nat × Clock)
  later : List (Nat × Clock)
  past : Tbl Clock
  deriving DecidableEq, Repr

/-! ### Kernels and graphs (11_kernel) -/

inductive NodeSt
  | pending | ready | held | running | done
  deriving DecidableEq, Repr

structure Node where
  st : NodeSt
  hdr : BitVec 128
  waits : Nat
  readyAt : Nat
  iter : Nat
  /-- deadline of a wait node in ns -/
  limit : Option Nat
  /-- handle of a kernel node's kernel; of a running copy or weight switch: 0 before its copy, 1 while it copies, and
  2^32 plus the cause of the copy's end, 0 for none, once it is over -/
  job : Nat
  /-- the body as read at the node's start (R280) -/
  body : BitVec 384
  deriving DecidableEq, Repr

structure Graph where
  ctx : Nat
  cp : Nat
  prio : Nat
  batch : BitVec 32
  addr : W64
  status : W64
  nodes : Tbl Node
  ended : Option (Nat × Nat)
  /-- one above the highest layer started, and one above the highest layer of a completed kernel node (R288) -/
  top : Nat
  doneTop : Nat
  /-- stands for a launched kernel that has no graph of its own (R294) -/
  alone : Bool
  deriving DecidableEq, Repr

inductive KerSt
  | free | ready | held | waking | running | complete
  deriving DecidableEq, Repr

structure Kernel where
  gen : Nat
  st : KerSt
  ctx : Nat
  entry : BitVec 32
  first : Nat
  count : Nat
  domain : Nat
  mode : Bool
  args : W64
  layer : Nat
  prio : Nat
  batch : BitVec 32
  live : Nat
  status : Nat
  /-- wakes not yet delivered or dropped -/
  wakes : Nat
  graph : Option (Nat × Nat)
  ended : Nat
  cp : Nat
  deriving DecidableEq, Repr

/-- A doorbell a command processor has read: its context, the time, and the TAIL of the queue then (R278, R279). -/
structure Bell where
  ctx : Nat
  at_ : Nat
  /-- SUBQ as it was read at the doorbell: the queue and the command processor that serves it (R278) -/
  addr : Nat
  cp : Nat
  /-- TAIL as it was read, none while that read waits -/
  tail : Option (BitVec 32)
  deriving DecidableEq, Repr

structure JoinWait where
  ctx : Nat
  core : Nat
  off : Nat
  handler : BitVec 32
  /-- the counter has been 0 -/
  due : Bool
  deriving DecidableEq, Repr

/-- What a DONE still owes once the stores before it are acknowledged (R287, R290; 17_expert R375): a decrement of a
kernel's LIVE and of a join counter at a memory key, or the close of a receipt. -/
inductive Due
  | live (handle : BitVec 32) (counter : Option Nat)
  | receipt (entry rep slot : Nat)
  deriving DecidableEq, Repr

structure DueAt where
  ctx : Nat
  core : Nat
  packets : List Nat
  due : Due
  deriving DecidableEq, Repr

/-! ### Matrix engines (14_tile) -/

inductive AccSt
  | free | reserved | busy | draining | kept | faulted
  deriving DecidableEq, Repr

structure Acc where
  st : AccSt
  words : Tbl (BitVec 32)
  flags : BitVec 5
  /-- core and handle that reserved it, or ticket and share it serves -/
  owner : Nat
  sub : Nat
  ctx : Nat
  /-- next chunk, next drain row -/
  chunk : Nat
  row : Nat
  fault : Nat
  faultAddr : W64
  target : BitVec 128
  rkey : W64
  deriving DecidableEq, Repr

inductive RecSt
  /-- `finishing`: every share is over and the decrements of step 2 are not all acknowledged (R339) -/
  | pending | ready | running | finishing | done | faulted | paused | abandoned | ended
  deriving DecidableEq, Repr

structure TileRec where
  gen : Nat
  st : RecSt
  addr : W64
  words : BitVec 1024
  ctx : Nat
  asid : Nat
  core : Nat
  prio : Nat
  wait : Nat
  members : List Nat
  seq : Nat
  readyAt : Nat
  /-- shares placed (slot), and shares finished -/
  placed : Tbl Nat
  finished : List Nat
  dropped : List Nat
  cause : Nat
  share : Nat
  faultAddr : W64
  extra : Bool
  barErr : Bool
  cErr : Bool
  flags : BitVec 5
  /-- K-chunks a share had completed when it was abandoned, by share (R347) -/
  chunks : Tbl Nat
  scales : BitVec 384
  endSeq : Nat
  peerWin : Option Nat
  released : Bool
  deriving DecidableEq, Repr

structure MmaJob where
  core : Nat
  handle : Nat
  slot : Nat
  ty : ETy
  a : BitVec 4096
  b : BitVec 4096
  xval : BitVec 8
  deriving DecidableEq, Repr

structure Engine where
  run : Option Nat
  input : Option Nat
  mmas : List MmaJob
  frozen : Bool
  deriving DecidableEq, Repr

structure ScaleEnt where
  s : W64
  t : W64
  h : Nat
  deriving DecidableEq, Repr

/-! ### Copy engines (16_copy) -/

inductive XferFor
  | core (n q : Nat)
  | node (graph node : Nat)
  | fill (entry rep : Nat)
  | handover (entry rep : Nat)
  | publish (entry rep : Nat)
  deriving DecidableEq, Repr

inductive XferSt
  | free | reading | running | completing | done | stopped | frozen
  deriving DecidableEq, Repr

structure Xfer where
  gen : Nat
  st : XferSt
  /-- 0 copy, 1 gather, 2 scatter -/
  kind : Nat
  block : BitVec 384
  blockAddr : W64
  forWhom : XferFor
  ctx : Nat
  asid : Nat
  doneB : Nat
  cause : Nat
  pois : Bool
  handler : BitVec 32
  flagged : Bool
  counters : Tbl (Nat × Nat)
  rows : List Nat
  endSeq : Nat
  /-- the mode it was issued in (08_page R213) -/
  mode : Nat
  /-- the window of its last write to a peer chip, and whether its release has stepped the counter (07_ordering R172) -/
  peerWin : Option Nat
  released : Bool
  /-- its place in the order of the commands of its queue register (16_copy R350) -/
  seq : Nat
  deriving DecidableEq, Repr

/-! ### Experts (17_expert) -/

inductive RepSt
  | retired | filling | serving | draining | handing
  deriving DecidableEq, Repr

structure Rep where
  first : Nat
  count : Nat
  wbuf : W64
  gacc : W64
  land_ : Nat
  rsz : Nat
  nslot : Nat
  st : RepSt
  hop : Bool
  ferr : Bool
  cseq : BitVec 16
  tok : Nat
  /-- open slots, with true once the receipt is closing -/
  slots : Tbl Bool
  fillWs : BitVec 32
  /-- a fill's, hand-over's or publication's copy: 0 none, 1 while it runs, 2^32 plus its cause once it is over -/
  job : Nat
  /-- the accumulator has been written +0 since the growth chose the replica (R372) -/
  zeroed : Bool
  deriving DecidableEq, Repr

inductive ExpSt
  | free | live | joining | joined | updating
  deriving DecidableEq, Repr

structure Expert where
  cfg : W64
  err : Bool
  st : ExpSt
  ctx : Nat
  owner : Nat
  growT : Nat
  shrinkT : Nat
  ws : BitVec 32
  wlen : Nat
  glen : Nat
  fwdh : BitVec 32
  bwdh : BitVec 32
  hobuf : W64
  nseq : BitVec 16
  grows : Nat
  sinceGrow : Nat
  sinceRetire : Nat
  /-- the number of the last evaluation (R377) -/
  lastEval : Nat
  /-- the copies of an update have started (R386) -/
  pub : Bool
  reps : List Rep
  deriving DecidableEq, Repr

/-- A reservation on its way between the router and the replicas' ports (R373), or a request to a peer chip's directory
(R369). -/
structure Resv where
  id : Nat
  name : BitVec 32
  core : Nat
  ctx : Nat
  word : W64
  asked : List Nat
  at_ : Nat
  ws : BitVec 32
  /-- queue register of a command through the port; none for EXROUTE -/
  q : Option Nat
  /-- what its answer is known by: the entry of the queue register, or the number of the request at the chip that asks -/
  ticket : Nat
  granted : Option (Nat × Nat)
  /-- the die of the router -/
  die : Nat
  deriving DecidableEq, Repr

/-! ### Queries (20_query) -/

structure QEnt where
  d : BitVec 32
  id : BitVec 32
  deriving DecidableEq, Repr

inductive QuerySt
  | free | reading | ready | running | suspended | completing | done | faulted | cancelled
  deriving DecidableEq, Repr

structure Query where
  gen : Nat
  st : QuerySt
  ctx : Nat
  asid : Nat
  core : Nat
  q : Nat
  pkt : W64
  hdr : BitVec 512
  vecWords : List W512
  visited : List Nat
  cand : List QEnt
  found : List QEnt
  exp : Nat
  unrec : Nat
  susp : Nat
  batch : Nat
  badId : Nat
  nans : Nat
  cause : Nat
  poison : Bool
  /-- nodes of the hop in order with their distances as they answer -/
  hop : List (BitVec 32 × Option (BitVec 32))
  inHop : Bool
  /-- the candidate that has left C and whose ADJ block has not been read -/
  cur : Option (BitVec 32)
  prio : Nat
  raised : Nat
  /-- when it last became ready, and the ns it had been ready before that (R405) -/
  readyAt : Nat
  waited : Nat
  seq : Nat
  endSeq : Nat
  cancel : Bool
  peerWin : Option Nat
  released : Bool
  deriving DecidableEq, Repr

structure NNGraph where
  ctx : Nat
  desc : BitVec 1024
  deriving DecidableEq, Repr

/-- An NNRES whose query has not ended: the queue register that waits, the key of its answer, and what it asks for
(R411). -/
structure Collect where
  ctx : Nat
  core : Nat
  q : Nat
  key : Nat
  id : BitVec 32
  first : Nat
  count : Nat
  deriving DecidableEq, Repr

structure Batch where
  id : Nat
  query : Nat
  stack : Nat
  ids : List (BitVec 32)
  /-- a request for the ADJ block of its one node (01_machine R19) -/
  adj : Bool
  deriving DecidableEq, Repr

/-! ### Placement, links, collectives (22_resident, 23_link) -/

structure Exchange where
  a : Nat
  b : Nat
  die : Nat
  deriving DecidableEq, Repr

structure Forward where
  num : Nat
  oldPos : Nat
  until_ : Nat
  /-- the first identity that a packet sent under the new mapping can have -/
  first : Nat
  deriving DecidableEq, Repr

inductive LinkSt
  | down | training | up | degraded | retraining | quarantined
  deriving DecidableEq, Repr

structure Link where
  st : LinkSt
  peer : Nat
  errs : BitVec 16
  lanes : Nat
  trains : BitVec 8
  en : Bool
  tries : Nat
  frozen : Bool
  /-- packets sent over it and not acknowledged by the peer, oldest first -/
  sent : List Nat
  deriving DecidableEq, Repr

/-- A flit that has arrived at a link and is not yet taken: an input of the machine (R432). -/
structure Flit where
  link : Nat
  chip : Nat
  window : Nat
  late : Bool
  addr : W64
  bytes : Nat
  write : Bool
  /-- the KEYID of a request to this chip's HBM (08_page R212) -/
  kid : Nat
  data : W512
  msg : Option Msg
  dest : Nat
  /-- a request of another chip to this chip's directory (17_expert R369) -/
  ask : Option ExAsk
  /-- the window fault that its delay raises has been raised (23_link R432) -/
  told : Bool
  deriving DecidableEq, Repr

structure Hdm where
  hbase : W64
  hlimit : W64
  hvbase : W64
  hctl : W64
  deriving DecidableEq, Repr

structure Coll where
  id : Nat
  ctx : Nat
  tag : Nat
  k : Nat
  members : List Nat
  kind : Nat
  mixed : Bool
  contribs : Tbl W512
  /-- members whose contributions have arrived at the engine -/
  arrived : List Nat
  /-- destinations of AGATH rows by member; the queue register of a port member + 8 x the key of its answer -/
  dests : Tbl W64
  ports : Tbl Nat
  result : Option W512
  failed : Option Nat
  taken : List Nat
  /-- the clocks its contributions have released (R434) -/
  seen : Clock
  deriving DecidableEq, Repr

/-! ### Life (25_life) -/

structure Dbg where
  brkHalt : Bool
  bpHalt : Bool
  trcEn : Bool
  reason : Nat
  index : Nat
  bp : Tbl W64
  wpa : Tbl W64
  wpc : Tbl W64
  sel : W64
  trcBase : W64
  trcPtr : W64
  stepping : Bool
  /-- a HALT that waits for the instruction under way, which interrupts do not stop (R447) -/
  halting : Bool
  deriving DecidableEq, Repr

structure LogSt where
  base : W64
  len : W64
  ptr : W64
  mode : Nat
  stall : Bool
  /-- the open run of each unit: rank and length while recording; rank and choices left while replaying -/
  runs : Tbl (Nat × Nat)
  readAt : Tbl Nat
  waitSince : Tbl Nat
  deriving DecidableEq, Repr

structure Boot where
  kind : Nat
  kept : Bool
  full : Bool
  disabledCount : Nat
  ms : Nat
  keep : Bool
  /-- digest of the image that runs, and of the image stored for the next cold start -/
  digest : Nat
  image : Nat
  disabled : List Nat
  failed : Bool
  guard : Nat
  used : Nat
  plans : Nat
  drift : Bool
  ichk : BitVec 32
  power : Nat
  /-- the cycle in which the cores last left reset, and the time of the last re-plan (R439, R442; 23_link R430) -/
  released : Nat
  planned : Nat
  /-- a start that Deluk requested: true for warm -/
  request : Option Bool
  deriving DecidableEq, Repr

/-- What Deluk has streamed or returned (R452). -/
inductive DelukOut
  /-- the device certificate, the quote, and its signature -/
  | identity (certificate digest : Nat) (boot : W64) (sign : Nat)
  | status (words : List W64)
  | notice (n : Notice)
  | halt (core : Nat) (cause : BitVec 8)
  | data (w : W64)
  | startFailed
  deriving DecidableEq, Repr

/-! ### The chip -/

/-- Lines an engine owns exclusively: from `lo` up to but not including `hi`, for transfer slot `owner` (06_memory R152,
16_copy R354). -/
structure Own where
  lo : Nat
  hi : Nat
  owner : Nat
  deriving DecidableEq, Repr

structure MemUnits where
  poison : Tbl (BitVec 64)
  /-- lines of HBM whose check value is not the one their bytes give, with the difference of the two (25_life R443) -/
  checkDiff : Tbl (BitVec 16)
  /-- whether the copy in HBM of a line that L2 holds changed is poisoned, where L2's is not the same (06_memory R150, R159;
  20_query R396) -/
  beneath : Tbl Bool
  /-- the KEYID under which a line of a peer chip's HBM was written (08_page R212) -/
  peerKid : Tbl Nat
  /-- the key a line of HBM was encrypted under, when it was written under one (08_page R212) -/
  lineKey : Tbl (BitVec 512)
  /-- the instruction caches of the clusters, keyed line x 128 + cluster -/
  icache : Tbl CodeLine
  l2 : Tbl L2Line
  rdc : Tbl RdcLine
  excl : List Own
  watches : List (Nat × Nat)
  dies : Tbl Die
  hbm : Tbl Stack
  keys : Tbl KeySt
  root : Tbl W64
  ctlb : Tbl (List TlbEnt)
  /-- the walks of each cluster, in the order they missed -/
  walks : Tbl (List Walk)
  parked : Tbl (List Packet)
  /-- ports that accept no further packet for a core whose fault queue is full: core and port (08_page R220) -/
  portStop : List (Nat × Nat)
  /-- lines a host cache holds, and writes that wait for its back-invalidate response (R183) -/
  hostHeld : List Nat
  snooped : List Nat
  heldNotices : List (Nat × Notice)
  ctxtab : W64
  /-- images of cores that are not resident: keyed context and core (09_context R228) -/
  away : Tbl Nat
  deriving DecidableEq, Repr

structure Units where
  frames : Tbl W512
  pools : Tbl Pool
  groups : Tbl Group
  pairs : Tbl PairSt
  barriers : Tbl Barrier
  kernels : Tbl Kernel
  graphs : Tbl Graph
  doorbells : List Bell
  taken : Tbl (List Nat)
  layers : Tbl (BitVec 32)
  joins : List JoinWait
  dues : List DueAt
  accs : Tbl Acc
  /-- accumulators of paused contexts without the words their TILESAVE entry holds (14_tile R341) -/
  paused : Tbl Acc
  recs : Tbl TileRec
  engines : Tbl Engine
  scales : Tbl ScaleEnt
  xfers : Tbl Xfer
  /-- the slot before the one that a cluster's copy engine serves next (16_copy R350) -/
  copyTurn : Tbl Nat
  experts : Tbl Expert
  /-- the copies of the directory on the dies, keyed entry and die: what each last heard (17_expert R369) -/
  copies : Tbl Expert
  resvs : List Resv
  queries : Tbl Query
  nngraphs : Tbl NNGraph
  batches : List Batch
  collects : List Collect
  frozenAttar : List Nat
  /-- what the device carries beside the messages of a message queue, keyed by context and core (10_queue R263, R265) -/
  overflow : Tbl (List Msg)
  /-- queue registers of cores whose context is not resident, keyed context and core: the answers still owed (10_queue
  R269) -/
  awayQ : Tbl (Tbl QReg)
  /-- what the device carries of a core beside its image while its context is away, keyed context and core (09_context
  R240) -/
  kept : Tbl Core
  deriving DecidableEq, Repr

structure Outside where
  silEn : BitVec 4
  instant : BitVec 32
  /-- for each die, 8 x the instants it has begun + the sub-round to decide next: 1 to 4, 5 when the last one's exchanges
  run, 0 when none is due (22_resident R420) -/
  subround : Tbl Nat
  swaps : List Exchange
  forwards : List Forward
  links : Tbl Link
  peerauth : BitVec 4096
  routes : Tbl (List Nat)
  linkIn : List Flit
  /-- packets that have left over a link, newest first -/
  linkOut : List Nat
  /-- writes between chips whose lateness the link has told (23_link R432) -/
  lateTold : List Nat
  time : Nat
  eighths : Nat
  ptpLock : Bool
  ptpGm : Nat
  ptpOffset : BitVec 32
  /-- nanoseconds that TIME has still to gain or lose by slewing, and those that have passed toward the next one (23_link
  R430) -/
  slew : Int
  slewNs : Nat
  twin : Nat
  wfault : Bool
  wfaultWin : BitVec 32
  hdm : Tbl Hdm
  /-- what has gone back to the host, oldest first: the bytes read, none for an error response (23_link R433) -/
  hostOut : List (Option (List Byte))
  colls : List Coll
  boot : Boot
  dbg : Tbl Dbg
  logs : Tbl LogSt
  deluk : List DelukOut
  /-- how many of them the management interface has handed over -/
  delukSent : Nat
  deriving DecidableEq, Repr

/-- The numbers an event happens to; the comments at the events of Instr say which it uses (log 5). -/
structure EvArg where
  a : Nat
  b : Nat
  c : Nat
  f : Bool
  w : W64
  line : W512
  deriving DecidableEq, Repr

def EvArg.zero : EvArg := ⟨0, 0, 0, false, 0, 0⟩

/-- The model's own schedule: which core or event moves next (log 5). -/
inductive Turn
  /-- the core with this logical number takes the next turn -/
  | run (core : Nat)
  /-- cycles pass with no other effect -/
  | pass (cycles : Nat)
  /-- an event of the device happens -/
  | event (i : Instr) (arg : EvArg)
  deriving DecidableEq, Repr

/-- The state of the chip. `core` is the core whose turn it is; `others` holds every other core that differs from the
core the reset leaves at its number. -/
structure State where
  core : Core
  others : Tbl Core
  mem : List Host.Cell
  net : List Packet
  mu : MemUnits
  un : Units
  out : Outside
  cycle : Nat
  nextId : Nat
  /-- counter of free values (log 4) -/
  fresh : Nat
  /-- what the event being run happens to (log 5) -/
  arg : EvArg
  agenda : List Turn
  deriving DecidableEq, Repr

/-! ### Reasons to stop -/

/-- Why the machine stops with a fault. -/
inductive Fault
  /-- Raised by the step when the agenda, which is the model's own data and no part of the device, names a core that the
  chip does not hold. Safe: the device has no such event. -/
  | noSuchCore (n : Nat)
  deriving DecidableEq, Repr

/-- Why the machine refuses. -/
inductive Refusal
  /-- Answered by exec alone, for an instruction that has no meaning yet. Safe. -/
  | notModelled (mnemonic : String)
  deriving DecidableEq, Repr

/-! ### Reset (25_life R439; the values no rule gives are named in notes/assumptions/1.md) -/

def Clock.zero : Clock := ⟨0, 0, 0, 0⟩

def Issue.reset : Issue := { npc := 0, word := 0, idx := 0, busy := 0, mark := .none, instr := none, watch := none, stall := 0 }

def Scalars.reset : Scalars :=
  { glob := [], ring := [], base := 0, res := 1, spilled := 0, wsp := 0, wlimit := 0, rstack := [],
    spillBusy := false }

def Vectors.reset : Vectors := { own := [], s1 := .unmapped, s2 := .unmapped, s3 := .unmapped, streams := [] }

/-- STATUS.MODE is monitor, ASID.NOCTX is 1 and FRAMEWAIT is 0x0100_0000 (R226, R229, R119). -/
def SysRegs.reset : SysRegs :=
  { status := 2, epc := 0, cause := 0, tval := 0, tvec := 0, scratch := 0, slink := 0, monpc := 0, monwhy := 0,
    moninfo := 0, monaddr := 0, monentry := 0, monkeep := 0, monlink := 0, asid := 0x10000, prio := 0, fflags := 0,
    frm := 0, fp4x := 0, framewait := 0x01000000, cpyid := 0, cpydefh := 0, btimeout := 0, kargs := 0, kfirst := 0,
    kcount := 0 }

def Mail.reset : Mail :=
  { inbox := [], insvc := none, runSince := none, mcast := [], tags := [], q := [], deque := [], cpyq := [],
    arrivals := 0 }

def Events.reset : Events :=
  { p80 := false, p81 := false, p83 := none, notices := [], pend0B := [], point := none, ferr := none, doneBelow := 0, uinDepth := 0, monDepth := 0,
    haltSince := 0, haltedAt := 0, idleSince := 0, sliceRem := 0, sliceLen := 0, clampCount := 0, saveCycles := none,
    restoreCycles := none, reloadOwed := [] }

def Resident.reset : Resident := { mov := false, sdest := [], result := 0, age := 15, partner := 0, inst := 0 }

/-- A core as reset release leaves it, at the position its number names (R12, R76). -/
def Core.reset (n : Nat) : Core :=
  { num := n, pos := n, run := .idle, former := .idle, pc := 0, issue := Issue.reset, sc := Scalars.reset,
    vec := Vectors.reset, sys := SysRegs.reset, fbuf := none, rreg := none, freq := none, pend := [], locks := [], divUntil := 0, wait := none,
    mail := Mail.reset, ev := Events.reset, tlb := [], marks := [], tagged := 0, peerWindow := none, handles := [],
    collCount := [], collOpen := [], task := Resident.reset, job := none, dly := [], cycleBase := 0, retired := 0,
    replyClock := none, altArea := false, seq := 0 }

def MemUnits.reset : MemUnits :=
  { poison := [], checkDiff := [], beneath := [], peerKid := [], lineKey := [], icache := [], l2 := [], rdc := [], excl := [], watches := [], dies := [],
    hbm := [], keys := [], root := [], ctlb := [], walks := [], parked := [], portStop := [], hostHeld := [], snooped := [],
    heldNotices := [], ctxtab := 0, away := [] }

def Units.reset : Units :=
  { frames := [], pools := [], groups := [], pairs := [], barriers := [], kernels := [], graphs := [],
    doorbells := [], taken := [], layers := [], joins := [], dues := [], accs := [], paused := [], recs := [], engines := [], scales := [],
    xfers := [], copyTurn := [], experts := [], copies := [], resvs := [], queries := [], nngraphs := [], batches := [], collects := [],
    frozenAttar := [], overflow := [], awayQ := [], kept := [] }

/-- BOOTSTAT after a cold start: KIND 1, FULL 1 (R441); the power cap is the module's 3,300 W (00_scope R2). -/
def Boot.reset : Boot :=
  { kind := 1, kept := false, full := true, disabledCount := 0, ms := 0, keep := false, digest := 0, image := 0,
    disabled := [], failed := false, guard := 0, used := 0, plans := 0, drift := false, ichk := 0, power := 3300,
    request := none, released := 0, planned := 0 }

/-- SILCTL.EN is 0xF, TWIN is 2 (R419, R431); swap instants fall every 2^22 cycles (R420). -/
def Outside.reset : Outside :=
  { silEn := 0xF, instant := 0, subround := [], swaps := [], forwards := [], links := [],
    peerauth := 0, routes := [], linkIn := [], linkOut := [], lateTold := [], time := 0, eighths := 0, ptpLock := false, ptpGm := 0,
    ptpOffset := 0, slew := 0, slewNs := 0, twin := 2, wfault := false, wfaultWin := 0, hdm := [], hostOut := [], colls := [],
    boot := Boot.reset, dbg := [], logs := [], deluk := [], delukSent := 0 }

/-- The chip right after a cold start: every core idle in monitor mode at its own position with no context, every
memory zero, every unit empty (R439, R76, R12, R226, R229). -/
def State.reset : State :=
  { core := Core.reset 0, others := [], mem := [], net := [], mu := MemUnits.reset, un := Units.reset,
    out := Outside.reset, cycle := 0, nextId := 0, fresh := 0, arg := EvArg.zero, agenda := [] }

end Sys2Proof.Machine
end

