-- ==== Sys2Proof/Machine/Table.lean ====
section
/-! DEFINITION. Reading and writing tables kept in rising order of their numbers, and the canonical form of memory. -/
namespace Sys2Proof.Machine

/-- The entry numbered `k`. -/
def tget {α : Type} : Tbl α → Nat → Option α
  | [], _ => none
  | (j, v) :: r, k => if j = k then some v else tget r k

/-- The entry numbered `k`, or `d`. -/
def tgetD {α : Type} (t : Tbl α) (k : Nat) (d : α) : α := (tget t k).getD d

/-- The table without entry `k`. -/
def tdel {α : Type} : Tbl α → Nat → Tbl α
  | [], _ => []
  | (j, v) :: r, k => if j = k then tdel r k else (j, v) :: tdel r k

/-- The table with one more entry, placed before the first entry of a larger number. -/
def tins {α : Type} : Tbl α → Nat → α → Tbl α
  | [], k, v => [(k, v)]
  | (j, w) :: r, k, v => if k < j then (k, v) :: (j, w) :: r else (j, w) :: tins r k v

/-- Entry `k` becomes `v`. -/
def tput {α : Type} (t : Tbl α) (k : Nat) (v : α) : Tbl α := tins (tdel t k) k v

/-- Entry `k` becomes `v`; a value equal to what an unlisted number reads as is not listed. -/
def tputD {α : Type} [DecidableEq α] (d : α) (t : Tbl α) (k : Nat) (v : α) : Tbl α :=
  if v = d then tdel t k else tput t k v

/-- Strictly rising numbers. -/
def tsorted {α : Type} : Tbl α → Bool
  | [] => true
  | [_] => true
  | (j, _) :: (k, w) :: r => decide (j < k) && tsorted ((k, w) :: r)

/-- The byte at a memory key. An unlisted byte reads 0: every memory is cleared to zero at the start (25_life R439). -/
def mget (m : List (Nat × Byte)) (a : Nat) : Byte := tgetD m a 0

/-- One byte written. -/
def mput (m : List (Nat × Byte)) (a : Nat) (b : Byte) : List (Nat × Byte) := tputD 0 m a b

/-- The canonical form of memory: strictly rising keys and no entry equal to what an unlisted key reads as. -/
def Memory.wf (m : List (Nat × Byte)) : Bool := tsorted m && m.all (fun c => c.2 != 0)

/-- `n` bytes from key `a`, lowest first. -/
def mread (m : List (Nat × Byte)) (a : Nat) : Nat → List Byte
  | 0 => []
  | n + 1 => mget m a :: mread m (a + 1) n

/-- The cells of a list of bytes laid from key `a`. -/
def cellsAt (a : Nat) : List Byte → List (Nat × Byte)
  | [] => []
  | b :: r => (a, b) :: cellsAt (a + 1) r

/-- Every cell of the list written, in order. -/
def mputs (m : List (Nat × Byte)) : List (Nat × Byte) → List (Nat × Byte)
  | [] => m
  | (a, b) :: r => mputs (mput m a b) r

end Sys2Proof.Machine
end

