-- ==== Sys2Proof/Machine/Regs.lean ====
section
/-! DEFINITION. The register files: the window ring (04_core R83, R84), vector slots and frames (05_vector R106, R107),
and fixed-latency results on their way (03_encoding R59 to R62). -/
namespace Sys2Proof.Machine

/-! ### Numbers of the parts of the chip (01_machine R11) -/

def dieOf (pos : Nat) : Nat := pos / 2048
def clusterOf (pos : Nat) : Nat := pos / 64
def quadOf (pos : Nat) : Nat := pos / 4

/-- Cores of one chip. -/
def nCores : Nat := 8192
def nFrames : Nat := 256

/-! ### Scalar registers -/

/-- The place of register `r` in the ring of 136. -/
def ringIx (base r : Nat) : Nat := (base + (r - 8)) % 136

def Scalars.get (c : Scalars) (r : Reg) : W64 :=
  if r = 0 then 0
  else if r.toNat < 8 then tgetD c.glob r.toNat 0
  else tgetD c.ring (ringIx c.base r.toNat) 0

/-- A write to x0 is discarded (R83). -/
def Scalars.set (c : Scalars) (r : Reg) (w : W64) : Scalars :=
  if r = 0 then c
  else if r.toNat < 8 then { c with glob := tputD 0 c.glob r.toNat w }
  else { c with ring := tputD 0 c.ring (ringIx c.base r.toNat) w }

/-- Registers x16 to x31 of the current window become zero. -/
def Scalars.clearUpper (c : Scalars) : Scalars :=
  (List.range 16).foldl (fun c i => c.set (BitVec.ofNat 5 (16 + i)) 0) c

/-- The ring after the window has advanced by 16, the new x16 to x31 zero (R84). -/
def Scalars.advance (c : Scalars) : Scalars := Scalars.clearUpper { c with base := (c.base + 16) % 136 }

/-- The ring after the window has moved back by 16 (R84). -/
def Scalars.back (c : Scalars) : Scalars := { c with base := (c.base + 120) % 136 }

/-- Ring index of x8 of the oldest resident window (R84, R85). -/
def Scalars.oldest (c : Scalars) : Nat := (c.base + 136 * 8 - 16 * (c.res - 1)) % 136

/-- The ins and locals of the window whose x8 stands at ring index `b`: 128 bytes (R85). -/
def Scalars.windowBytes (c : Scalars) (b : Nat) : List Byte :=
  (List.range 16).flatMap (fun i => bytesOf (tgetD c.ring ((b + i) % 136) 0).toNat 8)

/-- The window read from 128 bytes into ring index `b`. -/
def Scalars.loadWindow (c : Scalars) (b : Nat) (l : List Byte) : Scalars :=
  (List.range 16).foldl
    (fun c i => { c with ring := tputD 0 c.ring ((b + i) % 136) (wordOf ((l.drop (8 * i)).take 8)) }) c

/-- WSP and WLIMIT hold offsets in bits 16:7 and 48:39 in units of 128 bytes; a larger value than 0x10000 stores 0x10000
(R88). -/
def clampOff (v : Nat) : Nat := if 0x10000 < v then 0x10000 else v / 128 * 128

def wspOf (c : Scalars) : Nat := c.wsp.toNat
def limitOf (c : Scalars) : Nat := fld c.wlimit 16 7 * 128
def baseOf (c : Scalars) : Nat := fld c.wlimit 48 39 * 128

/-- The register file at handler start: x8, x9 and x10 as given, x11 to x31 zero, one window, WSP at WLIMIT.BASE
(R87). -/
def Scalars.fresh (c : Scalars) (w8 w9 w10 : W64) : Scalars :=
  { c with
    ring := tputD 0 (tputD 0 (tputD 0 [] 0 w8) 1 w9) 2 w10
    base := 0, res := 1, spilled := 0, wsp := BitVec.ofNat 64 (baseOf c), spillBusy := false }

/-- Scalar register `r` of the core in focus. -/
def State.x (s : State) (r : Reg) : W64 := s.core.sc.get r

/-! ### Vector registers -/

/-- The slot of a vector register (R107). -/
def slotOf (r : Reg) : Nat := r.toNat / 8

def Vectors.slot (v : Vectors) : Nat → Slot
  | 1 => v.s1
  | 2 => v.s2
  | 3 => v.s3
  | _ => .unmapped

def Vectors.setSlot (v : Vectors) (k : Nat) (x : Slot) : Vectors :=
  match k with
  | 1 => { v with s1 := x }
  | 2 => { v with s2 := x }
  | 3 => { v with s3 := x }
  | _ => v

/-- The key of one register of a frame in the table of frames. -/
def frameKey (quad frame r : Nat) : Nat := (quad * 256 + frame) * 8 + r % 8

/-- Vector register `r`: zero in a slot that is not mapped (R107). -/
def vget (s : State) (r : Reg) : W512 :=
  if slotOf r = 0 then tgetD s.core.vec.own r.toNat 0
  else match s.core.vec.slot (slotOf r) with
    | .mapped f => tgetD s.un.frames (frameKey (quadOf s.core.pos) f r.toNat) 0
    | _ => 0

/-- A write to a register in a slot that is not mapped is discarded (R107). -/
def vset (s : State) (r : Reg) (w : W512) : State :=
  if slotOf r = 0 then
    { s with core := { s.core with vec := { s.core.vec with own := tputD 0 s.core.vec.own r.toNat w } } }
  else match s.core.vec.slot (slotOf r) with
    | .mapped f =>
      { s with un := { s.un with frames := tputD 0 s.un.frames (frameKey (quadOf s.core.pos) f r.toNat) w } }
    | _ => s

def State.v (s : State) (r : Reg) : W512 := vget s r

/-! ### Writes -/

/-- The scalar file written at once. -/
def rawX (s : State) (r : Reg) (w : W64) : State :=
  { s with core := { s.core with sc := s.core.sc.set r w } }

/-- When a pending result lands. -/
def Pend.lands : Pend → Nat
  | .x _ _ l => l
  | .v _ _ l => l

/-- Whether two pending results go to one register. -/
def Pend.same : Pend → Pend → Bool
  | .x r _ _, .x q _ _ => r == q
  | .v r _ _, .v q _ _ => r == q
  | _, _ => false

/-- A pending result lands. -/
def Pend.apply (s : State) : Pend → State
  | .x r w _ => rawX s r w
  | .v r w _ => vset s r w

/-- A pending result placed by its landing cycle. -/
def pendInsert (p : Pend) : List Pend → List Pend
  | [] => [p]
  | q :: r => if p.lands < q.lands then p :: q :: r else q :: pendInsert p r

/-- Results whose cycle has come land, in the order of their cycles (R60, R61). -/
def landDue (s : State) : State :=
  let due := s.core.pend.filter (fun p => p.lands ≤ s.cycle)
  let rest := s.core.pend.filter (fun p => !(p.lands ≤ s.cycle))
  due.foldl Pend.apply { s with core := { s.core with pend := rest } }

/-- Due results land but those that `keep` holds back: what a waiting instruction has read before they landed (R61). -/
def landBut (s : State) (keep : Pend → Bool) : State :=
  let goes (p : Pend) : Bool := decide (p.lands ≤ s.cycle) && !keep p
  (s.core.pend.filter goes).foldl Pend.apply
    { s with core := { s.core with pend := s.core.pend.filter (fun p => !goes p) } }

/-- The cycle in which the last pending result lands, or now. -/
def lastLanding (s : State) : Nat := s.core.pend.foldl (fun m p => max m p.lands) s.cycle

/-- Every pending result lands; the wait adds to the cycles the instruction takes (R62). -/
def landAll (s : State) : State :=
  let wait := lastLanding s - s.cycle
  let t := s.core.pend.foldl Pend.apply { s with core := { s.core with pend := [] } }
  if wait = 0 then t
  else { t with core := { t.core with issue := { t.core.issue with busy := t.core.issue.busy + wait } } }

/-- A result with latency `l` from this issue cycle. A result of one cycle is written at once; a longer one lands later.
Of two results for one register that land in one cycle, the manual does not say which stays: Config.landTie (R59 to R61,
log 4). -/
def deliver (s : State) (p : Pend) (direct : Bool) : State :=
  let tie := s.core.pend.any (fun q => q.same p && q.lands == p.lands)
  let t := if tie then { s with fresh := s.fresh + 1 } else s
  if tie && !Config.landTie s.fresh then t
  else
    let keep := t.core.pend.filter (fun q => !(q.same p && (q.lands == p.lands || (direct && q.lands < p.lands))))
    if direct then p.apply { t with core := { t.core with pend := keep } }
    else { t with core := { t.core with pend := pendInsert p keep } }

/-- A fixed-latency scalar result (R59). -/
def setXL (s : State) (r : Reg) (w : W64) (lat : Nat) : State :=
  if r = 0 then s else deliver s (.x r w (s.cycle + lat)) (lat ≤ 1)

/-- The place of a scalar register among the interlocks: its own number, or 8 plus its place in the ring. -/
def xPlace (c : Scalars) (r : Reg) : Nat := if r.toNat < 8 then r.toNat else 8 + ringIx c.base r.toNat

/-- The place of a vector register among the interlocks. -/
def vPlace (r : Reg) : Nat := 256 + r.toNat

/-- An interlocked result is present only after `lat` cycles: until then no reader or writer of its register issues
(R59). -/
def lockAt (s : State) (place lat : Nat) : State :=
  if lat ≤ 1 then s else { s with core := { s.core with locks := tput s.core.locks place (s.cycle + lat) } }

/-- The cycle in which the last of some registers has its interlocked result; 0 when none is awaited. -/
def lockedUntil (s : State) (places : List Nat) : Nat :=
  s.core.locks.foldl (fun m l => if places.contains l.1 then max m l.2 else m) 0

/-- The place, among the interlocks, of the next issue: the stall count of an instruction that another core has completed
(03_encoding R60). -/
def issuePlace : Nat := 512

/-- Every interlocked scalar result has been delivered, a division's among them; the wait adds to the cycles that pass
(04_core R89). -/
def landLocks (s : State) : State :=
  let scalar (l : Nat × Nat) : Bool := decide (l.1 < 256)
  let until_ := (s.core.locks.filter scalar).foldl (fun m l => max m l.2) s.core.divUntil
  if until_ ≤ s.cycle then s
  else { s with core := { s.core with
    locks := s.core.locks.filter (fun l => !scalar l), divUntil := s.cycle
    issue := { s.core.issue with busy := max s.core.issue.busy (until_ - s.cycle) } } }

/-- An interlocked scalar result delivered after `lat` cycles: no later reader sees the register before it (R59). -/
def setXI (s : State) (r : Reg) (w : W64) (lat : Nat) : State :=
  if r = 0 then s else lockAt (deliver s (.x r w (s.cycle + lat)) true) (xPlace s.core.sc r) lat

/-- A fixed-latency vector result. -/
def setVL (s : State) (r : Reg) (w : W512) (lat : Nat) : State := deliver s (.v r w (s.cycle + lat)) false

/-- An interlocked vector result. -/
def setVI (s : State) (r : Reg) (w : W512) (lat : Nat) : State :=
  lockAt (deliver s (.v r w (s.cycle + lat)) true) (vPlace r) lat

/-! ### Cores by number -/

/-- Core `n` (log 2: a core the table does not list stands as reset leaves it). -/
def getCore (s : State) (n : Nat) : Core :=
  if n = s.core.num then s.core else tgetD s.others n (Core.reset n)

/-- Core `c` put back under its number. -/
def putCore (s : State) (c : Core) : State :=
  if c.num = s.core.num then { s with core := c } else { s with others := tput s.others c.num c }

/-- A change of core `n`. -/
def modCore (s : State) (n : Nat) (f : Core → Core) : State :=
  if n = s.core.num then { s with core := f s.core }
  else { s with others := tput s.others n (f (tgetD s.others n (Core.reset n))) }

/-- The state with core `n` in focus. -/
def focus (s : State) (n : Nat) : State :=
  if n = s.core.num then s
  else { s with core := tgetD s.others n (Core.reset n), others := tput (tdel s.others n) s.core.num s.core }

/-- A change made with core `n` in focus. -/
def onCore (s : State) (n : Nat) (f : State → State) : State := focus (f (focus s n)) s.core.num

/-- The logical core at a physical position (01_machine R12, 06_memory R145). -/
def coreAt (s : State) (pos : Nat) : Nat :=
  if s.core.pos = pos then s.core.num
  else match s.others.find? (fun p => p.2.pos == pos) with
    | some p => p.1
    | none => pos

/-- Whether a present, enabled core holds the logical number (06_memory R146). -/
def coreHere (s : State) (n : Nat) : Bool := decide (n < nCores) && decide ((getCore s n).run ≠ .disabled)

/-- The cores of a quad by their positions, lowest first. -/
def quadCores (s : State) (quad : Nat) : List Nat := (List.range 4).map (fun i => coreAt s (quad * 4 + i))

end Sys2Proof.Machine
end

