-- ==== Sys2Proof/Machine/Memory.lean ====
section
/-! DEFINITION. Memory below the instructions: keys of bytes, poison, L2 and RDC lines, clocks, page walks, TLBs, and
where an address lies (06_memory R144 to R159, 07_ordering R175 to R178, 08_page R206 to R217). -/
namespace Sys2Proof.Machine

/-! ### Keys of bytes (log 2) -/

/-- A byte of the local memory of logical core `n`: its window address (R144). -/
def localKey (n off : Nat) : Nat := 2 ^ 63 + n * 2 ^ 37 + off
/-- A byte of the scratchpad of a cluster: its window address (R144). -/
def scratchKey (cl off : Nat) : Nat := 2 ^ 62 + cl * 2 ^ 43 + off
/-- A byte of host memory. -/
def hostKey (a : Nat) : Nat := 2 ^ 65 + a
/-- A byte of the HBM of a peer chip. -/
def peerKey (chip a : Nat) : Nat := 2 ^ 64 + chip * 2 ^ 40 + a
/-- One past the HBM of this chip: 40 address bits (08_page R207). -/
def hbmEnd : Nat := 2 ^ 40

/-- The 64-byte line of a key. -/
def lineKeyOf (key : Nat) : Nat := key / 64
/-- The number of the 256-byte superblock of a line by its physical address, in HBM or in host memory (R150). -/
def superPhys (line : Nat) : Nat := line * 64 % 2 ^ 65 / 256

/-- The stack of a physical HBM address (08_page R207). -/
def stackOf (phys : Nat) : Nat := phys / 2 ^ 36
/-- The home die of a line: its stack's die, D0 for host memory (01_machine R18, 06_memory R151). -/
def homeDie (key : Nat) : Nat := if key < hbmEnd then stackOf key / 3 else 0

/-! ### Clocks (07_ordering R177) -/

def Clock.get (c : Clock) : Nat → BitVec 32
  | 0 => c.c0
  | 1 => c.c1
  | 2 => c.c2
  | _ => c.c3

def Clock.set (c : Clock) (d : Nat) (v : BitVec 32) : Clock :=
  match d with
  | 0 => { c with c0 := v }
  | 1 => { c with c1 := v }
  | 2 => { c with c2 := v }
  | _ => { c with c3 := v }

def maxSerial (a b : BitVec 32) : BitVec 32 := if serialLt a b then b else a

def Clock.merge (a b : Clock) : Clock :=
  ⟨maxSerial a.c0 b.c0, maxSerial a.c1 b.c1, maxSerial a.c2 b.c2, maxSerial a.c3 b.c3⟩

/-- At or above in every component. -/
def Clock.atLeast (a b : Clock) : Bool :=
  serialGe a.c0 b.c0 && serialGe a.c1 b.c1 && serialGe a.c2 b.c2 && serialGe a.c3 b.c3

/-- A die before anything has happened on it. -/
def Die.fresh : Die :=
  { vc := Clock.zero, floor := Clock.zero, heard := [], beatDue := false, lastBeat := 0, lastStep := none,
    notice := 0 }

def getDie (s : State) (d : Nat) : Die := tgetD s.mu.dies d Die.fresh
def putDie (s : State) (d : Nat) (x : Die) : State := { s with mu := { s.mu with dies := tput s.mu.dies d x } }

/-- Whether home die `h` may apply a write or serve a miss stamped `v` from die `d`: it has heard from every other die
(R177, R178). -/
def heardAll (s : State) (h d : Nat) (v : Clock) : Bool :=
  (List.range 4).all (fun e => e == h || e == d ||
    serialGe ((tgetD (getDie s h).heard e Clock.zero).get e) (v.get e))

/-- Die `h` has received a write or beat of die `e` that carries `v`. -/
def hear (s : State) (h e : Nat) (v : Clock) : State :=
  let x := getDie s h
  putDie s h { x with heard := tput x.heard e ((tgetD x.heard e Clock.zero).merge v), vc := x.vc.merge v }

/-- Die `d` has received a clock with a reply or a message: its own keeps the largest values received (R177). -/
def learn (s : State) (d : Nat) (v : Clock) : State :=
  let x := getDie s d
  putDie s d { x with vc := x.vc.merge v }

/-- An acquire raises the floor of a die with the clock it has received (R174, R178). -/
def raiseFloor (s : State) (d : Nat) (v : Clock) : State :=
  let x := getDie s d
  putDie s d { x with floor := x.floor.merge v, vc := x.vc.merge v }

/-! ### Stacks (06_memory R154, R155) -/

/-- A stack as reset leaves it: up, ratio 24:8; QARB 64 and 64 (R154; 20_query R406). -/
def Stack.fresh : Stack :=
  { st := .up, ratio := 1, newRatio := 1, retrains := 0, rowSwaps := 0, tries := 0, requested := false, acts := [],
    perm := [], busy := [], starve := 64, window := 64, open_ := [], held := [], bursts := [], interval := 0 }

def getStack (s : State) (n : Nat) : Stack := tgetD s.mu.hbm n Stack.fresh
def putStack (s : State) (n : Nat) (x : Stack) : State := { s with mu := { s.mu with hbm := tput s.mu.hbm n x } }

/-- The state of the stack that holds a key, when the key is an HBM byte of this chip. -/
def stackStOf (s : State) (key : Nat) : StackSt :=
  if key < hbmEnd then (getStack s (stackOf key)).st else .up

/-- A stack whose requests wait (R155). -/
def stackWaits (s : State) (key : Nat) : Bool := stackStOf s key == .retraining
def stackDead (s : State) (key : Nat) : Bool := stackStOf s key == .failed

/-! ### Poison (R157, R159; 25_life R444) -/

def isPoisoned (s : State) (line : Nat) : Bool := (tget s.mu.poison line).isSome

/-- What HBM's copy of a line is while L2 holds a changed one is kept apart (20_query R396). -/
def keepBeneath (m : MemUnits) (line : Nat) : Tbl Bool :=
  if (tget m.l2 line).any (·.dirty) && (tget m.beneath line).isNone then tput m.beneath line (tget m.poison line).isSome
  else m.beneath

def poisonLine (s : State) (line : Nat) : State :=
  { s with mu := { s.mu with poison := tput s.mu.poison line 0, beneath := keepBeneath s.mu line } }

/-- Whether HBM's copy of a line is poisoned. -/
def poisonBeneath (s : State) (line : Nat) : Bool := (tget s.mu.beneath line).getD (isPoisoned s line)

/-- A byte written into a poisoned line: the line stays poisoned until all 64 bytes have been written (R159). -/
def poisonWrite (p : Tbl (BitVec 64)) (key : Nat) : Tbl (BitVec 64) :=
  match tget p (lineKeyOf key) with
  | none => p
  | some m =>
    let m' := m ||| (1#64 <<< (key % 64))
    if m' = BitVec.allOnes 64 then tdel p (lineKeyOf key) else tput p (lineKeyOf key) m'

def poisonWrites (p : Tbl (BitVec 64)) (cells : List Host.Cell) : Tbl (BitVec 64) :=
  if p.isEmpty then p else cells.foldl (fun q c => poisonWrite q c.1) p

/-- A line read at a stack: a check value that does not match poisons it and counts in ICHK (25_life R443, R444). A line that L2
holds changed is poisoned in HBM alone (06_memory R150). -/
def checkLine (s : State) (line : Nat) : State :=
  if (tget s.mu.checkDiff line).isSome then
    let b := s.out.boot
    let t := if (tget s.mu.l2 line).any (·.dirty) then { s with mu := { s.mu with beneath := tput s.mu.beneath line true } }
      else poisonLine s line
    { t with
      mu := { t.mu with checkDiff := tdel s.mu.checkDiff line }
      out := { s.out with boot := { b with ichk := if b.ichk = BitVec.allOnes 32 then b.ichk else b.ichk + 1 } } }
  else s

/-! ### Bytes at their home -/

/-- Bytes of local memory, a scratchpad, or memory beneath the caches, written. -/
def rawWrite (s : State) (cells : List Host.Cell) : State :=
  { s with mem := mputs s.mem cells, mu := { s.mu with poison := poisonWrites s.mu.poison cells } }

/-- The key in force under a number (08_page R213). -/
def keyVal (s : State) (k : Nat) : BitVec 512 := match tget s.mu.keys k with | some x => x.value | none => 0

/-- A line written under one key as another decrypts it: encrypted under the first, decrypted under the second, with the
line's physical address as tweak (08_page R212, R214). -/
def recrypt (line : Nat) (now was : BitVec 512) (data : W512) : W512 :=
  if now = was then data else xtsDec now (line * 64) (xtsEnc was (line * 64) data)

/-- A line beneath the caches, read under a key (08_page R212, R214): `none` reads it as it was written. -/
def hbmLine (s : State) (line : Nat) (kid : Option Nat) : W512 :=
  let data := lineOf (mread s.mem (line * 64) 64)
  match kid, tget s.mu.lineKey line with
  | some k, some v => recrypt line (keyVal s k) v data
  | _, _ => data

/-- The bytes of a line as HBM holds them: encrypted when it was written under a key (08_page R212). -/
def cipherLine (s : State) (line : Nat) : W512 :=
  let data := lineOf (mread s.mem (line * 64) 64)
  match tget s.mu.lineKey line with
  | some v => xtsEnc v (line * 64) data
  | none => data

/-- The check value that stands beside a line of HBM, over the bytes it holds (25_life R443; 08_page R212). -/
def checkValue (s : State) (line : Nat) : BitVec 16 :=
  crc16 (bytesOf (cipherLine s line).toNat 64) ^^^ tgetD s.mu.checkDiff line 0

/-- The pseudo-channel of a superblock within its stack (R153). -/
def channelOf (phys : Nat) : Nat := phys / 256 % 64

/-- The row of a bank that a line of HBM lies in, as one number. -/
def rowKey (bank row : Nat) : Nat := bank * 2 ^ 32 + row

/-- A line of HBM is read from or written to its stack: an activation of its row counts (R156), and an ordinary read opens
the arbitration window of its pseudo-channel (20_query R407). -/
def stackAccess (s : State) (line : Nat) (read : Bool) : State :=
  if line * 64 < hbmEnd then
    let n := stackOf (line * 64)
    let x := getStack s n
    let br := Config.bankRow (line * 64)
    let k := rowKey br.1 br.2
    putStack s n { x with
      acts := tput x.acts k (tgetD x.acts k 0 + 1)
      open_ := if read then tput x.open_ (channelOf (line * 64)) s.out.time else x.open_ }
  else s

/-- A line written beneath the caches under a key; its check value is made anew (25_life R443). -/
def hbmPut (s : State) (line : Nat) (data : W512) (kid : Option Nat) : State :=
  if stackDead s (line * 64) then s
  else
    let s := stackAccess s line false
    { s with
      mem := mputs s.mem (cellsAt (line * 64) (bytesOf data.toNat 64))
      mu := { s.mu with
        checkDiff := tdel s.mu.checkDiff line, beneath := tdel s.mu.beneath line
        lineKey := match kid with
          | some k => if line * 64 < hbmEnd then tput s.mu.lineKey line (keyVal s k) else s.mu.lineKey
          | none => s.mu.lineKey } }

/-- What a line cached under KEYID `was` (64 for none) shows through a mapping of another KEYID (08_page R214). -/
def keyShow (s : State) (line was : Nat) (data : W512) (kid : Option Nat) : W512 :=
  match kid with
  | some k => if was = k ∨ was = 64 then data else recrypt line (keyVal s k) (keyVal s was) data
  | none => data

/-- The superblock of a line, and the set it falls in: home die, slice, set (R150; the set index is PRESUMED, log 7). -/
def superOf (line : Nat) : Nat := line / 4
def l2SetOf (line : Nat) : Nat × Nat × Nat :=
  let sb := superPhys line
  (homeDie (line * 64), sb % 96, sb / 96 % 256)

/-- A dirty line goes back to memory. -/
def writeBack (s : State) (line : Nat) (l : L2Line) : State :=
  if l.dirty then hbmPut s line l.data (if l.kid = 64 then none else some l.kid) else s

/-- A superblock leaves L2: its dirty lines are written back first (R150). -/
def l2Evict (s : State) (sb : Nat) : State :=
  let go := s.mu.l2.filter (fun p => superOf p.1 == sb)
  let t := go.foldl (fun t p => writeBack t p.1 p.2) s
  { t with mu := { t.mu with l2 := t.mu.l2.filter (fun p => superOf p.1 != sb) } }

/-- Distinct superblocks of a list of lines. -/
def supersOf (l : List Nat) : List Nat := (l.map superOf).dedup

/-- Room for a line in L2: a full set of 16 superblocks gives one up; which one the manual does not say (log 4). -/
def l2Room (s : State) (line : Nat) : State :=
  let inSet := supersOf ((s.mu.l2.map (·.1)).filter (fun k => l2SetOf k == l2SetOf line))
  if inSet.contains (superOf line) || inSet.length < 16 then s
  else
    let victim := inSet.getD (Config.victim s.fresh % inSet.length) (superOf line)
    l2Evict { s with fresh := s.fresh + 1 } victim

/-- A line placed in L2. -/
def l2Put (s : State) (line : Nat) (l : L2Line) : State :=
  let t := l2Room s line
  { t with mu := { t.mu with l2 := tput t.mu.l2 line l } }

/-- A line read at its home: through L2 when cached, filling it on a miss (R150). -/
def homeRead (s : State) (line : Nat) (kid : Option Nat) (cached : Bool) : State × W512 :=
  if cached then
    match tget s.mu.l2 line with
    | some l => (s, keyShow s line l.kid l.data kid)
    | none =>
      let t := checkLine (stackAccess s line true) line
      let data := hbmLine t line kid
      if isPoisoned t line || stackDead t (line * 64) then (t, data)
      else (l2Put t line ⟨data, false, kid.getD 64⟩, data)
  else
    let t := checkLine (stackAccess s line true) line
    (t, hbmLine t line kid)

/-- A line merged with the bytes written to it. -/
def mergeLine (data : W512) (cells : List Host.Cell) : W512 :=
  cells.foldl (fun d c =>
    let k := 8 * (c.1 % 64)
    (d &&& ~~~ ((0xFF#512) <<< k)) ||| (BitVec.ofNat 512 c.2.toNat <<< k)) data

/-- A line is recalled from the cluster instruction caches that hold it (04_core R79; 07_ordering R175). -/
def codeDrop (s : State) (line : Nat) : State :=
  if s.mu.icache.isEmpty then s
  else { s with mu := { s.mu with icache := s.mu.icache.filter (fun p => p.1 / 128 != line) } }

/-- Cells of one line written at its home. A whole line is allocated without a fill; a smaller cached write fills the line first;
one through the pass-through path is merged in the stack by its write lanes (R150; 08_page R211; 20_query R407). -/
def homeWriteLine (s0 : State) (line : Nat) (kid : Option Nat) (cached : Bool) (cells : List Host.Cell) : State :=
  let s := codeDrop s0 line
  if stackDead s (line * 64) then s
  else
    let old : State × W512 := if (cells.map (·.1)).dedup.length = 64 then (s, 0)
      else if cached then homeRead s line kid true
      else (let t := checkLine s line; (t, hbmLine t line kid))
    let data := mergeLine old.2 cells
    let t := old.1
    let keep := match tget t.mu.l2 line with | some l => l.kid | none => 64
    let u := if cached then l2Put t line ⟨data, true, kid.getD keep⟩ else hbmPut t line data kid
    { u with mu := { u.mu with
      beneath := if isPoisoned u line then keepBeneath u.mu line else u.mu.beneath
      poison := poisonWrites u.mu.poison cells } }

/-- The lines that a list of cells touches. -/
def cellLines (cells : List Host.Cell) : List Nat := (cells.map (fun c => lineKeyOf c.1)).dedup

/-- Whether a place is one of the memories that pages reach. -/
def Place.cached : Place → Bool
  | .hbm _ c _ => c
  | .host c => c
  | _ => false

/-- The KEYID under which a place is read or written; 64 stands for the device's own accesses, which have none. -/
def Place.kid : Place → Option Nat
  | .hbm _ _ k => if k < 64 then some k else none
  | _ => none

/-- A line of a peer chip's HBM as a KEYID shows it: the peer encrypts and decrypts with its own key of that number (08_page
R212, R214). -/
def peerShow (s : State) (chip line kid : Nat) : W512 :=
  let data := lineOf (mread s.mem (line * 64) 64)
  match tget s.mu.peerKid line with
  | some k => if k = kid then data
    else xtsDec (Config.peerKey chip kid) (line * 64 % 2 ^ 40) (xtsEnc (Config.peerKey chip k) (line * 64 % 2 ^ 40) data)
  | none => data

/-- Cells of one line written at a peer chip's home under a KEYID. -/
def peerWrite (s : State) (chip kid line : Nat) (cells : List Host.Cell) : State :=
  let data := mergeLine (peerShow s chip line kid) cells
  { s with
    mem := mputs s.mem (cellsAt (line * 64) (bytesOf data.toNat 64))
    mu := { s.mu with poison := poisonWrites s.mu.poison cells, peerKid := tput s.mu.peerKid line kid } }

/-- Cells written at their home (R158, R171). -/
def homeWrite (s : State) (place : Place) (cells : List Host.Cell) : State :=
  match place with
  | .loc _ => rawWrite s cells
  | .scr _ => rawWrite s cells
  | .peer c k => (cellLines cells).foldl
      (fun t line => peerWrite t c k line (cells.filter (fun x => lineKeyOf x.1 == line))) s
  | .aperture => s
  | p => (cellLines cells).foldl
      (fun t line => homeWriteLine t line p.kid p.cached (cells.filter (fun c => lineKeyOf c.1 == line))) s

/-- Lines that an engine owns exclusively are recalled: the access waits (R152). -/
def ownedBy (s : State) (line : Nat) : Option Own := s.mu.excl.find? (fun o => decide (o.lo ≤ line) && decide (line < o.hi))
def anyOwned (s : State) (cells : List Host.Cell) : Bool :=
  if s.mu.excl.isEmpty then false else (cellLines cells).any (fun l => (ownedBy s l).isSome)

/-! ### The device's own reads and writes of HBM (page tables, descriptors, queues) -/

/-- `n` bytes of physical memory read at their home slice, whatever their key (R207; 09_context R227). -/
def physRead (s : State) (phys n : Nat) : List Byte :=
  (List.range n).map (fun i =>
    let a := phys + i
    match tget s.mu.l2 (lineKeyOf a) with
    | some l => BitVec.ofNat 8 (l.data.toNat >>> (8 * (a % 64)))
    | none => mget s.mem a)

def physWord (s : State) (phys : Nat) : W64 := wordOf (physRead s phys 8)

/-- The cells a body writes. -/
def Body.cells : Body → List Host.Cell
  | .store _ c => c
  | .farStore _ c _ => c
  | .atomic _ key n _ _ _ => cellsAt key (List.replicate n 0)
  | .shape _ key _ _ => cellsAt key (List.replicate 8 0)
  | _ => []

def Body.place : Body → Option Place
  | .store p _ => some p
  | .atomic p _ _ _ _ _ => some p
  | .farLoad p _ _ _ => some p
  | .farStore p _ _ => some p
  | .shape p _ _ _ => some p
  | _ => none

/-- The lines a body writes. -/
def Body.lines (b : Body) : List Nat := b.cells.map (fun c => lineKeyOf c.1)

/-- The unit of the device that writes its own records at a line's home. -/
def ownWriter (line : Nat) : Src := .home (homeDie (line * 64)) (2 ^ 24)

/-- Whether a write of the device itself has to wait at the home: for the response of a host cache that holds the line, for an
engine that owns it, for its stack, or behind an earlier one (06_memory R152, R155; 07_ordering R183). -/
def ownWaits (s : State) (line : Nat) : Bool :=
  s.mu.hostHeld.contains line || (ownedBy s line).isSome || stackWaits s (line * 64) ||
    s.net.any (fun p => p.src == ownWriter line && p.body.lines.contains line)

/-- Cells of one line that the device writes of its own accord: at once, or as a packet that waits at the home, where it snoops
the host. -/
def ownWrite (s : State) (line : Nat) (cells : List Host.Cell) : State :=
  if ownWaits s line then
    let d := homeDie (line * 64)
    { s with
      nextId := s.nextId + 1
      net := s.net ++ [{
        id := s.nextId, src := ownWriter line, ctx := 256, asid := 0, die := d, stamp := (getDie s d).vc, sent := s.cycle
        window := 0, addr := BitVec.ofNat 64 (line * 64), body := .store (.hbm d true 64) cells, st := .flying, counted := false, park := none }] }
  else homeWriteLine s line none true cells

/-- Bytes written at their home slice by the device. -/
def physWrite (s : State) (phys : Nat) (l : List Byte) : State :=
  let cells := cellsAt phys l
  (cellLines cells).foldl (fun t line => ownWrite t line (cells.filter (fun c => lineKeyOf c.1 == line))) s

/-! ### RDC (R151, R178) -/

def rdcKey (line die : Nat) : Nat := line * 4 + die

def rdcSetOf (line : Nat) : Nat × Nat := (superPhys line % 32, superPhys line / 32 % 256)

/-- Room in a die's RDC for a line. -/
def rdcRoom (s : State) (line die : Nat) : State :=
  let mine := (s.mu.rdc.filter (fun p => p.1 % 4 == die)).map (fun p => p.1 / 4)
  let inSet := supersOf (mine.filter (fun k => rdcSetOf k == rdcSetOf line))
  if inSet.contains (superOf line) || inSet.length < 16 then s
  else
    let victim := inSet.getD (Config.victim s.fresh % inSet.length) (superOf line)
    { s with
      fresh := s.fresh + 1
      mu := { s.mu with rdc := s.mu.rdc.filter (fun p => !(p.1 % 4 == die && superOf (p.1 / 4) == victim)) } }

/-- A store that leaves a die invalidates the lines in that die's RDC as it issues (07_ordering R175). -/
def rdcDrop (s : State) (die : Nat) (lines : List Nat) : State :=
  if s.mu.rdc.isEmpty then s
  else { s with mu := { s.mu with rdc := s.mu.rdc.filter (fun p => !(p.1 % 4 == die && lines.contains (p.1 / 4))) } }

/-- Lines leave the RDC of every die: a write of a peer chip has been applied at their home (07_ordering R179, R194; DESIGN CHOICE,
log 54). -/
def rdcDropAll (s : State) (lines : List Nat) : State := (List.range 4).foldl (fun t d => rdcDrop t d lines) s

/-- The copies that the dies' RDCs hold of lines the host has written are stale: an acquire at .device drops them (07_ordering
R183; DESIGN CHOICE, log 54). -/
def rdcStale (s : State) (lines : List Nat) : State :=
  if s.mu.rdc.isEmpty then s
  else { s with mu := { s.mu with
    rdc := s.mu.rdc.map (fun p => if lines.contains (p.1 / 4) then (p.1, { p.2 with stale := true }) else p) } }

/-- An acquire at .device drops its die's stale lines. -/
def rdcFresh (s : State) (die : Nat) : State :=
  if s.mu.rdc.any (fun p => p.2.stale) then
    { s with mu := { s.mu with rdc := s.mu.rdc.filter (fun p => !(p.1 % 4 == die && p.2.stale)) } }
  else s

/-! ### Reads -/

/-- Why a read does not return yet, or fails. -/
inductive ReadStop
  | waits
  | poison (line : Nat) (s : State)
  deriving DecidableEq, Repr

/-- The peer chip a place lies on: in its HBM, or in the local memory or scratchpad that one of its windows names. -/
def Place.chip : Place → Option Nat
  | .peer c _ => some c
  | .loc n => if nCores ≤ n then some (n / nCores) else none
  | .scr c => if 128 ≤ c then some (c / 128) else none
  | _ => none

/-- Whether a place lies on a peer chip. -/
def Place.isPeer (p : Place) : Bool := p.chip.isSome

/-- The links of the route to a chip: those of the route table, or, for a chip with no entry in it, the links whose peer the chip is
(23_link R429; the manual gives the table no register: DESIGN CHOICE, log 44). -/
def routeLinks (s : State) (chip : Nat) : List Nat :=
  (tget s.out.routes chip).getD ((s.out.links.filter (fun p => p.2.peer == chip)).map (·.1))

/-- A link that carries traffic, and one that still holds what it has to carry (23_link R427). -/
def LinkSt.carries (x : LinkSt) : Bool := x == .up || x == .degraded
def LinkSt.holds (x : LinkSt) : Bool := x.carries || x == .retraining

def routeHas (s : State) (chip : Nat) (f : LinkSt → Bool) : Bool :=
  (routeLinks s chip).any (fun i => (tget s.out.links i).any (fun l => f l.st))

/-- A route reaches a chip: one of its links carries traffic or is retraining (23_link R429). -/
def chipReached (s : State) (chip : Nat) : Bool := routeHas s chip LinkSt.holds

/-- Whether what goes to a place waits for a link that retrains (23_link R427, R429). -/
def linkWaits (s : State) (place : Place) : Bool :=
  place.chip.any (fun c => routeHas s c LinkSt.holds && !routeHas s c LinkSt.carries)

/-- The die whose home slice or bank a place is: none for another chip and for the registers (01_machine R12, R18;
06_memory R145, R151). -/
def homeOf (s : State) (place : Place) : Option Nat :=
  match place with
  | .hbm d _ _ => some d
  | .host _ => some 0
  | .loc n => if n < nCores then some (dieOf (getCore s n).pos) else none
  | .scr c => if c < 128 then some (c / 32) else none
  | .peer _ _ => none
  | .aperture => none

/-- Whether a write of a die to a line is on its way: until it has been applied the die's RDC takes no copy of the line, so
none that the write would make stale (07_ordering R175, R176; DEDUCED, log 29). -/
def writeOut (s : State) (d line : Nat) : Bool :=
  s.net.any (fun p => p.die == d && p.st == .flying && p.body.lines.contains line)

/-- Whether one of these packets is a write to a line that its home has received, as a later beat of its die tells, and has still
to apply: no read and no later write of the line passes it (07_ordering R177). -/
def lateIn (s : State) (l : List Packet) (h line : Nat) : Bool :=
  l.any (fun p => p.st == .flying && p.die != h && p.body.lines.contains line &&
    serialLt (p.stamp.get p.die) ((tgetD (getDie s h).heard p.die Clock.zero).get p.die))

/-- The same among all packets on their way. -/
def lateWrite (s : State) (h line : Nat) : Bool := lateIn s s.net h line

/-- Whether cells of a place have such a write among these packets before them. -/
def lateCells (s : State) (l : List Packet) (place : Place) (cells : List Host.Cell) : Bool :=
  match homeOf s place with
  | some h => (cellLines cells).any (lateIn s l h)
  | none => false

/-- One line read at its home: the line, or the bank's 64 bytes, with the clock of the home's die; a failed stack and a
poisoned line do not answer (R149, R150, R155, R159; 07_ordering R177). DESIGN CHOICE (log 55): a line of a failed stack that L2
still holds is answered poisoned, as the stack answers; R155 speaks of reads at the stack only, and a copy in an RDC is still
read. -/
def homeNow (s : State) (place : Place) (line : Nat) : Except ReadStop (State × W512 × Clock) :=
  let vc (t : State) : Clock := match homeOf t place with | some h => (getDie t h).vc | none => Clock.zero
  let fin (t : State) (data : W512) : Except ReadStop (State × W512 × Clock) :=
    if isPoisoned t line then .error (.poison line t) else .ok (t, data, vc t)
  let bank := lineOf (mread s.mem (line * 64) 64)
  if linkWaits s place then .error .waits
  else match place with
  | .aperture => .ok (s, 0, Clock.zero)
  | .loc _ => fin s bank
  | .scr _ => fin s bank
  | .peer c k => fin s (peerShow s c line k)
  | p =>
    if stackWaits s (line * 64) || (ownedBy s line).isSome then .error .waits
    else
      let r := homeRead s line p.kid p.cached
      if stackDead r.1 (line * 64) then .error (.poison line (poisonLine r.1 line))
      else if !p.cached && poisonBeneath r.1 line then .error (.poison line r.1)
      else if !p.cached then .ok (r.1, r.2, vc r.1)
      else fin r.1 r.2

/-- The same once every write of the line that the home has received has been applied (07_ordering R177). -/
def homeLine (s : State) (place : Place) (line : Nat) : Except ReadStop (State × W512 × Clock) :=
  if (homeOf s place).any (fun h => lateWrite s h line) then .error .waits else homeNow s place line

/-- The copy of a line in a die's RDC that may serve a read: its fill clock is at or above the floor (07_ordering R178). -/
def rdcHit (s : State) (d line : Nat) : Option RdcLine :=
  (tget s.mu.rdc (rdcKey line d)).filter (fun l => l.clock.atLeast (getDie s d).floor)

/-- A line just read at its home enters the RDC of die `d` (07_ordering R178). -/
def rdcFill (s : State) (d line : Nat) (place : Place) (data : W512) (c : Clock) : State :=
  if writeOut s d line then s
  else
    let u := rdcRoom s line d
    let l : RdcLine := { data := data, clock := c, dirty := false, kid := place.kid.getD 64, stale := false }
    { u with mu := { u.mu with rdc := tput u.mu.rdc (rdcKey line d) l } }

/-- A place in HBM of this chip or in host memory. -/
def Place.paged : Place → Bool
  | .hbm _ _ _ => true
  | .host _ => true
  | _ => false

/-- A reply that has come from the home of a place on another die brings that die's clock (07_ordering R177). -/
def replied (s : State) (d : Nat) (place : Place) (c : Clock) : State :=
  match homeOf s place with
  | some h => if h = d then s else learn s d c
  | none => s

/-- One line read at its home for die `d`: a miss to a home on another die carries the die's floor, which the home has to
have heard of, and the reply its clock (07_ordering R177, R178). -/
def missLine (s : State) (d : Nat) (place : Place) (line : Nat) : Except ReadStop (State × W512 × Clock) :=
  let h := homeDie (line * 64)
  if place.paged && h != d && !heardAll s h d (getDie s d).floor then .error .waits
  else match homeLine s place line with
    | .ok (t, data, c) => .ok (replied t d place c, data, c)
    | .error e => .error e

/-- One line read for a core on die `d`, with the clock that comes with it (R149 to R151; 07_ordering R175 to R178): a
cacheable line homed on another die through the die's RDC, any other at its home. -/
def readLine (s : State) (d : Nat) (place : Place) (line : Nat) : Except ReadStop (State × W512 × Clock) :=
  if place.cached && homeDie (line * 64) != d then
    match rdcHit s d line with
    | some l =>
      if isPoisoned s line then .error (.poison line s)
      else .ok (s, keyShow s line l.kid l.data place.kid, l.clock)
    | none => match missLine s d place line with
      | .ok (t, data, c) => .ok (rdcFill t d line place data c, data, c)
      | .error e => .error e
  else missLine s d place line

/-- Bytes `lo` to `lo + n - 1` of a line. -/
def lineBytes (data : W512) (lo n : Nat) : List Byte := bytesOf (data.toNat >>> (8 * lo)) n

/-- `n` bytes from a key, over the lines they touch, each read by `rd`; `fuel` bounds the number of lines. -/
def readGo (rd : State → Nat → Except ReadStop (State × W512 × Clock)) :
    Nat → State → Nat → Nat → Except ReadStop (State × List Byte × Clock)
  | 0, s, _, _ => .ok (s, [], Clock.zero)
  | fuel + 1, s, key, n =>
    if n = 0 then .ok (s, [], Clock.zero)
    else
      let lo := key % 64
      let k := min n (64 - lo)
      match rd s (lineKeyOf key) with
      | .error e => .error e
      | .ok (t, data, c) =>
        match readGo rd fuel t (key + k) (n - k) with
        | .error e => .error e
        | .ok (u, rest, c') => .ok (u, lineBytes data lo k ++ rest, if n - k = 0 then c else c.merge c')

/-- Bytes as a core of die `d` reads them. -/
def readBytes (s : State) (d : Nat) (place : Place) (key n : Nat) : Except ReadStop (State × List Byte × Clock) :=
  readGo (fun t line => readLine t d place line) (n / 64 + 2) s key n

/-- Bytes read at their homes for a unit of die `d` (07_ordering R176, R180). -/
def readHome (s : State) (d : Nat) (place : Place) (key n : Nat) : Except ReadStop (State × List Byte × Clock) :=
  readGo (fun t line => missLine t d place line) (n / 64 + 2) s key n

/-- Bytes read by a write at its home, whose turn has come (06_memory R162). -/
def readNow (s : State) (place : Place) (key n : Nat) : Except ReadStop (State × List Byte × Clock) :=
  readGo (fun t line => homeNow t place line) (n / 64 + 2) s key n

/-! ### Cluster instruction caches (01_machine R14; 04_core R79, R82) -/

/-- A line enters the instruction cache of a cluster: 128 KiB, 2,048 lines; which one goes the manual does not say (log 4). -/
def codeFill (s : State) (cl line : Nat) (l : CodeLine) : State :=
  let mine := s.mu.icache.filter (fun p => p.1 % 128 == cl)
  let out : Tbl CodeLine := if mine.length < 2048 then s.mu.icache
    else tdel s.mu.icache ((mine[Config.victim s.fresh % mine.length]?.map (·.1)).getD 0)
  { s with fresh := if mine.length < 2048 then s.fresh else s.fresh + 1
           mu := { s.mu with icache := tput out (line * 128 + cl) l } }

/-- A line of code for a cluster: from its instruction cache, which a write to the line has recalled it from, or from the
home; what a page marks uncacheable is read at the home each time. The cache holds what was read under one KEYID. -/
def readCode (s : State) (cl : Nat) (place : Place) (line : Nat) : Except ReadStop (State × W512) :=
  let kid := place.kid.getD 64
  match (tget s.mu.icache (line * 128 + cl)).filter (fun l => l.kid == kid && place.cached) with
  | some l => if isPoisoned s line then .error (.poison line s) else .ok (s, l.data)
  | none => match missLine s (cl / 32) place line with
    | .error e => .error e
    | .ok (t, data, _) => .ok (if place.cached then codeFill t cl line ⟨data, kid⟩ else t, data)

/-! ### Writes on their way between dies (07_ordering R175, R177) -/

/-- The home die of a write on its way between two dies of this chip, or of a beat. -/
def Packet.crosses (s : State) (p : Packet) : Option Nat :=
  match p.body with
  | .beat d => some d
  | .farLoad _ _ _ _ => none
  | b => (b.place.bind (homeOf s)).filter (fun h => h != p.die)

/-- What a write leaving for another die does where it leaves: it is a write since the last beat, and it drops the lines in the
die's own RDC (R175, R177). -/
def leaves (s : State) (die : Nat) (place : Place) (lines : List Nat) : State :=
  match homeOf s place with
  | some h =>
    if h = die then s
    else rdcDrop (putDie s die { getDie s die with beatDue := true }) die lines
  | none => s

/-! ### At the home (R152, R155; 07_ordering R175, R177, R183) -/

/-- Lines that a host cache holds get a back-invalidate snoop (R183). -/
def snoop (s : State) (cells : List Host.Cell) : State :=
  if s.mu.hostHeld.isEmpty then s
  else
    let ls := (cellLines cells).filter (fun l => s.mu.hostHeld.contains l)
    { s with mu := { s.mu with snooped := s.mu.snooped ++ ls.filter (fun l => !s.mu.snooped.contains l) } }

def hostHolds (s : State) (cells : List Host.Cell) : Bool :=
  if s.mu.hostHeld.isEmpty then false else (cellLines cells).any (fun l => s.mu.hostHeld.contains l)

/-- Whether cells may be written at their home now, for a write of die `d` stamped `v`: the lines are free, and the home has
heard of what the stamp knows (R177). -/
def writeReady (s : State) (place : Place) (cells : List Host.Cell) (d : Nat) (v : Clock) : Bool :=
  let heard := match homeOf s place with
    | some h => h == d || heardAll s h d v
    | none => true
  match place with
  | .hbm _ _ _ => !anyOwned s cells && !cells.any (fun c => stackWaits s c.1) && !hostHolds s cells && heard
  | .host c => !anyOwned s cells && !hostHolds s cells && (!c || heard)
  | _ => heard

/-- A write of die `d` stamped `v` is applied: the home of another die hears the stamp (R177). -/
def applyWrite (s : State) (place : Place) (cells : List Host.Cell) (d : Nat) (v : Clock) : State :=
  let t := homeWrite s place cells
  match homeOf s place with
  | some h => if h = d then t else hear t h d v
  | none => t

/-! ### Page walks and TLBs (08_page R206 to R217) -/

/-- How a walk ended. -/
structure WalkEnd where
  ok : Bool
  mal : Bool
  level : Nat
  size : Nat
  w0 : W64
  w1 : W64
  deriving DecidableEq, Repr

/-- log2 of a page size code (R206). -/
def pageBits (size : Nat) : Nat := 19 + 6 * size

/-- ADDR of an entry: physical address bits 51:10 (R208). -/
def entAddr (w0 : W64) : Nat := fld w0 51 10 * 1024
def entTier (w0 : W64) : Nat := fld w0 9 8
def entBit (w0 : W64) (i : Nat) : Bool := fld w0 i i == 1

/-- A physical HBM address with a nonzero bit in 51:40 or a stack from 12 to 15 (R207). -/
def badHbm (a : Nat) : Bool := decide (hbmEnd ≤ a) || decide (12 ≤ stackOf a)

/-- The tables below a level: entries index bits, size of the table below, page size of a leaf here (R206). -/
structure Lvl where
  num : Nat
  hi : Nat
  lo : Nat
  /-- log2 of the size of the table a pointer here names -/
  below : Nat
  /-- page size code of a leaf here; none where a leaf is malformed -/
  leaf : Option Nat
  deriving DecidableEq, Repr

def walkLevels : List Lvl :=
  [⟨1, 51, 43, 16, none⟩, ⟨2, 42, 31, 10, some 2⟩, ⟨3, 30, 25, 10, some 1⟩, ⟨4, 24, 19, 0, some 0⟩]

/-- The malformed entries of R209 at one level. -/
def malformed (l : Lvl) (w0 w1 : W64) : Bool :=
  let leaf := entBit w0 1
  let a := entAddr w0
  let tier := entTier w0
  fld w0 63 52 != 0 ||
  (if leaf then
    (match l.leaf with
      | none => true
      | some z => a % 2 ^ pageBits z != 0) ||
    fld w1 45 0 != 0 ||
    ((tier == 0 || tier == 2) && badHbm a) ||
    (tier == 3 && entBit w0 5) || (tier == 2 && entBit w0 7) || (fld w1 57 46 != 0 && tier != 2)
  else
    l.num == 4 || a % 2 ^ l.below != 0 || badHbm a || fld w0 9 2 != 0 || w1 != 0)

/-- The table lines that a walk from a table reads, level by level. -/
def walkLines (s : State) (va : Nat) : List Lvl → Nat → List Nat
  | [], _ => []
  | l :: r, table =>
    let a := table + 16 * ((va >>> l.lo) % 2 ^ (l.hi + 1 - l.lo))
    let w0 := physWord s a
    lineKeyOf a :: (if !entBit w0 0 || malformed l w0 (physWord s (a + 8)) || entBit w0 1 then []
      else walkLines s va r (entAddr w0))

/-- The walk from a table, level by level. -/
def walkGo (s : State) (va : Nat) : List Lvl → Nat → WalkEnd
  | [], _ => ⟨false, false, 4, 0, 0, 0⟩
  | l :: r, table =>
    let i := (va >>> l.lo) % 2 ^ (l.hi + 1 - l.lo)
    let w0 := physWord s (table + 16 * i)
    let w1 := physWord s (table + 16 * i + 8)
    if !entBit w0 0 then ⟨false, false, l.num, 0, 0, 0⟩
    else if malformed l w0 w1 then ⟨false, true, l.num, 0, 0, 0⟩
    else if entBit w0 1 then ⟨true, false, l.num, l.leaf.getD 0, w0, w1⟩
    else walkGo s va r (entAddr w0)

/-- The walk of a virtual address under an ASID (R206, R210). DESIGN CHOICE: a walk whose root is invalid or malformed reads no
entry and is given level 1; R222 gives no level for it. -/
def walk (s : State) (asid va : Nat) : WalkEnd :=
  let root := tgetD s.mu.root asid 0
  let a := fld root 51 13 * 8192
  if fld root 0 0 = 0 ∨ badHbm a then ⟨false, false, 1, 0, 0, 0⟩ else walkGo s va walkLevels a

/-- The reads of a walk at the home slices of its tables, which they fill as ordinary reads do, with the check of each line
(06_memory R150; 20_query R407; 25_life R443). -/
def walkReads (s : State) (asid va : Nat) : State :=
  let root := tgetD s.mu.root asid 0
  let a := fld root 51 13 * 8192
  if fld root 0 0 = 0 ∨ badHbm a then s
  else (walkLines s va walkLevels a).foldl (fun t line => (homeRead t line none true).1) s

/-- Whether a TLB entry serves an address: same page, and same ASID or global (R216). -/
def TlbEnt.serves (e : TlbEnt) (asid va : Nat) : Bool :=
  (e.asid == asid || entBit e.w0 6) && va / 2 ^ pageBits e.size == e.vpage

def entOf (asid va : Nat) (w : WalkEnd) : TlbEnt :=
  { asid := asid, vpage := va / 2 ^ pageBits w.size, size := w.size, w0 := w.w0, w1 := w.w1, pin := false }

/-- The L1 TLB of the core in focus takes an entry; 64 entries, the oldest goes (R216). -/
def l1Fill (s : State) (e : TlbEnt) : State :=
  let l := s.core.tlb
  { s with core := { s.core with tlb := (if l.length < 64 then l else l.drop 1) ++ [e] } }

/-- The set of a cluster TLB entry (1,024 sets; the index is PRESUMED, log 7). -/
def ctlbSet (e : TlbEnt) : Nat := e.vpage % 1024

def getCtlb (s : State) (cl : Nat) : List TlbEnt := tgetD s.mu.ctlb cl []
def putCtlb (s : State) (cl : Nat) (l : List TlbEnt) : State :=
  { s with mu := { s.mu with ctlb := tput s.mu.ctlb cl l } }

/-- A cluster TLB takes an entry: the least recently used unpinned way of a full set goes (R216). -/
def ctlbAdd (l : List TlbEnt) (e : TlbEnt) : List TlbEnt :=
  let same (f : TlbEnt) : Bool := f.asid == e.asid && f.size == e.size && f.vpage == e.vpage
  let l := l.filter (fun f => !same f || f.pin)
  if l.any same then l
  else
    let inSet := l.filter (fun f => ctlbSet f == ctlbSet e)
    let room := if inSet.length < 8 then l else dropFirst (fun f => ctlbSet f == ctlbSet e && !f.pin) l
    room ++ [e]

/-- A use moves an entry to the end of the use order. -/
def ctlbTouch (l : List TlbEnt) (e : TlbEnt) : List TlbEnt := dropFirst (· == e) l ++ [e]

/-- What a translation finds: an entry, no page, or a walk that has to end first (R217). -/
inductive Look
  | hit (e : TlbEnt)
  | absent
  | waits
  deriving DecidableEq, Repr

def getWalks (s : State) (cl : Nat) : List Walk := tgetD s.mu.walks cl []
def putWalks (s : State) (cl : Nat) (l : List Walk) : State :=
  { s with mu := { s.mu with walks := if l.isEmpty then tdel s.mu.walks cl else tput s.mu.walks cl l } }

/-- The walks begun and the snoops sent in `t` go on, whatever else of `t` is dropped. -/
def keepAsked (base t : State) : State :=
  { base with mu := { base.mu with walks := t.mu.walks, snooped := t.mu.snooped } }

/-- Whether a miss lies in the page of a walk, which it joins (R217). -/
def Walk.joins (w : Walk) (asid va : Nat) : Bool :=
  match w.ent with
  | some e => e.serves asid va
  | none => w.asid == asid && w.va / 2 ^ 19 == va / 2 ^ 19

/-- Translation through a cluster TLB and its walker (R216, R217). A miss joins the walk of its page or starts one, at most 64
at once in the order they missed. A walk that finds no page ends in the cycle it starts and fills nothing. -/
def ctlbLookup (s : State) (cl asid va : Nat) : State × Look :=
  match (getCtlb s cl).find? (fun e => e.serves asid va) with
  | some e => (putCtlb s cl (ctlbTouch (getCtlb s cl) e), .hit e)
  | none =>
    let ws := getWalks s cl
    if ws.any (fun w => w.joins asid va) then (s, .waits)
    else if 64 ≤ ws.length then (putWalks s cl (ws ++ [⟨asid, va, none⟩]), .waits)
    else
      let w := walk s asid va
      let t := walkReads s asid va
      if w.ok then (putWalks t cl (ws ++ [⟨asid, va, some (entOf asid va w)⟩]), .waits) else (t, .absent)

/-- A walk that waited starts; one that finds no page is over, and its requesters find the same when they miss again, which they
do at once (DEDUCED, log 55). -/
def startWalk : List Walk → State → State × List Walk
  | [], s => (s, [])
  | w :: l, s => match w.ent with
    | some _ => ((startWalk l s).1, w :: (startWalk l s).2)
    | none =>
      let x := walk s w.asid w.va
      let t := walkReads s w.asid w.va
      if x.ok then (t, { w with ent := some (entOf w.asid w.va x) } :: l) else startWalk l t

/-- Waiting walks start, in their order, while fewer than 64 run (R217). -/
def startWalks : Nat → State × List Walk → State × List Walk
  | 0, p => p
  | k + 1, p => if 64 ≤ (p.2.filter (fun w => w.ent.isSome)).length then p else startWalks k (startWalk p.2 p.1)

/-- Walks whose result a TLBINV removes are walked again from the tables as they are now, in their places; one that finds no page
is over, and waiting walks start in its stead (R217, R221). -/
def rewalk (s : State) (gone : TlbEnt → Bool) (l : List Walk) : State × List Walk :=
  let again (p : State × List Walk) (w : Walk) : State × List Walk :=
    if w.ent.any gone then
      let x := walk p.1 w.asid w.va
      (walkReads p.1 w.asid w.va, if x.ok then p.2 ++ [{ w with ent := some (entOf w.asid w.va x) }] else p.2)
    else (p.1, p.2 ++ [w])
  startWalks 64 (l.foldl again (s, []))

/-- The walk of a page ends: the cluster TLB takes its entry, and the oldest waiting walk starts (R217). -/
def endWalk (s : State) (cl asid va : Nat) : State :=
  let hit (w : Walk) : Bool := w.ent.isSome && w.asid == asid && w.va == va
  match (getWalks s cl).find? hit with
  | some ⟨_, _, some e⟩ =>
    let r := startWalk (dropFirst hit (getWalks s cl)) (putCtlb s cl (ctlbAdd (getCtlb s cl) e))
    putWalks r.1 cl r.2
  | _ => s

/-- Translation for what the device reads and writes of its own accord (queues, images): a walk ends in the cycle it starts. -/
def ctlbNow (s : State) (cl asid va : Nat) : State × Look :=
  match (getCtlb s cl).find? (fun e => e.serves asid va) with
  | some e => (putCtlb s cl (ctlbTouch (getCtlb s cl) e), .hit e)
  | none =>
    let w := walk s asid va
    let t := walkReads s asid va
    if w.ok then (putCtlb t cl (ctlbAdd (getCtlb t cl) (entOf asid va w)), .hit (entOf asid va w)) else (t, .absent)

/-- Translation for the core in focus: L1, then the cluster TLB; a fetch goes to the cluster TLB (R216). -/
def tlbLookup (s : State) (asid va : Nat) (fetch : Bool) : State × Look :=
  if fetch then ctlbLookup s (clusterOf s.core.pos) asid va
  else match s.core.tlb.find? (fun e => e.serves asid va) with
  | some e => (s, .hit e)
  | none =>
    match ctlbLookup s (clusterOf s.core.pos) asid va with
    | (t, .hit e) => (l1Fill t e, .hit e)
    | r => r

/-- What an access does to the page (R215). -/
inductive Acs
  | load | store | fetch | atom
  deriving DecidableEq, Repr

/-- Permission of a leaf (R215). -/
def permits (e : TlbEnt) (a : Acs) (task : Bool) : Bool :=
  (match a with
    | .load => entBit e.w0 2
    | .store => entBit e.w0 3
    | .atom => entBit e.w0 3
    | .fetch => entBit e.w0 4) && (!task || entBit e.w0 5)

/-- The physical address of a byte of a page. -/
def leafAddr (e : TlbEnt) (va : Nat) : Nat :=
  entAddr e.w0 / 2 ^ pageBits e.size * 2 ^ pageBits e.size + va % 2 ^ pageBits e.size

/-- Where a byte of a page lies, and its key (R211). -/
def leafPlace (e : TlbEnt) (va : Nat) : Place × Nat :=
  let a := leafAddr e va
  match entTier e.w0 with
  | 0 => (.hbm (stackOf a / 3) (entBit e.w0 7) (fld e.w1 63 58), a)
  | 1 => (.host (entBit e.w0 7), hostKey a)
  | 2 => (.peer (fld e.w1 57 46) (fld e.w1 63 58), peerKey (fld e.w1 57 46) a)
  | _ => (.aperture, a)

/-- Whether key `k` is installed (R213). -/
def keyInstalled (s : State) (k : Nat) : Bool := match tget s.mu.keys k with | some x => x.installed | none => false

/-! ### Contexts (09_context R227, R229) -/

/-- CTXTAB: physical address of the descriptor table. -/
def ctxTab (s : State) : Nat := fld s.mu.ctxtab 51 14 * 16384
def descAddr (s : State) (ctx : Nat) : Nat := ctxTab s + 64 * ctx
def descWord (s : State) (ctx off : Nat) : W64 := physWord s (descAddr s ctx + off)
def ctxLife (s : State) (ctx : Nat) : Nat := fld (descWord s ctx 0) 1 0
def ctxAsid (s : State) (ctx : Nat) : Nat := fld (descWord s ctx 0) 15 8
def ctxCeil (s : State) (ctx : Nat) : Nat := fld (descWord s ctx 0) 21 16
def ctxFirst (s : State) (ctx : Nat) : Nat := fld (descWord s ctx 8) 24 0
def ctxCount (s : State) (ctx : Nat) : Nat := fld (descWord s ctx 8) 56 32
def inRange (s : State) (ctx n : Nat) : Bool :=
  decide (ctxFirst s ctx ≤ n) && decide (n < ctxFirst s ctx + ctxCount s ctx)

/-- A cluster is assigned to a context whose range holds a logical core of its number (R146; DEDUCED, log 8). -/
def clusterIn (s : State) (ctx cl : Nat) : Bool :=
  decide (ctxFirst s ctx < (cl + 1) * 64) && decide (cl * 64 < ctxFirst s ctx + ctxCount s ctx)

def curAsid (c : Core) : Nat := fld c.sys.asid 7 0
def curCtx (c : Core) : Nat := fld c.sys.asid 15 8
def noCtx (c : Core) : Bool := fld c.sys.asid 16 16 == 1

/-- The context of a core as packets and engines carry it: 256 for none. -/
def ctxNum (c : Core) : Nat := if noCtx c then 256 else curCtx c

/-- Modes (09_context R224): 0 task, 1 system, 2 monitor. -/
def modeOf (c : Core) : Nat := fld c.sys.status 1 0
def inMonitor (c : Core) : Bool := modeOf c == 2
def inTask (c : Core) : Bool := modeOf c == 0


/-- Whether some present, enabled core holds a logical number, on this chip or on one that is reached. -/
def corePresent (s : State) (n : Nat) : Bool :=
  if n < nCores then coreHere s n else chipReached s (n / nCores)
def clusterPresent (s : State) (cl : Nat) : Bool := if cl < 128 then true else chipReached s (cl / 128)

/-! ### How an instruction ends other than by completing -/

/-- Why an instruction does not complete. -/
inductive Stop
  /-- a precise trap: cause and TVAL (R89) -/
  | trap (cause : BitVec 8) (tval : W64)
  /-- a trap that keeps what the instruction has already done, where its entry says so -/
  | trapKeep (s : State) (cause : BitVec 8) (tval : W64)
  /-- the instruction waits with what it has done so far (R76, R77) -/
  | wait (s : State) (w : WaitFor)
  /-- the access is a violation: the core is frozen (09_context R246) -/
  | freeze
  /-- the instruction is over in this state: a mismatch of a checked pair has taken its traps (12_group R301) -/
  | over (s : State)
  deriving DecidableEq, Repr

/-- What an instruction does: the next state, or why it does not complete. -/
abbrev Eff := Except Stop State

def trap {α : Type} (cause : BitVec 8) (tval : W64) : Except Stop α := .error (.trap cause tval)
def waitPlain {α : Type} (s : State) : Except Stop α := .error (.wait s .plain)

/-- Where an address lies for the core in focus, with the checks of R144, R146 and R215. -/
def resolve (s : State) (ea : W64) (a : Acs) : Except Stop (State × Place × Nat) :=
  let c := s.core
  let v := ea.toNat
  match fld ea 63 62 with
  | 0 =>
    if fld ea 61 52 ≠ 0 then trap 0x04 ea
    else match tlbLookup s (curAsid c) v (a == .fetch) with
      | (_, .absent) => trap 0x05 ea
      | (t, .waits) => waitPlain t
      | (t, .hit e) =>
        if !permits e a (inTask c) then trap 0x04 ea
        else
          let p := leafPlace e v
          match p.1 with
          | .hbm _ _ k => if keyInstalled s k then .ok (t, p) else trap 0x04 ea
          -- a load of memory of a chip that no route reaches (23_link R429)
          | .peer c _ => if a = .store ∨ chipReached t c then .ok (t, p) else trap 0x04 ea
          | _ => .ok (t, p)
  | 2 =>
    let n := fld ea 61 37
    if fld ea 36 16 ≠ 0 then trap 0x04 ea
    else if n = c.num then .ok (s, .loc n, localKey n (fld ea 15 0))
    else if inMonitor c || (!noCtx c && inRange s (curCtx c) n) then
      if a = .store ∨ corePresent s n then .ok (s, .loc n, localKey n (fld ea 15 0)) else trap 0x04 ea
    else if noCtx c then trap 0x04 ea
    else .error .freeze
  | 1 =>
    let cl := fld ea 61 43
    if fld ea 42 22 ≠ 0 then trap 0x04 ea
    else if inMonitor c || (!noCtx c && clusterIn s (curCtx c) cl) then
      if a = .store ∨ clusterPresent s cl then .ok (s, .scr cl, scratchKey cl (fld ea 21 0)) else trap 0x04 ea
    else if noCtx c then trap 0x04 ea
    else .error .freeze
  | _ => trap 0x04 ea

/-- Which image of a core stands for it while its context is not resident there: 0 at SAVEBASE, 1 at ALTSAVE. A live
context that was never loaded on the core has the first (R228, R242). -/
def awayOf (s : State) (ctx n : Nat) : Option Nat :=
  match tget s.mu.away (ctx * 8192 + n) with
  | some a => some a
  | none => if ctxNum (getCore s n) != ctx && ctxLife s ctx == 1 && inRange s ctx n then some 0 else none

/-- The address, in the save-area image of a core's local memory, of the byte at an offset, while a context's state on the core
is not resident (09_context R240, R242). -/
def imageVa (s : State) (ctx n off : Nat) : Option Nat :=
  if ctx = 256 then none
  else (awayOf s ctx n).map (fun alt =>
    (descWord s ctx (if alt = 0 then 0x18 else 0x20)).toNat + (n - ctxFirst s ctx) * 0x40000 + 0x2000 + off)

/-- Where an access of context `ctx` to a local memory is served at this moment (R242); the address when that lies in an image
whose page is absent (08_page R220). -/
def servedAt (s : State) (ctx : Nat) (place : Place) (key : Nat) : Except Nat (State × Place × Nat) :=
  match place with
  | .loc n =>
    match imageVa s ctx n (key % 65536) with
    | none => .ok (s, place, key)
    | some va => match ctlbNow s (clusterOf (getCore s n).pos) (ctxAsid s ctx) va with
      | (t, .hit e) => .ok (t, leafPlace e va)
      | _ => .error va
  | _ => .ok (s, place, key)

/-- Where the rest of the cells of one access is served. -/
def servedGo (ctx : Nat) (place : Place) : List Host.Cell → State × Place × List Host.Cell →
    Except Nat (State × Place × List Host.Cell)
  | [], acc => .ok acc
  | c :: l, acc => match servedAt acc.1 ctx place c.1 with
    | .error a => .error a
    | .ok r => servedGo ctx place l (r.1, r.2.1, acc.2.2 ++ [(r.2.2, c.2)])

/-- The cells of one access, each where it is served at this moment (09_context R242). -/
def servedCells (s : State) (ctx : Nat) (place : Place) (cells : List Host.Cell) :
    Except Nat (State × Place × List Host.Cell) :=
  match place with
  | .loc _ => servedGo ctx place cells (s, place, [])
  | _ => .ok (s, place, cells)

/-- A JOIN counter among cells just written that is 0 now has been 0 (11_kernel R292). -/
def noteCounter (s : State) (ctx : Nat) (place : Place) (cells : List Host.Cell) : State :=
  let hit (j : JoinWait) : Bool := !j.due && j.ctx == ctx && place == .loc j.core &&
    cells.any (fun c => c.1 / 8 == localKey j.core j.off / 8)
  let zero (j : JoinWait) : Bool :=
    match servedAt s ctx place (localKey j.core j.off) with
    | .error _ => false
    | .ok r => ofBytes (match r.2.1 with | .loc _ => mread s.mem r.2.2 8 | _ => physRead s r.2.2 8) == 0
  if s.un.joins.any (fun j => hit j) then
    { s with un := { s.un with joins := s.un.joins.map (fun j => if hit j && zero j then { j with due := true } else j) } }
  else s

/-- Whether a write or beat that has reached its home can be applied there now. -/
def Packet.ready (s : State) (p : Packet) : Bool :=
  match p.body.place with
  | none => true
  | some place => !lateCells s (s.net.takeWhile (fun q => q.id != p.id)) place p.body.cells && match servedCells s p.ctx place p.body.cells with
    | .error _ => false
    | .ok r => writeReady r.1 r.2.1 r.2.2 p.die p.stamp

/-- Writes and beats on their way from one die to another, those of a list: the bridges deliver in the order sent, so what
follows waits for each of them that can be applied; one that its home holds back has been delivered (07_ordering R177). -/
def bridgeAhead (s : State) (src dst : Nat) (l : List Packet) : Bool :=
  src != dst && l.any (fun q => q.die == src && q.st == .flying && q.crosses s == some dst && q.ready s)

/-- The same for all that left by cycle `since`. -/
def bridgeBusy (s : State) (src dst since : Nat) : Bool :=
  bridgeAhead s src dst (s.net.filter (fun q => decide (q.sent ≤ since)))

/-- Why an engine's access does not go on: a cause, a violation (R215, 09_context R246), or a walk (R217). -/
inductive EngStop
  | cause (c : Nat)
  | violation
  | waits (s : State)
  deriving DecidableEq, Repr

/-- Where an address lies for an engine, the router or a message interface of cluster `cl` that acts for context `ctx`:
it translates through the cluster TLB and checks the leaf's permission; the mode bit U binds cores only (R215, R216;
DEDUCED, log 8). `look` is the translation. -/
def engResolveBy (look : State → Nat → Nat → Nat → State × Look) (s : State) (cl ctx asid : Nat) (ea : W64) (a : Acs) :
    Except EngStop (State × Place × Nat) :=
  match fld ea 63 62 with
  | 0 =>
    if fld ea 61 52 ≠ 0 then .error (.cause 4)
    else match look s cl asid ea.toNat with
      | (_, .absent) => .error (.cause 5)
      | (t, .waits) => .error (.waits t)
      | (t, .hit e) =>
        if !permits e a false then .error (.cause 4)
        else
          let p := leafPlace e ea.toNat
          match p.1 with
          | .hbm _ _ k => if keyInstalled s k then .ok (t, p) else .error (.cause 4)
          | .peer c _ => if chipReached t c then .ok (t, p) else .error (.cause 4)
          | _ => .ok (t, p)
  | 2 =>
    let n := fld ea 61 37
    if fld ea 36 16 ≠ 0 then .error (.cause 4)
    else if inRange s ctx n || ctx == 256 then
      (if corePresent s n then .ok (s, .loc n, localKey n (fld ea 15 0)) else .error (.cause 4))
    else .error .violation
  | 1 =>
    let cl' := fld ea 61 43
    if fld ea 42 22 ≠ 0 then .error (.cause 4)
    else if clusterIn s ctx cl' || ctx == 256 then
      (if clusterPresent s cl' then .ok (s, .scr cl', scratchKey cl' (fld ea 21 0)) else .error (.cause 4))
    else .error .violation
  | _ => .error (.cause 4)

/-- Where an address lies for an engine. -/
def engResolve (s : State) (cl ctx asid : Nat) (ea : W64) (a : Acs) : Except EngStop (State × Place × Nat) :=
  engResolveBy ctlbLookup s cl ctx asid ea a

/-- The same for what the device reads and writes of its own accord. -/
def devResolve (s : State) (cl ctx asid : Nat) (ea : W64) (a : Acs) : Except EngStop (State × Place × Nat) :=
  engResolveBy ctlbNow s cl ctx asid ea a

/-- What an engine's read returns, or why it does not. -/
inductive EngRead
  | got (s : State) (bytes : List Byte) (poison : Bool)
  | fails (c : Nat)
  | violates
  | waits (s : State)
  deriving DecidableEq, Repr

/-- How a write of a unit ends. -/
inductive EngPut
  | done (s : State)
  | fails (c : Nat)
  | violates
  | waits (s : State)
  deriving DecidableEq, Repr

/-- The bytes of lines that may be poisoned: an engine that carries poison reads them as they stand at their home. -/
def poisonedBytes (s : State) (place : Place) (key n : Nat) : List Byte :=
  let shown (line : Nat) : W512 := match place with
    | .hbm _ c k => (match tget s.mu.l2 line with
      | some l => if c then keyShow s line l.kid l.data (some k) else hbmLine s line (some k)
      | none => hbmLine s line (some k))
    | .peer c k => peerShow s c line k
    | _ => (match tget s.mu.l2 line with
      | some l => l.data
      | none => lineOf (mread s.mem (line * 64) 64))
  match readGo (fun t line => .ok (t, shown line, Clock.zero)) (n / 64 + 2) s key n with
  | .ok (_, l, _) => l
  | .error _ => []

/-- A read of `n` bytes that lie in one page, through their homes (06_memory R152; 07_ordering R180); the registers of the
aperture answer no engine's read (cause 4). -/
def readThrough (s : State) (cl ctx n : Nat) (r : Except EngStop (State × Place × Nat)) : EngRead :=
  match r with
  | .error (.cause c) => .fails c
  | .error .violation => .violates
  | .error (.waits t) => .waits (keepAsked s t)
  | .ok (_, .aperture, _) => .fails 4
  | .ok (t, place, key) =>
    match servedAt t ctx place key with
    | .error _ => .waits (keepAsked s t)
    | .ok r => match readHome r.1 (cl / 32) r.2.1 r.2.2 n with
      | .ok (u, l, _) => .got u l false
      | .error (.poison _ u) => .got u (poisonedBytes u r.2.1 r.2.2 n) true
      | .error .waits => .waits s

/-- Engine read. -/
def engRead (s : State) (cl ctx asid : Nat) (ea : W64) (n : Nat) : EngRead :=
  readThrough s cl ctx n (engResolve s cl ctx asid ea .load)

/-- A read of the device's own. -/
def devRead (s : State) (cl ctx asid : Nat) (ea : W64) (n : Nat) : EngRead :=
  readThrough s cl ctx n (devResolve s cl ctx asid ea .load)

/-- A write of bytes that lie in one page, by a unit of cluster `cl`: its own exclusive line at the home of HBM or host memory,
a remote write elsewhere; for another die it carries the die's clock and follows what left before it (06_memory R152;
07_ordering R175, R177, R180). Registers of the aperture take no such write here (cause 4). -/
def writeThrough (s : State) (cl ctx : Nat) (l : List Byte) (r : Except EngStop (State × Place × Nat)) : EngPut :=
  match r with
  | .error (.cause c) => .fails c
  | .error .violation => .violates
  | .error (.waits t) => .waits (keepAsked s t)
  | .ok (_, .aperture, _) => .fails 4
  | .ok (t, place, key) =>
    match servedCells t ctx place (cellsAt key l) with
    | .error _ => .waits (keepAsked s t)
    | .ok r =>
    let die := cl / 32
    let stamp := (getDie r.1 die).vc
    let behind := match homeOf r.1 r.2.1 with
      | some h => bridgeBusy r.1 die h r.1.cycle
      | none => false
    if linkWaits r.1 r.2.1 then .waits (keepAsked s t)
    else if r.2.2.any (fun c => stackDead r.1 c.1) then .fails 4
    else if writeReady r.1 r.2.1 r.2.2 die stamp && !behind && !lateCells r.1 r.1.net r.2.1 r.2.2 then
      .done (leaves (noteCounter (applyWrite r.1 r.2.1 r.2.2 die stamp) ctx place (cellsAt key l)) die r.2.1 (cellLines r.2.2))
    else .waits (snoop s r.2.2)

/-- Engine write. -/
def engPut (s : State) (cl ctx asid : Nat) (ea : W64) (l : List Byte) : EngPut :=
  writeThrough s cl ctx l (engResolve s cl ctx asid ea .store)

/-- A write of the device's own. -/
def devPut (s : State) (cl ctx asid : Nat) (ea : W64) (l : List Byte) : EngPut :=
  writeThrough s cl ctx l (devResolve s cl ctx asid ea .store)

/-- Whether an access lies whole in the core's own local memory (R59, R158). -/
def ownLocal (s : State) (place : Place) : Bool := place == .loc s.core.num

/-- `LEA` (04_core R97): addition within the window's offset. -/
def leaAdd (t : W64) (imm : W64) : W64 :=
  match fld t 63 62 with
  | 2 => (t &&& ~~~ 0xFFFF#64) ||| ((t + imm) &&& 0xFFFF#64)
  | 1 => (t &&& ~~~ 0x3FFFFF#64) ||| ((t + imm) &&& 0x3FFFFF#64)
  | _ => t + imm

end Sys2Proof.Machine
end

