-- ==== Sys2Proof/Machine/Ops.lean ====
section
/-! DEFINITION. The operations every family shares: notices, halting, windows, taking an exception and returning from one
(09_context R230 to R237, R248; 04_core R76, R84, R85), and how an instruction ends. -/
namespace Sys2Proof.Machine

/-! ### Small changes of the core in focus -/

def State.mapCore (s : State) (f : Core → Core) : State := { s with core := f s.core }
def State.mapSys (s : State) (f : SysRegs → SysRegs) : State := { s with core := { s.core with sys := f s.core.sys } }
def State.mapSc (s : State) (f : Scalars → Scalars) : State := { s with core := { s.core with sc := f s.core.sc } }
def State.mapEv (s : State) (f : Events → Events) : State := { s with core := { s.core with ev := f s.core.ev } }
def State.mapMail (s : State) (f : Mail → Mail) : State := { s with core := { s.core with mail := f s.core.mail } }
def State.mapVec (s : State) (f : Vectors → Vectors) : State := { s with core := { s.core with vec := f s.core.vec } }
def State.mapUn (s : State) (f : Units → Units) : State := { s with un := f s.un }
def State.mapMu (s : State) (f : MemUnits → MemUnits) : State := { s with mu := f s.mu }
def State.mapOut (s : State) (f : Outside → Outside) : State := { s with out := f s.out }

/-- The fetch buffer and the return register are emptied (04_core R82). -/
def emptyFetch (s : State) : State :=
  { s with core := { s.core with fbuf := none, rreg := none, freq := none } }

/-- The next program counter of the instruction being issued. -/
def setNpc (s : State) (w : W64) : State :=
  { s with core := { s.core with issue := { s.core.issue with npc := w } } }

/-- The instruction takes `n` more cycles. -/
def addBusy (s : State) (n : Nat) : State :=
  { s with core := { s.core with issue := { s.core.issue with busy := s.core.issue.busy + n } } }

/-- A fresh free word (log 4). -/
def freshWord (s : State) : W64 × State := (Config.freeWord s.fresh, { s with fresh := s.fresh + 1 })

/-! ### Trace (25_life R448) -/

def Dbg.fresh : Dbg :=
  { brkHalt := false, bpHalt := false, trcEn := false, reason := 0, index := 0, bp := [], wpa := [], wpc := [],
    sel := 0, trcBase := 0, trcPtr := 0, stepping := false, halting := false }

def getDbg (s : State) (pos : Nat) : Dbg := tgetD s.out.dbg pos Dbg.fresh
def putDbg (s : State) (pos : Nat) (d : Dbg) : State :=
  { s with out := { s.out with dbg := tput s.out.dbg pos d } }

/-- A trace record: kind in bits 63:60, target in 51:0; the ring is overwritten in order. -/
def trace (s : State) (kind : Nat) (target : W64) : State :=
  let d := getDbg s s.core.pos
  if !d.trcEn then s
  else
    let slots := fld d.trcBase 15 0 * 128
    let base := fld d.trcBase 51 16 * 65536 / 64 * 64
    let w := kind * 2 ^ 60 + fld target 51 0
    let t := if slots = 0 then s else physWrite s (base + 8 * (d.trcPtr.toNat % slots)) (bytesOf w 8)
    putDbg t s.core.pos { d with trcPtr := d.trcPtr + 1 }

/-! ### Monitor notices (09_context R236, R237) -/

def mkNotice (kind ctx data : Nat) (addr : W64) : Notice :=
  ⟨BitVec.ofNat 64 (kind * 2 ^ 60 + ctx * 2 ^ 52 + data % 2 ^ 52), addr⟩

/-- The notice core of a die, or the die's lowest core that is neither disabled nor frozen (R237). -/
def noticeCore (s : State) (die : Nat) : Nat :=
  let usable (n : Nat) : Bool := match (getCore s n).run with
    | .disabled => false
    | .frozen => false
    | _ => true
  let n := coreAt s (die * 2048 + (getDie s die).notice % 2048)
  if usable n then n
  else
    match (List.range 2048).find? (fun p => usable (coreAt s (die * 2048 + p))) with
    | some p => coreAt s (die * 2048 + p)
    | none => n

/-- A notice goes to one core; a source that finds 16 notices there holds it. Deluk streams every notice
(25_life R452). -/
def sendNotice (s : State) (n : Nat) (x : Notice) : State :=
  let s := { s with out := { s.out with deluk := s.out.deluk ++ [.notice x] } }
  if (getCore s n).ev.notices.length < 16 then
    modCore s n (fun c => { c with ev := { c.ev with notices := c.ev.notices ++ [x] } })
  else { s with mu := { s.mu with heldNotices := s.mu.heldNotices ++ [(n, x)] } }

/-- The oldest notice of the core in focus leaves its queue; a held one takes its place. -/
def popNotice (s : State) : Notice × State :=
  match s.core.ev.notices with
  | [] => (⟨0, 0⟩, s)
  | x :: r =>
    match s.mu.heldNotices.find? (fun p => p.1 == s.core.num) with
    | none => (x, s.mapEv (fun e => { e with notices := r }))
    | some p =>
      let t := s.mapEv (fun e => { e with notices := r ++ [p.2] })
      (x, t.mapMu (fun m => { m with heldNotices := dropFirst (fun q => q.1 == s.core.num) m.heldNotices }))

/-! ### The fault queues of the ports (08_page R220) -/

/-- Who sent what a packet carries: the sender of its message, or the unit that placed it (10_queue R257; 17_expert R374). -/
def Packet.sender (p : Packet) : Src :=
  match p.body with
  | .msg _ m _ => m.src
  | _ => p.src

/-- The link or mesh port that delivers a packet to a core: the link it came over, or the mesh port of the unit that sent it,
which the two cores of a pair of positions share (R220; which port that is the manual does not say: DESIGN CHOICE). -/
def inPort (s : State) (src : Src) : Nat :=
  match src with
  | .core n => if n < nCores then (getCore s n).pos / 2 else 2 ^ 33 + n
  | .link i => 2 ^ 20 + i
  | .engine cl _ => 2 ^ 21 + cl
  | .home d u => 2 ^ 22 + d * 2 ^ 22 + u
  | .cp d => 2 ^ 30 + d
  | .router d => 2 ^ 31 + d
  | .host => 2 ^ 32

/-- Whether a port accepts nothing more for core `n` from the port that delivers a sender's packets. -/
def portShut (s : State) (src : Src) (n : Nat) : Bool :=
  if s.mu.portStop.isEmpty then false else s.mu.portStop.contains (n, inPort s src)

/-- Whether what a sender has for core `n` must queue behind a parked packet of its own. -/
def behindParked (s : State) (src : Src) (n : Nat) : Bool := (tgetD s.mu.parked n []).any (fun q => q.sender == src)

/-- The core of this chip whose local memory a place is. -/
def Place.localCore : Place → Option Nat
  | .loc n => if n < nCores then some n else none
  | _ => none

/-- The core whose local memory or inbox a packet goes to. -/
def Packet.toCore (p : Packet) : Option Nat :=
  match p.body with
  | .msg d _ _ => some d
  | b => b.place.bind Place.localCore

/-- Whether a sender's network interface holds back what has identity `id` and goes to a core that has moved: until everything it
sent there under the old mapping has been acknowledged (22_resident R424). -/
def movedHolds (s : State) (src : Src) (n id : Nat) : Bool :=
  s.out.forwards.any (fun f => f.num == n && decide (f.first ≤ id) &&
    (s.net ++ tgetD s.mu.parked n []).any (fun q => decide (q.id < f.first) && q.sender == src && q.toCore == some n))

/-- A packet joins those parked for a core, with the absent address and a notice when it faults itself; a full queue stops the
port that delivers it. DESIGN CHOICE: the fault queue of 64 is one of each receiving core; R220 says `its port` only. -/
def parkPacket (s : State) (p : Packet) (n : Nat) (va : Option W64) : State :=
  let l := tgetD s.mu.parked n []
  if 64 ≤ l.length then
    if portShut s p.sender n then s else s.mapMu (fun m => { m with portStop := m.portStop ++ [(n, inPort s p.sender)] })
  else
    let t := { s with
      net := dropFirst (fun q => q.id == p.id) s.net
      mu := { s.mu with parked := tput s.mu.parked n (l ++ [{ p with park := va }]) } }
    match va with
    | some a => sendNotice t n (mkNotice 5 (p.ctx % 256) a.toNat a)
    | none => t

/-- Whether a read of a sender stands parked at core `n`. -/
def probeOut (s : State) (src : Src) (n : Nat) : Bool :=
  (tgetD s.mu.parked n []).any (fun q => q.src == src && q.body == .probe n)

/-- The request of a read at core `n` that its port does not let past is parked there, once. -/
def parkProbe (s : State) (src : Src) (ctx asid die n : Nat) (ea : W64) (va : Option W64) : State :=
  if probeOut s src n || portShut s src n then s
  else parkPacket { s with nextId := s.nextId + 1 } {
    id := s.nextId, src := src, ctx := ctx, asid := asid, die := die, stamp := (getDie s die).vc, sent := s.cycle
    window := 0, addr := ea, body := .probe n, st := .flying, counted := false, park := none } n va

/-- A unit's access to a local memory whose image page is absent is parked at the core's port (R220, 09_context R242). -/
def parkAbsent (s : State) (src : Src) (ctx asid die : Nat) (place : Place) (ea : W64) (key n : Nat) : State :=
  match place.localCore with
  | none => s
  | some c => match servedCells s ctx place (cellsAt key (List.replicate n 0)) with
    | .error va => parkProbe s src ctx asid die c ea (some (BitVec.ofNat 64 va))
    | .ok _ => s

/-- LIFE of a context becomes 2: frozen (R227, R246). -/
def freezeLife (s : State) (ctx : Nat) : State :=
  let w := descWord s ctx 0
  physWrite s (descAddr s ctx) (bytesOf (setFld w 1 0 2).toNat 8)

/-- The core in focus has committed a violation: it is frozen, its context too, and the monitor is told (R246). -/
def freezeCore (s : State) : State :=
  let ctx := curCtx s.core
  let s := landAll s
  let t := freezeLife { s with core := { s.core with run := .frozen, issue := { s.core.issue with mark := .trapped } } } ctx
  sendNotice t (noticeCore t (dieOf s.core.pos)) (mkNotice 1 ctx s.core.num 0)

/-! ### Halting (R76, R230, R234) -/

/-- The core in focus enters the halted state; what its instructions have left on its way has landed, so that the debug
window shows it (25_life R446). -/
def haltCore (s : State) (reason index : Nat) : State :=
  let d := getDbg s s.core.pos
  let again := d.stepping
  let t := putDbg (landAll s) s.core.pos { d with reason := reason, index := index, stepping := false, halting := false }
  { t with core := { t.core with
      run := .halted
      former := if t.core.run = .idle then .idle else .running
      wait := none
      ev := { t.core.ev with haltSince := if again then t.core.ev.haltSince else s.cycle, haltedAt := s.cycle } } }

/-- A synchronous cause in monitor mode with the bank in use halts the core; Deluk is told (R230). -/
def bankHalt (s : State) (cause : BitVec 8) : State :=
  let t := haltCore s 0 0
  { t with
    core := { t.core with issue := { t.core.issue with mark := .trapped } }
    out := { t.out with deluk := t.out.deluk ++ [.halt s.core.num cause] } }

/-! ### Windows (04_core R84, R85) -/

/-- Whether a spill would cross WLIMIT.LIMIT (R85, R231). -/
def spillCrosses (s : State) : Bool :=
  decide (s.core.sc.res = 8) && decide (wspOf s.core.sc < limitOf s.core.sc + 128)

/-- The oldest window stored at WSP - 128; below offset 0 the pointer wraps within its field (R85; DEDUCED, log 10). DESIGN
CHOICE: the bytes stand in memory at once. R86 lets another core see each 8 bytes old or new until the buffer is written; the
model always shows the new. -/
def spill (s : State) : State :=
  let c := s.core.sc
  let w := (wspOf c + 0x20000 - 128) % 0x20000
  let t := rawWrite s (cellsAt (localKey s.core.num (w % 65536)) (c.windowBytes c.oldest))
  t.mapSc (fun c => { c with wsp := BitVec.ofNat 64 w, spilled := c.spilled + 1, spillBusy := true })

/-- The window advances by 16, spilling when eight are resident (R84, R85). -/
def windowIn (s : State) : State :=
  let t := if s.core.sc.res = 8 then spill s else s.mapSc (fun c => { c with res := c.res + 1 })
  t.mapSc Scalars.advance

/-- The poisoned line of the window stored at WSP, if it holds one (R86). -/
def reloadPoison (s : State) : Option W64 :=
  let off := wspOf s.core.sc % 65536
  let key := localKey s.core.num off
  if isPoisoned s (lineKeyOf key) then some (BitVec.ofNat 64 (key / 64 * 64))
  else if isPoisoned s (lineKeyOf (key + 64)) then some (BitVec.ofNat 64 (key / 64 * 64 + 64))
  else none

/-- The window moves back by 16, reloading it from WSP when it is not resident; a reload stops the core for 4 cycles
(R84 to R86). -/
def windowOut (s : State) : State :=
  let c := s.core.sc
  if 1 < c.res then s.mapSc (fun c => { Scalars.back c with res := c.res - 1 })
  else
    let l := mread s.mem (localKey s.core.num (wspOf c % 65536)) 128
    let t := s.mapSc (fun c =>
      let b := Scalars.back c
      { Scalars.loadWindow b b.base l with
        wsp := BitVec.ofNat 64 ((wspOf c + 128) % 0x20000), spilled := c.spilled - 1 })
    addBusy t 4

/-- A register file that holds no window (04_core R76, R87). -/
def Scalars.noWindow (c : Scalars) : Scalars := { c with ring := [], base := 0, res := 1, spilled := 0 }

/-- Call depth (R85). -/
def callDepth (c : Scalars) : Nat := c.res - 1 + c.spilled

/-! ### Status fields (09_context R226) -/

def stBit (s : State) (i : Nat) : Bool := fld s.core.sys.status i i == 1
def mbank (s : State) : Bool := stBit s 15
def sbank (s : State) : Bool := stBit s 14
def monint (s : State) : Bool := stBit s 11
def sysint (s : State) : Bool := stBit s 10
def msgen (s : State) : Bool := stBit s 9
def uin (s : State) : Bool := stBit s 6
def uie (s : State) : Bool := stBit s 5
def schk (s : State) : Bool := stBit s 4

def setStatus (s : State) (w : W64) : State := s.mapSys (fun r => { r with status := w })

/-! ### Waits withdrawn (04_core R77) -/

/-- The state of a core as others see it: while its wait stands it is waiting, though it issues its instruction again
(R76, R77). -/
def Core.standing (c : Core) : Run := if c.run = .running ∧ c.wait.isSome then .waiting else c.run

/-- What an interrupt or trap does to a wait. -/
inductive OnInt
  /-- the wait is withdrawn; the instruction executes afresh -/
  | restart
  /-- the instruction completes first -/
  | complete
  /-- the interrupt waits for the instruction -/
  | hold
  deriving DecidableEq, Repr

/-- A barrier before use. -/
def Barrier.fresh : Barrier :=
  { ctx := 0, count := 0, phase := 0, arr := 0, carried := 0, carry := false, hold := false, layer := 0, tlim := 0,
    clock := none, broken := false, waiting := [], seen := [], later := [], past := [] }

def getBar (s : State) (b : Nat) : Barrier := tgetD s.un.barriers b Barrier.fresh
def putBar (s : State) (b : Nat) (x : Barrier) : State :=
  { s with un := { s.un with barriers := tput s.un.barriers b x } }

/-- Whether phase `ph` of a barrier has completed: it is below PHASE in serial order (13_barrier R308). -/
def phaseDone (b : Barrier) (ph : BitVec 32) : Bool := serialLt ph b.phase

/-- Whether the time of a barrier's phase has run out: TLIM cycles after its first counted arrival (13_barrier R316). -/
def barLate (s : State) (id : Nat) : Bool :=
  let b := getBar s id
  match b.clock with
  | none => false
  | some t => b.tlim != 0 && !b.broken && decide (t + b.tlim ≤ s.cycle)

/-- How the wait of the core in focus meets an interrupt; a wait at a barrier whose time has run out ends in its trap. -/
def onInt (s : State) : OnInt :=
  match s.core.wait with
  | none => .restart
  | some w => match w.what with
    | .align => .complete
    | .wfi => .complete
    | .route _ => .hold
    | .routed _ _ => .hold
    | .paired _ => .hold
    | .claimed => .restart
    | .taken _ => .hold
    | .failed _ _ => .hold
    | .arrived _ => .hold
    | .opened _ _ _ => .hold
    | .answered _ => .hold
    | .status _ => .hold
    | .phase b _ _ _ => if barLate s b then .hold else .restart
    | .bwait b _ => if barLate s b then .hold else .restart
    | _ => .restart

def Pool.fresh : Pool :=
  { used := [], offers := [], claims := [], reloads := [], takers := [], seq := 0, stallSince := none, writing := [] }
def getPool (s : State) (q : Nat) : Pool := tgetD s.un.pools q Pool.fresh
def putPool (s : State) (q : Nat) (p : Pool) : State := { s with un := { s.un with pools := tput s.un.pools q p } }

/-! ### Checked pairs (12_group R299 to R301) -/

/-- Whether a core runs in a context: the context is resident on it. -/
def residentIn (c : Core) (ctx : Nat) : Bool := ctxNum c == ctx && c.run != .switching

/-- The live checked pair of a context that a core is a member of (R296). -/
def pairIn (s : State) (ctx n : Nat) : Option (Nat × Group) :=
  s.un.groups.find? (fun g => g.2.kind == 3 && g.2.live && g.2.ctx == ctx && g.2.members.contains n)

/-- The same for the context that is resident on the core. -/
def pairOf (s : State) (n : Nat) : Option (Nat × Group) := pairIn s (ctxNum (getCore s n)) n

/-- The partner of a member of a live checked pair, with the group; a pair of which only one member is restored compares
nothing (R302). -/
def partnerOf (s : State) (n : Nat) : Option (Nat × Nat) :=
  match pairOf s n with
  | some g =>
    if g.2.members.all (fun m => residentIn (getCore s m) g.2.ctx) then
      (g.2.members.find? (fun m => m != n)).map (fun m => (g.1, m))
    else none
  | none => none

/-- The cores that take what arrives for core `n` of a context (256 for none): both members of a live checked pair, resident or
not (R299). -/
def membersFor (s : State) (ctx n : Nat) : List Nat :=
  match (if ctx = 256 then pairOf s n else pairIn s ctx n) with
  | some g => n :: g.2.members.filter (fun m => m != n)
  | none => [n]

/-- A checked pair before its first compared access. -/
def PairSt.fresh : PairSt :=
  { lead := [], follow := [], leadAt := none, followAt := none, intAt := none, trapped := [], picks := [], selfAges := [] }

def getPair (s : State) (g : Nat) : PairSt := tgetD s.un.pairs g PairSt.fresh
def putPair (s : State) (g : Nat) (p : PairSt) : State := { s with un := { s.un with pairs := tput s.un.pairs g p } }

/-- The member at the lower physical position leads (R299). -/
def leads (s : State) (n m : Nat) : Bool := decide ((getCore s n).pos < (getCore s m).pos)

/-- The core in focus no longer waits for its partner at a release point. -/
def leavePoint (s : State) : State :=
  match partnerOf s s.core.num with
  | none => s
  | some (g, m) =>
    let p := getPair s g
    if leads s s.core.num m then
      (if p.leadAt.isNone then s else putPair s g { p with leadAt := none })
    else if p.followAt.isNone then s
    else putPair s g { p with followAt := none }

/-- An engine command of the core in focus that has not been matched leaves its side of the comparison buffer. -/
def leaveCommand (s : State) : State :=
  match partnerOf s s.core.num with
  | none => s
  | some (g, m) =>
    let p := getPair s g
    putPair s g (if leads s s.core.num m then { p with lead := p.lead.dropLast } else { p with follow := p.follow.dropLast })

/-- Whether a taker may take an offer: its target names the taker or any core (05_vector R113). -/
def Offer.fits (o : Offer) (n : Nat) : Bool :=
  match o.target with | none => true | some t => t == n

/-- An evicted offer stands again: the longest-waiting taker it is eligible for matches it, and otherwise it takes its place in the
list (05_vector R113). -/
def Pool.standsAgain (p : Pool) (o : Offer) : Pool :=
  match p.takers.find? (fun t => o.fits t.1) with
  | some t => { p with takers := p.takers.filter (fun w => w.1 != t.1), reloads := p.reloads ++ [.offer t.1 t.2 o] }
  | none => { p with offers := insertBy (fun a b => decide (a.seq ≤ b.seq)) o p.offers }

/-- A core's waiting VTAKE leaves a pool; an evicted offer it had matched stands again (05_vector R118). -/
def Pool.withdraw (p : Pool) (n : Nat) : Pool :=
  let mine (r : Reload) : Option Offer := match r with
    | .offer m _ o => if m = n then some o else none
    | .slots _ => none
  (p.reloads.filterMap mine).foldl Pool.standsAgain { p with
    takers := p.takers.filter (fun c => c.1 != n)
    reloads := p.reloads.filter (fun r => (mine r).isNone) }

/-- A waiting instruction that is completed from outside in cycle `now`: the next one follows after its stall count (03_encoding
R60; 04_core R103; 09_context R250). -/
def completeWait (now : Nat) (c : Core) : Core :=
  { c with pc := c.issue.npc, run := .running, wait := none, retired := c.retired + 1
           issue := { c.issue with mark := .done, instr := none }
           locks := if c.issue.stall = 0 then c.locks else tput c.locks issuePlace (now + 1 + c.issue.stall) }

/-- The wait of the core in focus is withdrawn, an ALIGN completed (04_core R103), with what its instruction's chapter lays down (05_vector R118,
12_group R298, 13_barrier R318, R321, 23_link R435). -/
def withdrawWait (s : State) : State :=
  let n := s.core.num
  let t := match s.core.wait with
    | none => s
    | some w => match w.what with
      | .plain => leavePoint (s.mapMu (fun m => { m with watches := m.watches.filter (fun p => p.1 != n) }))
      | .ownStore => s.mapMu (fun m => { m with watches := m.watches.filter (fun p => p.1 != n) })
      | .command => leaveCommand s
      | .claim =>
        let q := quadOf s.core.pos
        putPool s q { getPool s q with claims := (getPool s q).claims.filter (fun c => c.1 != n) }
      | .take =>
        let q := quadOf s.core.pos
        putPool s q (Pool.withdraw (getPool s q) n)
      | .held b =>
        putBar s b { getBar s b with waiting := (getBar s b).waiting.filter (fun h => h.core != n) }
      | .phase b ph d r =>
        if r = 0 then
          let x := getBar s b
          if x.phase = ph then
            putBar s b { x with arr := x.arr - 1, clock := if x.arr ≤ 1 then none else x.clock
                                seen := dropFirst (fun a => a.1 == n) x.seen }
          else putBar s b { x with carried := x.carried - 1, later := dropFirst (fun a => a.1 == n) x.later }
        else
          rawX (rawX s d (ph.zeroExtend 64)) r (BitVec.ofNat 64 (2 ^ 63 + ph.toNat))
      | .align => s.mapCore (completeWait s.cycle)
      | .pair g => { s with un := { s.un with groups := tdel s.un.groups g } }
      | .coll _ r => rawX s r (s.x r ||| 1#64 <<< 63)
      | _ => s
  { t with core := { t.core with wait := none } }

/-! ### Taking an exception (R230, R231) -/

/-- Where a synchronous cause goes (R230). -/
inductive Bank
  | system
  | monitor (dbl : Bool)
  | halts
  deriving DecidableEq, Repr

def routeSync (s : State) (cause : BitVec 8) : Bank :=
  match modeOf s.core with
  | 0 => .system
  | 1 => if cause = 0x0E then .monitor false else if sbank s then .monitor true else .system
  | _ => if mbank s then .halts else .monitor false

/-- Where an interrupt goes: none while it is held (R230). -/
def routeInt (s : State) (cause : BitVec 8) : Option Bank :=
  if cause = 0x81 then
    if msgen s && (modeOf s.core == 0 || (modeOf s.core == 1 && sysint s && !sbank s)) then some .system else none
  else if cause = 0x82 then none
  else if modeOf s.core < 2 || monint s then some (.monitor false) else none

/-- The handler address: BASE, or BASE + 32 x cause when VEC is 1, with bits 12:1 of BASE taken as zero (R232). -/
def vectorOf (vec : W64) (cause : BitVec 8) : W64 :=
  if fld vec 0 0 = 1 then setFld vec 12 0 0 + BitVec.ofNat 64 (32 * cause.toNat) else setFld vec 0 0 0

/-- SLINK or MONLINK after an entry: the mode and gate it displaces, and IDLE (R226, R453). -/
def linkWord (mode : Nat) (gate idle : Bool) : W64 := BitVec.ofNat 64 (mode + 4 * b2n gate + 8 * b2n idle)

/-- The bank's registers and STATUS as the entry writes them (R231). -/
def bankIn (s : State) (mon dbl idle : Bool) (cause : BitVec 8) (tval epc : W64) : State :=
  let r := s.core.sys
  let mode := modeOf s.core
  if mon then
    s.mapSys (fun _ => { r with
      monpc := epc, monwhy := BitVec.ofNat 64 (cause.toNat + 256 * b2n dbl), moninfo := tval
      monlink := linkWord mode (monint s) idle
      monaddr := if cause = 0x84 then r.monaddr else 0
      status := setFld (setBit (setBit r.status 11 false) 15 true) 1 0 2 })
  else
    s.mapSys (fun _ => { r with
      epc := epc, cause := BitVec.ofNat 64 cause.toNat, tval := tval
      slink := linkWord mode (sysint s) idle
      status := setFld (setBit (setBit r.status 10 false) 14 true) 1 0 1 })

/-- Entry into a bank: registers saved, the fetch buffer emptied, the window advanced, the pc at the vector (R231). -/
def enter (s : State) (mon dbl idle : Bool) (cause : BitVec 8) (tval epc : W64) : State :=
  let r := if mon then s.mapEv (fun e => { e with monDepth := callDepth s.core.sc }) else s
  let t := windowIn (emptyFetch (bankIn r mon dbl idle cause tval epc))
  let target := vectorOf (if mon then t.core.sys.monentry else t.core.sys.tvec) cause
  let u := { t with core := { t.core with
    pc := target, run := .running, wait := none, issue := { t.core.issue with mark := .trapped } } }
  trace u 2 target

/-- Taking an exception (R231): pending results land and interlocked ones are delivered (04_core R89), the spill buffer is
written, the bank is entered; an entry whose own
spill would cross WLIMIT.LIMIT is taken instead as cause 0x08 into the monitor bank with DBL, or halts the core. -/
def takeInto (s : State) (bank : Bank) (idle : Bool) (cause : BitVec 8) (tval epc : W64) : State :=
  let t := (landLocks (landAll s)).mapSc (fun c => { c with spillBusy := false })
  match bank with
  | .halts => bankHalt t cause
  | .system =>
    if spillCrosses t then
      (if mbank t then bankHalt t cause else enter t true true idle 0x08 t.core.sc.wsp epc)
    else enter t false false idle cause tval epc
  | .monitor dbl =>
    if spillCrosses t then
      (if mbank t then bankHalt t cause else enter t true true idle 0x08 t.core.sc.wsp epc)
    else enter t true dbl idle cause tval epc

/-- MONADDR: the address of a notice of kind 2, 5 or 10, otherwise 0 (R236). -/
def noticeAddr (x : Notice) : W64 :=
  let k := fld x.info 63 60
  if k = 2 ∨ k = 5 ∨ k = 10 then x.addr else 0

/-- What a pair's member gives up with its unreleased entries: copies of an MCAST that have not left are among them, and its
message returns to the inbox as the oldest entry of its class. Its count of completed instructions starts again with its
partner's (12_group R299, R301). -/
def requeue (s : State) : State :=
  (s.mapMail (fun m => match m.insvc with
    | none => { m with mcast := [] }
    | some x => { m with mcast := [], inbox := { x with age := 0 } :: m.inbox, insvc := none })).mapCore
    (fun c => { c with retired := 0 })

/-- A mismatch of a checked pair: both members trap with cause 0x0C, their unreleased entries are discarded and their
messages go back to their inboxes (12_group R301). A frozen member keeps its state (09_context R246), and a halted one takes the trap
and stays halted. -/
def pairTrapOne (s : State) (n : Nat) (tval : W64) : State :=
  onCore s n (fun t =>
    let u := requeue (withdrawWait t)
    let v := takeInto u (routeSync u 0x0C) false 0x0C tval u.core.pc
    match t.core.run with
    | .frozen => t
    | .halted => v.mapCore (fun c => { c with run := .halted, former := .running })
    | _ => v)

def pairMismatch (s : State) (g kind index : Nat) : State :=
  let tval := BitVec.ofNat 64 (kind * 2 ^ 62 + index)
  match tget s.un.groups g with
  | none => s
  | some grp =>
    let s1 := { s with un := { s.un with pairs := tdel s.un.pairs g } }
    grp.members.foldl (fun t n => pairTrapOne t n tval) s1

/-- A member of a checked pair raises a synchronous trap: whether that is a mismatch already, because the other has gone
past the instruction or has trapped at another (12_group R301). -/
def pairTraps (s : State) : Option Nat × State :=
  match partnerOf s s.core.num with
  | none => (none, s)
  | some (g, m) =>
    let p := getPair s g
    match p.trapped.find? (fun t => t.1 == m) with
    | some t =>
      if t.2 = s.core.retired then (none, putPair s g { p with trapped := dropFirst (· == t) p.trapped }) else (some g, s)
    | none =>
      if s.core.retired < (getCore s m).retired then (some g, s)
      else (none, putPair s g { p with trapped := p.trapped ++ [(s.core.num, s.core.retired)] })

/-- A member of a checked pair that has completed the instruction at which its partner trapped is past it without a trap
(R301). -/
def pairPast (s : State) : State :=
  match partnerOf s s.core.num with
  | none => s
  | some (g, m) =>
    match (getPair s g).trapped.find? (fun t => t.1 == m) with
    | some t => if t.2 < s.core.retired then pairMismatch s g 2 0 else s
    | none => s

/-- A precise synchronous trap at the instruction being issued: EPC is the instruction, or the next one for BRK and TRAP
(R232). A trap after an instruction that has left the core idle saves what an interrupt taken from idle does (R453; DEDUCED,
log 53). -/
def takeSync (s : State) (cause : BitVec 8) (tval : W64) : State :=
  let t := withdrawWait s
  let idle := t.core.run == .idle
  let epc := if idle then 0 else if cause = 0x0D ∨ cause = 0x0E then t.core.issue.npc else t.core.pc
  match pairTraps t with
  | (some g, u) => pairMismatch u g 2 0
  | (none, u) => takeInto u (routeSync u cause) idle cause tval epc

/-! ### Breakpoints and steps (25_life R447) -/

/-- The breakpoint that names the address of an instruction (25_life R447). -/
def breakAt (s : State) (pc : W64) : Option Nat :=
  let d := getDbg s s.core.pos
  if d.bp.isEmpty then none
  else firstNat (fun i => fld (tgetD d.bp i 0) 0 0 == 1 && fld (tgetD d.bp i 0) 51 1 == fld pc 51 1) 4

/-- Whether copies of an MCAST of the core in focus have still to leave it before it takes an entry (04_core R89; 10_queue
R271). -/
def copiesWait (s : State) : Bool := !s.core.mail.mcast.isEmpty && (partnerOf s s.core.num).isNone

/-- The trap of a matched breakpoint or watchpoint: once the copies of an MCAST have left the core (04_core R89). -/
def pointTrap (s : State) (tval : W64) : State :=
  if copiesWait s then s.mapEv (fun e => { e with point := some tval })
  else takeSync (s.mapEv (fun e => { e with point := none })) 0x0D tval

/-- A breakpoint or watchpoint that the completed instruction has matched traps, or halts the core, whether the core goes on,
is idle, or owes a reload (R447). -/
def matchPoints (s : State) (pc : W64) : State :=
  let halts := (getDbg s s.core.pos).bpHalt
  let ended : Bool := s.core.run == .running || s.core.run == .idle || s.core.run == .waiting
  if !ended then s
  else match breakAt s pc, s.core.issue.watch with
    | some n, _ => if halts then haltCore s 3 n else pointTrap s (BitVec.ofNat 64 (0x100 + n))
    | none, some n => if halts then haltCore s 4 n else pointTrap s (BitVec.ofNat 64 (0x200 + n))
    | none, none => s

/-- A core that steps, or that a HALT found in an instruction which had to be completed, halts once its instruction is over
(R234, R447). -/
def stepOver (s : State) : State :=
  let d := getDbg s s.core.pos
  let ended : Bool := s.core.run == .running || s.core.run == .idle || s.core.run == .waiting
  if !ended then s
  else if d.stepping then haltCore s 1 0
  else if d.halting then haltCore s 0 0
  else s

/-- A wait that an interrupt or a release completes is over for the core in focus, with the points its instruction has matched
(04_core R103; 09_context R250; 25_life R447). -/
def endWait (s : State) : State := stepOver (matchPoints (s.mapCore (completeWait s.cycle)) s.core.pc)

/-! ### Interrupts -/

/-- Pending interrupts, in the order they are taken (R231). -/
def pendingInts (c : Core) : List (BitVec 8) :=
  (if c.ev.notices.isEmpty then [] else [0x84]) ++ (if c.ev.p80 then [0x80] else []) ++
  (if c.ev.p83.isSome then [0x83] else []) ++ (if c.ev.p81 && c.mail.insvc.isSome then [0x81] else []) ++
  (if c.mail.cpyq.isEmpty then [] else [0x82])

/-- Whether an interrupt may be taken now (R230, R233, R453). -/
def takeable (s : State) (cause : BitVec 8) : Bool :=
  if cause = 0x82 then modeOf s.core == 0 && uie s && !uin s && s.core.run != .idle
  else if cause = 0x81 && s.core.run == .idle then false
  else (routeInt s cause).isSome

def nextInt (s : State) : Option (BitVec 8) := (pendingInts s.core).find? (takeable s)

/-! ### How an instruction ends -/

/-- The instruction completes: the pc moves on and the core runs. -/
def retire (s : State) : State :=
  { s with core := { s.core with
      pc := s.core.issue.npc, run := if s.core.run = .waiting then .running else s.core.run, wait := none, retired := s.core.retired + 1
      issue := { s.core.issue with mark := .done } } }

/-- The instruction waits. The cycle the wait began is kept while it lasts (R76); that of a collective begins when the contribution
has left (23_link R435). -/
def blockOn (s : State) (w : WaitFor) : State :=
  { s with core := { s.core with
      run := .waiting
      wait := some (match s.core.wait with
        | some ⟨k, .ownStore⟩ => ⟨k, if w = .plain then .ownStore else w⟩
        | some x => (match x.what, w with
          | .plain, .coll _ _ => ⟨s.cycle, w⟩
          | .stepped, .coll _ _ => ⟨s.cycle, w⟩
          | _, _ => ⟨x.since, w⟩)
        | none => ⟨s.cycle, w⟩)
      issue := { s.core.issue with mark := .blocked } } }

/-- An instruction that waits will be tried again: what it has counted toward its destinations so far does not stand (22_resident
R418). -/
def keepCounts (s t : State) : State :=
  t.mapCore (fun c => { c with task := { c.task with sdest := s.core.task.sdest } })

/-- What exec answers for an instruction (04_core R89): its effect and the next instruction, a precise trap, a wait, or a
frozen core. -/
def finish (s : State) (r : Eff) : Host.Outcome State Fault Refusal :=
  match r with
  | .ok t => .next (retire t)
  | .error (.trap c v) => .next (takeSync s c v)
  | .error (.trapKeep t c v) => .next (takeSync t c v)
  | .error (.wait t w) => .next (blockOn (keepCounts s t) w)
  | .error .freeze => .next (freezeCore s)
  | .error (.over t) => .next t

/-! ### Return from an exception (R248) -/

/-- The handler of a level returns: a reload that it interrupted is owed again before the next instruction (05_vector
R116). -/
def reloadBack (e : Events) (level : Nat) : Events :=
  if e.reloadOwed.contains level then { e with reloadOwed := 3 :: e.reloadOwed.filter (fun l => l != level && l != 3) }
  else e

/-- TRET of one bank; with IDLE set the core is idle again and holds no window (R248, R453; 04_core R76). -/
def returnFrom (s : State) (mon : Bool) : Eff :=
  let s := landAll s
  let link := if mon then s.core.sys.monlink else s.core.sys.slink
  let epc := if mon then s.core.sys.monpc else s.core.sys.epc
  let idle := fld link 3 3 == 1
  if !idle && fld epc 0 0 == 1 then trap 0x03 epc
  else if s.core.sc.res = 1 ∧ s.core.sc.spilled = 0 then trap 0x08 (1#64 <<< 62)
  else
    match (if s.core.sc.res = 1 then reloadPoison s else none) with
    | some a => trap 0x0F a
    | none =>
      let t := windowOut s
      let gate := fld link 2 2 == 1
      let st := setFld t.core.sys.status 1 0 (fld link 1 0)
      let t := t.mapSys (fun r =>
        if mon then { r with status := setBit (setBit st 11 gate) 15 false, monlink := setBit link 3 false }
        else { r with status := setBit (setBit st 10 gate) 14 false, slink := setBit link 3 false })
      let t := emptyFetch t
      if idle then
        .ok ({ trace t 3 0 with core := { t.core with run := .idle } }.mapSc Scalars.noWindow)
      else .ok (trace (setNpc (t.mapEv (fun e => reloadBack e (if mon then 2 else 1))) epc) 3 epc)

end Sys2Proof.Machine
end

