-- ==== Sys2Proof/Machine/Mail.lean ====
section
/-! DEFINITION. Messages: their bytes, the inbox and its choice, the message queue in memory, dispatch, the end of a
handler, and interrupts (10_queue R253 to R267, R273; 11_kernel R284 to R290; 09_context R230 to R234, R453). -/
namespace Sys2Proof.Machine

/-! ### The 64 bytes of a message (R253) -/

/-- The 16 header bytes as a number. -/
def msgHeader (m : Msg) : Nat :=
  m.handler.toNat + m.sender.toNat * 2 ^ 32 + m.tag.toNat * 2 ^ 64 + m.cls * 2 ^ 80 + m.alen.toNat * 2 ^ 88 +
    m.stime.toNat * 2 ^ 96

/-- A message as it stands in memory: header at byte 0, payload at byte 16. -/
def msgLine (m : Msg) : Nat := msgHeader m + m.payload.toNat * 2 ^ 128

/-- The fields of a message read back from 64 bytes; what the device carries beside them comes from `m`. -/
def msgFrom (w : Nat) (m : Msg) : Msg :=
  { m with
    handler := BitVec.ofNat 32 w, sender := BitVec.ofNat 32 (w / 2 ^ 32), tag := BitVec.ofNat 16 (w / 2 ^ 64)
    cls := w / 2 ^ 80 % 16, alen := BitVec.ofNat 8 (w / 2 ^ 88), stime := BitVec.ofNat 32 (w / 2 ^ 96)
    payload := BitVec.ofNat 384 (w / 2 ^ 128) }

/-- SENDER of a unit that is not a core (R255). -/
def noCore : BitVec 32 := BitVec.allOnes 32

/-- The low 32 bits of TIME. -/
def timeLow (s : State) : BitVec 32 := BitVec.ofNat 32 s.out.time

/-! ### The inbox (R258, R259, R261, R267) -/

def tagBound (m : Mail) (tag : BitVec 16) : Option (BitVec 32) := (m.tags.find? (fun t => t.1 == tag)).map (·.2)

/-- A held reply: its tag is unbound and it names no handler (R267). -/
def heldReply (mb : Mail) (m : Msg) : Bool := m.cls == 1 && (tagBound mb m.tag).isNone && m.handler == 0

def isReady (mb : Mail) (m : Msg) : Bool := !m.attaching && !heldReply mb m

/-- Whether an entry may be dispatched: ready, with no older entry of its class and sender that is not (R259). -/
def canDispatch (mb : Mail) (m : Msg) : Bool :=
  isReady mb m &&
    !mb.inbox.any (fun o => decide (o.age < m.age) && o.cls == m.cls && o.src == m.src && !isReady mb o)

/-- Older first. -/
def olderThan (a b : Msg) : Bool := decide (a.age < b.age)

/-- The rank of a class in the choice: system, reply, then request and bulk together (R259). -/
def classRank (cls : Nat) : Nat := if cls = 3 then 0 else if cls = 1 then 1 else 2

/-- The candidates of a dispatch, best first (R259, 25_life R449). -/
def candidates (mb : Mail) : List Msg :=
  let ok := mb.inbox.filter (canDispatch mb)
  ok.filter (fun m => classRank m.cls == 0) ++ ok.filter (fun m => classRank m.cls == 1) ++
    ok.filter (fun m => classRank m.cls == 2)

/-- What dispatch would choose now. -/
def dispatchChoice (mb : Mail) : Option Msg := (candidates mb).head?

/-- A message placed in the inbox by its age. -/
def inboxInsert (m : Msg) : List Msg → List Msg
  | [] => [m]
  | x :: r => if m.age < x.age then m :: x :: r else x :: inboxInsert m r

def countCls (l : List Msg) (p : Nat → Bool) : Nat := (l.filter (fun m => p m.cls)).length
def reqCount (mb : Mail) : Nat := countCls mb.inbox (fun c => c == 0 || c == 2)

/-- The key of the device's record of a message queue. -/
def queueKey (ctx n : Nat) : Nat := ctx * nCores + n

/-- Messages of the core's message queue (R265): none when no context is loaded. -/
def overflowOf (s : State) (c : Core) : List Msg :=
  if noCtx c then [] else tgetD s.un.overflow (queueKey (curCtx c) c.num) []

/-- INBOX (R261). -/
def inboxWord (s : State) : W64 :=
  let mb := s.core.mail
  BitVec.ofNat 64 ((overflowOf s s.core).length % 65536 * 2 ^ 48 +
    (mb.inbox.filter (heldReply mb)).length * 2 ^ 32 + countCls mb.inbox (· == 3) * 2 ^ 24 +
    countCls mb.inbox (· == 1) * 2 ^ 16 + reqCount mb * 2 ^ 8 + b2n mb.insvc.isSome)

/-- Whether the inbox limits admit a class (R258). -/
def admits (mb : Mail) (cls : Nat) : Bool :=
  decide (mb.inbox.length < 32) && (cls == 1 || cls == 3 || decide (reqCount mb < 24))

/-- A core's task changes, in the core or, while its context is not resident there, in what the device keeps of it
(09_context R242). -/
def modTask (s : State) (ctx n : Nat) (f : Core → Core) : State :=
  match tget s.un.kept (queueKey ctx n) with
  | some c => s.mapUn (fun u => { u with kept := tput u.kept (queueKey ctx n) (f c) })
  | none => if ctx = 256 ∨ ctxNum (getCore s n) = ctx then modCore s n f else s

/-! ### Queues in memory (R263 to R265) -/

/-- How an append ends. -/
inductive Append
  | done (s : State)
  /-- full, or memory that does not answer yet: the message waits where it is -/
  | waits (s : State)
  /-- the queue is broken, or has been found malformed and become so: the message waits where it is, and this state stands -/
  | broke (s : State)
  /-- the page of the header or entry is absent (R220, R264) -/
  | absent (addr : W64)
  deriving DecidableEq, Repr

/-- What a message leaves that is not accepted: what it has asked for, or the queue it has found malformed. -/
def Append.left (s : State) : Append → State
  | .waits t => keepAsked s t
  | .broke t => t
  | _ => s

/-- Bytes at a virtual address of a context, through a cluster's TLB: an absent page is told apart from what does not answer
yet. -/
def vaRead (s : State) (cl ctx : Nat) (va n : Nat) : Except Append (State × List Byte) :=
  match devRead s cl ctx (ctxAsid s ctx) (BitVec.ofNat 64 va) n with
  | .got t l _ => .ok (t, l)
  | .waits t => .error (.waits t)
  | .fails c => .error (if c = 5 then .absent (BitVec.ofNat 64 va) else .waits s)
  | .violates => .error (.waits s)

def vaWrite (s : State) (cl ctx : Nat) (va : Nat) (l : List Byte) : Except Append State :=
  match devPut s cl ctx (ctxAsid s ctx) (BitVec.ofNat 64 va) l with
  | .done t => .ok t
  | .waits t => .error (.waits t)
  | .fails c => .error (if c = 5 then .absent (BitVec.ofNat 64 va) else .waits s)
  | .violates => .error (.waits s)

/-- The same for images of cores, frames and tiles: memory that does not answer yet ends the work, with what it has asked of
other holders; a page that cannot be reached reads as zeros and takes nothing (log 20). -/
def devGet (s : State) (cl ctx va n : Nat) : Except State (State × List Byte) :=
  match devRead s cl ctx (ctxAsid s ctx) (BitVec.ofNat 64 va) n with
  | .got t l _ => .ok (t, l)
  | .waits t => .error (keepAsked s t)
  | _ => .ok (s, List.replicate n 0)

def devSet (s : State) (cl ctx va : Nat) (l : List Byte) : Except State State :=
  match devPut s cl ctx (ctxAsid s ctx) (BitVec.ofNat 64 va) l with
  | .done t => .ok t
  | .waits t => .error (keepAsked s t)
  | _ => .ok s

/-- What such work leaves: its result, or what it has asked for and nothing else. -/
def orAsked (s : State) (r : Except State State) : State :=
  match r with
  | .ok t => t
  | .error t => keepAsked s t

/-- The address of a core's message queue (R227, R265). -/
def msgBufOf (s : State) (ctx n : Nat) : Nat := (descWord s ctx 0x28).toNat + (n - ctxFirst s ctx) * 0x10000

/-- The header of a queue in memory (R263). -/
structure QHead where
  tail : BitVec 32
  head : BitVec 32
  cap : BitVec 32
  state : BitVec 32
  peak : BitVec 32
  rest : Nat
  deriving DecidableEq, Repr

def qHeadOf (l : List Byte) : QHead :=
  let n := ofBytes l
  { tail := BitVec.ofNat 32 n, head := BitVec.ofNat 32 (n / 2 ^ 32), cap := BitVec.ofNat 32 (n / 2 ^ 64)
    state := BitVec.ofNat 32 (n / 2 ^ 96), peak := BitVec.ofNat 32 (n / 2 ^ 128), rest := n / 2 ^ 160 }

def QHead.count (h : QHead) : Nat := (h.tail - h.head).toNat

/-- CAP is 0 or above 1,023, or a reserved bit is nonzero (R264). -/
def QHead.bad (h : QHead) : Bool :=
  h.cap == 0 || decide (1023 < h.cap.toNat) || decide (3 < h.state.toNat) || h.rest != 0

def QHead.broken (h : QHead) : Bool := h.state == 3

/-- Header bytes 0 to 19. -/
def QHead.bytes (h : QHead) : List Byte :=
  bytesOf (h.tail.toNat + h.head.toNat * 2 ^ 32 + h.cap.toNat * 2 ^ 64 + h.state.toNat * 2 ^ 96 +
    h.peak.toNat * 2 ^ 128) 20

/-- The address of entry `i` of a queue at `va`. -/
def qEntry (va : Nat) (h : QHead) (i : BitVec 32) : Nat := va + 0x40 + 64 * (i.toNat % h.cap.toNat)

/-- A malformed queue becomes broken, and the monitor is told at core `n` (R237, R264). -/
def breakQueue (s : State) (cl ctx va n : Nat) (h : QHead) : Append :=
  match vaWrite s cl ctx va (QHead.bytes { h with state := 3 }) with
  | .ok t => .broke (sendNotice t n (mkNotice 9 ctx va (BitVec.ofNat 64 va)))
  | .error e => e

/-- The header of a queue that is neither malformed nor broken; a malformed one becomes broken. -/
def queueHead (s : State) (cl ctx va n : Nat) : Except Append (State × QHead) := do
  let (t, l) ← vaRead s cl ctx va 64
  let h := qHeadOf l
  if h.broken then .error (.broke s)
  else if h.bad then .error (breakQueue t cl ctx va n h)
  else .ok (t, h)

/-- A message appended for a core whose image is saved makes it ready (09_context R228): byte 4 of the header holds 6 for
saved and 5 for ready (log 20). -/
def wakeImage (s : State) (cl ctx n : Nat) : Except Append State :=
  match tget s.mu.away (queueKey ctx n) with
  | none => .ok s
  | some alt => do
    let a := (descWord s ctx (if alt = 0 then 0x18 else 0x20)).toNat + (n - ctxFirst s ctx) * 0x40000 + 4
    let (t, l) ← vaRead s cl ctx a 1
    if l = [6] then vaWrite t cl ctx a [5] else .ok t

/-- The writes of an append: the entry, the image's state, TAIL (R264). -/
def appendGo (s : State) (ctx n : Nat) (m : Msg) : Except Append State := do
  let cl := clusterOf (getCore s n).pos
  let va := msgBufOf s ctx n
  let (s, h) ← queueHead s cl ctx va n
  if h.cap.toNat ≤ h.count then .error (.waits s)
  else
    let t ← vaWrite s cl ctx (qEntry va h h.tail) (bytesOf (msgLine m) 64)
    let t ← wakeImage t cl ctx n
    let k := h.count + 1
    let h' := { h with tail := h.tail + 1, state := if k = h.cap.toNat then 2 else 1
                       peak := if h.peak.toNat < k then BitVec.ofNat 32 k else h.peak }
    let u ← vaWrite t cl ctx va h'.bytes
    .ok { u with un := { u.un with
      overflow := tput u.un.overflow (queueKey ctx n) (tgetD u.un.overflow (queueKey ctx n) [] ++ [m]) } }

/-- A message appended to the message queue of core `n` for context `ctx` (R264). -/
def queueAppend (s : State) (ctx n : Nat) (m : Msg) : Append :=
  match appendGo s ctx n m with
  | .ok t => .done t
  | .error a => a

/-- Entries `k` down to 1 after HEAD move up by one place, so that entry 0 may leave by HEAD (R258, R263; log 11). -/
def shiftEntries (s : State) (cl ctx va : Nat) (h : QHead) : Nat → Except Append State
  | 0 => .ok s
  | k + 1 => do
    let (t, l) ← vaRead s cl ctx (qEntry va h (h.head + BitVec.ofNat 32 k)) 64
    let u ← vaWrite t cl ctx (qEntry va h (h.head + BitVec.ofNat 32 (k + 1))) l
    shiftEntries u cl ctx va h k

/-- The writes by which entry `k` leaves a queue. -/
def takeGo (s : State) (cl ctx va : Nat) (h : QHead) (k : Nat) : Except Append (State × List Byte) := do
  let (t, e) ← vaRead s cl ctx (qEntry va h (h.head + BitVec.ofNat 32 k)) 64
  let t ← shiftEntries t cl ctx va h k
  let u ← vaWrite t cl ctx va
    (QHead.bytes { h with head := h.head + 1, state := if h.count ≤ 1 then 0 else 1 })
  .ok (u, e)

/-- The message at place `k` of the queue leaves it, whole or not at all (R264). -/
def queueTake (s : State) (ctx n k : Nat) : Except Append (Msg × State) :=
  let cl := clusterOf (getCore s n).pos
  let va := msgBufOf s ctx n
  let q := tgetD s.un.overflow (queueKey ctx n) []
  match q[k]? with
  | none => .error (.waits s)
  | some m => match queueHead s cl ctx va n with
    | .error a => .error a
    | .ok (t, h) => match takeGo t cl ctx va h k with
      | .error (.waits u) => .error (.waits (keepAsked s u))
      | .error a => .error a
      | .ok (u, e) => .ok (msgFrom (ofBytes e) m,
          { u with un := { u.un with overflow := tput u.un.overflow (queueKey ctx n) (q.eraseIdx k) } })

/-- The message a free entry takes from the queue: by the order of R259 among those the limits admit (R258). -/
def refillChoice (mb : Mail) (q : List Msg) : Option Nat :=
  let pick (rank : Nat) : Option Nat :=
    (List.range q.length).find? (fun i => match q[i]? with
      | some m => classRank m.cls == rank && admits mb m.cls
      | none => false)
  match pick 0 with
  | some i => some i
  | none => match pick 1 with
    | some i => some i
    | none => pick 2

/-- Entries that have become free take messages from the message queue of the core in focus, one after another. -/
def refill : Nat → State → State
  | 0, s => s
  | f + 1, s =>
    if noCtx s.core then s
    else match refillChoice s.core.mail (overflowOf s s.core) with
      | none => s
      | some k => match queueTake s (curCtx s.core) s.core.num k with
        | .ok (m, t) => refill f (t.mapMail (fun mb => { mb with inbox := inboxInsert m mb.inbox }))
        | .error a => a.left s

/-! ### Acquires and delay accounting -/

/-- Strips a read stream holds fetched are dropped; they are fetched again (16_copy R362). -/
def dropFetched (s : State) : State :=
  if s.core.vec.streams.isEmpty then s
  else s.mapVec (fun v => { v with streams := v.streams.map (fun p => (p.1, { p.2 with fetched := [] })) })

/-- An acquire at .device or .system with a clock (07_ordering R174). -/
def acquire (s : State) (c : Clock) : State :=
  let t := rdcFresh (dropFetched s) (dieOf s.core.pos)
  if c = Clock.zero then t else raiseFloor t (dieOf s.core.pos) c

/-- The entry of the delay table a sender uses: its own, an unused one, or the one with the lowest count (25_life
R451). -/
def dlyIndex (l : List DlyEnt) (sender : BitVec 32) : Nat :=
  match l.findIdx? (fun e => e.sender == sender && e.count != 0) with
  | some i => i
  | none =>
    if l.length < 16 then l.length
    else (List.range 16).foldl (fun b i =>
      if (l.getD i ⟨0, 0, 0, 0, 0⟩).count.toNat < (l.getD b ⟨0, 0, 0, 0, 0⟩).count.toNat then i else b) 0

def dlyAdd (l : List DlyEnt) (sender : BitVec 32) (f : DlyEnt → DlyEnt) : List DlyEnt :=
  let i := dlyIndex l sender
  let e := match l[i]? with
    | some e => if e.sender = sender then e else ⟨sender, 0, 0, 0, 0⟩
    | none => ⟨sender, 0, 0, 0, 0⟩
  if i < l.length then l.set i (f e) else l ++ [f e]

/-- The run time of the handler that ends is added to its sender's entry (25_life R451). -/
def dlyRunEnd (s : State) : State :=
  match s.core.mail.runSince with
  | none => s
  | some (sender, at_) =>
    let d := (timeLow s - at_).toNat
    { s with core := { s.core with
        mail := { s.core.mail with runSince := none }
        dly := match s.core.dly.findIdx? (fun e => e.sender == sender) with
          | none => s.core.dly
          | some i => s.core.dly.modify i (fun e => { e with runtime := e.runtime + BitVec.ofNat 64 d }) } }

/-- Transit and queue wait of a message at its dispatch (25_life R451). -/
def dlyDispatch (s : State) (m : Msg) : State :=
  let now := timeLow s
  { s with core := { s.core with
      mail := { s.core.mail with runSince := some (m.sender, now) }
      dly := dlyAdd s.core.dly m.sender (fun e => { e with
        count := e.count + 1
        transit := e.transit + BitVec.ofNat 64 (m.arrived - m.stime).toNat
        wait := e.wait + BitVec.ofNat 64 (now - m.arrived).toNat }) } }

/-! ### Scheduler logs (25_life R449, R450) -/

def LogSt.fresh : LogSt :=
  { base := 0, len := 0, ptr := 0, mode := 0, stall := false, runs := [], readAt := [], waitSince := [] }
def getLog (s : State) (k : Nat) : LogSt := tgetD s.out.logs k LogSt.fresh
def putLog (s : State) (k : Nat) (x : LogSt) : State := { s with out := { s.out with logs := tput s.out.logs k x } }

/-- The record of an ended run is written at the pointer; a log that is full takes no more (DESIGN CHOICE, log 12). -/
def logWrite (s : State) (k unit : Nat) (x : LogSt) : State :=
  match tget x.runs unit with
  | none => putLog s k x
  | some (rank, n) =>
    if x.len.toNat < x.ptr.toNat + 8 then putLog s k x
    else
      let t := physWrite s (x.base.toNat + x.ptr.toNat) (bytesOf (unit * 2 ^ 40 + rank * 2 ^ 32 + n) 8)
      putLog t k { x with ptr := x.ptr + 8 }

/-- The index of the next record of a unit in a log, from record `i` on; `fuel` records are looked at. -/
def nextRecord (s : State) (x : LogSt) (unit : Nat) : Nat → Nat → Option (Nat × Nat × Nat)
  | 0, _ => none
  | f + 1, i =>
    if x.len.toNat < 8 * (i + 1) then none
    else
      let w := physWord s (x.base.toNat + 8 * i)
      if fld w 63 40 = unit then some (i, fld w 39 32, fld w 31 0) else nextRecord s x unit f (i + 1)

/-- The rank a scheduler takes among `n` candidates: the rule's own choice, or the logged one in replay; none while the
unit waits (R450). -/
def chooseRank (s : State) (k unit n : Nat) : Option (Nat × State) :=
  let x := getLog s k
  if x.mode = 1 then
    match tget x.runs unit with
    | some (r, c) =>
      if r = 0 ∧ c < 2 ^ 32 - 1 then some (0, putLog s k { x with runs := tput x.runs unit (0, c + 1) })
      else
        let t := logWrite s k unit x
        some (0, putLog t k { getLog t k with runs := tput (getLog t k).runs unit (0, 1) })
    | none => some (0, putLog s k { x with runs := tput x.runs unit (0, 1) })
  else if x.mode = 2 then
    let run : Option (Nat × Nat × Nat) := match tget x.runs unit with
      | some (r, c) => if 0 < c then some (tgetD x.readAt unit 0, r, c) else
          (nextRecord s x unit (x.len.toNat / 8) (tgetD x.readAt unit 0)).map (fun p => (p.1 + 1, p.2))
      | none => (nextRecord s x unit (x.len.toNat / 8) (tgetD x.readAt unit 0)).map (fun p => (p.1 + 1, p.2))
    match run with
    | none => some (0, s)
    | some (i, r, c) =>
      if r < n then
        some (r, putLog s k { x with
          runs := tput x.runs unit (r, c - 1), readAt := tput x.readAt unit i, waitSince := tdel x.waitSince unit })
      else none
  else some (0, s)

/-- Whether fewer candidates stand than the logged rank of a unit with a choice to make asks for (R450). -/
def lacksRank (s : State) (k unit n : Nat) : Bool := decide (0 < n) && (chooseRank s k unit n).isNone

/-- A unit that lacks candidates begins to wait for them (R450). -/
def noteLack (s : State) (k unit n : Nat) : State :=
  let x := getLog s k
  if lacksRank s k unit n && (tget x.waitSince unit).isNone then
    putLog s k { x with waitSince := tput x.waitSince unit s.cycle }
  else s

/-! ### Kernels as dispatch and DONE meet them (11_kernel R284 to R290) -/

def Kernel.fresh : Kernel :=
  { gen := 0, st := .free, ctx := 0, entry := 0, first := 0, count := 0, domain := 0, mode := false, args := 0,
    layer := 0xFFFF, prio := 0, batch := 0, live := 0, status := 0, wakes := 0, graph := none, ended := 0, cp := 0 }
def getKer (s : State) (k : Nat) : Kernel := tgetD s.un.kernels k Kernel.fresh
def putKer (s : State) (k : Nat) (x : Kernel) : State := { s with un := { s.un with kernels := tput s.un.kernels k x } }

/-- The slot of a handle, when its generation still stands (R284). -/
def kerOf (s : State) (h : BitVec 32) : Option Nat :=
  let k := fld h 7 0
  if (getKer s k).gen = fld h 31 8 ∧ (getKer s k).st ≠ .free then some k else none

/-- The cores that wait for one thing have its status `code`, whatever the slot that held it is used for next (11_kernel R284,
R295; 20_query R412). -/
def waitersOver (s : State) (what : WaitFor) (code : Nat) : State :=
  let put (c : Core) : Core :=
    { c with wait := c.wait.map (fun w => if w.what = what then ⟨w.since, .status code⟩ else w) }
  { s with core := put s.core, others := s.others.map (fun p => (p.1, put p.2)) }

/-- LIVE reaches 0: the kernel is complete (R284). -/
def kerSettle (s : State) (k : Nat) : State :=
  let x := getKer s k
  if x.live = 0 ∧ (x.st = .waking ∨ x.st = .running) then
    waitersOver (putKer s k { x with st := .complete, ended := s.cycle }) (.kernel (BitVec.ofNat 32 (x.gen * 256 + k))) x.status
  else s

/-- One decrement of LIVE. -/
def kerDec (s : State) (h : BitVec 32) : State :=
  match kerOf s h with
  | none => s
  | some k => kerSettle (putKer s k { getKer s k with live := (getKer s k).live - 1 }) k

/-- The handle of the kernel whose wake or item is in service. -/
def serviceKernel (c : Core) : Option (BitVec 32) :=
  match c.mail.insvc with
  | some m => match m.origin with
    | .wake h => some h
    | .item h _ => some h
    | _ => none
  | none => none

/-- A packet of a core that counts under R158: a store, an atomic, a far store or a message. -/
def Packet.countsFor (p : Packet) (n : Nat) : Bool :=
  p.src == .core n && (match p.body with
    | .store _ _ => true
    | .atomic _ _ _ _ _ _ => true
    | .farStore _ _ _ => true
    | .msg _ _ _ => true
    | _ => false)

/-- Entries of a member's side of its pair's comparison buffer (12_group R299). -/
def sideOf (s : State) (n : Nat) : List Packet :=
  match partnerOf s n with
  | none => []
  | some (g, m) => if leads s n m then (getPair s g).lead else (getPair s g).follow

/-- Packets in flight, parked ones included (08_page R220). -/
def flying (s : State) : List Packet := if s.mu.parked.isEmpty then s.net else s.net ++ s.mu.parked.flatMap (·.2)

/-- The accesses of core `n` that are not acknowledged: its own packets, those the pair has released for both members,
and those the pair has not released (R158; DEDUCED for pairs, log 8). -/
def unacked (s : State) (n : Nat) : List Packet :=
  let waiting := (getCore s n).mail.mcast
  match partnerOf s n with
  | none => (flying s).filter (fun p => p.countsFor n) ++ waiting
  | some (_, m) =>
    (flying s).filter (fun p => p.countsFor n || (p.counted && p.countsFor m)) ++
      (sideOf s n).filter (fun p => p.countsFor n) ++ waiting

/-- Whether a packet of core `n` is still on its way. -/
def stillOut (s : State) (n id : Nat) : Bool :=
  (flying s).any (fun p => p.id == id) || (sideOf s n).any (fun p => p.id == id) ||
    (getCore s n).mail.mcast.any (fun p => p.id == id)

/-- A beat from a die to each other die, carrying its clock (R177). -/
def sendBeats (s : State) (die : Nat) : State :=
  let t := (List.range 4).foldl (fun t e =>
    if e = die then t
    else
      { t with
        net := t.net ++ [{
          id := t.nextId, src := .home die 0, ctx := 256, asid := 0, die := die, stamp := (getDie t die).vc, sent := t.cycle
          window := 0, addr := 0, body := .beat e, st := .flying, counted := false, park := none }]
        nextId := t.nextId + 1 }) s
  putDie t die { getDie t die with beatDue := false, lastBeat := t.cycle }

/-- The release counter of a die steps; releases that meet their waits in one cycle share the step (R177). -/
def stepRelease (s : State) (die : Nat) : State :=
  let x := getDie s die
  if x.lastStep = some s.cycle then s
  else sendBeats (putDie s die { x with vc := x.vc.set die (x.vc.get die + 1), lastStep := some s.cycle }) die

/-- The posted atomic by which a DONE counts the join counter of its item down leaves its core (R290). -/
def countDown (s : State) (d : DueAt) (key : Nat) : State :=
  let die := dieOf (getCore s d.core).pos
  let place := Place.loc (key % 2 ^ 62 / 2 ^ 37)
  let t := leaves s die place [lineKeyOf key]
  { t with
    nextId := t.nextId + 1
    net := t.net ++ [{
      id := t.nextId, src := .core d.core, ctx := d.ctx, asid := ctxAsid s d.ctx, die := die, stamp := (getDie t die).vc
      sent := t.cycle, window := 0, addr := BitVec.ofNat 64 key, body := .atomic place key 8 .add 0 (BitVec.allOnes 64)
      st := .flying, counted := false, park := none }] }

/-- What a DONE owes is done once the packets before it are gone: a decrement of LIVE is a release (R287, R290, 17_expert
R375). -/
def payDue (s : State) (d : DueAt) : State :=
  let s := stepRelease s (dieOf (getCore s d.core).pos)
  match d.due with
  | .live h none => kerDec s h
  | .live h (some key) => kerDec (countDown s d key) h
  | .receipt e r slot =>
    match tget s.un.experts e with
    | none => s
    | some x =>
      { s with un := { s.un with experts := tput s.un.experts e { x with
          reps := x.reps.modify r (fun q => { q with slots := tdel q.slots slot }) } } }

def dueReady (s : State) (d : DueAt) : Bool := d.packets.all (fun i => !stillOut s d.core i)

/-- Every debt whose stores are acknowledged is paid. -/
def settleDues (s : State) : State :=
  if s.un.dues.isEmpty then s
  else
    let ready := s.un.dues.filter (dueReady s)
    let rest := s.un.dues.filter (fun d => !dueReady s d)
    ready.foldl (fun t d => payDue t d) { s with un := { s.un with dues := rest } }

/-- A debt of the core in focus is recorded and, when nothing is outstanding, paid at once. -/
def owe (s : State) (d : Due) : State :=
  settleDues { s with un := { s.un with
    dues := s.un.dues ++ [⟨ctxNum s.core, s.core.num, (unacked s s.core.num).map (·.id), d⟩] } }

/-! ### Dispatch (R260; 04_core R87) -/

/-- The pc of a handler field (R254). -/
def handlerPc (n : Nat) (h : BitVec 32) : W64 :=
  if fld h 31 31 = 1 then BitVec.ofNat 64 (localKey n (fld h 15 0)) else h.zeroExtend 64

/-- The mode a message's handler runs in: system for class system, the node's mode for a wake or an item (R260, R286,
R290). -/
def dispatchMode (s : State) (m : Msg) : Nat :=
  let ker (h : BitVec 32) : Nat := match kerOf s h with
    | some k => b2n (getKer s k).mode
    | none => 0
  match m.origin with
  | .wake h => ker h
  | .item h _ => ker h
  | _ => if m.cls = 3 then 1 else 0

/-- KARGS, KFIRST and KCOUNT of a kernel (R286). -/
def loadKernel (s : State) (h : BitVec 32) : State :=
  match kerOf s h with
  | none => s
  | some k =>
    let x := getKer s k
    s.mapSys (fun r => { r with
      kargs := x.args
      kfirst := BitVec.ofNat 64 (h.toNat * 2 ^ 32 + x.first)
      kcount := BitVec.ofNat 64 (x.domain * 2 ^ 26 + x.count) })

/-- The handler of a message starts on the core in focus (R260, R286, R290, R451; 04_core R82, R87). -/
def dispatchMsg (s : State) (m : Msg) : State :=
  let s := landAll s
  let handler := if m.cls = 1 then (match tagBound s.core.mail m.tag with | some h => h | none => m.handler)
    else m.handler
  let pc := handlerPc s.core.num handler
  let t := dlyDispatch (dlyRunEnd s) m
  let t := match m.origin with
    | .wake h => loadKernel t h
    | .item h _ => loadKernel t h
    | _ => t
  let t := emptyFetch (acquire t m.clock)
  let mode := dispatchMode s m
  let v0 := BitVec.ofNat 512 (m.payload.toNat + msgHeader m * 2 ^ 384)
  trace { t with core := { t.core with
    pc := pc, run := .running, wait := none
    sc := t.core.sc.fresh (m.sender.zeroExtend 64) (m.tag.zeroExtend 64) (m.stime.zeroExtend 64)
    vec := { t.core.vec with own := tputD 0 t.core.vec.own 0 v0 }
    sys := { t.core.sys with status := setFld t.core.sys.status 1 0 mode }
    issue := { t.core.issue with npc := pc }
    mail := { t.core.mail with insvc := some m } } } 4 pc

/-- The message an item dispatches as (R290). -/
def itemMsg (i : Item) : Msg :=
  { handler := i.handler, sender := i.forker, tag := 0, cls := 0, alen := 0, stime := i.time, payload := i.payload
    src := .core i.forker.toNat, origin := .item i.kernel i.counter, clock := i.clock, far := false
    age := 0, arrived := i.time, attaching := false }

/-- A core's place in the search of a thief: ascending physical positions after its own, wrapping (R289). -/
def afterPos (own pos : Nat) : Nat := (pos + nCores - own - 1) % nCores

/-- Whether two positions lie in one domain: quad, cluster, die, chip (R281, R289). -/
def sameDomain (domain a b : Nat) : Bool :=
  match domain with
  | 0 => quadOf a == quadOf b
  | 1 => clusterOf a == clusterOf b
  | 2 => dieOf a == dieOf b
  | _ => true

/-- The steal-domain group of a core in its context (12_group R296, R297). -/
def stealGroup (s : State) (ctx n : Nat) : Option Nat :=
  (s.un.groups.find? (fun g => g.2.kind == 2 && g.2.live && g.2.ctx == ctx && g.2.members.contains n)).map (·.1)

/-- Whether the top item of `victim` may be stolen by the core in focus: the victim is resident, and both lie in the item's
domain (R289, R297). -/
def stealable (s : State) (victim : Core) : Bool :=
  match victim.mail.deque.getLast? with
  | none => false
  | some i =>
    let dom := match kerOf s i.kernel with
      | some k => (getKer s k).domain
      | none => 0
    let ctx := curCtx s.core
    victim.num != s.core.num && !noCtx victim && !noCtx s.core && curCtx victim == ctx && victim.run != .switching &&
      sameDomain dom victim.pos s.core.pos && stealGroup s ctx victim.num == stealGroup s ctx s.core.num &&
      (pairOf s victim.num).isNone && (pairOf s s.core.num).isNone

/-- The victims of a steal in the thief's order (R289). -/
def victims (s : State) : List Core :=
  sortBy (fun a b => decide (afterPos s.core.pos a.pos ≤ afterPos s.core.pos b.pos))
    ((s.others.map (·.2)).filter (stealable s))

/-- The next item of a core with nothing to dispatch: the bottom of its own deque, else a stolen top (R289). -/
def nextItem (s : State) : Option (Item × State) :=
  match s.core.mail.deque with
  | i :: r => some (i, s.mapMail (fun m => { m with deque := r }))
  | [] =>
    let vs := victims s
    if vs.isEmpty then none
    else match chooseRank s 1 s.core.num vs.length with
      | none => none
      | some (r, t) => match vs[r]? with
        | none => none
        | some v => match v.mail.deque.getLast? with
          | none => none
          | some i => some (i, modCore t v.num (fun c => { c with
              mail := { c.mail with deque := c.mail.deque.dropLast } }))

/-- A core that leaves idle owes the reload of slots evicted meanwhile; its claim is placed at its next turn (05_vector
R114, R116). -/
def fromIdle (before s : State) : State :=
  let out (x : Slot) : Bool := x == .evicted
  let v := s.core.vec
  if before.core.run == .idle && s.core.run == .running && (out v.s1 || out v.s2 || out v.s3) then
    s.mapCore (fun c => { c with
      run := .waiting, wait := some ⟨s.cycle, .reload⟩, issue := { c.issue with instr := none } })
  else s

/-- What the partner of a checked pair's member has dispatched and the member has not: the age of an entry, or none for the
bottom of its own deque (12_group R299). -/
def owedPick (s : State) : Option (Option Nat) :=
  match partnerOf s s.core.num with
  | none => none
  | some (g, _) => ((getPair s g).picks.find? (fun p => p.1 == s.core.num)).map (·.2)

/-- A member of a checked pair dispatches: its partner owes the like, or the member has owed it (R299). -/
def pickDone (s : State) (age : Option Nat) : State :=
  match partnerOf s s.core.num with
  | none => s
  | some (g, k) =>
    let p := getPair s g
    match p.picks.find? (fun x => x.1 == s.core.num) with
    | some x => putPair s g { p with picks := dropFirst (· == x) p.picks }
    | none => putPair s g { p with picks := p.picks ++ [(k, age)] }

/-- The next item is dispatched, where there is one (R289, R290). -/
def takeItem (s : State) : Option State :=
  (nextItem s).map (fun r => fromIdle s (dispatchMsg (pickDone r.2 none) (itemMsg r.1)))

/-- A thief that lacks candidates in replay begins to wait for them (25_life R450). -/
def stealLacks (s : State) : State :=
  if s.core.mail.deque.isEmpty then noteLack s 1 s.core.num (victims s).length else s

/-- The entry of an age is taken out of the inbox, or out of the message queue when a member of a checked pair still holds it there
(R299). -/
def pullItem (s : State) (age : Nat) : Option (Msg × State) :=
  let hit (m : Msg) : Bool := m.age == age
  match s.core.mail.inbox.find? hit with
  | some m =>
    if canDispatch s.core.mail m then some (m, s.mapMail (fun mb => { mb with inbox := dropFirst hit mb.inbox })) else none
  | none => match (overflowOf s s.core).findIdx? hit with
    | none => none
    | some k => match queueTake s (curCtx s.core) s.core.num k with
      | .ok (m, t) => if isReady s.core.mail m then some (m, t) else none
      | .error _ => none

/-- The core in focus has no handler: the inbox dispatches, or an item runs, or the core is idle (R259, R289). DESIGN
CHOICE: DONE discards the spilled windows but leaves WSP where it stood on a core that stays idle; R87 sets it at the next
dispatch. -/
def seek (s : State) : State :=
  let s := refill 32 s
  let cs := candidates s.core.mail
  let idleIn (u : State) : State := { u with core := { u.core with
    run := .idle, wait := none
    ev := { u.core.ev with idleSince := if u.core.run = .idle then u.core.ev.idleSince else u.cycle }
    sc := u.core.sc.noWindow } }
  let idle := idleIn s
  let take (t : State) (age : Nat) : State := match pullItem t age with
    | some (m, u) => fromIdle s (refill 32 (dispatchMsg (pickDone u (some age)) m))
    | none => idle
  let itemOr : State := (takeItem s).getD (idleIn (stealLacks s))
  match owedPick s with
  | some (some age) => take s age
  | some none => itemOr
  | none =>
  if cs.isEmpty then itemOr
  else match chooseRank s 0 s.core.num cs.length with
    | none => idleIn (noteLack s 0 s.core.num cs.length)
    | some (r, t) => match cs[r]? with
      | none => idle
      | some m => take t m.age

/-- What the end of a handler owes (R287, R290; 17_expert R375). -/
def oweFor (s : State) (m : Msg) : State :=
  match m.origin with
  | .wake h => owe s (.live h none)
  | .item h c => owe s (.live h c)
  | .receipt e r slot => owe s (.receipt e r slot)
  | .plain => s

/-- Whether an attachment that a core has sent is still to be read (R272). -/
def attachesOut (s : State) (n : Nat) : Bool :=
  s.net.any (fun p => p.src == .core n && (match p.body with | .attach _ _ _ _ _ _ => true | _ => false))

/-- The handler in service ends (R273): interrupt 0x81 is no longer pending (R262), every window is discarded, and the
core looks for work. -/
def endHandler (s : State) : State :=
  let out := !(unacked s s.core.num).isEmpty || attachesOut s s.core.num
  let t := dlyRunEnd (match s.core.mail.insvc with | some m => oweFor s m | none => s)
  let t := t.mapMail (fun m => { m with insvc := none })
  let t := t.mapEv (fun e => { e with p81 := false, doneBelow := if out then s.nextId else e.doneBelow })
  seek (trace t 5 t.core.pc)

/-! ### Acceptance of a message (R257, R258, R262, R264) -/

/-- Interrupt 0x81 becomes pending when a message becomes dispatchable while a handler is in service (R262). -/
def signal81 (s : State) : State :=
  if s.core.mail.insvc.isSome then s.mapEv (fun e => { e with p81 := true }) else s

/-- The same for a core in the context `ctx`, resident there or not. -/
def signalAt (s : State) (ctx n : Nat) (m : Msg) : State :=
  modTask s ctx n (fun c =>
    if c.mail.insvc.isSome && isReady c.mail m then { c with ev := { c.ev with p81 := true } } else c)

/-- Whether a message that reached one of cores `ms` before age `age` still waits at the network interface: its age has been
given, and it has not been accepted (R264). -/
def waitsAhead (s : State) (ms : List Nat) (age : Nat) (of : Nat → Msg → Bool) : Bool :=
  s.net.any (fun p => match p.body with
    | .msg d m _ => ms.contains d && p.st == .flying && m.age != 0 && decide (m.age < age) && of p.ctx m
    | _ => false)

/-- A message that has reached the core in focus while its context is resident: the inbox, or the message queue behind the
limits and behind what waits for it (R258, R264). -/
def acceptHere (s : State) (m : Msg) : Append :=
  let c := s.core
  let mine (ctx : Nat) : Bool := ctx == 256 || ctx == curCtx c
  let ms := membersFor s (ctxNum c) c.num
  let behind := (overflowOf s c).any (fun o => o.cls == m.cls) ||
    waitsAhead s ms m.age (fun ctx o => mine ctx && o.cls == m.cls)
  if admits c.mail m.cls && !behind then
    let t := s.mapMail (fun mb => { mb with inbox := inboxInsert m mb.inbox })
    .done (if isReady t.core.mail m then signal81 t else t)
  else if noCtx c || waitsAhead s ms m.age (fun ctx _ => mine ctx) then .waits s
  else match queueAppend s (curCtx c) c.num m with
    | .done t => .done (if isReady t.core.mail m then signal81 t else t)
    | r => r

/-- The order of arrival at a core's network interface goes on by one; what reaches one member of a checked pair reaches both
in one order (R259; 12_group R299). -/
def arrivalAge (s : State) (ctx n : Nat) : Nat × State :=
  let ms := membersFor s ctx n
  let age := ms.foldl (fun a k => max a ((getCore s k).mail.arrivals + 1)) 0
  (age, ms.foldl (fun t k => modCore t k (fun c => { c with mail := { c.mail with arrivals := age } })) s)

/-- The same for a message of a core to itself: in a checked pair each member sends its own, and the two have one place in the order
(12_group R299; DESIGN CHOICE, log 40). -/
def selfAge (s : State) (n : Nat) : Nat × State :=
  match partnerOf s n with
  | none => arrivalAge s (ctxNum (getCore s n)) n
  | some (g, m) =>
    let p := getPair s g
    match p.selfAges.find? (fun x => x.1 == n) with
    | some x => (x.2, putPair s g { p with selfAges := dropFirst (· == x) p.selfAges })
    | none =>
      let r := arrivalAge s (ctxNum (getCore s n)) n
      (r.1, putPair r.2 g { p with selfAges := p.selfAges ++ [(m, r.1)] })

/-- A message for a core whose context is not resident there goes to its message queue (R242, R265). -/
def acceptAway (s : State) (ctx n : Nat) (m : Msg) : Append :=
  if waitsAhead s (membersFor s ctx n) m.age (fun c _ => c == ctx) then .waits s
  else match queueAppend s ctx n m with
    | .done t => .done (signalAt t ctx n m)
    | r => r

/-- A message at logical core `n` for context `ctx` (256 for none): into the core when that context is resident there, or into its
message queue (R242, R258, R265). -/
def acceptAt (s : State) (ctx n : Nat) (m : Msg) : Append :=
  let c := getCore s n
  let home := s.core.num
  if ctx = 256 ∨ (!noCtx c ∧ curCtx c = ctx) ∨ (noCtx c ∧ ctxLife s ctx = 0) then
    if c.run = .switching then (if ctx = 256 then .waits s else acceptAway s ctx n m)
    else match acceptHere (focus s n) m with
      | .done u => .done (focus u home)
      | .waits u => .waits (focus u home)
      | .broke u => .broke (focus u home)
      | .absent a => .absent a
  else acceptAway s ctx n m

/-- The same at several cores, one after another. -/
def acceptAll (ctx : Nat) (m : Msg) : List Nat → State → Append
  | [], s => .done s
  | n :: r, s => match acceptAt s ctx n m with
    | .done t => acceptAll ctx m r t
    | e => e

/-- A message that has reached the interface of logical core `n` for context `ctx`: both members of a checked pair take it, each
into its core or its queue, or neither does (12_group R299). -/
def acceptMsg (s : State) (ctx n : Nat) (m : Msg) : Append :=
  let ms := membersFor s ctx n
  match acceptAll ctx m ms s with
  | .waits u => .waits (keepAsked s u)
  | .broke _ => (ms.findSome? (fun k => match acceptAt s ctx k m with
    | .broke u => some (Append.broke u)
    | _ => none)).getD (.waits s)
  | r => r

/-! ### Interrupts taken (R230 to R234, R358, R453) -/

/-- TVAL of an interrupt (R232), and the state with the interrupt no longer pending. An entry that would cross
WLIMIT.LIMIT leaves it pending (R231). -/
def claimInt (s : State) (cause : BitVec 8) : W64 × State :=
  if spillCrosses (landAll s) then (0, s)
  else if cause = 0x84 then
    let p := popNotice s
    (p.1.info, p.2.mapSys (fun r => { r with monaddr := noticeAddr p.1 }))
  else if cause = 0x80 then (0, s.mapEv (fun e => { e with p80 := false }))
  else if cause = 0x83 then (s.core.ev.p83.getD 0, s.mapEv (fun e => { e with p83 := none }))
  else if cause = 0x81 then (inboxWord s, s.mapEv (fun e => { e with p81 := false }))
  else (0, s)

/-- STATE of a transfer, as CPYST and CPYID show it: one that completes is done, or stopped with its cause (16_copy R351,
R357, R367). -/
def xferCode (st : XferSt) (cause : Nat) : Nat :=
  match st with
  | .reading => 0 | .running => 1 | .completing => if cause = 0 then 2 else 3
  | .done => 2 | .stopped => 3 | .frozen => 4 | .free => 15

/-- CPYID after the user-level entry for a transfer (16_copy R357, R358). -/
def cpyIdWord (s : State) (id : BitVec 32) : W64 :=
  let slot := id.toNat % 64
  let x := tget s.un.xfers (clusterOf s.core.pos * 64 + slot)
  match x with
  | some y =>
    if y.gen = id.toNat / 64 then BitVec.ofNat 64 (xferCode y.st y.cause * 2 ^ 60 + y.cause * 2 ^ 52 + id.toNat)
    else BitVec.ofNat 64 (15 * 2 ^ 60 + id.toNat)
  | none => BitVec.ofNat 64 (15 * 2 ^ 60 + id.toNat)

/-- Interrupt 0x82: a call to the handler of the oldest completion, in the same mode, traced as a call (R233; 25_life R448). -/
def takeUser (s : State) : State :=
  let s := landAll s
  let next := s.core.pc
  if spillCrosses s then takeInto s (routeSync s 0x08) false 0x08 s.core.sc.wsp next
  else match s.core.mail.cpyq with
    | [] => s
    | (h, id) :: r =>
      let depth := callDepth s.core.sc
      let t := rawX s 31 next
      let t := windowIn t
      let pc := handlerPc t.core.num h
      trace { t with core := { t.core with
          pc := pc, run := .running, wait := none
          issue := { t.core.issue with npc := pc, mark := .trapped }
          mail := { t.core.mail with cpyq := r }
          ev := { t.core.ev with uinDepth := depth }
          sys := { t.core.sys with status := setBit t.core.sys.status 6 true, cpyid := cpyIdWord t id } } } 1 pc

/-- The accesses of core `n` that have left it and are not acknowledged: what its pair has not released has not left it, and a
save discards it (07_ordering R182; 12_group R300, R302). -/
def unackedOut (s : State) (n : Nat) : List Packet :=
  match partnerOf s n with
  | none => unacked s n
  | some (_, m) => (flying s).filter (fun p => p.countsFor n || (p.counted && p.countsFor m))

/-- Whether an interrupt's entry may happen now: every entry waits for the copies of an MCAST (04_core R89); the entry into the
monitor for a context switch waits until the core has no unacknowledged store (07_ordering R182). -/
def entryReady (s : State) (cause : BitVec 8) : Bool :=
  if cause = 0x80 then (unackedOut s s.core.num).isEmpty else s.core.mail.mcast.isEmpty

/-- A handler that interrupts the wait for a reload before the next instruction (05_vector R116). -/
def oweAgain (before s : State) (user : Bool) : State :=
  if (before.core.wait.map (·.what)) = some .reload ∧ before.core.issue.instr.isNone then
    s.mapEv (fun e => { e with reloadOwed := (if user then 0 else modeOf s.core) :: e.reloadOwed })
  else s

/-- Taking an interrupt between instructions, during a wait, or from idle (R231, R453). An instruction that it completes first
may match a breakpoint, whose trap or halt comes before it (25_life R447). -/
def takeInterrupt (s : State) (cause : BitVec 8) : State :=
  let idle := s.core.run == .idle
  let t := if onInt s = .complete then endWait s else withdrawWait s
  if t.core.run = .halted ∨ (onInt s = .complete ∧ (t.core.issue.mark = .trapped ∨ t.core.ev.point.isSome)) then t
  else oweAgain s (if cause = 0x82 then takeUser t
  else
    let epc := if idle then 0 else t.core.pc
    let p := claimInt t cause
    match routeInt t cause with
    | none => t
    | some b => takeInto p.2 b idle cause p.1 epc) (cause == 0x82)

end Sys2Proof.Machine
end

