-- ==== Sys2Proof/Machine/Sys.lean ====
section
/-! DEFINITION. System registers: what each reads as, who may reach it, and what a write stores (09_context R225 to R238,
R247, and the chapters it names). -/
namespace Sys2Proof.Machine

/-! ### Composed registers -/

/-- FRAMEMAP (05_vector R108). -/
def frameMapWord (v : Vectors) : W64 :=
  let part (x : Slot) (base : Nat) : Nat := match x with
    | .unmapped => 0
    | .mapped f => f * 2 ^ base + 2 ^ (base + 11)
    | .evicted => 2 ^ (base + 10)
  BitVec.ofNat 64 (part v.s1 0 + part v.s2 12 + part v.s3 24)

/-- FLOOR: the last save and restore of the context on the core, 1,200 cycles each while not measured, plus 4,096
(R238). -/
def sliceFloor (c : Core) : Nat := c.ev.saveCycles.getD 1200 + c.ev.restoreCycles.getD 1200 + 4096

/-- SOUT (22_resident R418). -/
def soutWord (c : Core) : W64 :=
  let t := c.task
  BitVec.ofNat 64 (t.result * 2 ^ 61 + b2n t.mov * 2 ^ 60 + t.age * 2 ^ 56 + t.partner * 2 ^ 31 + t.inst % 65536 * 2 ^ 13 +
    c.pos % 8192)

def QReg.fresh : QReg := { kind := 0, unit := 0, cmd := [], res := [], owed := [], skip := 0 }
def getQ (c : Core) (q : Nat) : QReg := tgetD c.mail.q q QReg.fresh
def setQ (c : Core) (q : Nat) (x : QReg) : Core := { c with mail := { c.mail with q := tput c.mail.q q x } }

/-- QBINDn (10_queue R268). -/
def qbindWord (x : QReg) : W64 := BitVec.ofNat 64 (x.unit * 65536 + x.kind)

/-- WDEPTH (04_core R88). -/
def wdepthWord (c : Scalars) : W64 := BitVec.ofNat 64 (c.spilled * 256 + c.res)

/-- The value of system register `n` of the core in focus; reserved fields read 0 (R247). FLOOR of SLICECLAMP is of the context on the
core, and 0 as at reset while there is none (R238; DESIGN CHOICE, log 55). -/
def sysGet (s : State) (n : Nat) : W64 :=
  let c := s.core
  let r := c.sys
  match n with
  | 0x000 => r.status | 0x001 => r.epc | 0x002 => r.cause | 0x003 => r.tval | 0x004 => r.tvec
  | 0x005 => r.scratch | 0x006 => r.slink
  | 0x010 => BitVec.ofNat 64 c.num | 0x011 => BitVec.ofNat 64 c.pos
  | 0x012 => r.asid | 0x013 => r.prio
  | 0x020 => BitVec.ofNat 64 s.out.time | 0x021 => BitVec.ofNat 64 (s.cycle - s.out.boot.released - c.cycleBase)
  | 0x030 => r.fflags | 0x031 => r.frm | 0x032 => r.fp4x
  | 0x040 => c.sc.wsp | 0x041 => c.sc.wlimit | 0x042 => wdepthWord c.sc
  | 0x050 => frameMapWord c.vec | 0x051 => r.framewait
  | 0x060 => qbindWord (getQ c 0) | 0x061 => qbindWord (getQ c 1) | 0x062 => qbindWord (getQ c 2)
  | 0x063 => qbindWord (getQ c 3) | 0x064 => qbindWord (getQ c 4) | 0x065 => qbindWord (getQ c 5)
  | 0x066 => qbindWord (getQ c 6) | 0x067 => qbindWord (getQ c 7)
  | 0x070 => r.cpyid | 0x071 => BitVec.ofNat 64 (c.mail.cpyq.length * 2 ^ 40 + r.cpydefh.toNat)
  | 0x080 => BitVec.ofNat 64 (c.ev.sliceRem.toNat * 2 ^ 32 + c.ev.sliceLen.toNat)
  | 0x081 => BitVec.ofNat 64 ((if noCtx c then 0 else sliceFloor c) * 2 ^ 32 + c.ev.clampCount.toNat)
  | 0x090 => r.btimeout | 0x0A0 => inboxWord s
  | 0x0B0 => r.kargs | 0x0B1 => r.kfirst | 0x0B2 => r.kcount
  | 0x0C8 => soutWord c
  | 0x101 => r.monpc | 0x102 => r.monwhy | 0x103 => r.moninfo | 0x104 => r.monentry | 0x105 => r.monkeep
  | 0x106 => s.mu.ctxtab | 0x107 => r.monlink | 0x108 => r.monaddr
  | k => if 0x0C0 ≤ k ∧ k ≤ 0x0C7 then tgetD c.task.sdest (k - 0x0C0) 0 else 0

/-! ### Access (R225) -/

/-- What a mode may do with a register. -/
inductive Access
  | none | read | both
  deriving DecidableEq, Repr

/-- The access of a mode (0 task, 1 system, 2 monitor) to a listed register (R225). -/
def sysAccess (n mode : Nat) : Access :=
  let three (t s m : Access) : Access := match mode with | 0 => t | 1 => s | _ => m
  if n = 0 then .both
  else if n ≤ 6 then three .none .both .both
  else if n = 0x10 then .read
  else if n = 0x11 then three .none .read .read
  else if n = 0x12 then three .none .read .both
  else if n = 0x13 then .both
  else if n = 0x20 ∨ n = 0x21 then .read
  else if 0x30 ≤ n ∧ n ≤ 0x32 then .both
  else if n = 0x40 ∨ n = 0x41 then .both
  else if n = 0x42 ∨ n = 0x50 then .read
  else if n = 0x51 ∨ (0x60 ≤ n ∧ n ≤ 0x67) then three .read .both .both
  else if n = 0x70 then three .read .both .both
  else if n = 0x71 then .both
  else if n = 0x80 ∨ n = 0x81 then three .read .read .both
  else if n = 0x90 then .both
  else if n = 0xA0 ∨ (0xB0 ≤ n ∧ n ≤ 0xB2) then .read
  else if 0xC0 ≤ n ∧ n ≤ 0xCF then three .read .read .both
  else if (0x101 ≤ n ∧ n ≤ 0x105) ∨ n = 0x106 ∨ n = 0x107 then three .none .none .both
  else if n = 0x108 then three .none .none .read
  else .none

/-- TVAL of a register access that R225 or R226 refuses (R232). -/
def sysTval (n : Nat) : W64 := BitVec.ofNat 64 (2 ^ 63 + n)

/-! ### Writes -/

/-- Writable bits of STATUS (R226). -/
def statusMask : W64 := 0xCE30

/-- The value with its writable bits taken from `w` and the others kept. -/
def keepRO (old w mask : W64) : W64 := (old &&& ~~~ mask) ||| (w &&& mask)

/-- PRIO after a write or a load of CEIL: LEVEL never exceeds CEIL (R229). -/
def prioWord (level ceil : Nat) : W64 := BitVec.ofNat 64 (min level ceil + ceil * 256)

def validUnit (kind unit : Nat) : Bool :=
  match kind with
  | 0 => true
  | 1 => unit == 0
  | 2 => unit == 0
  | 3 => decide (unit < 12)
  | 4 => unit == 0
  | 5 => decide (unit < 4096)
  | _ => false

/-- A write of QBINDq on the core in focus: a reserved KIND or an invalid UNIT is ignored; unread results are discarded
(10_queue R268). -/
def qbindSet (s : State) (q : Nat) (w : W64) : State :=
  let kind := fld w 3 0
  let unit := fld w 31 16
  if validUnit kind unit then
    s.mapCore (fun c => setQ c q { QReg.fresh with kind := kind, unit := unit })
  else s

/-- What a permitted write of the word `w` stores in register `n` (the combined value for SRSET and SRCLR). DESIGN CHOICE:
R226 settles 0b10 and 0b11 in SLINK.FROM for system mode only; a monitor-mode write of 0b11 to SLINK.FROM or MONLINK.FROM is
stored as it stands. DESIGN CHOICE (log 55): R225 makes MONINFO RW in monitor mode and R236 marks every field RO that it has while it
holds a notice; a write stores all 64 bits unless MONWHY.CODE is 0x84, and nothing then. -/
def sysPut (s : State) (n : Nat) (w : W64) : State :=
  let mode := modeOf s.core
  match n with
  | 0x000 => s.mapSys (fun r => { r with status := keepRO r.status w statusMask })
  | 0x001 => s.mapSys (fun r => { r with epc := w })
  | 0x002 => s.mapSys (fun r => { r with cause := w &&& 0xFF })
  | 0x003 => s.mapSys (fun r => { r with tval := w })
  | 0x004 => s.mapSys (fun r => { r with tvec := w })
  | 0x005 => s.mapSys (fun r => { r with scratch := w })
  | 0x006 => s.mapSys (fun r => { r with
      slink := if mode = 1 ∧ 2 ≤ fld w 1 0 then (w &&& 0xC) ||| (r.slink &&& 3) else w &&& 0xF })
  | 0x012 => s.mapSys (fun r => { r with asid := keepRO r.asid w 0xFFFF })
  | 0x013 => s.mapSys (fun r => { r with
      prio := prioWord (fld w 5 0) (if mode = 2 then fld w 13 8 else fld r.prio 13 8)
      })
  | 0x030 => s.mapSys (fun r => { r with fflags := w &&& 0x1F })
  | 0x031 => s.mapSys (fun r => { r with frm := w &&& 3 })
  | 0x032 => s.mapSys (fun r => { r with fp4x := w &&& 0xFF })
  | 0x040 => s.mapSc (fun c => { c with wsp := BitVec.ofNat 64 (clampOff (fld w 16 7 * 128)) })
  | 0x041 =>
    let v := clampOff (fld w 16 7 * 128) + clampOff (fld w 48 39 * 128) / 128 * 2 ^ 39
    s.mapSc (fun c => { c with wlimit := BitVec.ofNat 64 v })
  | 0x051 => s.mapSys (fun r => { r with framewait := w &&& 0xFFFFFFFF })
  | 0x060 => qbindSet s 0 w | 0x061 => qbindSet s 1 w | 0x062 => qbindSet s 2 w | 0x063 => qbindSet s 3 w
  | 0x064 => qbindSet s 4 w | 0x065 => qbindSet s 5 w | 0x066 => qbindSet s 6 w | 0x067 => qbindSet s 7 w
  | 0x071 => s.mapSys (fun r => { r with cpydefh := BitVec.ofNat 32 w.toNat })
  | 0x080 => s.mapEv (fun e => { e with sliceLen := BitVec.ofNat 32 w.toNat })
  | 0x081 => s.mapEv (fun e => { e with clampCount := BitVec.ofNat 32 w.toNat })
  | 0x090 => s.mapSys (fun r => { r with btimeout := w &&& 0xFFFFFFFF })
  | 0x101 => s.mapSys (fun r => { r with monpc := w })
  | 0x102 => s.mapSys (fun r => { r with monwhy := w &&& 0x1FF })
  | 0x103 => s.mapSys (fun r => { r with moninfo := if fld r.monwhy 7 0 = 0x84 then r.moninfo else w })
  | 0x104 => s.mapSys (fun r => { r with monentry := w })
  | 0x105 => s.mapSys (fun r => { r with monkeep := w })
  | 0x106 => s.mapMu (fun m => { m with ctxtab := w &&& ones 51 14 })
  | 0x107 => s.mapSys (fun r => { r with monlink := w &&& 0xF })
  | k => if 0x0C0 ≤ k ∧ k ≤ 0x0C7 then
      s.mapCore (fun c => { c with task := { c.task with
        sdest := tputD 0 c.task.sdest (k - 0x0C0) (w &&& (ones 63 63 ||| ones 56 0)) } })
    else s

/-- The registers whose access makes pending results land (03_encoding R62). -/
def landsFor (n : Nat) : Bool := n == 0x30 || n == 0x31 || n == 0x32

/-- SRR (R247). -/
def sysReadEff (s : State) (d : Reg) (n : Nat) : Eff :=
  if sysAccess n (modeOf s.core) = .none then trap 0x02 (sysTval n)
  else
    let t := if landsFor n then landAll s else s
    .ok (setXI t d (sysGet t n) 1)

/-- SRW, SRSET and SRCLR, with `f` forming the word from the old value (R247; 04_core R88; 10_queue R268). DEDUCED: a
task-mode write of STATUS that differs in RO fields only would change no field, and does not trap (R226). -/
def sysWriteEff (s : State) (n : Nat) (f : W64 → W64) : Eff :=
  let mode := modeOf s.core
  match sysAccess n mode with
  | .none => trap 0x02 (sysTval n)
  | .read => if mode = 0 then trap 0x02 (sysTval n) else .ok s
  | .both =>
    let t := if landsFor n then landAll s else s
    let w := f (sysGet t n)
    if n = 0 ∧ mode = 0 ∧ (keepRO t.core.sys.status w statusMask ^^^ t.core.sys.status) &&& ~~~ 0x30#64 ≠ 0 then
      trap 0x02 (sysTval n)
    else if (n = 0x40 ∨ n = 0x41) ∧ t.core.sc.spilled ≠ 0 then trap 0x08 (BitVec.ofNat 64 (2 ^ 63 + n))
    else if 0x60 ≤ n ∧ n ≤ 0x67 ∧ (getQ t.core (n - 0x60)).cmd ≠ [] then waitPlain t
    else .ok (sysPut t n w)

end Sys2Proof.Machine
end

