-- ==== Sys2Proof/Machine/Aperture.lean ====
section
/-! DEFINITION. What the registers of the device control aperture read as (06_memory R154; 08_page R210, R213; 09_context
R237; 17_expert R369; 20_query R406; 22_resident R419; 23_link R426 to R433; 25_life R441 to R449). -/
namespace Sys2Proof.Machine

def stackCode : StackSt → Nat
  | .up => 0 | .pending => 1 | .retraining => 2 | .failed => 3

/-- SKCTL (R154). -/
def skctlWord (x : Stack) : W64 :=
  BitVec.ofNat 64 (x.rowSwaps.toNat * 2 ^ 32 + x.retrains.toNat * 65536 + stackCode x.st * 64 + x.newRatio * 4 + x.ratio)

/-- QARB (20_query R406). -/
def qarbWord (x : Stack) : W64 := BitVec.ofNat 64 (x.starve * 65536 + x.window)

/-- KEYSTAT (R213). -/
def keystatWord (s : State) : W64 :=
  BitVec.ofNat 64 ((List.range 64).foldl (fun v k => v + b2n (keyInstalled s k) * 2 ^ k) 0)

/-- A link before any training; EN is 1 (23_link R426). -/
def Link.fresh : Link :=
  { st := .down, peer := 0, errs := 0, lanes := 0, trains := 0, en := true, tries := 0, frozen := false, sent := [] }
def getLink (s : State) (i : Nat) : Link := tgetD s.out.links i Link.fresh
def putLink (s : State) (i : Nat) (x : Link) : State := { s with out := { s.out with links := tput s.out.links i x } }

def linkCode : LinkSt → Nat
  | .down => 0 | .training => 1 | .up => 2 | .degraded => 3 | .retraining => 4 | .quarantined => 5

/-- LSTAT(i) (R426): the lanes show only while the link carries traffic. -/
def lstatWord (x : Link) : W64 :=
  let lanes := if x.st = .up ∨ x.st = .degraded then x.lanes else 0
  BitVec.ofNat 64 (x.peer * 2 ^ 52 + x.errs.toNat * 2 ^ 32 + lanes * 2 ^ 24 + x.trains.toNat * 2 ^ 16 + linkCode x.st)

/-- LCTL(i): QREL and RETRAIN read 0. -/
def lctlWord (x : Link) : W64 := BitVec.ofNat 64 (b2n x.en * 2 ^ 63)

def Hdm.fresh : Hdm := ⟨0, 0, 0, 0⟩
def getHdm (s : State) (r : Nat) : Hdm := tgetD s.out.hdm r Hdm.fresh

/-- BOOTSTAT (25_life R441). -/
def bootstatWord (b : Boot) : W64 :=
  BitVec.ofNat 64 (b.kind * 2 ^ 60 + b2n b.kept * 2 ^ 59 + b2n b.full * 2 ^ 58 + b.disabledCount % 65536 * 2 ^ 32 +
    b.ms % 2 ^ 32)

/-- DRYSTAT (25_life R442). -/
def drystatWord (b : Boot) : W64 :=
  BitVec.ofNat 64 (b.guard % 65536 * 2 ^ 48 + b.used % 65536 * 2 ^ 32 + b.plans % 2 ^ 31 * 2 + b2n b.drift)

/-- PTPSTAT (23_link R430). -/
def ptpstatWord (o : Outside) : W64 :=
  BitVec.ofNat 64 (b2n o.ptpLock * 2 ^ 63 + o.ptpGm % 4096 * 2 ^ 32 + o.ptpOffset.toNat)

/-- DSTAT (23_link R432). -/
def dstatWord (o : Outside) : W64 := BitVec.ofNat 64 (o.wfaultWin.toNat * 2 ^ 32 + b2n o.wfault)

/-- SILCTL (22_resident R419). -/
def silctlWord (o : Outside) : W64 := BitVec.ofNat 64 (o.instant.toNat * 2 ^ 32 + o.silEn.toNat)

/-- EXCFG(n) (17_expert R369). -/
def excfgWord (s : State) (n : Nat) : W64 :=
  match tget s.un.experts n with
  | none => 0
  | some x => setBit x.cfg 1 x.err

/-- Words of LOG(k) (25_life R449). -/
def logWord (x : LogSt) (i : Nat) : W64 :=
  match i with
  | 0 => x.base
  | 1 => x.len
  | 2 => x.ptr
  | _ => BitVec.ofNat 64 (x.mode + 4 * b2n x.stall)

/-! ### Debug windows (25_life R446) -/

/-- Whether the debug unit can read a core. -/
def stoppedCore (c : Core) : Bool := c.run == .halted || c.run == .frozen

/-- DBGDATA: the value DBGSEL selects; 0 unless the core is halted or frozen. -/
def dbgData (s : State) (pos : Nat) : W64 :=
  let n := coreAt s pos
  let t := focus s n
  if !stoppedCore t.core then 0
  else
    let sel := (getDbg s pos).sel
    let num := fld sel 15 4
    match fld sel 1 0 with
    | 0 => if num < 32 then t.x (BitVec.ofNat 5 num) else 0
    | 1 => if num < 256 then BitVec.ofNat 64 ((t.v (BitVec.ofNat 5 (num / 8))).toNat >>> (64 * (num % 8))) else 0
    | 2 => sysGet t num
    | _ => t.core.pc

/-- DBGCTL without its write-only bits. -/
def dbgctlWord (d : Dbg) : W64 := BitVec.ofNat 64 (b2n d.brkHalt * 8 + b2n d.bpHalt * 16 + b2n d.trcEn * 256)

def dbgstatWord (s : State) (pos : Nat) (d : Dbg) : W64 :=
  let halted := (getCore s (coreAt s pos)).run == .halted
  BitVec.ofNat 64 (b2n halted + d.reason * 16 + d.index % 256 * 256)

/-- One 8-byte part of a delay entry (25_life R451). -/
def dlyWord (l : List DlyEnt) (e i : Nat) : W64 :=
  match l[e]? with
  | none => 0
  | some x => match i with
    | 0 => BitVec.ofNat 64 (x.sender.toNat + x.count.toNat * 2 ^ 32)
    | 1 => x.transit
    | 2 => x.wait
    | _ => x.runtime

/-- A register of the debug window of the core at a position (25_life R446). -/
def dbgRead (s : State) (pos off : Nat) : W64 :=
  let d := getDbg s pos
  match off with
  | 0x000 => dbgctlWord d
  | 0x008 => dbgstatWord s pos d
  | 0x050 => d.sel
  | 0x058 => dbgData s pos
  | 0x060 => d.trcBase
  | 0x068 => d.trcPtr
  | o =>
    if 0x010 ≤ o ∧ o < 0x030 then tgetD d.bp ((o - 0x010) / 8) 0
    else if 0x030 ≤ o ∧ o < 0x050 then
      (if (o - 0x030) % 16 = 0 then tgetD d.wpa ((o - 0x030) / 16) 0 else tgetD d.wpc ((o - 0x030) / 16) 0)
    else if 0x100 ≤ o ∧ o < 0x300 then
      dlyWord (getCore s (coreAt s pos)).dly ((o - 0x100) / 32) ((o - 0x100) % 32 / 8)
    else 0

/-! ### The aperture -/

/-- The 8-byte register at an aligned offset; an offset that no rule names reads 0 (R4: a reserved field reads as
zero). -/
def apRead (s : State) (off : Nat) : W64 :=
  if off < 0xC000 then
    (match off % 0x1000 with
      | 0x040 => skctlWord (getStack s (off / 0x1000))
      | 0x080 => qarbWord (getStack s (off / 0x1000))
      | _ => 0)
  else if 0x10000 ≤ off ∧ off < 0x10800 then tgetD s.mu.root ((off - 0x10000) / 8) 0
  else if off = 0x11000 then keystatWord s
  else if off = 0x15000 then silctlWord s.out
  else if off = 0x15100 then BitVec.ofNat 64 s.out.twin
  else if off = 0x15200 then ptpstatWord s.out
  else if off = 0x15208 then dstatWord s.out
  else if 0x15300 ≤ off ∧ off < 0x15320 then BitVec.ofNat 64 (getDie s ((off - 0x15300) / 8)).notice
  else if 0x16000 ≤ off ∧ off < 0x16190 then
    (if off % 16 = 0 then lstatWord (getLink s ((off - 0x16000) / 16)) else lctlWord (getLink s ((off - 0x16000) / 16)))
  else if 0x17000 ≤ off ∧ off < 0x17200 then BitVec.ofNat 64 (s.out.peerauth.toNat >>> (8 * (off - 0x17000)))
  else if 0x18000 ≤ off ∧ off < 0x18200 then
    (let h := getHdm s ((off - 0x18000) / 32)
     match (off - 0x18000) % 32 / 8 with
      | 0 => h.hbase
      | 1 => h.hlimit
      | 2 => h.hvbase
      | _ => h.hctl)
  else if off = 0x19000 then bootstatWord s.out.boot
  else if off = 0x19008 then BitVec.ofNat 64 (b2n s.out.boot.keep)
  else if off = 0x19100 then drystatWord s.out.boot
  else if off = 0x19110 then BitVec.ofNat 64 s.out.boot.ichk.toNat
  else if 0x19200 ≤ off ∧ off < 0x19280 then logWord (getLog s ((off - 0x19200) / 32)) ((off - 0x19200) % 32 / 8)
  else if 0x80000 ≤ off ∧ off < 0x100000 then excfgWord s ((off - 0x80000) / 8)
  else if 0x200000 ≤ off ∧ off < 0xA00000 then dbgRead s ((off - 0x200000) / 0x400) ((off - 0x200000) % 0x400 / 8 * 8)
  else 0

/-- A load of `n` bytes from the aperture. -/
def apLoad (s : State) (off n : Nat) : List Byte :=
  (List.range n).map (fun i => BitVec.ofNat 8 ((apRead s ((off + i) / 8 * 8)).toNat >>> (8 * ((off + i) % 8))))

/-- The registers that only monitor mode maps: the debug windows, LSTAT and LCTL, and PEERAUTH (23_link R426; 25_life R446). -/
def monOnly (off : Nat) : Bool :=
  (decide (0x200000 ≤ off) && decide (off < 0xA00000)) || (decide (0x16000 ≤ off) && decide (off < 0x16190)) ||
    (decide (0x17000 ≤ off) && decide (off < 0x17200))

/-- What another mode may not reach; DEDUCED (log 8): it is as an address the mode has no permission for. -/
def apDenied (s : State) (off : Nat) : Bool := monOnly off && !inMonitor s.core

end Sys2Proof.Machine
end

