-- ==== Sys2Proof/Machine/Control.lean ====
section
/-! DEFINITION. What a write of a register of the device control aperture does (06_memory R154, R155; 08_page R210, R213;
11_kernel R278; 17_expert R369 to R371; 20_query R406; 22_resident R419; 23_link R426 to R433; 25_life R441 to R451). -/
namespace Sys2Proof.Machine

/-! ### Stacks -/

/-- NEWRATIO written: an up stack whose ratio differs goes to retrain pending (R155). DESIGN CHOICE (log 55): R155 gives no event for a
write while a forced retraining runs; it is stored, and makes no request of that retraining, whose success does not apply it. -/
def setNewRatio (s : State) (n ratio : Nat) : State :=
  let x := getStack s n
  if x.st = .up ∧ ratio ≠ x.ratio then putStack s n { x with newRatio := ratio, st := .pending, requested := true }
  else putStack s n { x with newRatio := ratio }

/-- QARB written: a WINDOW of 0 stores 1 (20_query R406). -/
def setQarb (s : State) (n : Nat) (w : W64) : State :=
  let win := fld w 15 0
  putStack s n { getStack s n with starve := fld w 23 16, window := if win = 0 then 1 else win }

/-! ### Keys (08_page R213) -/

def KeySt.fresh : KeySt := { bytes := 0, have_ := 0, installed := false, value := 0 }

/-- One byte written to KEY(k): the 64th distinct byte installs the key, or removes it when all are zero. -/
def keyByte (x : KeySt) (off : Nat) (b : Byte) : KeySt :=
  let bytes := (x.bytes &&& ~~~ ((0xFF#512) <<< (8 * off))) ||| (BitVec.ofNat 512 b.toNat <<< (8 * off))
  let got := x.have_ ||| (1#64 <<< off)
  if got = BitVec.allOnes 64 then { bytes := 0, have_ := 0, installed := bytes != 0, value := bytes }
  else { x with bytes := bytes, have_ := got }

def keyWrite (s : State) (k off : Nat) (l : List Byte) : State :=
  let x := tgetD s.mu.keys k KeySt.fresh
  let y := (List.range l.length).foldl (fun x i => keyByte x ((off + i) % 64) (l.getD i 0)) x
  s.mapMu (fun m => { m with keys := tput m.keys k y })

/-! ### Doorbells (11_kernel R278) -/

/-- The submission queue of a context and the die of the command processor that serves it (R278; 09_context R227). -/
def subqAddr (s : State) (ctx : Nat) : Nat := fld (descWord s ctx 0x38) 51 6 * 64
def subqCp (s : State) (ctx : Nat) : Nat := fld (descWord s ctx 0x38) 63 62

/-- The clock of everything released on this chip: what an acquire of the device's own units merges (07_ordering R177). -/
def chipClock (s : State) : Clock := (List.range 4).foldl (fun c d => c.merge (getDie s d).vc) Clock.zero

/-- A doorbell whose TAIL has not been read reads it, when the memory answers; an entry that cannot be read at all is as a
queue with nothing in it. DESIGN CHOICE: a command processor translates through the cluster TLB of the first cluster of its
die (08_page R216 names no cluster for it). -/
def readBell (s : State) (b : Bell) : State × Option Bell :=
  if b.tail.isSome then (s, some b)
  else match vaRead s (b.cp * 32) b.ctx b.addr 64 with
    | .ok (t, l) => (t, some { b with tail := some (qHeadOf l).tail })
    | .error (.waits t) => (t, some b)
    | .error (.done t) => (t, none)
    | .error (.broke t) => (t, some b)
    | .error (.absent _) => (s, none)

/-- The doorbells of a command processor read what they have not read yet. -/
def readBells (s : State) (cp : Nat) : State :=
  let r := s.un.doorbells.foldl (fun (acc : State × List Bell) b =>
    if b.cp = cp then
      let q := readBell acc.1 b
      (q.1, acc.2 ++ q.2.toList)
    else (acc.1, acc.2 ++ [b])) (s, [])
  r.1.mapUn (fun u => { u with doorbells := r.2 })

/-- A doorbell of a live context: its command processor acquires, reads SUBQ and then the queue's TAIL; the value is ignored
(R278). -/
def ringDoorbell (s : State) (ctx : Nat) : State :=
  if ctxLife s ctx ≠ 1 then s
  else
    let cp := subqCp s ctx
    let t := raiseFloor (rdcFresh s cp) cp (chipClock s)
    readBells (t.mapUn (fun u => { u with doorbells := u.doorbells ++ [⟨ctx, s.cycle, subqAddr s ctx, cp, none⟩] })) cp

/-! ### Links (23_link R427) -/

/-- The peer chip a packet goes to. -/
def Packet.peerChip (p : Packet) : Option Nat :=
  match p.body with
  | .msg d _ _ => if nCores ≤ d then some (d / nCores) else none
  | .sub d _ _ _ => if nCores ≤ d then some (d / nCores) else none
  | .ask c _ => some c
  | .told c _ _ _ => some c
  | b => b.place.bind Place.chip

/-- Whether a packet goes to a peer chip (07_ordering R170, R179). -/
def Packet.toPeer (p : Packet) : Bool := p.peerChip.isSome

/-- A number of the pair of sender and receiver, which chooses the link (23_link R429). -/
def Packet.pairNum (p : Packet) : Nat :=
  let from_ := match p.src with
    | .core n => n
    | _ => nCores + p.die
  let to_ := match p.body with
    | .msg d _ _ => d
    | .sub d _ _ _ => d
    | b => match b.place with
      | some (.loc n) => n
      | _ => 0
  from_ * 2 ^ 26 + to_

/-- The link of the route to a chip that a pair of sender and receiver takes: one that carries traffic, or while none does one that
retrains (R429; which of them the hash of the pair gives the manual does not say: Config.linkHash, log 4). -/
def routeOf (s : State) (chip pair : Nat) : Option Nat :=
  let of (f : LinkSt → Bool) : List Nat := (routeLinks s chip).filter (fun i => f (getLink s i).st)
  let ls := if (of LinkSt.carries).isEmpty then of LinkSt.holds else of LinkSt.carries
  ls[Config.linkHash chip pair % ls.length]?

/-- A packet to a peer chip is held at the link its route gives until the peer acknowledges it (23_link R429). -/
def carry (s : State) (p : Packet) : State :=
  match p.peerChip with
  | none => s
  | some c => match routeOf s c p.pairNum with
    | none => s
    | some i => putLink s i { getLink s i with sent := (getLink s i).sent ++ [p.id] }

/-- Flits held at a link that carries nothing any more are replayed, in order, each on the link its route now gives (R429). -/
def replayHeld (s : State) (i : Nat) : State :=
  let x := getLink s i
  x.sent.foldl (fun t id => match t.net.find? (fun p => p.id == id) with
    | some p => carry t p
    | none => t) (putLink s i { x with sent := [] })

/-- EN written (R427). DEDUCED (log 44): a link that is frozen as a master stays quarantined, since nothing but QREL unfreezes it
(25_life R445). -/
def linkEn (s : State) (i : Nat) (en : Bool) : State :=
  let x := getLink s i
  if x.frozen then putLink s i { x with en := en }
  else if en then
    putLink s i { x with en := true, st := if x.st = .down then .training else x.st
                         tries := if x.st = .down then 0 else x.tries }
  else replayHeld (putLink s i { x with en := false, st := .down, lanes := 0 }) i

/-- QREL written: a quarantined link goes to training, its freeze ends (R427; 25_life R445). -/
def linkQrel (s : State) (i : Nat) : State :=
  let x := getLink s i
  if x.st = .quarantined then putLink s i { x with st := .training, frozen := false, tries := 0 } else s

/-- RETRAIN written (R427). -/
def linkRetrain (s : State) (i : Nat) : State :=
  let x := getLink s i
  if x.st = .up ∨ x.st = .degraded then putLink s i { x with st := .retraining, tries := 0 } else s

/-- LCTL(i) written in the bits of `mask`: EN, QREL, RETRAIN. -/
def lctlWrite (s : State) (i : Nat) (w mask : W64) : State :=
  let t := if fld mask 63 63 = 1 then linkEn s i (fld w 63 63 == 1) else s
  let u := if fld w 62 62 = 1 then linkQrel t i else t
  if fld w 61 61 = 1 then linkRetrain u i else u

/-- TWIN written: 0, 17 to 31, and any write while a link is up or degraded are ignored (R431). -/
def twinSet (s : State) (w : W64) : State :=
  let v := fld w 4 0
  if v = 0 ∨ 16 < v ∨ s.out.links.any (fun p => decide (p.1 < 24) && p.2.st.carries) then s
  else s.mapOut (fun o => { o with twin := v })

/-- DSTAT written: WFAULT is W1C (R432). -/
def dstatWrite (s : State) (w : W64) : State :=
  if fld w 0 0 = 1 then s.mapOut (fun o => { o with wfault := false }) else s

/-- An HDM register: bits 51:21 of the first three, EN, WR, context and ASID of HCTL (R433). -/
def hdmWrite (s : State) (r i : Nat) (w : W64) : State :=
  let h := getHdm s r
  let a := w &&& ones 51 21
  let h' := match i with
    | 0 => { h with hbase := a }
    | 1 => { h with hlimit := a }
    | 2 => { h with hvbase := a }
    | _ => { h with hctl := w &&& (ones 63 62 ||| ones 15 0) }
  s.mapOut (fun o => { o with hdm := tput o.hdm r h' })

/-! ### Logs (25_life R449) -/

/-- Every open run of a log is written. -/
def logFlush (s : State) (k : Nat) : State :=
  let x := getLog s k
  let t := x.runs.foldl (fun t p => logWrite t k p.1 (getLog t k)) s
  putLog t k { getLog t k with runs := [] }

/-- A word of LOG(k) written: the pointer and STALL are RO; leaving record mode ends the open runs. -/
def logPut (s : State) (k i : Nat) (w : W64) : State :=
  let x := getLog s k
  match i with
  | 0 => putLog s k { x with base := w }
  | 1 => putLog s k { x with len := w }
  | 2 => s
  | _ =>
    let mode := fld w 1 0
    let t := if x.mode = 1 ∧ mode ≠ 1 then logFlush s k else s
    let y := getLog t k
    if mode = x.mode then t
    else putLog t k { y with mode := mode, stall := false, runs := [], readAt := [], waitSince := []
                             ptr := if mode = 1 then 0 else y.ptr }

/-! ### Debug windows (25_life R446, R447) -/

/-- HALT: the core stops at the next instruction boundary or withdraws its wait (R447; 04_core R76); an instruction whose wait
no interrupt withdraws is completed first. -/
def dbgHalt (s : State) (pos : Nat) : State :=
  let n := coreAt s pos
  match (getCore s n).standing with
  | .running => onCore s n (fun t => haltCore t 0 0)
  | .waiting => onCore s n (fun t =>
      if onInt t = .hold then putDbg t pos { getDbg t pos with halting := true }
      else
        let aligns : Bool := (t.core.wait.map (·.what)) == some .align
        let u := if aligns then endWait t else withdrawWait t
        if u.core.run = .halted then u else haltCore u 0 0)
  | .idle => onCore s n (fun t => haltCore t 0 0)
  | _ => s

/-- A core that goes on after a halt owes the reload of slots evicted meanwhile; its claim is placed at its next turn
(05_vector R116). -/
def resumed (s : State) (n : Nat) : State :=
  let c := getCore s n
  let out (x : Slot) : Bool := x == .evicted
  if c.run == .running && (out c.vec.s1 || out c.vec.s2 || out c.vec.s3) then
    putCore s { c with run := .waiting, wait := some ⟨s.cycle, .reload⟩, issue := { c.issue with instr := none } }
  else s

/-- RESUME: the core returns to its former state and interrupt 0x83 becomes pending with the cycles of the halted period
(09_context R234). -/
def dbgResume (s : State) (pos : Nat) : State :=
  let n := coreAt s pos
  let c := getCore s n
  if c.run = .halted then
    resumed (putCore s { c with
      run := c.former
      ev := { c.ev with p83 := some (BitVec.ofNat 64 (min (2 ^ 64 - 1) (s.cycle - c.ev.haltSince))) } }) n
  else s

/-- STEP: the core runs one instruction and halts again, without interrupt 0x83 (R234, R447). -/
def dbgStep (s : State) (pos : Nat) : State :=
  let n := coreAt s pos
  let c := getCore s n
  if c.run = .halted then putDbg (resumed (putCore s { c with run := c.former }) n) pos { getDbg s pos with stepping := true } else s

def dbgClrDly (s : State) (pos : Nat) : State := modCore s (coreAt s pos) (fun c => { c with dly := [] })

/-- DBGCTL written. -/
def dbgctlWrite (s : State) (pos : Nat) (w : W64) : State :=
  let bit (i : Nat) : Bool := fld w i i == 1
  let t := putDbg s pos { getDbg s pos with brkHalt := bit 3, bpHalt := bit 4, trcEn := bit 8 }
  let t := if bit 9 then dbgClrDly t pos else t
  let t := if bit 0 then dbgHalt t pos else t
  let t := if bit 1 then dbgResume t pos else t
  if bit 2 then dbgStep t pos else t

/-- DBGDATA written: the selected value of a halted or frozen core changes. -/
def dbgDataWrite (s : State) (pos : Nat) (w : W64) : State :=
  let n := coreAt s pos
  if !stoppedCore (getCore s n) then s
  else
    let sel := (getDbg s pos).sel
    let num := fld sel 15 4
    onCore s n (fun t =>
      match fld sel 1 0 with
      | 0 => if num < 32 then rawX t (BitVec.ofNat 5 num) w else t
      | 1 =>
        if num < 256 then
          let r : Reg := BitVec.ofNat 5 (num / 8)
          let k := 64 * (num % 8)
          vset t r ((t.v r &&& ~~~ ((BitVec.ofNat 512 (2 ^ 64 - 1)) <<< k)) ||| (BitVec.ofNat 512 w.toNat <<< k))
        else t
      | 2 => sysPut t num w
      | _ => { t with core := { t.core with pc := w } })

/-- A register of the debug window written. -/
def dbgWrite (s : State) (pos off : Nat) (w : W64) : State :=
  let d := getDbg s pos
  match off with
  | 0x000 => dbgctlWrite s pos w
  | 0x050 => putDbg s pos { d with sel := w &&& 0xFFF3 }
  | 0x058 => dbgDataWrite s pos w
  | 0x060 => putDbg s pos { d with trcBase := w }
  | o =>
    if 0x010 ≤ o ∧ o < 0x030 then putDbg s pos { d with bp := tput d.bp ((o - 0x010) / 8) (w &&& ones 51 0) }
    else if 0x030 ≤ o ∧ o < 0x050 then
      (if (o - 0x030) % 16 = 0 then putDbg s pos { d with wpa := tput d.wpa ((o - 0x030) / 16) w }
       else putDbg s pos { d with wpc := tput d.wpc ((o - 0x030) / 16) (w &&& (ones 63 61 ||| ones 5 0)) })
    else s

/-! ### Experts (17_expert R369 to R371) -/

def Rep.fresh : Rep :=
  { first := 0, count := 0, wbuf := 0, gacc := 0, land_ := 0, rsz := 0, nslot := 0, st := .retired, hop := false,
    ferr := false, cseq := 0, tok := 0, slots := [], fillWs := 0, job := 0, zeroed := false }

def Expert.fresh : Expert :=
  { cfg := 0, err := false, st := .free, ctx := 0, owner := 0, growT := 0, shrinkT := 0, ws := 0, wlen := 0, glen := 0,
    fwdh := 0, bwdh := 0, hobuf := 0, nseq := 1, grows := 0, sinceGrow := 16, sinceRetire := 16, lastEval := 0, pub := false, reps := [] }

def getExp (s : State) (e : Nat) : Expert := tgetD s.un.experts e Expert.fresh
def putExp (s : State) (e : Nat) (x : Expert) : State := { s with un := { s.un with experts := tput s.un.experts e x } }

/-- The die on which a virtual address of a context is homed, through a cluster's TLB. -/
def homeOfVa (s : State) (cl ctx : Nat) (va : W64) : Option Nat :=
  match devResolve s cl ctx (ctxAsid s ctx) va .load with
  | .ok (_, .hbm d _ _, _) => some d
  | .ok (_, .host _, _) => some 0
  | _ => none

/-- Replica descriptor `k` of a configuration block at `a` (R370). -/
def repOf (s : State) (a k : Nat) : Rep :=
  let set := physWord s (a + 0x40 + 64 * k)
  let land_ := physWord s (a + 0x58 + 64 * k)
  { Rep.fresh with
    first := fld set 24 0, count := fld set 36 32
    wbuf := physWord s (a + 0x48 + 64 * k), gacc := physWord s (a + 0x50 + 64 * k)
    land_ := fld land_ 15 0, rsz := fld land_ 23 16, nslot := fld land_ 41 32
    st := if fld set 63 63 = 1 ∧ fld land_ 41 32 ≠ 0 then .serving else .retired }

/-- Reserved bits of a configuration block (R370). -/
def cfgReserved (s : State) (a : Nat) : Bool :=
  let z (off : Nat) (mask : W64) : Bool := (physWord s (a + off) &&& mask) == 0
  z 0 (~~~ (ones 24 0 ||| ones 39 32 ||| ones 43 40 ||| ones 51 48)) && z 8 (ones 63 32) && z 0x10 (ones 63 40) &&
  z 0x18 (ones 63 40) && z 0x30 (ones 63 0) && z 0x38 (ones 63 0) &&
  (List.range 16).all (fun k =>
    z (0x40 + 64 * k) (~~~ (ones 24 0 ||| ones 36 32 ||| ones 63 63)) &&
    z (0x58 + 64 * k) (~~~ (ones 15 0 ||| ones 23 16 ||| ones 41 32)) &&
    (List.range 4).all (fun j => z (0x60 + 64 * k + 8 * j) (ones 63 0)))

/-- Whether every page of `n` bytes from a virtual address is homed on a die. -/
def rangeHomed (s : State) (cl ctx die : Nat) (va : W64) (n : Nat) : Bool :=
  (List.range ((va.toNat + n - 1) / 2 ^ 19 - va.toNat / 2 ^ 19 + 1)).all (fun k =>
    homeOfVa s cl ctx (BitVec.ofNat 64 (max va.toNat ((va.toNat / 2 ^ 19 + k) * 2 ^ 19))) == some die)

/-- Whether a present descriptor is well formed, with the bytes of its weights and of its accumulator (R370). -/
def repOk (s : State) (ctx wlen glen : Nat) (r : Rep) : Bool :=
  let last := r.first + r.count - 1
  let pos (n : Nat) : Nat := (getCore s n).pos
  let die := dieOf (pos r.first)
  decide (1 ≤ r.count) && decide (r.count ≤ 16) && decide (1 ≤ r.rsz) && decide (r.land_ % 64 = 0) &&
  inRange s ctx r.first && inRange s ctx last && decide (last < nCores) && r.first / 2048 == last / 2048 &&
  r.wbuf.toNat % 64 == 0 && r.gacc.toNat % 64 == 0 &&
  rangeHomed s (clusterOf (pos r.first)) ctx die r.wbuf wlen &&
  rangeHomed s (clusterOf (pos r.first)) ctx die r.gacc glen &&
  decide (r.land_ + (r.nslot + r.count - 1) / r.count * r.rsz * 64 ≤ 0x10000)

/-- Creation sequences of the descriptors that start serving: ascending from 1 (R369). -/
def giveSeq : Nat → List Rep → List Rep × Nat
  | n, [] => ([], n)
  | n, r :: l =>
    if r.st = .serving then
      let p := giveSeq (n + 1) l
      ({ r with cseq := BitVec.ofNat 16 n } :: p.1, p.2)
    else
      let p := giveSeq n l
      (r :: p.1, p.2)

/-- The expert a configuration block describes; none when it is malformed (R370). -/
def expertFrom (s : State) (cfg : W64) : Option Expert :=
  let a := fld cfg 51 6 * 64
  let o := physWord s a
  let ctx := fld o 39 32
  let wlen := fld (physWord s (a + 0x10)) 39 0
  let glen := fld (physWord s (a + 0x18)) 39 0
  let hnd := physWord s (a + 0x20)
  let hobuf := physWord s (a + 0x28)
  let reps := (List.range 16).map (repOf s a)
  let present := reps.filter (fun r => r.nslot != 0)
  let ok := cfgReserved s a && decide (fld o 43 40 ≤ 8) && decide (fld o 51 48 ≤ 8) && wlen % 64 == 0 && wlen != 0 &&
    glen % 64 == 0 && glen != 0 && hobuf.toNat % 64 == 0 && present.any (fun r => r.st == .serving) &&
    present.all (repOk s ctx wlen glen) && inRange s ctx (fld o 24 0)
  if ok then
    let p := giveSeq 1 reps
    some { Expert.fresh with
      cfg := cfg, st := .live, ctx := ctx, owner := fld o 24 0, growT := fld o 43 40, shrinkT := fld o 51 48
      ws := BitVec.ofNat 32 (physWord s (a + 8)).toNat, wlen := wlen, glen := glen
      fwdh := BitVec.ofNat 32 (fld hnd 31 0), bwdh := BitVec.ofNat 32 (fld hnd 63 32), hobuf := hobuf
      nseq := BitVec.ofNat 16 p.2, reps := p.1 }
  else none

def copyKey (e die : Nat) : Nat := e * 4 + die

/-- The owner's die holds the home copy of an entry (R369). -/
def homeCopy (s : State) (e : Nat) : Nat := dieOf (getCore s (getExp s e).owner).pos

/-- The home copy follows the entry at once. -/
def syncHome (s : State) (e : Nat) : State :=
  s.mapUn (fun u => { u with copies := tput u.copies (copyKey e (homeCopy s e)) (getExp s e) })

/-- EXCFG(n) written: installation with V = 1 on a free entry, removal with V = 0 of a live entry whose replicas are all
retired with no hand-over pending; other writes are ignored (R369, R371). -/
def excfgWrite (s : State) (n : Nat) (w : W64) : State :=
  let x := getExp s n
  let cfg := w &&& (ones 51 6 ||| 1)
  if fld w 0 0 = 1 then
    if x.st ≠ .free then s
    else match expertFrom s cfg with
      | some y => syncHome (putExp s n y) n
      | none => putExp s n { x with err := true }
  else
    if x.st = .live ∧ x.reps.all (fun r => r.st == .retired && !r.hop) then
      { putExp s n { Expert.fresh with cfg := cfg } with
        un := { (putExp s n { Expert.fresh with cfg := cfg }).un with
          copies := s.un.copies.filter (fun p => p.1 / 4 != n) } }
    else s

/-! ### The aperture -/

/-- The 8-byte register at an aligned offset written with `w`: the bits of `mask` are written, the others are those the
register holds. A write acts only through bits it writes (00_scope R4, R5). -/
def apPut (s : State) (off : Nat) (w mask : W64) : State :=
  if off < 0xC000 then
    (match off % 0x1000 with
      | 0x040 => if fld mask 3 2 = 3 then setNewRatio s (off / 0x1000) (fld w 3 2) else s
      | 0x080 => setQarb s (off / 0x1000) w
      | _ => s)
  else if 0x10000 ≤ off ∧ off < 0x10800 then
    s.mapMu (fun m => { m with root := tputD 0 m.root ((off - 0x10000) / 8) (w &&& (ones 51 13 ||| 1)) })
  else if 0x14000 ≤ off ∧ off < 0x14800 then ringDoorbell s ((off - 0x14000) / 8)
  else if off = 0x15000 then s.mapOut (fun o => { o with silEn := BitVec.ofNat 4 w.toNat })
  else if off = 0x15100 then twinSet s w
  else if off = 0x15208 then dstatWrite s (w &&& mask)
  else if 0x15300 ≤ off ∧ off < 0x15320 then
    putDie s ((off - 0x15300) / 8) { getDie s ((off - 0x15300) / 8) with notice := fld w 10 0 }
  else if 0x16000 ≤ off ∧ off < 0x16190 then
    (if off % 16 = 8 then lctlWrite s ((off - 0x16000) / 16) w mask else s)
  else if 0x17000 ≤ off ∧ off < 0x17200 then
    (let k := 8 * (off - 0x17000)
     let clear := ~~~ ((BitVec.ofNat 4096 (2 ^ 64 - 1)) <<< k)
     s.mapOut (fun o => { o with peerauth := (o.peerauth &&& clear) ||| (BitVec.ofNat 4096 w.toNat <<< k) }))
  else if 0x18000 ≤ off ∧ off < 0x18200 then hdmWrite s ((off - 0x18000) / 32) ((off - 0x18000) % 32 / 8) w
  else if off = 0x19008 then s.mapOut (fun o => { o with boot := { o.boot with keep := fld w 0 0 == 1 } })
  else if 0x19200 ≤ off ∧ off < 0x19280 then logPut s ((off - 0x19200) / 32) ((off - 0x19200) % 32 / 8) w
  else if 0x80000 ≤ off ∧ off < 0x100000 then excfgWrite s ((off - 0x80000) / 8) w
  else if 0x200000 ≤ off ∧ off < 0xA00000 then dbgWrite s ((off - 0x200000) / 0x400) ((off - 0x200000) % 0x400) w
  else s

/-- A store of bytes to the aperture: KEY gathers single bytes; any other register takes the bytes beside those it
holds. -/
def apStore (s : State) (off : Nat) (l : List Byte) : State :=
  if 0x12000 ≤ off ∧ off < 0x13000 then keyWrite s ((off - 0x12000) / 64) (off % 64) l
  else
    let base := off / 8 * 8
    let old := (apRead s base).toNat
    let k := 8 * (off % 8)
    let n := 8 * l.length
    let w := old % 2 ^ k + ofBytes l * 2 ^ k + old / 2 ^ (k + n) * 2 ^ (k + n)
    apPut s base (BitVec.ofNat 64 w) (BitVec.ofNat 64 ((2 ^ n - 1) * 2 ^ k))

end Sys2Proof.Machine
end

