-- ==== Sys2Proof/Machine/Numbers.lean ====
section
/-! DEFINITION. Number formats, rounding and conversions (02_numbers R25 to R44). Every finite value is exact:
`(-1)^neg * m * 2^e`. -/
namespace Sys2Proof.Machine

/-- An exact finite value. -/
structure Dy where
  neg : Bool
  m : Nat
  e : Int
  deriving DecidableEq, Repr

/-- What a code denotes (R25, R26). -/
inductive FV
  | fin (d : Dy)
  | inf (neg : Bool)
  | nan (signalling : Bool)
  deriving DecidableEq, Repr

/-- Flags NX UF OF DZ NV in bits 4:0 (R33). -/
abbrev Flags := BitVec 5
def fNV : Flags := 0b00001
def fDZ : Flags := 0b00010
def fOF : Flags := 0b00100
def fUF : Flags := 0b01000
def fNX : Flags := 0b10000

/-- Rounding modes (R33). -/
inductive RM
  | rne | rdn | rup | rtz
  deriving DecidableEq, Repr

def RM.ofCode : Nat → RM
  | 0 => .rne | 1 => .rdn | 2 => .rup | _ => .rtz

def Dy.zero (neg : Bool) : Dy := ⟨neg, 0, 0⟩
def FV.zero (neg : Bool) : FV := .fin (Dy.zero neg)

/-- The parameters of a floating-point format (R25): width, exponent bits, fraction bits, bias, whether it has
infinities, the largest finite magnitude code and the canonical NaN. -/
structure Fmt where
  bits : Nat
  eb : Nat
  fb : Nat
  bias : Int
  hasInf : Bool
  /-- overflow may give infinity (R35) -/
  ovInf : Bool
  maxMag : Nat
  canon : Nat
  deriving DecidableEq, Repr

def fmtF32 : Fmt := ⟨32, 8, 23, 127, true, true, 0x7F7FFFFF, 0x7FC00000⟩
def fmtF16 : Fmt := ⟨16, 5, 10, 15, true, true, 0x7BFF, 0x7E00⟩
def fmtBF16 : Fmt := ⟨16, 8, 7, 127, true, true, 0x7F7F, 0x7FC0⟩
def fmtE4M3 : Fmt := ⟨8, 4, 3, 7, false, false, 0x7E, 0x7F⟩
def fmtE5M2 : Fmt := ⟨8, 5, 2, 15, true, false, 0x7B, 0x7E⟩
def fmtE2M1 : Fmt := ⟨4, 2, 1, 1, false, false, 7, 0⟩

/-- The format of a floating-point element type. -/
def fmtOf : ETy → Option Fmt
  | .f32 => some fmtF32 | .f16 => some fmtF16 | .bf16 => some fmtBF16
  | .e4m3 => some fmtE4M3 | .e5m2 => some fmtE5M2 | .e2m1 => some fmtE2M1
  | _ => none

/-- Width of an element in bits (05_vector R106). -/
def tyWidth : ETy → Nat
  | .f32 | .i32 | .n32 => 32
  | .f16 | .bf16 | .i16 | .n16 => 16
  | .e4m3 | .e5m2 | .i8 | .n8 => 8
  | .e2m1 => 4
  | .i64 | .n64 => 64

/-- The value a sign, exponent and fraction denote when finite (R25). -/
def decFin (f : Fmt) (code : Nat) : Dy :=
  let s := code >>> (f.bits - 1) % 2 == 1
  let e := (code >>> f.fb) % 2 ^ f.eb
  let fr := code % 2 ^ f.fb
  if e = 0 then ⟨s, fr, 1 - f.bias - f.fb⟩ else ⟨s, fr + 2 ^ f.fb, (e : Int) - f.bias - f.fb⟩

/-- `dec` for FP32, FP16, BF16 and E5M2 (R26). -/
def decInf (f : Fmt) (code : Nat) : FV :=
  let s := code >>> (f.bits - 1) % 2 == 1
  let e := (code >>> f.fb) % 2 ^ f.eb
  let fr := code % 2 ^ f.fb
  if e = 2 ^ f.eb - 1 then
    if fr = 0 then .inf s else .nan (fr < 2 ^ (f.fb - 1))
  else .fin (decFin f code)

/-- `dec` for E4M3: the NaN codes are 0x7F and 0xFF, and they are quiet (R26). -/
def decE4M3 (code : Nat) : FV :=
  if code % 128 = 127 then .nan false else .fin (decFin fmtE4M3 code)

/-- `dec` for E2M1: code 0b1000 is the extra value (R27). DESIGN CHOICE (log 55): R27 says both that 0b1000 never decodes as -0 and that
it decodes to the extra value's E4M3 value; where that code is 0x80, the model takes the E4M3 value, which is -0. -/
def decE2M1 (code xval : Nat) : FV :=
  if code % 16 = 8 then decE4M3 (xval % 256) else .fin (decFin fmtE2M1 (code % 16))

/-- An integer as an exact value. -/
def dyOfInt (i : Int) : Dy := ⟨i < 0, i.natAbs, 0⟩

/-- The exact value a code denotes; `xval` serves E2M1 only. -/
def dec (t : ETy) (code xval : Nat) : FV :=
  match t with
  | .f32 => decInf fmtF32 code
  | .f16 => decInf fmtF16 code
  | .bf16 => decInf fmtBF16 code
  | .e5m2 => decInf fmtE5M2 code
  | .e4m3 => decE4M3 code
  | .e2m1 => decE2M1 code xval
  | .i8 => .fin (dyOfInt (sgnOf 8 code)) | .i16 => .fin (dyOfInt (sgnOf 16 code))
  | .i32 => .fin (dyOfInt (sgnOf 32 code)) | .i64 => .fin (dyOfInt (sgnOf 64 code))
  | .n8 => .fin ⟨false, code % 2 ^ 8, 0⟩ | .n16 => .fin ⟨false, code % 2 ^ 16, 0⟩
  | .n32 => .fin ⟨false, code % 2 ^ 32, 0⟩ | .n64 => .fin ⟨false, code % 2 ^ 64, 0⟩

/-- A magnitude `m * 2^e` in units of `2^q`, rounded; the flag says whether it was inexact. -/
def roundTo (neg : Bool) (m : Nat) (e q : Int) (mode : RM) : Nat × Bool :=
  if q ≤ e then (m <<< (e - q).toNat, false)
  else
    let k := (q - e).toNat
    let n := m >>> k
    let r := m % 2 ^ k
    let half := 2 ^ (k - 1)
    let up := match mode with
      | .rne => decide (half < r) || (r == half && n % 2 == 1)
      | .rtz => false
      | .rdn => neg && r != 0
      | .rup => !neg && r != 0
    (n + (if up then 1 else 0), r != 0)

/-- `rnd` of a finite nonzero value into a floating-point format (R35 steps 2 to 5). -/
def rndFin (f : Fmt) (d : Dy) (mode : RM) : Nat × Flags :=
  let lead : Int := d.e + bitLen d.m - 1
  let emin := 1 - f.bias
  -- tininess: rounded with an unbounded exponent
  let q0 := lead - f.fb
  let r0 := roundTo d.neg d.m d.e q0 mode
  let tiny := decide ((bitLen r0.1 : Int) - 1 + q0 < emin)
  let q := (if lead < emin then emin else lead) - f.fb
  let r := roundTo d.neg d.m d.e q mode
  let carry := r.1 ≥ 2 ^ (f.fb + 1)
  let n := if carry then r.1 / 2 else r.1
  let q' := if carry then q + 1 else q
  let mag := if n < 2 ^ f.fb then n else ((q' + f.fb + f.bias).toNat) * 2 ^ f.fb + (n - 2 ^ f.fb)
  let s := if d.neg then 2 ^ (f.bits - 1) else 0
  if f.maxMag < mag then
    let toInf := f.ovInf && (match mode with
      | .rne => true
      | .rtz => false
      | .rdn => d.neg
      | .rup => !d.neg)
    (s + (if toInf then (2 ^ f.eb - 1) * 2 ^ f.fb else f.maxMag), fOF ||| fNX)
  else
    let fl : Flags := if r.2 then (if tiny then fNX ||| fUF else fNX) else 0
    if f.bits = 4 ∧ mag = 0 then (0, fl) else (s + mag, fl)

/-- The bounds of an integer type of `w` bits. -/
def intBounds (signed : Bool) (w : Nat) : Int × Int :=
  if signed then (-(2 ^ (w - 1)), 2 ^ (w - 1) - 1) else (0, 2 ^ w - 1)

/-- `rnd` into an integer type (R32, R35): NX when the rounded integer differs from the source, NV for a source out of
range, with OF and NX when its rounded magnitude passes the bound's own, and UF with NX for a negative source other than
-0 that lands on 0. -/
def rndInt (signed : Bool) (w : Nat) (x : FV) (mode : RM) : Nat × Flags :=
  let b := intBounds signed w
  let code (i : Int) : Nat := (i % 2 ^ w).toNat
  match x with
  | .nan _ => (0, fNV)
  | .inf neg => (code (if neg then b.1 else b.2), fNV ||| fOF ||| fNX ||| (if neg ∧ b.1 = 0 then fUF else 0))
  | .fin d =>
    if d.m = 0 then (0, 0)
    else
      let r := roundTo d.neg d.m d.e 0 mode
      let v : Int := if d.neg then -(r.1 : Int) else r.1
      let c : Int := if v < b.1 then b.1 else if b.2 < v then b.2 else v
      let big : Int := if signed ∧ d.neg then 2 ^ (w - 1) else b.2
      (code c, (if c = v then 0 else fNV) ||| (if r.2 then fNX else 0) |||
        (if big < (r.1 : Int) then fOF ||| fNX else 0) ||| (if d.neg ∧ c = 0 then fUF ||| fNX else 0))

/-- `rnd` into a floating-point format (R35). -/
def rndF (f : Fmt) (x : FV) (mode : RM) : Nat × Flags :=
  let s (neg : Bool) := if neg then 2 ^ (f.bits - 1) else 0
  match x with
  | .nan sig => if f.bits = 4 then (0, fNV) else (f.canon, if sig then fNV else 0)
  | .inf neg =>
    if f.hasInf then (s neg + (2 ^ f.eb - 1) * 2 ^ f.fb, 0) else (s neg + f.maxMag, fOF)
  | .fin d => if d.m = 0 then (if f.bits = 4 then 0 else s d.neg, 0) else rndFin f d mode

/-- The function `rnd(x, fmt, mode)` of R35 for every element type. -/
def rnd (t : ETy) (x : FV) (mode : RM) : Nat × Flags :=
  match t with
  | .f32 => rndF fmtF32 x mode | .f16 => rndF fmtF16 x mode | .bf16 => rndF fmtBF16 x mode
  | .e4m3 => rndF fmtE4M3 x mode | .e5m2 => rndF fmtE5M2 x mode | .e2m1 => rndF fmtE2M1 x mode
  | .i8 => rndInt true 8 x mode | .i16 => rndInt true 16 x mode
  | .i32 => rndInt true 32 x mode | .i64 => rndInt true 64 x mode
  | .n8 => rndInt false 8 x mode | .n16 => rndInt false 16 x mode
  | .n32 => rndInt false 32 x mode | .n64 => rndInt false 64 x mode

/-- The canonical NaN of a format. -/
def canonNaN (t : ETy) : Nat := match fmtOf t with | some f => f.canon | none => 0

/-! ### Exact arithmetic -/

def Dy.toCommon (a : Dy) (e : Int) : Int :=
  let v : Int := (a.m : Int) * 2 ^ (a.e - e).toNat
  if a.neg then -v else v

/-- The exact sum. A sum of exact zero from nonzero terms is +0, or -0 under RDN; zeros of one sign keep it (R125). -/
def Dy.add (a b : Dy) (mode : RM) : Dy :=
  let e := min a.e b.e
  let v := a.toCommon e + b.toCommon e
  if v = 0 then
    if a.m = 0 ∧ b.m = 0 ∧ a.neg = b.neg then Dy.zero a.neg else Dy.zero (mode == .rdn)
  else ⟨v < 0, v.natAbs, e⟩

def Dy.mul (a b : Dy) : Dy := ⟨a.neg != b.neg, a.m * b.m, a.e + b.e⟩
def Dy.negate (a : Dy) : Dy := { a with neg := !a.neg }

/-- Exact comparison of magnitudes with sign. -/
def Dy.lt (a b : Dy) : Bool :=
  let e := min a.e b.e
  decide (a.toCommon e < b.toCommon e)

def Dy.eq (a b : Dy) : Bool :=
  let e := min a.e b.e
  a.toCommon e == b.toCommon e

/-- The integer square root by Newton's rule from above, `fuel` steps. -/
def isqrtGo : Nat → Nat → Nat → Nat
  | 0, _, x => x
  | f + 1, n, x =>
    let y := (x + n / x) / 2
    if y < x then isqrtGo f n y else x

def isqrt (n : Nat) : Nat := if n = 0 then 0 else isqrtGo (bitLen n + 2) n (2 ^ (bitLen n / 2 + 1))

/-- A quotient to about `k` bits, its last bit set when it is not exact, so that every rounding of it is the rounding of
the exact quotient. -/
def quotSticky (neg : Bool) (n d : Nat) (e : Int) (k : Nat) : Dy :=
  let sh := k + bitLen d
  let num := n <<< sh
  let q := num / d
  let r := num % d
  ⟨neg, 2 * q + (if r = 0 then 0 else 1), e - sh - 1⟩

/-- Every value that arithmetic meets, with the flags the meeting raises. -/
abbrev FR := FV × Flags

/-- NaN operands: the canonical NaN, NV for a signalling one (R36). -/
def nanOf (a b : FV) : Option Flags :=
  match a, b with
  | .nan s, .nan t => some (if s || t then fNV else 0)
  | .nan s, _ => some (if s then fNV else 0)
  | _, .nan t => some (if t then fNV else 0)
  | _, _ => none

/-- `a + b` exactly. -/
def fAdd (a b : FV) (mode : RM) : FR :=
  match nanOf a b with
  | some fl => (.nan false, fl)
  | none => match a, b with
    | .inf s, .inf t => if s = t then (.inf s, 0) else (.nan false, fNV)
    | .inf s, _ => (.inf s, 0)
    | _, .inf t => (.inf t, 0)
    | .fin x, .fin y => (.fin (x.add y mode), 0)
    | _, _ => (.nan false, 0)

def FV.negate : FV → FV
  | .fin d => .fin d.negate
  | .inf s => .inf (!s)
  | .nan s => .nan s

/-- `a * b` exactly; 0 * infinity is invalid (R36). -/
def fMul (a b : FV) : FR :=
  match nanOf a b with
  | some fl => (.nan false, fl)
  | none => match a, b with
    | .inf s, .inf t => (.inf (s != t), 0)
    | .inf s, .fin y => if y.m = 0 then (.nan false, fNV) else (.inf (s != y.neg), 0)
    | .fin x, .inf t => if x.m = 0 then (.nan false, fNV) else (.inf (x.neg != t), 0)
    | .fin x, .fin y => (.fin (x.mul y), 0)
    | _, _ => (.nan false, 0)

/-- `a * b + c`, one exact sum; 0 * infinity is invalid even when `c` is a quiet NaN (05_vector R125). -/
def fFma (a b c : FV) (mode : RM) : FR :=
  let p := fMul a b
  let r := fAdd p.1 c mode
  match nanOf a b with
  | some fl => (.nan false, fl ||| (match c with | .nan true => fNV | _ => 0))
  | none => (r.1, p.2 ||| r.2)

/-- `a / b` (R36): a finite nonzero value over zero is a signed infinity with DZ. -/
def fDiv (a b : FV) : FR :=
  match nanOf a b with
  | some fl => (.nan false, fl)
  | none => match a, b with
    | .inf _, .inf _ => (.nan false, fNV)
    | .inf s, .fin y => (.inf (s != y.neg), 0)
    | .fin x, .inf t => (FV.zero (x.neg != t), 0)
    | .fin x, .fin y =>
      if y.m = 0 then (if x.m = 0 then (.nan false, fNV) else (.inf (x.neg != y.neg), fDZ))
      else if x.m = 0 then (FV.zero (x.neg != y.neg), 0)
      else (.fin (quotSticky (x.neg != y.neg) x.m y.m (x.e - y.e) 64), 0)
    | _, _ => (.nan false, 0)

/-- `1 / a` (05_vector R124). -/
def fRcp (a : FV) : FR :=
  match a with
  | .nan s => (.nan false, if s then fNV else 0)
  | .inf s => (FV.zero s, 0)
  | .fin x => if x.m = 0 then (.inf x.neg, fDZ) else (.fin (quotSticky x.neg 1 x.m (-x.e) 64), 0)

/-- `1 / sqrt a`: the square root of `2^(2k) / x` to 64 and more bits, its last bit set when it is not exact. -/
def rsqDy (x : Dy) : Dy :=
  -- x = m * 2^e with e made even
  let odd := x.e % 2 != 0
  let m := if odd then 2 * x.m else x.m
  let e := if odd then x.e - 1 else x.e
  let sh := 2 * (bitLen m + 64)
  let num := 2 ^ sh
  let q := num / m
  let s := isqrt q
  let exact := num % m == 0 && s * s == q
  ⟨false, 2 * s + (if exact then 0 else 1), -(e / 2) - (sh / 2 : Nat) - 1⟩

def fRsq (a : FV) : FR :=
  match a with
  | .nan s => (.nan false, if s then fNV else 0)
  | .inf s => if s then (.nan false, fNV) else (FV.zero false, 0)
  | .fin x =>
    if x.m = 0 then (.inf x.neg, fDZ)
    else if x.neg then (.nan false, fNV)
    else (.fin (rsqDy x), 0)

/-! ### Powers and logarithms to 320 bits -/

/-- Bits of the fixed-point series. -/
def serBits : Nat := 320

/-- `atanh (1 / (2k + 1))`-style series: the sum over odd `i` of `z^i / i` in units of `2^-serBits`, `n` terms. -/
def atanhGo : Nat → Nat → Nat → Nat → Nat
  | 0, _, _, _ => 0
  | n + 1, p, z2, i => p / i + atanhGo n (p * z2 / 2 ^ serBits) z2 (i + 2)

/-- `2 * atanh z` for a fixed-point `z`, which is `ln ((1 + z) / (1 - z))`. -/
def ln2z (z : Nat) : Nat := 2 * atanhGo 340 z (z * z / 2 ^ serBits) 1

/-- `ln 2` in fixed point: `z = 1/3`. -/
def ln2Fix : Nat := ln2z (2 ^ serBits / 3)

/-- `e^y - 1` style series: the sum of `y^k / k!` in fixed point, `n` terms from term `p` of index `k`. -/
def expGo : Nat → Nat → Nat → Nat → Nat
  | 0, _, _, _ => 0
  | n + 1, p, y, k => p + expGo n (p * y / 2 ^ serBits / k) y (k + 1)

/-- `2^f` in fixed point for a fixed-point `f` in [0, 1). -/
def pow2Fix (f : Nat) : Nat := expGo 120 (2 ^ serBits) (f * ln2Fix / 2 ^ serBits) 1

/-- The integer part (towards minus infinity) and the fixed-point fraction of an exact value of moderate size. -/
def dySplit (x : Dy) : Int × Nat :=
  let v : Int := if x.neg then -(x.m : Int) else x.m
  if 0 ≤ x.e then (v * 2 ^ x.e.toNat, 0)
  else
    let k := (-x.e).toNat
    let fl := Int.fdiv v (2 ^ k)
    let fr := (v - fl * 2 ^ k).toNat
    (fl, if k ≤ serBits then fr * 2 ^ (serBits - k) else fr / 2 ^ (k - serBits))

/-- `2^a` (05_vector R124). An integral `a` is exact; any other power of two is irrational, so the last bit is set.
Values beyond the range of every format stand in for the exact power. -/
def fExp2 (a : FV) : FR :=
  match a with
  | .nan s => (.nan false, if s then fNV else 0)
  | .inf s => if s then (FV.zero false, 0) else (.inf false, 0)
  | .fin x =>
    if x.m = 0 then (.fin ⟨false, 1, 0⟩, 0)
    else
      let lead : Int := x.e + bitLen x.m
      if 20 < lead then (.fin ⟨false, 1, if x.neg then -100000 else 100000⟩, 0)
      else if lead < -200 then (.fin ⟨false, if x.neg then 2 ^ 201 - 1 else 2 ^ 201 + 1, -201⟩, 0)
      else
        let p := dySplit x
        if 0 ≤ x.e ∨ p.2 = 0 then (.fin ⟨false, 1, p.1⟩, 0)
        else (.fin ⟨false, 2 * (pow2Fix p.2 / 2 ^ 80) + 1, p.1 - (serBits - 80 : Nat) - 1⟩, 0)

/-- `log2 a` (05_vector R124). A power of two is exact; any other logarithm is irrational. -/
def fLog2 (a : FV) : FR :=
  match a with
  | .nan s => (.nan false, if s then fNV else 0)
  | .inf s => if s then (.nan false, fNV) else (.inf false, 0)
  | .fin x =>
    if x.m = 0 then (.inf true, fDZ)
    else if x.neg then (.nan false, fNV)
    else
      let l := bitLen x.m - 1
      let k : Int := x.e + l
      if x.m = 2 ^ l then (.fin (dyOfInt k), 0)
      else
        -- mantissa f in (1, 2): ln f = 2 atanh ((f - 1) / (f + 1))
        let num := (x.m - 2 ^ l) * 2 ^ serBits
        let z := num / (x.m + 2 ^ l)
        let lg := ln2z z * 2 ^ serBits / ln2Fix
        let tot : Int := k * 2 ^ serBits + lg
        let mag := tot.natAbs / 2 ^ 60
        (.fin ⟨tot < 0, 2 * mag + 1, -((serBits - 60 : Nat) : Int) - 1⟩, 0)

/-! ### Minimum, maximum and comparison (R36, 05_vector R127) -/

/-- Order with -0 below +0. -/
def fLt (a b : FV) : Bool :=
  match a, b with
  | .inf s, .inf t => s && !t
  | .inf s, .fin _ => s
  | .fin _, .inf t => !t
  | .fin x, .fin y => if x.m = 0 ∧ y.m = 0 then x.neg && !y.neg else x.lt y
  | _, _ => false

/-- Equality of values, -0 equal to +0. -/
def fEq (a b : FV) : Bool :=
  match a, b with
  | .inf s, .inf t => s == t
  | .fin x, .fin y => (x.m == 0 && y.m == 0) || x.eq y
  | _, _ => false

/-- MIN and MAX: exactly one NaN gives the other operand; NV for a signalling one (R36). -/
def fMinMax (wantMax : Bool) (a b : FV) : FR :=
  match a, b with
  | .nan s, .nan t => (.nan false, if s || t then fNV else 0)
  | .nan s, y => (y, if s then fNV else 0)
  | x, .nan t => (x, if t then fNV else 0)
  | x, y => (if wantMax then (if fLt x y then y else x) else (if fLt y x then y else x), 0)

def FV.isNaN : FV → Bool | .nan _ => true | _ => false
def FV.isSNaN : FV → Bool | .nan s => s | _ => false

/-- VCMP on floating-point values (05_vector R127). -/
def fCmp (c : Cond) (a b : FV) : Bool × Flags :=
  let anyNaN := a.isNaN || b.isNaN
  let anyS := a.isSNaN || b.isSNaN
  match c with
  | .eq => (!anyNaN && fEq a b, if anyS then fNV else 0)
  | .ne => (anyNaN || !fEq a b, if anyS then fNV else 0)
  | .lt => (!anyNaN && fLt a b && !fEq a b, if anyNaN then fNV else 0)
  | .le => (!anyNaN && (fLt a b || fEq a b), if anyNaN then fNV else 0)

/-- An operation's exact result rounded into a type, with all flags. -/
def roundR (t : ETy) (r : FR) (mode : RM) : Nat × Flags :=
  let p := rnd t r.1 mode
  (p.1, r.2 ||| p.2)

/-! ### Shared-exponent blocks (R29 to R31) -/

def sxM : SxF → Nat | .sx3 => 2 | .sx5 => 4 | .sx8 => 7
def sxBytes : SxF → Nat | .sx3 => 8 | .sx5 => 12 | .sx8 => 18

/-- Element `i` of a block (R30). -/
def sxDec (x : SxF) (block : Nat) (i : Nat) : FV :=
  let e := block % 256
  let mu := (block / 256) % 256
  let m := sxM x
  let f := (block / 65536) >>> (i * (m + 1)) % 2 ^ (m + 1)
  if e = 0xFF then .nan false
  else
    let u := (mu >>> (i / 2)) % 2
    .fin ⟨f / 2 ^ m == 1, f % 2 ^ m, 1 - (m : Int) + e - 127 - u⟩

/-- Magnitudes compared exactly: `a ≤ k * 2^q`. -/
def magLe (a : Dy) (k : Nat) (q : Int) : Bool :=
  let e := min a.e q
  decide (a.m * 2 ^ (a.e - e).toNat ≤ k * 2 ^ (q - e).toNat)

/-- The least exponent code that holds the largest magnitude (R31), searched upward. -/
def sxExp (x : SxF) (big : Dy) : Nat → Nat → Nat
  | 0, e => e
  | f + 1, e => if magLe big (2 ^ sxM x - 1) (1 - (sxM x : Int) + e - 127) then e else sxExp x big f (e + 1)

/-- The larger of two magnitudes. -/
def magMax (a b : Dy) : Dy := if magLe a b.m b.e then b else a

/-- `sxenc` of R31: 16 values to a block with its flags. -/
def sxEnc (x : SxF) (a : List FV) : Nat × Flags :=
  let m := sxM x
  if a.any FV.isNaN then (0xFF, fNV)
  else
    let mags := a.map (fun v => match v with | .fin d => some { d with neg := false } | _ => none)
    let infd := mags.any (fun o => o.isNone)
    let big := mags.foldl (fun b o => match o with | some d => magMax b d | none => b) (Dy.zero false)
    let e := if infd then 254 else sxExp x big 254 0
    -- a magnitude is small when it lies below half the block scale
    let small (i : Nat) : Bool := match mags[i]? with
      | some (some d) => !(magLe ⟨false, 1, (e : Int) - 128⟩ d.m d.e)
      | _ => false
    let mu (j : Nat) : Nat := if small (2 * j) && small (2 * j + 1) then 1 else 0
    let muBits := (List.range 8).foldl (fun s j => s + mu j * 2 ^ j) 0
    let one (i : Nat) : Nat × Flags :=
      let st : Int := 1 - (m : Int) + e - 127 - mu (i / 2)
      match a[i]? with
      | some (.fin d) =>
        let r := roundTo false d.m d.e st .rne
        let sat := decide (2 ^ m - 1 < r.1)
        let q := if sat then 2 ^ m - 1 else r.1
        let fl : Flags := (if sat then fOF ||| fNX else 0) ||| (if r.2 then fNX else 0)
          ||| (if d.m ≠ 0 ∧ q = 0 then fUF else 0)
        ((if d.neg then 2 ^ m else 0) + q, fl)
      | some (.inf s) => ((if s then 2 ^ m else 0) + (2 ^ m - 1), fOF ||| fNX)
      | _ => (0, 0)
    let fields := (List.range 16).map one
    let packed := packNat (m + 1) (fields.map (·.1))
    (e + 256 * muBits + 65536 * packed, fields.foldl (fun f p => f ||| p.2) 0)

/-- E8M0: the exponent of a scale code; 0xFF is a NaN (R28). -/
def e8m0 (s : Nat) : Option Int := if s = 0xFF then none else some ((s : Int) - 127)

/-! ### Sums in the order of R38 to R40 -/

/-- Combine neighbours of a list, keeping a last single one. -/
def pairUp {α : Type} (f : α → α → α) : List α → List α
  | x :: y :: r => f x y :: pairUp f r
  | l => l

/-- The pairwise tree, level by level. -/
def treeGo {α : Type} (f : α → α → α) : Nat → List α → List α
  | 0, l => l
  | n + 1, l => treeGo f n (pairUp f l)

/-- Combine a run left to right. -/
def runUp {α : Type} (f : α → α → α) : List α → Option α
  | [] => none
  | x :: r => some (r.foldl f x)

/-- Consecutive runs of four, each combined left to right (R40). -/
def fours {α : Type} (f : α → α → α) : List α → List α
  | a :: b :: c :: d :: r => f (f (f a b) c) d :: fours f r
  | l => match runUp f l with
    | none => []
    | some x => [x]

/-- The levels of R40 until one value remains. -/
def foursGo {α : Type} (f : α → α → α) : Nat → List α → List α
  | 0, l => l
  | n + 1, l => match l with
    | [] => []
    | [x] => [x]
    | l => foursGo f n (fours f l)

end Sys2Proof.Machine
end

