-- ==== Sys2Proof/Machine/Flags.lean ====
section
/-! DEFINITION. The floating-point flags and modes of a core: FFLAGS, FRM and FP4X (02_numbers R27, R34, R35; 09_context
R225). The flags each operation raises are computed with its result, in Numbers. -/
namespace Sys2Proof.Machine

/-- Flags accumulate in FFLAGS: NV, DZ, OF, UF, NX in bits 0 to 4 (02_numbers R34). -/
def raise (s : State) (f : Flags) : State :=
  if f = 0 then s else s.mapSys (fun r => { r with fflags := r.fflags ||| f.zeroExtend 64 })

/-- FRM.MODE (02_numbers R35). -/
def frm (s : State) : RM := RM.ofCode (fld s.core.sys.frm 1 0)

/-- FP4X.XVAL: what the E2M1 code 0b1000 decodes to (02_numbers R27). -/
def xval (s : State) : Nat := fld s.core.sys.fp4x 7 0

end Sys2Proof.Machine
end

