-- ==== Sys2Proof/Machine/Operands.lean ====
section
/-! DEFINITION. Operand forms: the registers each instruction reads and writes, masks, element lists, and addresses
(03_encoding R47, R57 to R61; 05_vector R106, R109; 04_core R97). -/
namespace Sys2Proof.Machine

/-! ### Masks and elements -/

/-- Whether a mask turns element `i` of a `w`-bit type on (R57); a 4-bit element shares the bit of its pair. -/
def mskOn (s : State) (m : Msk) (w i : Nat) : Bool :=
  if m.m = 0 then true
  else
    let r : Reg := m.m.zeroExtend 5
    ((s.v r).toNat >>> (if w = 4 then i / 2 else i)) % 2 == 1

/-- Elements of a register by width. -/
def elems (v : W512) (w : Nat) : List Nat := (List.range (512 / w)).map (elem v w)

/-- The element list of a result under a mask: an off element keeps its old value, or takes the new one without its flags
in agnostic mode (R58, R109). -/
def maskMerge (s : State) (m : Msk) (w : Nat) (old : W512) (new : List (Nat × Flags)) : List Nat × Flags :=
  let step (acc : List Nat × Flags) (p : (Nat × Flags) × Nat) : List Nat × Flags :=
    if mskOn s m w p.2 then (p.1.1 :: acc.1, acc.2 ||| p.1.2)
    else if m.ag then (p.1.1 :: acc.1, acc.2)
    else (elem old w p.2 :: acc.1, acc.2)
  let r := new.zipIdx.foldl step ([], 0)
  (r.1.reverse, r.2)

/-- The bytes of a unit of a vector access: an element, or the byte of two 4-bit elements (R57, R133). -/
def unitBytes (t : ETy) : Nat := if tyWidth t = 4 then 1 else tyWidth t / 8

/-! ### Scalar sizes -/

def szBytes : Sz → Nat | .b => 1 | .h => 2 | .w => 4 | .d => 8
def wdBytes : Wd → Nat | .w => 4 | .d => 8
def sz3Bits : Sz3 → Nat | .b => 8 | .h => 16 | .w => 32

/-- The rank of a scope (07_ordering R170). -/
def scopeCode : Scope → Nat
  | .core => 0 | .quad => 1 | .cluster => 2 | .die => 3 | .device => 4 | .system => 5

def scopeOf : Nat → Scope
  | 0 => .core | 1 => .quad | 2 => .cluster | 3 => .die | 4 => .device | _ => .system

/-! ### Registers used -/

/-- The scalar and vector registers an instruction names as sources and destinations. -/
structure Uses where
  xr : List Reg
  xw : List Reg
  vr : List Reg
  vw : List Reg
  deriving DecidableEq, Repr

def Uses.nothing : Uses := ⟨[], [], [], []⟩

/-- The mask register as a source. -/
def mskReads (m : Msk) : List Reg := if m.m = 0 then [] else [m.m.zeroExtend 5]

/-- The eight registers of an MMA operand (14_tile R342). -/
def eight (r : Reg) : List Reg := (List.range 8).map (fun i => r + BitVec.ofNat 5 i)

/-- Sources and destinations of every instruction. -/
def uses : Instr → Uses
  | .addShort d a b => ⟨[a, b], [d], [], []⟩
  | .subShort d a b => ⟨[a, b], [d], [], []⟩
  | .andShort d a b => ⟨[a, b], [d], [], []⟩
  | .orShort d a b => ⟨[a, b], [d], [], []⟩
  | .xorShort d a b => ⟨[a, b], [d], [], []⟩
  | .addiShort d a _ => ⟨[a], [d], [], []⟩
  | .shliShort d a _ => ⟨[a], [d], [], []⟩
  | .shriShort d a _ => ⟨[a], [d], [], []⟩
  | .ldiShort d _ => ⟨[], [d], [], []⟩
  | .movShort d a => ⟨[a], [d], [], []⟩
  | .sltShort d a b => ⟨[a, b], [d], [], []⟩
  | .mulShort d a b => ⟨[a, b], [d], [], []⟩
  | .ldDShort d a _ => ⟨[a], [d], [], []⟩
  | .ldWShort d a _ => ⟨[a], [d], [], []⟩
  | .stDShort d a _ => ⟨[d, a], [], [], []⟩
  | .stWShort d a _ => ⟨[d, a], [], [], []⟩
  | .leaShort d a _ => ⟨[a], [d], [], []⟩
  | .brShort _ => Uses.nothing
  | .beqShort d a _ => ⟨[d, a], [], [], []⟩
  | .bneShort d a _ => ⟨[d, a], [], [], []⟩
  | .bzShort d _ => ⟨[d], [], [], []⟩
  | .bnzShort d _ => ⟨[d], [], [], []⟩
  | .callShort _ => ⟨[], [31], [], []⟩
  | .retShort => ⟨[15], [], [], []⟩
  | .vaddF32Short d a b m => ⟨[], [], [a, b] ++ mskReads m, [d]⟩
  | .vmulF32Short d a b m => ⟨[], [], [a, b] ++ mskReads m, [d]⟩
  | .vfmaF32Short d a b m => ⟨[], [], [d, a, b] ++ mskReads m, [d]⟩
  | .vldF32Short d a _ m => ⟨[a], [], mskReads m, [d]⟩
  | .vstF32Short d a _ m => ⟨[a], [], [d] ++ mskReads m, []⟩
  | .sendReqShort d a b => ⟨[a, b], [], [d], []⟩
  | .doneShort => Uses.nothing
  | .add d a b => ⟨[a, b], [d], [], []⟩
  | .sub d a b => ⟨[a, b], [d], [], []⟩
  | .and d a b => ⟨[a, b], [d], [], []⟩
  | .or d a b => ⟨[a, b], [d], [], []⟩
  | .xor d a b => ⟨[a, b], [d], [], []⟩
  | .shl d a b => ⟨[a, b], [d], [], []⟩
  | .shr d a b => ⟨[a, b], [d], [], []⟩
  | .sar d a b => ⟨[a, b], [d], [], []⟩
  | .mul d a b => ⟨[a, b], [d], [], []⟩
  | .mulh d a b => ⟨[a, b], [d], [], []⟩
  | .mulhn d a b => ⟨[a, b], [d], [], []⟩
  | .div d a b => ⟨[a, b], [d], [], []⟩
  | .divn d a b => ⟨[a, b], [d], [], []⟩
  | .rem d a b => ⟨[a, b], [d], [], []⟩
  | .remn d a b => ⟨[a, b], [d], [], []⟩
  | .min d a b => ⟨[a, b], [d], [], []⟩
  | .max d a b => ⟨[a, b], [d], [], []⟩
  | .minn d a b => ⟨[a, b], [d], [], []⟩
  | .maxn d a b => ⟨[a, b], [d], [], []⟩
  | .slt d a b => ⟨[a, b], [d], [], []⟩
  | .sltn d a b => ⟨[a, b], [d], [], []⟩
  | .seq d a b => ⟨[a, b], [d], [], []⟩
  | .sne d a b => ⟨[a, b], [d], [], []⟩
  | .caddr d a b => ⟨[a, b], [d], [], []⟩
  | .csplit d a => ⟨[a], [d], [], []⟩
  | .clz d a => ⟨[a], [d], [], []⟩
  | .ctz d a => ⟨[a], [d], [], []⟩
  | .popc d a => ⟨[a], [d], [], []⟩
  | .brev d a => ⟨[a], [d], [], []⟩
  | .sext _ d a => ⟨[a], [d], [], []⟩
  | .zext _ d a => ⟨[a], [d], [], []⟩
  | .mov d a => ⟨[a], [d], [], []⟩
  | .addi d a _ => ⟨[a], [d], [], []⟩
  | .andi d a _ => ⟨[a], [d], [], []⟩
  | .ori d a _ => ⟨[a], [d], [], []⟩
  | .xori d a _ => ⟨[a], [d], [], []⟩
  | .shli d a _ => ⟨[a], [d], [], []⟩
  | .shri d a _ => ⟨[a], [d], [], []⟩
  | .sari d a _ => ⟨[a], [d], [], []⟩
  | .lea d a _ => ⟨[a], [d], [], []⟩
  | .ldi d _ => ⟨[], [d], [], []⟩
  | .ldih d _ => ⟨[d], [d], [], []⟩
  | .br _ => Uses.nothing
  | .call _ => ⟨[], [31], [], []⟩
  | .beq d a _ => ⟨[d, a], [], [], []⟩
  | .bne d a _ => ⟨[d, a], [], [], []⟩
  | .blt d a _ => ⟨[d, a], [], [], []⟩
  | .bge d a _ => ⟨[d, a], [], [], []⟩
  | .bltn d a _ => ⟨[d, a], [], [], []⟩
  | .bgen d a _ => ⟨[d, a], [], [], []⟩
  | .bz d _ => ⟨[d], [], [], []⟩
  | .bnz d _ => ⟨[d], [], [], []⟩
  | .jmpr a => ⟨[a], [], [], []⟩
  | .callr a => ⟨[a], [31], [], []⟩
  | .ret => ⟨[15], [], [], []⟩
  | .nop => Uses.nothing
  | .align _ => Uses.nothing
  | .dly _ => Uses.nothing
  | .srr d _ => ⟨[], [d], [], []⟩
  | .srw d _ => ⟨[d], [], [], []⟩
  | .srset d _ => ⟨[d], [], [], []⟩
  | .srclr d _ => ⟨[d], [], [], []⟩
  | .tret => Uses.nothing
  | .wfi => Uses.nothing
  | .halt => Uses.nothing
  | .ctxsw a b => ⟨[a, b], [], [], []⟩
  | .trap _ => Uses.nothing
  | .brk _ => Uses.nothing
  | .ld _ d a _ => ⟨[a], [d], [], []⟩
  | .st _ d a _ => ⟨[d, a], [], [], []⟩
  | .ldx _ d a b => ⟨[a, b], [d], [], []⟩
  | .stx _ d a b => ⟨[d, a, b], [], [], []⟩
  | .ldf _ d a => ⟨[a], [d], [], []⟩
  | .ldfTagged _ a b => ⟨[a, b], [], [], []⟩
  | .stf _ d a b => ⟨[d, a, b], [], [], []⟩
  | .pref _ a _ => ⟨[a], [], [], []⟩
  | .ifence => Uses.nothing
  | .discard a b => ⟨[a, b], [a, b], [], []⟩
  | .fence _ => Uses.nothing
  | .fenceAcq _ => Uses.nothing
  | .fenceRel _ => Uses.nothing
  | .ldaq _ _ d a => ⟨[a], [d], [], []⟩
  | .strl _ _ d a => ⟨[d, a], [], [], []⟩
  | .atomAdd _ d a b => ⟨[a, b], [d], [], []⟩
  | .atomAnd _ d a b => ⟨[a, b], [d], [], []⟩
  | .atomOr _ d a b => ⟨[a, b], [d], [], []⟩
  | .atomXor _ d a b => ⟨[a, b], [d], [], []⟩
  | .atomMin _ d a b => ⟨[a, b], [d], [], []⟩
  | .atomMax _ d a b => ⟨[a, b], [d], [], []⟩
  | .atomMinn _ d a b => ⟨[a, b], [d], [], []⟩
  | .atomMaxn _ d a b => ⟨[a, b], [d], [], []⟩
  | .atomSwap _ d a b => ⟨[a, b], [d], [], []⟩
  | .cas _ d a b => ⟨[d, a, b], [d], [], []⟩
  | .binc _ d a b => ⟨[a, b], [d], [], []⟩
  | .waita _ d a b => ⟨[d, a, b], [d], [], []⟩
  | .tlbinv a b => ⟨[a, b], [], [], []⟩
  | .pgq d a b => ⟨[a, b], [d], [], []⟩
  | .pgpin d a b => ⟨[a, b], [d], [], []⟩
  | .vadd _ d a b m => ⟨[], [], [a, b] ++ mskReads m, [d]⟩
  | .vsub _ d a b m => ⟨[], [], [a, b] ++ mskReads m, [d]⟩
  | .vmul _ d a b m => ⟨[], [], [a, b] ++ mskReads m, [d]⟩
  | .vdiv _ d a b m => ⟨[], [], [a, b] ++ mskReads m, [d]⟩
  | .vfma _ d a b m => ⟨[], [], [d, a, b] ++ mskReads m, [d]⟩
  | .vfms _ d a b m => ⟨[], [], [d, a, b] ++ mskReads m, [d]⟩
  | .vfnma _ d a b m => ⟨[], [], [d, a, b] ++ mskReads m, [d]⟩
  | .vmin _ d a b m => ⟨[], [], [a, b] ++ mskReads m, [d]⟩
  | .vmax _ d a b m => ⟨[], [], [a, b] ++ mskReads m, [d]⟩
  | .vabs _ d a m => ⟨[], [], [a] ++ mskReads m, [d]⟩
  | .vneg _ d a m => ⟨[], [], [a] ++ mskReads m, [d]⟩
  | .vrcp _ d a m => ⟨[], [], [a] ++ mskReads m, [d]⟩
  | .vrsq _ d a m => ⟨[], [], [a] ++ mskReads m, [d]⟩
  | .vexp2 _ d a m => ⟨[], [], [a] ++ mskReads m, [d]⟩
  | .vlog2 _ d a m => ⟨[], [], [a] ++ mskReads m, [d]⟩
  | .vand _ d a b m => ⟨[], [], [a, b] ++ mskReads m, [d]⟩
  | .vor _ d a b m => ⟨[], [], [a, b] ++ mskReads m, [d]⟩
  | .vxor _ d a b m => ⟨[], [], [a, b] ++ mskReads m, [d]⟩
  | .vnot _ d a m => ⟨[], [], [a] ++ mskReads m, [d]⟩
  | .vshl _ d a b m => ⟨[], [], [a, b] ++ mskReads m, [d]⟩
  | .vshr _ d a b m => ⟨[], [], [a, b] ++ mskReads m, [d]⟩
  | .vsar _ d a b m => ⟨[], [], [a, b] ++ mskReads m, [d]⟩
  | .vdot _ d a b m => ⟨[], [], [d, a, b] ++ mskReads m, [d]⟩
  | .vsel _ d a b m => ⟨[], [], [a, b] ++ mskReads m, [d]⟩
  | .vcmp _ _ d a b m => ⟨[], [], [a, b] ++ mskReads m, [d]⟩
  | .vred _ _ d a m => ⟨[], [], [a] ++ mskReads m, [d]⟩
  | .vscan _ _ d a m => ⟨[], [], [a] ++ mskReads m, [d]⟩
  | .vcvt _ _ d a m => ⟨[], [], [a] ++ mskReads m, [d]⟩
  | .vperm _ d a b m => ⟨[], [], [a, b] ++ mskReads m, [d]⟩
  | .vbcast _ d a m => ⟨[a], [], mskReads m, [d]⟩
  | .vins _ d a b => ⟨[a, b], [], [d], [d]⟩
  | .vext _ d a b => ⟨[b], [d], [a], []⟩
  | .vld _ d a _ m => ⟨[a], [], mskReads m, [d]⟩
  | .vst _ d a _ m => ⟨[a], [], [d] ++ mskReads m, []⟩
  | .vlds _ d a b m => ⟨[a, b], [], mskReads m, [d]⟩
  | .vsts _ d a b m => ⟨[a, b], [], [d] ++ mskReads m, []⟩
  | .vldx _ d a b m => ⟨[a], [], [b] ++ mskReads m, [d]⟩
  | .vstx _ d a b m => ⟨[a], [], [d, b] ++ mskReads m, []⟩
  | .vsxpack _ _ d a => ⟨[], [], [a], [d]⟩
  | .vsxunpack _ _ d a => ⟨[], [], [a], [d]⟩
  | .mand d a b => ⟨[], [], [a, b], [d]⟩
  | .mor d a b => ⟨[], [], [a, b], [d]⟩
  | .mnot d a => ⟨[], [], [a], [d]⟩
  | .mpopc d a => ⟨[], [d], [a], []⟩
  | .mfirst d a => ⟨[], [d], [a], []⟩
  | .mset d a => ⟨[a], [], [], [d]⟩
  | .vclaim _ => Uses.nothing
  | .vyield _ => Uses.nothing
  | .vgive a _ => ⟨[a], [], [], []⟩
  | .vtake d _ => ⟨[], [d], [], []⟩
  | .vframes d => ⟨[], [d], [], []⟩
  | .mma _ d a b => ⟨[d], [], eight a ++ eight b, []⟩
  | .mtsub d a => ⟨[a], [d], [], []⟩
  | .mgang d a b => ⟨[a, b], [d], [], []⟩
  | .mdrainHandle d a b => ⟨[a, b], [d], [], []⟩
  | .mdrainTicket d a b => ⟨[a, b], [d], [], []⟩
  | .mclrReserve d a => ⟨[a], [d], [], []⟩
  | .mclrRelease d a => ⟨[a], [d], [], []⟩
  | .mclrClear d a => ⟨[a], [d], [], []⟩
  | .mclrTicket d a => ⟨[a], [d], [], []⟩
  | .mscl _ a b => ⟨[a, b], [], [], []⟩
  | .mstat d a b => ⟨[a, b], [d], [], []⟩
  | .mwait d a => ⟨[a], [d], [], []⟩
  | .send _ d a b => ⟨[a, b], [], [d], []⟩
  | .sendb d a b => ⟨[a, b], [], [d], []⟩
  | .mcast _ d a b => ⟨[a, b], [], [d], []⟩
  | .done => Uses.nothing
  | .inbq d a => ⟨[a], [d], [], []⟩
  | .bind d a b => ⟨[a, b], [d], [], []⟩
  | .unbind d a => ⟨[a], [d], [], []⟩
  | .qtry d _ => ⟨[], [d], [], []⟩
  | .qw _ a => ⟨[a], [], [], []⟩
  | .qr d _ => ⟨[], [d], [], []⟩
  | .fork d a b => ⟨[b], [d], [a], []⟩
  | .join d a => ⟨[a], [d], [], []⟩
  | .joinCont d a b => ⟨[a, b], [d], [], []⟩
  | .klaunch d a => ⟨[a], [d], [], []⟩
  | .kwait d a => ⟨[a], [d], [], []⟩
  | .yield a b => ⟨[b], [], [a], []⟩
  | .gmake d a b => ⟨[a, b], [d], [], []⟩
  | .gdrop a => ⟨[a], [], [], []⟩
  | .ginfo d a b => ⟨[a, b], [d], [], []⟩
  | .pair d a => ⟨[a], [d], [], []⟩
  | .unpair => Uses.nothing
  | .bcfg d a b => ⟨[a, b], [d], [], []⟩
  | .barr d a b => ⟨[a, b], [d], [], []⟩
  | .bwait d a b => ⟨[a, b], [d], [], []⟩
  | .barw d a b => ⟨[a, b], [d, b], [], []⟩
  | .bqry d a b => ⟨[a, b], [d], [], []⟩
  | .bleave d a => ⟨[a], [d], [], []⟩
  | .cpy _ a => ⟨[a], [], [], []⟩
  | .cpyf _ a => ⟨[a], [], [], []⟩
  | .gath _ a => ⟨[a], [], [], []⟩
  | .scat _ a => ⟨[a], [], [], []⟩
  | .strm _ a => ⟨[a], [], [], []⟩
  | .strmx d _ => ⟨[], [d], [], []⟩
  | .cpyst d a b => ⟨[a, b], [d], [], []⟩
  | .exroute d a b => ⟨[a, b], [d], [], []⟩
  | .exback d a b => ⟨[a, b], [d], [], []⟩
  | .exgrow d a => ⟨[a], [d], [], []⟩
  | .exretire d a b => ⟨[a, b], [d], [], []⟩
  | .exjoin d a b => ⟨[a, b], [d], [], []⟩
  | .exupd d a b => ⟨[a, b], [d], [], []⟩
  | .exstat d a b => ⟨[a, b], [d], [], []⟩
  | .hsift d a b => ⟨[a, b], [d], [], []⟩
  | .nnq _ a => ⟨[a], [], [], []⟩
  | .nnres _ a b => ⟨[a, b], [], [], []⟩
  | .nncan d a => ⟨[a], [d], [], []⟩
  | .nnload d a b => ⟨[a, b], [d], [], []⟩
  | .nnstat d a b => ⟨[a, b], [d], [], []⟩
  | .reside d => ⟨[], [d], [], []⟩
  | .unreside d => ⟨[], [d], [], []⟩
  | .swapq d a => ⟨[a], [d], [], []⟩
  | .aredSum d a b => ⟨[b], [b], [a], [d]⟩
  | .aredMax d a b => ⟨[b], [b], [a], [d]⟩
  | .aredMin d a b => ⟨[b], [b], [a], [d]⟩
  | .agath d a b => ⟨[d, b], [b], [a], []⟩
  | .interruptEntry => Uses.nothing
  | .sliceExpiry => Uses.nothing
  | .fetchBlockArrival => Uses.nothing
  | .alignRelease => Uses.nothing
  | .waitComplete => Uses.nothing
  | .claimServed => Uses.nothing
  | .poolStall => Uses.nothing
  | .frameImageAck => Uses.nothing
  | .reloadServed => Uses.nothing
  | .vtakeTimeout => Uses.nothing
  | .loadReply => Uses.nothing
  | .remoteAccessAtHome => Uses.nothing
  | .atomicAtHome => Uses.nothing
  | .storeAck => Uses.nothing
  | .waitaWake => Uses.nothing
  | .waitaPoll => Uses.nothing
  | .waitaTimeout => Uses.nothing
  | .ratioChangeRequest => Uses.nothing
  | .stackRetrainStart => Uses.nothing
  | .forcedRetrain => Uses.nothing
  | .stackRetrainComplete => Uses.nothing
  | .rowExchange => Uses.nothing
  | .rowExchangeComplete => Uses.nothing
  | .refreshIntervalEnd => Uses.nothing
  | .clockBeat => Uses.nothing
  | .beatArrival => Uses.nothing
  | .crossDieWriteApply => Uses.nothing
  | .rdcSweep => Uses.nothing
  | .hostMemWrite => Uses.nothing
  | .hostMemRead => Uses.nothing
  | .hostCacheSnoop => Uses.nothing
  | .hostDoorbell => Uses.nothing
  | .pageWalkComplete => Uses.nothing
  | .keyWrite => Uses.nothing
  | .contextAllocate => Uses.nothing
  | .contextTeardown => Uses.nothing
  | .saveComplete => Uses.nothing
  | .restoreComplete => Uses.nothing
  | .messageArrival => Uses.nothing
  | .attachmentComplete => Uses.nothing
  | .mcastCopy => Uses.nothing
  | .qbindWrite => Uses.nothing
  | .portResult => Uses.nothing
  | .graphAdmission => Uses.nothing
  | .nodeStart => Uses.nothing
  | .kernelRunning => Uses.nothing
  | .nodeComplete => Uses.nothing
  | .waitNodeSatisfied => Uses.nothing
  | .waitNodeTimeout => Uses.nothing
  | .graphEnd => Uses.nothing
  | .weightSwitchCopy => Uses.nothing
  | .weightSwitchCommit => Uses.nothing
  | .dequeSteal => Uses.nothing
  | .joinContinuation => Uses.nothing
  | .barrierTimeout => Uses.nothing
  | .mmaApply => Uses.nothing
  | .sharePlacement => Uses.nothing
  | .shareAgeing => Uses.nothing
  | .tileChunk => Uses.nothing
  | .drainComplete => Uses.nothing
  | .shapeDecrementAtHome => Uses.nothing
  | .tileFaultTrap => Uses.nothing
  | .copyBlockRead => Uses.nothing
  | .copyPieceStart => Uses.nothing
  | .copyComplete => Uses.nothing
  | .completionQueueAppend => Uses.nothing
  | .gatherRowAtOwner => Uses.nothing
  | .streamStripFetch => Uses.nothing
  | .excfgInstall => Uses.nothing
  | .excfgRemove => Uses.nothing
  | .directoryCopyUpdate => Uses.nothing
  | .reservationAtPort => Uses.nothing
  | .expertRowPulled => Uses.nothing
  | .accordEvaluation => Uses.nothing
  | .replicaFillComplete => Uses.nothing
  | .handoverStart => Uses.nothing
  | .handoverComplete => Uses.nothing
  | .queryVectorRead => Uses.nothing
  | .querySchedule => Uses.nothing
  | .distanceBatch => Uses.nothing
  | .queryHop => Uses.nothing
  | .queryResume => Uses.nothing
  | .queryComplete => Uses.nothing
  | .queryAgeing => Uses.nothing
  | .arbWindowClose => Uses.nothing
  | .attarStarvation => Uses.nothing
  | .swapInstant => Uses.nothing
  | .swapSubround => Uses.nothing
  | .swapExchangeComplete => Uses.nothing
  | .forwardingEnd => Uses.nothing
  | .linkTrainingComplete => Uses.nothing
  | .linkLaneLoss => Uses.nothing
  | .linkErrorThreshold => Uses.nothing
  | .linkRetrainComplete => Uses.nothing
  | .linkFlitArrival => Uses.nothing
  | .lctlEnWrite => Uses.nothing
  | .lctlQrel => Uses.nothing
  | .lctlRetrain => Uses.nothing
  | .twinWrite => Uses.nothing
  | .dstatWfaultClear => Uses.nothing
  | .ptpSync => Uses.nothing
  | .collectiveContribution => Uses.nothing
  | .collectiveResult => Uses.nothing
  | .collectiveTimeout => Uses.nothing
  | .powerOnReset => Uses.nothing
  | .coldStart => Uses.nothing
  | .warmStart => Uses.nothing
  | .drydownReplan => Uses.nothing
  | .debugHaltRequest => Uses.nothing
  | .debugResume => Uses.nothing
  | .debugStep => Uses.nothing
  | .debugClrdly => Uses.nothing
  | .debugDataWrite => Uses.nothing
  | .logControlWrite => Uses.nothing
  | .replayStall => Uses.nothing
  | .delukIdentity => Uses.nothing
  | .delukStatus => Uses.nothing
  | .delukNotices => Uses.nothing
  | .delukDebug => Uses.nothing
  | .delukFirmware => Uses.nothing
  | .delukPower => Uses.nothing
  | .delukReset => Uses.nothing
  | .registerWrite => Uses.nothing
  | .spillBufferWrite => Uses.nothing
  | .backInvalidateResponse => Uses.nothing

end Sys2Proof.Machine
end

