-- ==== Sys2Proof/Machine/Access.lean ====
section
/-! DEFINITION. A core's accesses: loads, stores, atomics, releases and acquires, and the packets they send
(06_memory R157 to R166; 07_ordering R170 to R181; 12_group R299 to R301; 22_resident R418; 25_life R447). -/
namespace Sys2Proof.Machine

/-! ### Watchpoints and traffic counts -/

/-- A load or store of `n` bytes at `ea` meets the watchpoints (25_life R447). -/
def watchAt (s : State) (ea : W64) (n : Nat) (store : Bool) : State :=
  let d := getDbg s s.core.pos
  if d.wpc.isEmpty then s
  else
    let hit (i : Nat) : Bool :=
      let c := tgetD d.wpc i 0
      let lo := (tgetD d.wpa i 0).toNat
      let kind := if store then 61 else 62
      fld c 63 63 == 1 && fld c kind kind == 1 && decide (lo < ea.toNat + n) && decide (ea.toNat < lo + 2 ^ fld c 5 0)
    match firstNat hit 2, s.core.issue.watch with
    | some i, none => { s with core := { s.core with issue := { s.core.issue with watch := some i } } }
    | _, _ => s

/-- The entry of lowest CNT, lowest index on a tie. -/
def lowCount (t : Tbl W64) : Nat :=
  (List.range 8).foldl (fun b i => if fld (tgetD t i 0) 31 0 < fld (tgetD t b 0) 31 0 then i else b) 0

/-- One flit counted toward a destination (22_resident R418). -/
def flitOnce (t : Tbl W64) (dest : Nat) : Tbl W64 :=
  match firstNat (fun i => fld (tgetD t i 0) 63 63 == 1 && fld (tgetD t i 0) 56 32 == dest) 8 with
  | some i =>
    let w := tgetD t i 0
    if fld w 31 0 = 2 ^ 32 - 1 then t else tputD 0 t i (w + 1)
  | none =>
    let i := lowCount t
    let c := fld (tgetD t i 0) 31 0
    tputD 0 t i (BitVec.ofNat 64 (2 ^ 63 + dest * 2 ^ 32 + min (c + 1) (2 ^ 32 - 1)))

/-- `k` flits to a logical core are counted while the task is movable (R418). -/
def countFlits (s : State) (dest k : Nat) : State :=
  if !s.core.task.mov then s
  else s.mapCore (fun c => { c with task := { c.task with
    sdest := (List.range k).foldl (fun t _ => flitOnce t dest) c.task.sdest } })

/-- The same for a core that need not be in focus, and whose context need not be resident there. -/
def countFor (s : State) (n ctx dest k : Nat) : State :=
  modTask s ctx n (fun c => if !c.task.mov then c else { c with task := { c.task with
    sdest := (List.range k).foldl (fun t _ => flitOnce t dest) c.task.sdest } })

/-- The flits of an access to another core's local memory. -/
def countPlace (s : State) (place : Place) (k : Nat) : State :=
  match place with
  | .loc n => if n = s.core.num then s else countFlits s n k
  | _ => s

/-- The flit of a far access, which leaves the core even for its own local memory (06_memory R161). -/
def countFar (s : State) (place : Place) : State :=
  match place with
  | .loc n => countFlits s n 1
  | _ => s

/-- The same once the access has left; one that waits counts nothing. -/
def countSent (place : Place) (k : Nat) (r : Eff) : Eff := r.map (fun t => countPlace t place k)

/-! ### Packets of the core in focus -/

/-- The time window of this moment: W is TWIN units of 500 ns (07_ordering R179; 23_link R431). -/
def windowNow (s : State) : Nat := s.out.time / (s.out.twin * 500)

def corePacket (s : State) (addr : W64) (body : Body) : Packet :=
  { id := s.nextId, src := .core s.core.num, ctx := ctxNum s.core, asid := curAsid s.core, die := dieOf s.core.pos
    stamp := (getDie s (dieOf s.core.pos)).vc, sent := s.cycle, window := windowNow s, addr := addr, body := body
    st := .flying, counted := false, park := none }

/-- A packet goes into flight. -/
def launch (s : State) (p : Packet) : State :=
  let t := match p.body.place with
    | some place => leaves s p.die place p.body.lines
    | none => s
  let t := { t with net := t.net ++ [p], nextId := max t.nextId (p.id + 1) }
  if p.toPeer then carry (t.mapCore (fun c => { c with peerWindow := some p.window })) p else t

/-! ### The comparison buffer of a checked pair (12_group R299 to R301) -/

/-- A message without what differs between the two members of a pair. -/
def msgPlain (m : Msg) : Msg :=
  { m with sender := 0, stime := 0, src := .host, clock := Clock.zero, age := 0, arrived := 0, origin := .plain }

/-- What is compared: kind, address, size and data. -/
def Body.plain : Body → Body
  | .msg d m a => .msg d (msgPlain m) a
  | b => b

def sameEntry (p q : Packet) : Bool := p.addr == q.addr && p.body.plain == q.body.plain

/-- The new value of a word of `bits` bits. -/
def atomNew (op : AOp) (bits old expect arg : Nat) : Nat :=
  let o := old % 2 ^ bits
  let x := arg % 2 ^ bits
  match op with
  | .add => (o + x) % 2 ^ bits
  | .and => o &&& x
  | .or => o ||| x
  | .xor => o ^^^ x
  | .min => if sgnOf bits o ≤ sgnOf bits x then o else x
  | .max => if sgnOf bits x ≤ sgnOf bits o then o else x
  | .minn => min o x
  | .maxn => max o x
  | .swap => x
  | .cas => if o = expect % 2 ^ bits then x else o
  | .binc => if o < x then (o + 1) % 2 ^ bits else o

/-- Cells that lie one after another in the aperture are stored there. -/
def apStoreCells (s : State) (cells : List Host.Cell) : State :=
  match cells with
  | [] => s
  | c :: l => apStore s c.1 (c.2 :: l.map (·.2))

/-- A command enters a queue register's FIFO. -/
def pushCmd (s : State) (n q : Nat) (c : QCmd) : State :=
  modCore s n (fun k => setQ k q { getQ k q with cmd := (getQ k q).cmd ++ [c] })

/-- A matched entry leaves: a packet, a command for its queue register, or an access to a register of the aperture. -/
def releaseEntry (s : State) (x : Packet) : State :=
  match x.body, x.src with
  | .cmd _ _ (some (q, c)), .core n => pushCmd s n q c
  | .cmd _ _ _, _ => s
  | .store .aperture cells, _ => apStoreCells s cells
  | .atomic .aperture key n op e a, _ =>
    apStore s key (bytesOf (atomNew op (8 * n) (ofBytes (apLoad s key n)) e.toNat a.toNat) n)
  | _, _ => launch s { x with counted := true }

/-- The matched entries at the head of both sides leave, one copy of each, `n` of them. -/
def releaseEntries (s : State) (g : Nat) : Nat → State
  | 0 => s
  | n + 1 =>
    let p := getPair s g
    match p.lead, p.follow with
    | x :: l, _ :: f =>
      releaseEntries (releaseEntry (putPair s g { p with lead := l, follow := f }) x) g n
    | _, _ => s

/-- An entry joins the side of the core in focus, and is compared when the other side has its like; once 64 entries are
matched the oldest leaves (R299 to R301). -/
def pairPush (s : State) (g m : Nat) (e : Packet) : Eff :=
  let ahead := leads s s.core.num m
  let p := getPair s g
  let mine := if ahead then p.lead else p.follow
  let theirs := if ahead then p.follow else p.lead
  let joined := putPair { s with nextId := s.nextId + 1 } g
    (if ahead then { p with lead := mine ++ [e] } else { p with follow := mine ++ [e] })
  if 64 ≤ mine.length then waitPlain s
  else match theirs[mine.length]? with
    | some o =>
      if sameEntry e o then .ok (if mine.length = 63 then releaseEntries joined g 1 else joined)
      else .error (.over (pairMismatch s g 0 mine.length))
    | none => .ok joined

/-- Whether a member of a pair waits for its engine command to be matched. -/
def atCommand (c : Core) : Bool := (c.wait.map (·.what)) == some .command

/-- A release point of a checked pair's member: it waits for the other, then every entry is released (R300). `extra` is
what UNPAIR, which enters the comparison stream itself, adds to the count. -/
def pairPointAs (s : State) (extra : Nat) : Eff :=
  match partnerOf s s.core.num with
  | none => .ok s
  | some (g, m) =>
    match s.core.wait with
    | some ⟨_, .paired _⟩ => .ok s
    | some ⟨_, .stepped⟩ => .ok s
    | some ⟨_, .command⟩ => .ok s
    | some ⟨_, .answered _⟩ => .ok s
    | _ =>
      if !s.core.mail.mcast.isEmpty then waitPlain s
      else
      let ahead := leads s s.core.num m
      let p := getPair s g
      let mine := (if ahead then p.lead else p.follow).length
      let all := mine + extra
      match (if ahead then p.followAt else p.leadAt) with
      | none =>
        if atCommand (getCore s m) && decide (mine < (if ahead then p.follow else p.lead).length) then
          .error (.over (pairMismatch s g 1 mine))
        else waitPlain (putPair s g (if ahead then { p with leadAt := some all } else { p with followAt := some all }))
      | some theirs =>
        if all ≠ theirs then .error (.over (pairMismatch s g 1 (min all theirs)))
        else
          let t := releaseEntries (putPair s g { p with leadAt := none, followAt := none }) g mine
          .ok (modCore t m (fun c => { c with wait := c.wait.map (fun w => ⟨w.since, .paired g⟩) }))

/-- A FENCE or DONE of a checked pair's member. -/
def pairPoint (s : State) : Eff := pairPointAs s 0

/-! ### Releases (07_ordering R173, R177, R179) -/

/-- Packets a release at a scope waits for: none at .core, otherwise every store counted under R158 but those to peer
chips (R170); a release at .system waits for those too while a window fault stands (23_link R432). -/
def releaseIds (s : State) (scope : Scope) : List Nat :=
  if scope = .core then []
  else ((unacked s s.core.num).filter (fun p => !p.toPeer || (scope == .system && s.out.wfault))).map (·.id)

/-- Whether the window rule of R179 is met for the last store to a peer chip. -/
def windowMet (s : State) (w : Option Nat) : Bool :=
  match w with
  | none => true
  | some n => decide (n + 2 ≤ windowNow s)

def steps (scope : Scope) : Bool := decide (4 ≤ scopeCode scope)

/-- One mark of the core in focus: it steps the counter when its stores are acknowledged, and goes when its window has
closed. -/
def settleMark (s : State) (m : RelMark) : State × Option RelMark :=
  let left := m.packets.filter (stillOut s s.core.num)
  -- a window fault that arises meanwhile adds the stores to peer chips (23_link R432); later ones are held by the mark
  let late := m.scope == .system && s.out.wfault && (unacked s s.core.num).any Packet.toPeer
  if !left.isEmpty then (s, some { m with packets := left })
  else
    let t := if m.packets.isEmpty then s else if steps m.scope then stepRelease s (dieOf s.core.pos) else s
    if windowMet t m.window && !late then (t, none) else (t, some { m with packets := [] })

/-- The marks of the core in focus as they stand now. -/
def settleMarks (s : State) : State :=
  if s.core.marks.isEmpty then s
  else
    let r := s.core.marks.foldl (fun (acc : State × List RelMark) m =>
      match settleMark acc.1 m with
      | (t, some k) => (t, acc.2 ++ [k])
      | (t, none) => (t, acc.2)) (s, [])
    r.1.mapCore (fun c => { c with marks := r.2 })

/-- Whether later stores, messages and commands are held at issue (R173, R203). -/
def held (s : State) : Bool := !s.core.marks.isEmpty

/-- FENCE.rel at a scope: later stores are held until the release conditions hold (R203). -/
def relMark (s : State) (scope : Scope) : State :=
  let t := settleMarks s
  let ids := releaseIds t scope
  let window := if scope = .system then t.core.peerWindow else none
  if ids.isEmpty then
    let u := if steps scope then stepRelease t (dieOf t.core.pos) else t
    if windowMet u window then u else u.mapCore (fun c => { c with marks := c.marks ++ [⟨scope, [], window⟩] })
  else t.mapCore (fun c => { c with marks := c.marks ++ [⟨scope, ids, window⟩] })

/-- A release that the core waits for: its own stores are acknowledged, then the counter steps, then its time window closes
(R173). Marks of other releases hold later stores and nothing here. Its register results have landed when it is over; while
it waits, what it has read stands (03_encoding R61). -/
def relNow (s : State) (scope : Scope) : Eff :=
  let t := settleMarks s
  let window := if scope = .system then t.core.peerWindow else none
  let stepped := match t.core.wait with
    | some ⟨_, .stepped⟩ => true
    | some ⟨_, .command⟩ => true
    | some ⟨_, .answered _⟩ => true
    | _ => false
  if !(releaseIds t scope).isEmpty then waitPlain t
  else
    let u := if steps scope && !stepped then stepRelease t (dieOf t.core.pos) else t
    if windowMet u window then .ok (landAll u) else .error (.wait u .stepped)

/-- An acquire at a scope that observed a clock (R174). -/
def acquireAt (s : State) (scope : Scope) (c : Clock) : State := if steps scope then acquire s c else dropFetched s

/-- A reply from a home on another die brings that die's clock: the die keeps what is largest, and the next acquire fence
merges it. The clock of the core's own die stands with the die (R174, R177; log 29). -/
def noteReply (s : State) (place : Place) (c : Clock) : State :=
  let d := dieOf s.core.pos
  match homeOf s place with
  | some h =>
    if h = d then s
    else (learn s d c).mapCore (fun k => { k with
      replyClock := some (match k.replyClock with | some e => e.merge c | none => c) })
  | none => s

/-- FENCE.acq or a full FENCE: the clocks of every earlier reply are merged (R174). -/
def acquireFence (s : State) (scope : Scope) : State :=
  let c := (s.core.replyClock.getD Clock.zero).merge (getDie s (dieOf s.core.pos)).vc
  if steps scope then (acquire s c).mapCore (fun k => { k with replyClock := none }) else dropFetched s

/-! ### Sending -/

/-- A store or message that leaves the core (R158, R173, R299): it waits while a mark holds it or while 256 are
unacknowledged. -/
def sendPacketAs (s : State) (ctx : Nat) (addr : W64) (body : Body) : Eff :=
  let t := settleMarks s
  if held t then waitPlain t
  else if 256 ≤ (unacked t t.core.num).length then waitPlain t
  else
    let e := { corePacket t addr body with ctx := ctx }
    match partnerOf t t.core.num with
    | some (g, m) => if t.core.mail.mcast.isEmpty then pairPush t g m e else waitPlain t
    | none => .ok (launch t e)

def sendPacket (s : State) (addr : W64) (body : Body) : Eff := sendPacketAs s (ctxNum s.core) addr body

/-- Several packets of one instruction: all leave, or the instruction waits with none. -/
def sendAll (s : State) (l : List (W64 × Body)) : Eff :=
  match l.foldlM (fun t p => sendPacket t p.1 p.2) s with
  | .error (.wait _ w) => .error (.wait s w)
  | r => r

/-- An engine command whose answer its instruction delivers. In a checked pair the first member waits until the second has
issued the like; then it is carried out once, and both take the answer (12_group R299; DESIGN CHOICE, log 13). -/
def pairCmd (s : State) (kind : Nat) (words : List W64) (run : State → Except Stop (State × W64)) :
    Except Stop (State × W64) :=
  let t := settleMarks s
  match t.core.wait, partnerOf t t.core.num with
  | some ⟨_, .answered w⟩, _ => .ok (t, w)
  | some ⟨_, .command⟩, some _ => .error (.wait s .command)
  | _, none => if held t then waitPlain t else run t
  | _, some (g, m) =>
    if held t || !t.core.mail.mcast.isEmpty then waitPlain t
    else
      let ahead := leads t t.core.num m
      let p := getPair t g
      let mine := (if ahead then p.lead else p.follow).length
      let e := corePacket t 0 (.cmd kind words none)
      match (if ahead then p.follow else p.lead)[mine]? with
      | some _ =>
        (match pairPush t g m e with
          | .error (.wait _ w) => .error (.wait s w)
          | .error x => .error x
          | .ok v => match run v with
            | .error (.wait _ w) => .error (.wait s w)
            | .error x => .error x
            | .ok (u, res) => .ok (modCore u m (fun c => { c with
                wait := c.wait.map (fun w => if w.what = .command then ⟨w.since, .answered res⟩ else w) }), res))
      | none =>
        if (if ahead then p.followAt else p.leadAt).any (fun k => decide (k ≤ mine)) then
          .error (.over (pairMismatch t g 1 mine))
        else match pairPush t g m e with
          | .ok v => .error (.wait v .command)
          | .error (.wait _ w) => .error (.wait s w)
          | .error x => .error x

/-- Commands for a queue register of the core in focus: those in its FIFO, and those a checked pair has not released. -/
def cmdsAhead (s : State) (q : Nat) : Nat :=
  (getQ s.core q).cmd.length + ((sideOf s s.core.num).filter (fun p => match p.body with
    | .cmd _ _ (some (r, _)) => r == q
    | _ => false)).length

/-- A command for a queue register, which holds 16 (10_queue R269): it enters the FIFO, or the comparison buffer of a checked
pair until its release (12_group R299, R300). -/
def postCmd (s : State) (kind : Nat) (words : List W64) (q : Nat) (c : QCmd) : Eff :=
  let t := settleMarks s
  if 16 ≤ cmdsAhead s q then waitPlain s
  else if held t then waitPlain t
  else match partnerOf t t.core.num with
    | none => .ok (pushCmd t t.core.num q c)
    | some (g, m) =>
      if t.core.mail.mcast.isEmpty then pairPush t g m (corePacket t 0 (.cmd kind words (some (q, c)))) else waitPlain t

/-! ### Loads (R157, R158, R176) -/

/-- Whether bytes share an aligned 8-byte location with a store of the core that is not acknowledged (R171, R176). -/
def overlapsOwn (s : State) (key n : Nat) : Bool :=
  (unacked s s.core.num).any (fun p => p.body.cells.any (fun c =>
    decide (key / 8 ≤ c.1 / 8) && decide (c.1 / 8 ≤ (key + n - 1) / 8)))

/-- The request of a read of the core in focus is parked at the port of the core whose local memory it names (08_page R220). -/
def coreProbe (s : State) (ea : W64) (place : Place) (va : Option W64) : State :=
  match place.localCore with
  | none => s
  | some n => if n = s.core.num then s
    else parkProbe s (.core s.core.num) (ctxNum s.core) (curAsid s.core) (dieOf s.core.pos) n ea va

/-- Whether a read of the core in focus does not get past that port: behind what the port has parked of the core, while it
accepts nothing of its side, or after a move of the other core (22_resident R424); the state it waits in (08_page R220). -/
def coreAtPort (s : State) (ea : W64) (place : Place) : Option State :=
  match place.localCore with
  | none => none
  | some n =>
    if n = s.core.num then none
    else if portShut s (.core s.core.num) n || movedHolds s (.core s.core.num) n s.nextId then some s
    else if behindParked s (.core s.core.num) n then some (coreProbe s ea place none)
    else none

/-- The bytes a core's load reads at a place: at the home once a store of its own to the location has been acknowledged
(R176). -/
def loadAt (s : State) (ea : W64) (n : Nat) (place : Place) (key : Nat) : Except Stop (State × List Byte × Clock) :=
  if place = .aperture then
    (if apDenied s key then trap 0x04 ea else .ok (s, apLoad s key n, Clock.zero))
  else if overlapsOwn s key n then .error (.wait s .ownStore)
  else match coreAtPort s ea place with
    | some t => waitPlain t
    | none => match servedAt s (ctxNum s.core) place key with
      | .error va => waitPlain (coreProbe s ea place (some (BitVec.ofNat 64 va)))
      | .ok r =>
        let own := match s.core.wait with | some ⟨_, .ownStore⟩ => true | _ => false
        match (if own then readHome r.1 (dieOf s.core.pos) r.2.1 r.2.2 n
            else readBytes r.1 (dieOf s.core.pos) r.2.1 r.2.2 n) with
        | .ok (t, l, c) => .ok (t, l, c)
        | .error .waits => waitPlain s
        | .error (.poison _ t) => .error (.trapKeep t 0x0F (ea &&& ~~~ 63#64))

/-- A load of `n` bytes, aligned to its size (R157): the state, the place, the bytes and the reply's clock. -/
def loadCore (s : State) (ea : W64) (n : Nat) : Except Stop (State × Place × List Byte × Clock) :=
  if ea.toNat % n ≠ 0 then trap 0x03 ea
  else match resolve s ea .load with
    | .error e => .error e
    | .ok (t, place, key) => match loadAt (watchAt t ea n false) ea n place key with
      | .error e => .error e
      | .ok (u, l, c) => .ok (noteReply (countPlace u place 1) place c, place, l, c)

/-- An 8-byte load of an instruction that reads a structure in memory. -/
def loadWord (s : State) (ea : W64) : Except Stop (State × W64) :=
  match loadCore s ea 8 with
  | .error e => .error e
  | .ok (t, _, l, _) => .ok (t, wordOf l)

/-- `k` consecutive 8-byte loads, lowest first, as an instruction reads a block (R157). -/
def loadWords (s : State) (ea : W64) : Nat → Except Stop (State × List W64)
  | 0 => .ok (s, [])
  | k + 1 => match loadWord s ea with
    | .error e => .error e
    | .ok (t, w) => match loadWords t (leaAdd ea 8) k with
      | .error e => .error e
      | .ok (u, l) => .ok (u, w :: l)

/-! ### Stores -/

/-- Whether bytes of the core's own local memory share a location with an access of its own that has left it and is not applied:
a store to them waits, since the home applies a core's stores in their order (R176, R158). -/
def ownAhead (s : State) (key n : Nat) : Bool :=
  (flying s).any (fun p => p.src == .core s.core.num && p.st == .flying && p.body.cells.any (fun c =>
    decide (key / 8 ≤ c.1 / 8) && decide (c.1 / 8 ≤ (key + n - 1) / 8)))

/-- A store that has passed its checks: the aperture, the own local memory at once, or a packet (R158). -/
def storeAt (s : State) (ea : W64) (place : Place) (key : Nat) (l : List Byte) : Eff :=
  let t := settleMarks s
  if held t then waitPlain t
  else if place = .aperture then
    (if apDenied t key then trap 0x04 ea
     else if (partnerOf t t.core.num).isSome then sendPacket t ea (.store .aperture (cellsAt key l))
     else .ok (apStore t key l))
  else if ownLocal t place then
    (if ownAhead t key l.length || lateCells t t.net place (cellsAt key l) then waitPlain t
     else .ok (noteCounter (rawWrite t (cellsAt key l)) (ctxNum t.core) place (cellsAt key l)))
  else countSent place 1 (sendPacket t ea (.store place (cellsAt key l)))

/-- A store, aligned to its size (R157, R158). -/
def storeCore (s : State) (ea : W64) (l : List Byte) : Eff :=
  if ea.toNat % l.length ≠ 0 then trap 0x03 ea
  else match resolve s ea .store with
    | .error e => .error e
    | .ok (t, place, key) => storeAt (watchAt t ea l.length true) ea place key l

/-! ### Vector accesses (05_vector R133 to R135) -/

/-- An element of a vector access: number, address, place and key. -/
structure VEl where
  i : Nat
  ea : W64
  place : Place
  key : Nat
  deriving DecidableEq, Repr

/-- The checks of every masked-on element, lowest first, before anything changes (R135). -/
def checkEls (s : State) (a : Acs) (n : Nat) : List (Nat × W64) → Except Stop (State × List VEl)
  | [] => .ok (s, [])
  | (i, ea) :: r =>
    if ea.toNat % n ≠ 0 then trap 0x03 ea
    else match resolve s ea a with
      | .error e => .error e
      | .ok (t, place, key) =>
        if place = .aperture ∧ apDenied t key then trap 0x04 ea
        else match checkEls (watchAt t ea n (a == .store)) a n r with
        | .error e => .error e
        | .ok (u, l) => .ok (u, ⟨i, ea, place, key⟩ :: l)

/-- The values of checked elements; a poisoned one traps with its own address (R135). -/
def readEls (s : State) (n : Nat) : List VEl → Except Stop (State × List (Nat × Nat))
  | [] => .ok (s, [])
  | e :: r => match loadAt s e.ea n e.place e.key with
    | .error (.trapKeep t 0x0F _) => .error (.trapKeep t 0x0F e.ea)
    | .error x => .error x
    | .ok (t, l, c) => match readEls (noteReply t e.place c) n r with
      | .error x => .error x
      | .ok (u, vs) => .ok (u, (e.i, ofBytes l) :: vs)

/-- A vector load: the values of the masked-on elements by number. -/
def loadEls (s : State) (n : Nat) (els : List (Nat × W64)) : Except Stop (State × List (Nat × Nat)) :=
  match checkEls s .load n els with
  | .error e => .error e
  | .ok (t, l) => match readEls t n l with
    | .error e => .error e
    | .ok (u, vs) =>
      .ok ((l.map (fun e => (e.place, lineKeyOf e.key))).dedup.foldl (fun v p => countPlace v p.1 1) u, vs)

/-- The cells of elements that go to one line, with the place and the address of the first of them. -/
structure VGroup where
  line : Nat
  place : Place
  ea : W64
  cells : List Host.Cell
  deriving DecidableEq, Repr

def addCells (g : List VGroup) (e : VEl) (l : List Byte) : List VGroup :=
  let line := lineKeyOf e.key
  if g.any (fun x => x.line == line && x.place == e.place) then
    mapFirst (fun x => x.line == line && x.place == e.place) (fun x => { x with cells := x.cells ++ cellsAt e.key l }) g
  else g ++ [⟨line, e.place, e.ea, cellsAt e.key l⟩]

/-- A vector store: all checks, then own local memory at once and one packet for each other line (R134, R135, R158). -/
def storeEls (s : State) (n : Nat) (els : List (Nat × W64)) (val : Nat → Nat) : Eff :=
  match checkEls s .store n els with
  | .error e => .error e
  | .ok (t0, l) =>
    let t := settleMarks t0
    if held t then waitPlain t
    else
      let data (e : VEl) : List Byte := bytesOf (val e.i) n
      let own := l.filter (fun e => ownLocal t e.place)
      let ap := l.filter (fun e => e.place == .aperture)
      let rest := l.filter (fun e => !ownLocal t e.place && e.place != .aperture)
      let groups := rest.foldl (fun g e => addCells g e (data e)) []
      let paired := (partnerOf t t.core.num).isSome
      let regs : List (W64 × Body) := ap.map (fun e => (e.ea, .store .aperture (cellsAt e.key (data e))))
      if own.any (fun e => ownAhead t e.key n || lateCells t t.net e.place (cellsAt e.key (data e))) then waitPlain t
      else match sendAll t (groups.map (fun g => (g.ea, .store g.place g.cells)) ++ (if paired then regs else [])) with
      | .error e => .error e
      | .ok u0 =>
        let u := groups.foldl (fun t g => countPlace t g.place 1) u0
        let cells := own.flatMap (fun e => cellsAt e.key (data e))
        let v := noteCounter (rawWrite u cells) (ctxNum u.core) (.loc u.core.num) cells
        .ok (if paired then v else ap.foldl (fun w e => apStore w e.key (data e)) v)

/-! ### Atomics (R162 to R165) -/

/-- Indivisible read-modify-write at the home: the old value, the reply's clock; none while it waits (R162). -/
inductive AtomEnd
  | done (s : State) (old : Nat) (c : Clock)
  | waits (s : State)
  | poison (s : State)
  /-- the page that holds the word's image is absent (09_context R242; 08_page R220) -/
  | absent (va : Nat)
  deriving DecidableEq, Repr

/-- An atomic at the home of its word: through L2, or, for a page with C = 0, in the stack through the home slice's pass-through
path, where the page's other accesses go (R162; 08_page R211). -/
def atomHome (s : State) (ctx d : Nat) (v : Clock) (place : Place) (key n : Nat) (op : AOp) (expect arg : Nat) :
    AtomEnd :=
  match servedAt s ctx place key with
  | .error va => .absent va
  | .ok r =>
    let p := r.2.1
    let cells0 := cellsAt r.2.2 (List.replicate n 0)
    if !writeReady r.1 p cells0 d v then .waits (snoop s cells0)
    else match readNow r.1 p r.2.2 n with
      | .error .waits => .waits s
      | .error (.poison _ t) => .poison t
      | .ok (t, l, _) =>
        let old := ofBytes l
        let new := atomNew op (8 * n) old expect arg
        let u := noteCounter (applyWrite t p (cellsAt r.2.2 (bytesOf new n)) d v) ctx place (cellsAt key (List.replicate n 0))
        .done u old (match homeOf u p with | some h => (getDie u h).vc | none => Clock.zero)

/-- ATOM, CAS and BINC of the core in focus (R162 to R165). -/
def atomCore (s : State) (op : AOp) (n : Nat) (d : Reg) (ea : W64) (expect arg : W64) : Eff :=
  if ea.toNat % n ≠ 0 then trap 0x03 ea
  else match resolve s ea (if d = 0 then .store else .atom) with
    | .error e => .error e
    | .ok (t0, place, key) =>
      let t := watchAt (watchAt t0 ea n true) ea n false
      if place = .aperture then
        (if apDenied t key then trap 0x04 ea
         else if d = 0 && (partnerOf t t.core.num).isSome then sendPacket t ea (.atomic place key n op expect arg)
         else
          let old := ofBytes (apLoad t key n)
          let u := apStore t key (bytesOf (atomNew op (8 * n) old expect.toNat arg.toNat) n)
          .ok (setXI u d (sext (8 * n) (BitVec.ofNat 64 old)) 4))
      else if d = 0 then countSent place 1 (sendPacket t ea (.atomic place key n op expect arg))
      else if overlapsOwn t key n then .error (.wait t .ownStore)
      else match coreAtPort t ea place with
      | some u => waitPlain u
      | none =>
      if (homeOf t place).any (fun h => bridgeBusy t (dieOf t.core.pos) h
          ((t.core.wait.map (·.since)).getD t.cycle)) ||
          lateCells t t.net place (cellsAt key (List.replicate n 0)) then waitPlain t
      else
        let die := dieOf t.core.pos
        match atomHome t (ctxNum t.core) die (getDie t die).vc place key n op expect.toNat arg.toNat with
        | .waits u => waitPlain u
        | .absent va => waitPlain (coreProbe t ea place (some (BitVec.ofNat 64 va)))
        | .poison u => .error (.trapKeep u 0x0F (ea &&& ~~~ 63#64))
        | .done u old c =>
          let v := noteReply (countPlace (leaves u die place [key / 64]) place 1) place c
          .ok (setXI v d (sext (8 * n) (BitVec.ofNat 64 old)) 4)

end Sys2Proof.Machine
end

