-- ==== Sys2Proof/Machine/Unit.lean ====
section
/-! DEFINITION. What the units of the device do alike: their releases, their messages and the violations they commit
(07_ordering R172, R177; 10_queue R253 to R257; 09_context R246). -/
namespace Sys2Proof.Machine

/-- A packet of a unit goes into flight. -/
def launchUnit (s : State) (src : Src) (ctx asid die : Nat) (addr : W64) (body : Body) : State :=
  let p : Packet := {
    id := s.nextId, src := src, ctx := ctx, asid := asid, die := die, stamp := (getDie s die).vc, sent := s.cycle
    window := windowNow s, addr := addr, body := body, st := .flying, counted := false, park := none }
  let t := match body.place with
    | some place => leaves s die place body.lines
    | none => s
  carry { t with net := t.net ++ [p], nextId := s.nextId + 1 } p

/-- The window address of a core's local memory at offset 0, which a message to it counts as (06_memory R159). -/
def msgAddr (dest : Nat) : W64 := BitVec.ofNat 64 (localKey dest 0)

/-- A message of a unit that is not a core, with SENDER 0xFFFF_FFFF (R255). -/
def unitMessage (s : State) (src : Src) (die : Nat) (cls : Nat) (handler : BitVec 32) (tag : BitVec 16)
    (payload : Nat) (origin : Origin) : Msg :=
  { handler := handler, sender := noCore, tag := tag, cls := cls, alen := 0, stime := timeLow s
    payload := BitVec.ofNat 384 payload, src := src, origin := origin, clock := (getDie s die).vc, far := false
    age := 0, arrived := 0, attaching := false }

/-- The message is sent to a core. -/
def unitSend (s : State) (src : Src) (ctx die dest : Nat) (m : Msg) : State :=
  launchUnit s src ctx (ctxAsid s ctx) die (msgAddr dest) (.msg dest m none)

/-- The completion of a unit's work is a release at .device (R172): the counter of its die steps (R177). -/
def unitRelease (s : State) (die : Nat) : State := stepRelease s die

/-- A unit commits a violation: its context's LIFE becomes 2 and the monitor is told; class 0 core, 1 engine, 2 host port,
3 link (09_context R236, R246). -/
def tellViolation (s : State) (ctx die cls num : Nat) : State :=
  let t := freezeLife s ctx
  sendNotice t (noticeCore t die) (mkNotice 1 ctx (cls * 2 ^ 48 + num) 0)

/-- Whether a logical core lies in a context's range; every core does for work of no context. -/
def inContext (s : State) (ctx n : Nat) : Bool := ctx == 256 || inRange s ctx n

end Sys2Proof.Machine
end

