-- ==== Sys2Proof/Machine/Barrier.lean ====
section
/-! DEFINITION. Barriers (13_barrier R308 to R324). -/
namespace Sys2Proof.Machine

/-! ### Names and checks (R308, R309, R317) -/

/-- The scope of the barrier an identifier names for the cores and engines of a cluster, or none. -/
def barScope (cl id : Nat) : Option Scope :=
  if id < 0x8000 then (if id < 0x2000 ∧ id / 64 = cl then some .cluster else none)
  else if id / 1024 % 32 = 0 then some .device
  else none

/-- TVAL of cause 0x09. -/
def barTval (kind id : Nat) : W64 := BitVec.ofNat 64 (kind * 2 ^ 60 + id)

/-- The identifier in x[a], with the traps of R309. -/
def barName (s : State) (xa : W64) : Except Stop (Nat × Scope) :=
  if fld xa 63 16 ≠ 0 then trap 0x04 xa
  else match barScope (clusterOf s.core.pos) (fld xa 15 0) with
    | none => trap 0x04 xa
    | some sc => .ok (fld xa 15 0, sc)

/-- A barrier is free while it holds no COUNT. -/
def Barrier.free (b : Barrier) : Bool := b.count == 0
def Barrier.gathering (b : Barrier) : Bool := !b.broken && (b.arr != 0 || b.carried != 0)

/-- The identifier of a barrier that the core's context has configured. -/
def barOwn (s : State) (xa : W64) : Except Stop (Nat × Scope) :=
  match barName s xa with
  | .error e => .error e
  | .ok (id, sc) =>
    let b := getBar s id
    if b.free || b.ctx != ctxNum s.core then trap 0x04 xa else .ok (id, sc)

/-! ### Arrivals (R312 to R316) -/

/-- What several arrivals have released. -/
def allSeen (l : List (Nat × Clock)) : Clock := l.foldl (fun c a => c.merge a.2) Clock.zero

/-- A complete phase ends: PHASE increments and the carried arrivals count (R313); what its arrivals released stands by its
number (R314). -/
def closeOnce (now : Nat) (b : Barrier) : Barrier :=
  if b.arr = b.count ∧ b.count ≠ 0 then
    { b with phase := b.phase + 1, arr := b.carried, carried := 0
             clock := if b.carried = 0 then none else some now
             seen := b.later, later := [], past := tput b.past b.phase.toNat (allSeen b.seen) }
  else b

/-- Carried arrivals may complete the next phase in turn; none are carried then, so twice is enough. -/
def closePhases (now : Nat) (b : Barrier) : Barrier := closeOnce now (closeOnce now b)

/-- An arrival that counts toward the current phase, with who makes it and the clock it releases. -/
def countArr (now : Nat) (b : Barrier) (who : Nat × Clock) : Barrier :=
  { b with arr := b.arr + 1, clock := if b.arr = 0 then some now else b.clock, seen := b.seen ++ [who] }

/-- An arrival of a core with parity `p`, or a leaving arrival (R312, R324): the barrier and the phase, or the kind of
cause 0x09. -/
def arrive (now : Nat) (b : Barrier) (who : Nat × Clock) (p leave : Bool) : Except Nat (Barrier × BitVec 32) :=
  let cur := fld b.phase 0 0 == 1
  if b.broken then .error 3
  else if leave then
    (if b.count = 1 ∨ b.count - 1 < b.carried then .error 4
     else
       let c := closePhases now (countArr now b who)
       .ok (closePhases now { c with count := c.count - 1 }, b.phase))
  else if p = cur then .ok (closePhases now (countArr now b who), b.phase)
  else if !b.carry then .error 0
  else if b.carried < b.count then .ok ({ b with carried := b.carried + 1, later := b.later ++ [who] }, b.phase + 1)
  else .error 1

/-- The scope a barrier acts at (R308). -/
def barActs (id : Nat) : Scope := if id < 0x8000 then .cluster else .device

/-- What a waiter of a barrier has once its phase has completed (R313, R314). -/
def openWait (id : Nat) (b : Barrier) (c : Core) : Core :=
  let to_ (w : Wait) (ph word : BitVec 32) : Core :=
    if phaseDone b ph then { c with wait := some ⟨w.since, .opened word (barActs id) (tgetD b.past ph.toNat Clock.zero)⟩ } else c
  match c.wait with
  | some ⟨t, .phase i ph d r⟩ => if i = id then to_ ⟨t, .phase i ph d r⟩ ph ph else c
  | some ⟨t, .bwait i ph⟩ => if i = id then to_ ⟨t, .bwait i ph⟩ ph b.phase else c
  | _ => c

/-- A barrier changes; when that completes a phase its waiters are released (R313). -/
def putOpen (s : State) (id : Nat) (b : Barrier) : State :=
  let t := putBar s id b
  if (getBar s id).phase = b.phase then t
  else { t with core := openWait id b t.core, others := t.others.map (fun p => (p.1, openWait id b p.2)) }

/-- Whether a core waits at a barrier: held in an arrival, or on one of its phases. -/
def waitsAt (id : Nat) (held : Bool) (c : Core) : Bool :=
  match c.wait with
  | some ⟨_, .held b⟩ => held && b == id
  | some ⟨_, .phase b _ _ _⟩ => b == id
  | some ⟨_, .bwait b _⟩ => b == id
  | _ => false

/-- Every core that waits at a barrier traps when it goes on. -/
def failWaiters (s : State) (id : Nat) (held : Bool) (kind : Nat) : State :=
  let f (c : Core) : Core :=
    if waitsAt id held c then { c with wait := c.wait.map (fun w => ⟨w.since, .failed 0x09 (barTval kind id)⟩) } else c
  { s with core := f s.core, others := s.others.map (fun p => (p.1, f p.2)) }

/-- TLIM cycles after the first counted arrival of a phase that is still incomplete, the barrier is broken (R316). -/
def barTimeout (s : State) (id : Nat) : State :=
  if barLate s id then failWaiters (putBar s id { getBar s id with broken := true, clock := none }) id false 2 else s

/-- An arrival of an engine (R315): the state, or none when the barrier is free or broken. The release of its die is part
of the clock the barrier gives its leavers. -/
def engineArrives (s0 : State) (cl ctx id : Nat) : Option State :=
  let s := barTimeout s0 id
  let b := getBar s id
  if (barScope cl id).isNone || b.free || b.broken || b.ctx != ctx then none
  else some (putOpen s id (closePhases s.cycle (countArr s.cycle b (2 ^ 25, (getDie s (cl / 32)).vc))))

/-! ### The layer hold (R318) -/

def layerKey (ctx l : Nat) : Nat := ctx * 1024 + l
/-- cur(L) of a context (11_kernel R288). -/
def layerCur (s : State) (ctx l : Nat) : BitVec 32 := tgetD s.un.layers (layerKey ctx l) 0

/-- BATCHWS of the kernel in service on a core. -/
def serviceBatch (s : State) (c : Core) : Option (BitVec 32) :=
  match serviceKernel c with
  | none => none
  | some h => (kerOf s h).map (fun k => (getKer s k).batch)

def heldBy (s : State) (b : Barrier) (batch : BitVec 32) : Bool := b.hold && serialLt (layerCur s b.ctx b.layer) batch

/-- A held arrival is judged again: it stays, or proceeds and its core goes on, waits for the phase or traps. -/
def releaseOne (s0 : State) (id : Nat) (h : HeldArr) : State :=
  let s := barTimeout s0 id
  let b := getBar s id
  if heldBy s b h.b then putBar s id { b with waiting := b.waiting ++ [h] }
  else match arrive s.cycle b (h.core, (getDie s (dieOf (getCore s h.core).pos)).vc) h.parity h.leave with
    | .ok (c, ph) =>
      modCore (putOpen s id c) h.core (fun k => match h.stays with
        | none => { k with wait := k.wait.map (fun w => ⟨w.since, .arrived ph⟩) }
        | some r => openWait id c { k with wait := k.wait.map (fun w => ⟨w.since, .phase id ph r.1 r.2⟩) })
    | .error kind =>
      modCore s h.core (fun k => { k with wait := k.wait.map (fun w => ⟨w.since, .failed 0x09 (barTval kind id)⟩) })

/-- Every arrival held at a barrier, in the order they were held. -/
def releaseHeld (s : State) (id : Nat) : State :=
  let l := (getBar s id).waiting
  if l.isEmpty then s else l.foldl (fun t h => releaseOne t id h) (putBar s id { getBar s id with waiting := [] })

/-- The barriers of a context that hold for a layer. -/
def releaseLayer (s : State) (ctx l : Nat) : State :=
  (s.un.barriers.filter (fun p => p.2.hold && p.2.ctx == ctx && p.2.layer == l)).foldl (fun t p => releaseHeld t p.1) s

/-! ### BARR, BARW, BLEAVE (R321, R324) -/

/-- A barrier as an instruction meets it: one whose time has run out is broken (R316). -/
def barMeets (s : State) (id : Nat) : State := barTimeout s id

/-- What an arriving instruction does until its arrival is made; `k` is given the barrier, its scope and the phase the arrival
counts toward, `stays` is a BARW's d and b. -/
def arriveEff (s : State) (id : Nat) (sc : Scope) (p leave : Bool) (stays : Option (Reg × Reg))
    (k : State → Nat → Scope → BitVec 32 → Eff) : Eff :=
  if (getBar (barMeets s id) id).broken then trap 0x09 (barTval 3 id)
  else match relNow s sc with
    | .error e => .error e
    | .ok t =>
      let b := getBar t id
      let batch := serviceBatch t t.core
      if batch.any (heldBy t b) then
        .error (.wait (putBar t id { b with
          waiting := b.waiting ++ [⟨t.core.num, p, leave, batch.getD 0, stays⟩] }) (.held id))
      else match arrive t.cycle b (t.core.num, (getDie t (dieOf t.core.pos)).vc) p leave with
        | .error kind => trap 0x09 (barTval kind id)
        | .ok (c, ph) => k (putOpen t id c) id sc ph

/-- An instruction that waits at a barrier goes on from where it stands: over, failed or waiting still, whatever has become of
the barrier's name meanwhile (R318, R321; 22_resident R423); otherwise it starts with its barrier (R309). -/
def atBarrier (s0 : State) (d : Reg) (xa : W64) (start : Nat → Scope → Eff) : Eff :=
  let s := match s0.core.wait with
    | some ⟨_, .phase id _ _ _⟩ => barTimeout s0 id
    | some ⟨_, .bwait id _⟩ => barTimeout s0 id
    | _ => s0
  match s.core.wait with
  | some ⟨_, .failed c v⟩ => trap c v
  | some ⟨_, .arrived ph⟩ => .ok (setXI s d (ph.zeroExtend 64) 2)
  | some ⟨_, .opened w sc c⟩ => .ok (setXI (acquireAt s sc c) d (w.zeroExtend 64) 2)
  | some ⟨_, .held b⟩ => .error (.wait s (.held b))
  | some ⟨_, .phase id ph e r⟩ => .error (.wait s (.phase id ph e r))
  | some ⟨_, .bwait id ph⟩ => .error (.wait s (.bwait id ph))
  | _ => match barOwn s xa with
    | .error e => .error e
    | .ok (id, sc) => start id sc

/-- Leaving a phase is an acquire at the barrier's scope of what the phase's arrivals released (R314). -/
def leavePhase (s : State) (id : Nat) (sc : Scope) (ph : BitVec 32) : State :=
  acquireAt s sc (tgetD (getBar s id).past ph.toNat Clock.zero)

def barrEff (s : State) (d : Reg) (xa xb : W64) : Eff :=
  atBarrier s d xa (fun id sc =>
    if fld xb 63 1 ≠ 0 then trap 0x04 xb
    else arriveEff s id sc (fld xb 0 0 == 1) false none (fun t _ _ ph => .ok (setXI t d (ph.zeroExtend 64) 2)))

/-- BARR (R321). -/
def execBarr (d a b : Reg) (s : State) : Host.Outcome State Fault Refusal := finish s (barrEff s d (s.x a) (s.x b))

/-- BARW waits until its phase is over. -/
def barwWait (s : State) (d b : Reg) (id : Nat) (sc : Scope) (ph : BitVec 32) : Eff :=
  if phaseDone (getBar s id) ph then .ok (setXI (leavePhase s id sc ph) d (ph.zeroExtend 64) 2)
  else .error (.wait s (.phase id ph d b))

/-- The phase a waiter names is the current one, the next, or one that is over (R322). -/
def phaseNear (b : Barrier) (ph : BitVec 32) : Bool := phaseDone b ph || ph == b.phase || ph == b.phase + 1

def barwEff (s : State) (d b : Reg) (xa xb : W64) : Eff :=
  atBarrier s d xa (fun id sc =>
    if fld xb 63 63 = 1 then
      (if fld xb 62 32 ≠ 0 then trap 0x04 xb
       else if (getBar (barMeets s id) id).broken then trap 0x09 (barTval 3 id)
       else
         let ph := BitVec.ofNat 32 (fld xb 31 0)
         if phaseNear (getBar s id) ph then barwWait s d b id sc ph else trap 0x09 (barTval 5 id))
    else if fld xb 62 1 ≠ 0 then trap 0x04 xb
    else arriveEff s id sc (fld xb 0 0 == 1) false (some (d, b)) (fun t id sc ph => barwWait t d b id sc ph))

/-- BARW (R321). -/
def execBarw (d a b : Reg) (s : State) : Host.Outcome State Fault Refusal := finish s (barwEff s d b (s.x a) (s.x b))

/-- BLEAVE (R324). -/
def execBleave (d a : Reg) (s : State) : Host.Outcome State Fault Refusal :=
  finish s (atBarrier s d (s.x a) (fun id sc =>
    arriveEff s id sc false true none (fun t _ _ ph => .ok (setXI t d (ph.zeroExtend 64) 2))))

/-! ### BWAIT (R322) -/

def bwaitEff (s : State) (d : Reg) (xa xb : W64) : Eff :=
  atBarrier s d xa (fun id sc =>
    let b := getBar (barMeets s id) id
    let ph := BitVec.ofNat 32 (fld xb 31 0)
    if fld xb 63 32 ≠ 0 then trap 0x04 xb
    else if b.broken then trap 0x09 (barTval 3 id)
    else if phaseDone b ph then .ok (setXI (leavePhase s id sc ph) d (b.phase.zeroExtend 64) 2)
    else if ph = b.phase ∨ ph = b.phase + 1 then .error (.wait s (.bwait id ph))
    else trap 0x09 (barTval 5 id))

/-- BWAIT (R322). -/
def execBwait (d a b : Reg) (s : State) : Host.Outcome State Fault Refusal := finish s (bwaitEff s d (s.x a) (s.x b))

/-! ### BCFG (R319, R320) -/

/-- A barrier is configured: PHASE 0 when it was free, otherwise kept; held arrivals are judged again (R319). -/
def barSet (s : State) (id : Nat) (w : W64) : State :=
  let b := getBar s id
  let c : Barrier := { b with
    ctx := ctxNum s.core, count := fld w 23 0, phase := if b.free then 0 else b.phase, arr := 0, carried := 0
    carry := fld w 62 62 == 1, hold := fld w 61 61 == 1, layer := fld w 57 48, tlim := fld s.core.sys.btimeout 31 0
    clock := none, broken := false, seen := [], later := [], past := if b.free then [] else b.past }
  releaseHeld (putBar s id c) id

/-- A barrier is freed (R319). -/
def barFree (s : State) (id : Nat) : State :=
  let t := failWaiters s id true 6
  t.mapUn (fun u => { u with barriers := tdel u.barriers id })

def bcfgEff (s : State) (d : Reg) (xa xb : W64) : Eff :=
  match barName s xa with
  | .error e => .error e
  | .ok (id, _) =>
    let s := barMeets s id
    let b := getBar s id
    let en := fld xb 63 63 == 1
    if fld xb 60 58 ≠ 0 ∨ fld xb 47 24 ≠ 0 ∨ (en ∧ fld xb 23 0 = 0) then trap 0x04 xb
    else if !b.free && b.ctx != ctxNum s.core then .ok (setXI s d 2 2)
    else if !b.free && b.gathering then .ok (setXI s d 1 2)
    else if en then .ok (setXI (barSet s id xb) d 0 2)
    else if b.free then .ok (setXI s d 0 2)
    else .ok (setXI (barFree s id) d 0 2)

/-- BCFG (R320). -/
def execBcfg (d a b : Reg) (s : State) : Host.Outcome State Fault Refusal := finish s (bcfgEff s d (s.x a) (s.x b))

/-! ### BQRY (R323) -/

def barWord (b : Barrier) (sel : Nat) : W64 :=
  let st := if b.broken then 3 else if b.gathering then 2 else 1
  if sel = 0 then
    BitVec.ofNat 64 (st * 2 ^ 62 + b2n b.carry * 2 ^ 61 + b2n b.hold * 2 ^ 60 + b.layer * 2 ^ 48 + b.carried * 2 ^ 24 +
      b.arr)
  else BitVec.ofNat 64 (b.ctx % 256 * 2 ^ 56 + b.count * 2 ^ 32 + b.phase.toNat)

def bqryEff (s : State) (d : Reg) (xa xb : W64) : Eff :=
  match barName s xa with
  | .error e => .error e
  | .ok (id, _) =>
    let b := getBar (barMeets s id) id
    if 1 < xb.toNat then trap 0x04 xb
    else if b.free || b.ctx != ctxNum s.core then .ok (setXI s d 0 12)
    else .ok (setXI s d (barWord b xb.toNat) 12)

/-- BQRY (R323). -/
def execBqry (d a b : Reg) (s : State) : Host.Outcome State Fault Refusal := finish s (bqryEff s d (s.x a) (s.x b))

/-! ### The timeout (R316) -/

/-- BARRIER_TIMEOUT (R316). -/
def execBarrierTimeout (s : State) : Host.Outcome State Fault Refusal := .next (barTimeout s s.arg.a)

end Sys2Proof.Machine
end

