-- ==== Sys2Proof/Machine/Frame.lean ====
section
/-! DEFINITION. Frames: the pool of a quad, its queues, images in the save area, and the frame instructions
(05_vector R110 to R122, R139 to R143). -/
namespace Sys2Proof.Machine

/-! ### The save area (09_context R227, R240; 05_vector R115) -/

/-- The save area of core `n` for a context: SAVEBASE or ALTSAVE plus 0x40000 for each core of the range. -/
def saveArea (s : State) (ctx n : Nat) (alt : Bool) : Nat :=
  (descWord s ctx (if alt then 0x20 else 0x18)).toNat + (n - ctxFirst s ctx) * 0x40000

/-- The frame region a core's images stand in now. -/
def frameArea (s : State) (n : Nat) : Nat :=
  let c := getCore s n
  saveArea s (curCtx c) n c.altArea + 0x12000

/-- The image of slot `k` of a core (R115). -/
def slotImage (s : State) (n k : Nat) : Nat := frameArea s n + 0x200 * (k - 1)
def offerImage (s : State) (n k : Nat) : Nat := frameArea s n + 0x600 + 512 * k
def offMap (s : State) (n : Nat) : Nat := frameArea s n + 0x20600

/-- The 512 bytes of a frame, register by register. -/
def frameBytes (s : State) (quad f : Nat) : List Byte :=
  (List.range 8).flatMap (fun r => bytesOf (tgetD s.un.frames (frameKey quad f r) 0).toNat 64)

/-- A frame's eight registers written from 512 bytes. -/
def setFrame (s : State) (quad f : Nat) (l : List Byte) : State :=
  let put (t : Tbl W512) (r : Nat) : Tbl W512 := tputD 0 t (frameKey quad f r) (lineOf ((l.drop (64 * r)).take 64))
  s.mapUn (fun u => { u with frames := (List.range 8).foldl put u.frames })

/-- Bytes of a core's context, through its cluster. -/
def ctxRead (s : State) (n va k : Nat) : Except State (State × List Byte) :=
  devGet s (clusterOf (getCore s n).pos) (curCtx (getCore s n)) va k
def ctxWrite (s : State) (n va : Nat) (l : List Byte) : Except State State :=
  devSet s (clusterOf (getCore s n).pos) (curCtx (getCore s n)) va l

/-- Whether OFFER(k) holds an evicted offer. -/
def offBit (l : List Byte) (k : Nat) : Bool := (l.getD (k / 8) 0).toNat >>> (k % 8) % 2 == 1

/-- Bit `k` of OFFMAP set or cleared. -/
def offMark (s : State) (n k : Nat) (on : Bool) : Except State State := do
  let (t, l) ← ctxRead s n (offMap s n) 32
  let b := l.getD (k / 8) 0
  let m : Byte := 1#8 <<< (k % 8)
  ctxWrite t n (offMap t n) (l.set (k / 8) (if on then b ||| m else b &&& ~~~ m))

/-! ### The pool (R111, R112) -/

/-- Frames that are free: not mapped, not offered, not being written out. -/
def freeFrames (p : Pool) : List Nat :=
  (List.range nFrames).filter (fun f =>
    (tget p.used f).isNone && !p.offers.any (fun o => o.frame == some f) && !p.writing.contains f)

def evictedSlots (v : Vectors) : List Nat := [1, 2, 3].filter (fun k => v.slot k == .evicted)
def inSet (set k : Nat) : Bool := (set >>> (k - 1)) % 2 == 1
def unmappedIn (v : Vectors) (set : Nat) : List Nat := [1, 2, 3].filter (fun k => inSet set k && v.slot k == .unmapped)

/-- The frames a VCLAIM needs: the named slots that are unmapped, and every evicted slot of the core (R139). -/
def claimNeed (v : Vectors) (set : Nat) : Nat := (unmappedIn v set).length + (evictedSlots v).length

/-- Slot `k` of core `n` gets the lowest free frame, with 512 bytes of contents. -/
def mapSlot (s : State) (quad n k : Nat) (l : List Byte) : State :=
  match (freeFrames (getPool s quad)).head? with
  | none => s
  | some f =>
    let p := getPool s quad
    let t := setFrame (putPool s quad { p with used := tput p.used f (n, k) }) quad f l
    modCore t n (fun c => { c with vec := c.vec.setSlot k (.mapped f) })

/-- An evicted slot is loaded from its image (R111). -/
def reloadSlot (quad n : Nat) (s : State) (k : Nat) : Except State State := do
  let (t, l) ← ctxRead s n (slotImage s n k) 512
  .ok (mapSlot t quad n k l)

/-- The claimed slots are mapped in ascending order with zero registers, and the evicted ones reloaded (R111, R139). -/
def serveSlots (s : State) (quad n set : Nat) : Except State State :=
  let v := (getCore s n).vec
  let t := (unmappedIn v set).foldl (fun t k => mapSlot t quad n k []) s
  (evictedSlots v).foldlM (reloadSlot quad n) t

/-- A wait of core `n` has what it waited for. -/
def wakeWith (s : State) (n : Nat) (w : WaitFor) : State :=
  modCore s n (fun c => { c with wait := c.wait.map (fun x => { x with what := w }) })

/-- The head of the claim queue is served, when the reload queue is empty and the free count suffices (R112). -/
def serveClaim (s : State) (quad : Nat) : State :=
  let p := getPool s quad
  match p.claims, p.reloads with
  | (n, set) :: r, [] =>
    if claimNeed (getCore s n).vec set ≤ (freeFrames p).length then
      (match serveSlots (putPool s quad { p with claims := r }) quad n set with
        | .ok t => wakeWith t n .claimed
        | .error t => keepAsked s t)
    else s
  | _, _ => s

/-- The frame region that holds the images of an offer's giver, resident or not. -/
def giverArea (s : State) (o : Offer) : Nat :=
  saveArea s o.ctx o.giver (match tget s.mu.away (o.ctx * 8192 + o.giver) with
    | some alt => alt != 0
    | none => (getCore s o.giver).altArea) + 0x12000

/-- An evicted offer ends: the giver's OFFMAP bit clears (R115). -/
def endImage (s : State) (o : Offer) : Except State State := do
  let cl := clusterOf (getCore s o.giver).pos
  let a := giverArea s o + 0x20600 + o.image / 8
  let (t, l) ← devGet s cl o.ctx a 1
  devSet t cl o.ctx a [l.headD 0 &&& ~~~ (1#8 <<< (o.image % 8))]

/-- A taker's slot takes an evicted offer's image (R111, R115). -/
def loadOffer (s : State) (quad n k : Nat) (o : Offer) : Except State State := do
  let (t, l) ← devGet s (clusterOf (getCore s o.giver).pos) o.ctx (giverArea s o + 0x600 + 512 * o.image) 512
  endImage (mapSlot t quad n k l) o

/-- Every offer of a pool, those a taker has matched among them. -/
def Pool.allOffers (p : Pool) : List Offer :=
  p.offers ++ p.reloads.filterMap (fun r => match r with
    | .offer _ _ o => some o
    | .slots _ => none)

/-- The head of the reload queue is served (R112). -/
def serveReload (s : State) (quad : Nat) : State :=
  let p := getPool s quad
  let free := (freeFrames p).length
  match p.reloads with
  | .slots n :: r =>
    let ev := evictedSlots (getCore s n).vec
    if ev.length ≤ free then orAsked s (ev.foldlM (reloadSlot quad n) (putPool s quad { p with reloads := r }))
    else s
  | .offer n k o :: r =>
    if 1 ≤ free then
      (match loadOffer (putPool s quad { p with reloads := r }) quad n k o with
        | .ok t => wakeWith t n (.taken o.giver)
        | .error t => keepAsked s t)
    else s
  | [] => s

/-- A reload claim for the evicted slots of a core, at the tail of the queue, once (R116). -/
def placeReload (s : State) (n : Nat) : State :=
  let quad := quadOf (getCore s n).pos
  let p := getPool s quad
  if p.reloads.contains (.slots n) then s
  else serveReload (putPool s quad { p with reloads := p.reloads ++ [.slots n] }) quad

/-- A core goes on with slots that were evicted while it waited, was idle or halted: it places a claim for them and issues
nothing until the claim is served (R116). -/
def oweReload (s : State) (n : Nat) : State :=
  if (evictedSlots (getCore s n).vec).isEmpty then s
  else
    let t := placeReload s n
    if (evictedSlots (getCore t n).vec).isEmpty then t
    else modCore t n (fun c => { c with
      run := .waiting, wait := some ⟨t.cycle, .reload⟩, issue := { c.issue with instr := none } })

/-! ### Streams that a frame instruction ends (R121; 16_copy R366) -/

/-- Stream mode ends on a register; its content stays. -/
def endStream (s : State) (r : Reg) : State := s.mapVec (fun v => { v with streams := tdel v.streams r.toNat })

def endStreams (s : State) : State := if s.core.vec.streams.isEmpty then s else s.mapVec (fun v => { v with streams := [] })

/-! ### Waiting for results of the named slots (R110) -/

def Pend.inSlots (slots : List Nat) : Pend → Bool
  | .v r _ _ => slots.contains (slotOf r)
  | .x _ _ _ => false

/-- Every result due by a cycle lands, and the instruction waits for that cycle. -/
def landUntil (s : State) (cyc : Nat) : State :=
  if cyc ≤ s.cycle then s
  else
    let due := s.core.pend.filter (fun p => p.lands ≤ cyc)
    let t := due.foldl Pend.apply
      (s.mapCore (fun c => { c with pend := c.pend.filter (fun p => !(p.lands ≤ cyc)) }))
    addBusy t (cyc - s.cycle)

/-- Pending writes to registers of the named slots land first (R110). -/
def landSlots (s : State) (slots : List Nat) : State :=
  landUntil s ((s.core.pend.filter (Pend.inSlots slots)).foldl (fun m p => max m p.lands) s.cycle)

def slotsOf (set : Nat) : List Nat := [1, 2, 3].filter (inSet set)

/-! ### VCLAIM and VYIELD (R139, R140) -/

/-- VCLAIM: served at once when it can be, otherwise at the tail of the claim queue. -/
def vclaimEff (s : State) (set : Nat) : Eff :=
  match s.core.wait with
  | some ⟨_, .claimed⟩ => .ok s
  | some ⟨_, .claim⟩ => .error (.wait s .claim)
  | _ =>
    let t := landSlots s (slotsOf set)
    if claimNeed t.core.vec set = 0 then .ok t
    else
      let q := quadOf t.core.pos
      let p := getPool t q
      let queued (u : State) : Eff := .error (.wait (putPool u q { p with claims := p.claims ++ [(t.core.num, set)] }) .claim)
      if p.claims.isEmpty ∧ p.reloads.isEmpty ∧ claimNeed t.core.vec set ≤ (freeFrames p).length then
        (match serveSlots t q t.core.num set with
          | .ok u => .ok (addBusy u 1)
          | .error u => queued (keepAsked t u))
      else queued t

/-- VCLAIM (R139). -/
def execVclaim (d : Code3) (s : State) : Host.Outcome State Fault Refusal := finish s (vclaimEff s d.toNat)

/-- One slot is yielded: its frame goes back, or its image is discarded. -/
def yieldSlot (s : State) (k : Nat) : State :=
  let t := if k = 3 then endStreams s else s
  match t.core.vec.slot k with
  | .unmapped => t
  | .evicted => t.mapVec (fun v => v.setSlot k .unmapped)
  | .mapped f =>
    let q := quadOf t.core.pos
    let p := getPool t q
    (putPool t q { p with used := tdel p.used f }).mapVec (fun v => v.setSlot k .unmapped)

/-- VYIELD (R140). -/
def execVyield (d : Code3) (s : State) : Host.Outcome State Fault Refusal :=
  finish s (.ok ((slotsOf d.toNat).foldl yieldSlot (landSlots s (slotsOf d.toNat))))

/-! ### VGIVE and VTAKE (R113, R141, R142) -/

/-- The longest-waiting taker an offer is eligible for. -/
def takerFor (p : Pool) (o : Offer) : Option (Nat × Nat) :=
  p.takers.find? (fun t => o.fits t.1)

/-- A frame moves to a taker's slot with its contents. -/
def handFrame (s : State) (quad f n k : Nat) : State :=
  let p := getPool s quad
  modCore (putPool s quad { p with used := tput p.used f (n, k) }) n
    (fun c => { c with vec := c.vec.setSlot k (.mapped f) })

/-- VGIVE of a mapped slot: the frame becomes a live offer, or goes to a waiting taker. -/
def giveFrame (s : State) (k f : Nat) (target : Option Nat) : State :=
  let q := quadOf s.core.pos
  let n := s.core.num
  let t := (if k = 3 then endStreams s else s).mapVec (fun v => v.setSlot k .unmapped)
  let p := getPool t q
  let o : Offer := { seq := p.seq, frame := some f, image := 0, giver := n, target := target, ctx := ctxNum t.core }
  let p := { p with used := tdel p.used f, seq := p.seq + 1 }
  match takerFor p o with
  | some (m, j) =>
    wakeWith (handFrame (putPool t q { p with takers := p.takers.filter (fun w => w.1 != m) }) q f m j) m (.taken n)
  | none => putPool t q { p with offers := p.offers ++ [o] }

def vgiveEff (s : State) (k : Nat) (x : W64) : Eff :=
  let s := landSlots s [k]
  let any := x == BitVec.allOnes 64
  if !any && !(quadCores s (quadOf s.core.pos)).contains x.toNat then trap 0x04 x
  else match s.core.vec.slot k with
    | .unmapped => .ok s
    | .evicted =>
      let t := placeReload s s.core.num
      (match t.core.vec.slot k with
        | .mapped f => .ok (giveFrame t k f (if any then none else some x.toNat))
        | _ => .error (.wait t .reload))
    | .mapped f => .ok (giveFrame s k f (if any then none else some x.toNat))

/-- VGIVE (R141). -/
def execVgive (a : Reg) (b : Code3) (s : State) : Host.Outcome State Fault Refusal :=
  finish s (vgiveEff s b.toNat (s.x a))

/-- FRAMEWAIT.LIMIT (R119). -/
def frameLimit (s : State) : Nat := fld s.core.sys.framewait 31 0

/-- The core in focus no longer waits for an offer. -/
def stopTaking (s : State) : State :=
  let q := quadOf s.core.pos
  let p := getPool s q
  putPool s q { p with takers := p.takers.filter (fun w => w.1 != s.core.num) }

def vtakeEff (s : State) (d : Reg) (k : Nat) : Eff :=
  match s.core.wait with
  | some ⟨_, .taken giver⟩ => .ok (setXI s d (BitVec.ofNat 64 giver) 2)
  | some ⟨since, .take⟩ =>
    if (getPool s (quadOf s.core.pos)).takers.any (fun w => w.1 == s.core.num) then
      (if frameLimit s ≠ 0 ∧ since + frameLimit s ≤ s.cycle then
        .error (.trapKeep (stopTaking s) 0x07 (BitVec.ofNat 64 k))
      else .error (.wait s .take))
    else .error (.wait s .take)
  | _ =>
    let t := yieldSlot (landSlots s [k]) k
    let q := quadOf t.core.pos
    let p := getPool t q
    match p.offers.find? (fun o => o.fits t.core.num) with
    | none => .error (.wait (putPool t q { p with takers := p.takers ++ [(t.core.num, k)] }) .take)
    | some o =>
      let p := { p with offers := dropFirst (· == o) p.offers }
      match o.frame with
      | some f => .ok (setXI (handFrame (putPool t q p) q f t.core.num k) d (BitVec.ofNat 64 o.giver) 2)
      | none =>
        let u := blockOn (putPool t q { p with reloads := p.reloads ++ [.offer t.core.num k o] }) .take
        let v := serveReload u q
        (match v.core.wait with
          | some ⟨_, .taken giver⟩ => .ok (setXI v d (BitVec.ofNat 64 giver) 2)
          | _ => .error (.wait v .take))

/-- VTAKE (R142). -/
def execVtake (d : Reg) (b : Code3) (s : State) : Host.Outcome State Fault Refusal :=
  finish s (vtakeEff s d b.toNat)

/-! ### VFRAMES (R143) -/

/-- VFRAMES (R143). DESIGN CHOICE (log 55): an evicted offer that a taker has matched and that still waits to be loaded counts in GIVEN,
not yet taken, and no longer in FORME; a count above 256, which evicted offers can reach, reads 256. -/
def vframesWord (s : State) : W64 :=
  let p := getPool s (quadOf s.core.pos)
  let v := s.core.vec
  let bits (f : Slot → Bool) : Nat := [1, 2, 3].foldl (fun n k => n + b2n (f (v.slot k)) * 2 ^ (k - 1)) 0
  let evi := bits (· == .evicted)
  let map := bits (fun x => match x with | .mapped _ => true | _ => false)
  let pendOffers := p.reloads.filterMap (fun r => match r with | .offer _ _ o => some o | _ => none)
  let given := (p.offers.filter (fun o => o.giver == s.core.num)).length +
    (pendOffers.filter (fun o => o.giver == s.core.num)).length
  let forme := (p.offers.filter (fun o => o.target == none || o.target == some s.core.num)).length
  BitVec.ofNat 64 (evi * 2 ^ 43 + map * 2 ^ 40 + min 255 (p.claims.length + p.reloads.length) * 2 ^ 32 +
    min 256 given * 2 ^ 18 + min 256 forme * 2 ^ 9 + (freeFrames p).length)

/-- VFRAMES (R143). -/
def execVframes (d : Reg) (s : State) : Host.Outcome State Fault Refusal := finish s (.ok (setXI s d (vframesWord s) 2))

/-! ### Stall and eviction (R114, R115) -/

/-- Holders of a quad: cores with a mapped slot or a live offer. -/
def holders (s : State) (quad : Nat) : List Nat :=
  let p := getPool s quad
  (quadCores s quad).filter (fun n =>
    p.used.any (fun u => u.2.1 == n) || p.offers.any (fun o => o.giver == n && o.frame.isSome))

/-- The head claim needs more frames than are free. -/
def headStuck (s : State) (quad : Nat) : Bool :=
  let p := getPool s quad
  let free := (freeFrames p).length
  match p.reloads, p.claims with
  | .slots n :: _, _ => decide (free < (evictedSlots (getCore s n).vec).length)
  | .offer _ _ _ :: _, _ => free == 0
  | [], (n, set) :: _ => decide (free < claimNeed (getCore s n).vec set)
  | [], [] => false

/-- Whether a holder runs: a wait that is over holds it no longer (R114). -/
def holderRuns (c : Core) : Bool :=
  c.standing == .running || (c.standing == .waiting && c.wait.any (fun w => w.what.over))

/-- The stall condition of R114 at this moment. -/
def poolStuck (s : State) (quad : Nat) : Bool := headStuck s quad && !(holders s quad).any (fun n => holderRuns (getCore s n))

/-- The stall clock of a quad starts when the condition begins to hold and stops when it ceases. -/
def poolClock (s : State) (quad : Nat) : State :=
  match tget s.un.pools quad with
  | none => s
  | some p =>
    if poolStuck s quad then (if p.stallSince.isSome then s else putPool s quad { p with stallSince := some s.cycle })
    else if p.stallSince.isNone then s
    else putPool s quad { p with stallSince := none }

/-- When a holder's wait began. -/
def waitBegan (c : Core) : Nat :=
  match c.run, c.wait with
  | .idle, _ => c.ev.idleSince
  | .halted, _ => c.ev.haltedAt
  | _, some w => w.since
  | _, none => 0

/-- Whether holder `a` is evicted before `b`: lowest PRIO, latest wait, higher core index (R114). -/
def evictFirst (s : State) (a b : Nat) : Bool :=
  let x := getCore s a
  let y := getCore s b
  let px := fld x.sys.prio 5 0
  let py := fld y.sys.prio 5 0
  if px ≠ py then decide (px < py)
  else if waitBegan x ≠ waitBegan y then decide (waitBegan y < waitBegan x)
  else decide (y.pos ≤ x.pos)

/-- Results still on their way to a slot land in it, so that its image holds them. -/
def landIn (s : State) (n k : Nat) : State :=
  if (getCore s n).pend.any (Pend.inSlots [k]) then
    onCore s n (fun t => (t.core.pend.filter (Pend.inSlots [k])).foldl Pend.apply
      (t.mapCore (fun c => { c with pend := c.pend.filter (fun p => !p.inSlots [k]) })))
  else s

/-- A mapped slot is written to its image, with the results on their way to it, and its frame waits for the
acknowledgement. -/
def evictSlot (quad n : Nat) (s0 : State) (k : Nat) : Except State State := do
  let s := landIn s0 n k
  match (getCore s n).vec.slot k with
  | .mapped f =>
    let t ← ctxWrite s n (slotImage s n k) (frameBytes s quad f)
    let p := getPool t quad
    .ok (modCore (putPool t quad { p with used := tdel p.used f, writing := p.writing ++ [f] }) n
      (fun c => { c with vec := c.vec.setSlot k .evicted }))
  | _ => .ok s

/-- A live offer is written to the lowest free OFFER entry of its giver (R115). DESIGN CHOICE (log 55): with all 256 entries in use the
offer stays live in its frame; R115 gives no entry for it. -/
def evictOffer (quad : Nat) (s : State) (o : Offer) : Except State State := do
  let (s, l) ← ctxRead s o.giver (offMap s o.giver) 32
  match o.frame, firstNat (fun k => !offBit l k) 256 with
  | some f, some k =>
    let t ← ctxWrite s o.giver (offerImage s o.giver k) (frameBytes s quad f)
    let u ← offMark t o.giver k true
    let p := getPool u quad
    .ok (putPool u quad { p with
      offers := p.offers.map (fun x => if x == o then { x with frame := none, image := k } else x)
      writing := p.writing ++ [f] })
  | _, _ => .ok s

/-- Mapped slots in ascending order, then live offers in ascending frame number (R114). -/
def evictCore (s : State) (quad n : Nat) : Except State State := do
  let t ← [1, 2, 3].foldlM (evictSlot quad n) s
  let mine := (getPool t quad).offers.filter (fun o => o.giver == n && o.frame.isSome)
  (sortBy (fun a b => decide (a.frame.getD 0 ≤ b.frame.getD 0)) mine).foldlM (evictOffer quad) t

/-- The victim of a stalled pool; a core with no context has no save area and is none. -/
def victimOf (s : State) (quad : Nat) : Option Nat :=
  bestBy (evictFirst s) ((holders s quad).filter (fun n => !noCtx (getCore s n)))

/-- The pool of a quad has been stalled for 64 cycles: one victim is written out (R114). -/
def poolStall (s : State) (quad : Nat) : State :=
  match (getPool s quad).stallSince with
  | some t0 =>
    if poolStuck s quad ∧ t0 + 64 ≤ s.cycle ∧ (getPool s quad).writing.isEmpty then
      (match victimOf s quad with
        | some n => orAsked s (evictCore s quad n)
        | none => s)
    else poolClock s quad
  | none => poolClock s quad

/-- The image writes of a quad are acknowledged: their frames are free (R114). -/
def imageAck (s : State) (quad : Nat) : State :=
  let p := getPool s quad
  if p.writing.isEmpty then s else putPool s quad { p with writing := [] }

end Sys2Proof.Machine
end

