-- ==== Sys2Proof/Machine/Branch.lean ====
section
/-! DEFINITION. Control flow: page 2 (04_core R81, R84, R85, R100 to R105). -/
namespace Sys2Proof.Machine

/-! ### Branches -/

/-- Whether an address lies in the block the fetch buffer holds. -/
def inBuffer (s : State) (t : W64) : Bool :=
  match s.core.fbuf with
  | some b => b.addr == t &&& ~~~ 31#64
  | none => false

/-- A branch with the issue cycles of R81: 0 not taken, 1 or 3 taken as predicted, 4 mispredicted. -/
def branch (s : State) (taken predicted : Bool) (target : W64) : State :=
  if taken then
    let n := if !predicted then 4 else if inBuffer s target then 1 else 3
    trace (addBusy (setNpc s target) n) 1 target
  else if predicted then addBusy s 4
  else s

/-- The target of an offset in halfwords (R100). -/
def relTarget (s : State) (imm : W64) : W64 := s.core.pc + 2 * imm

/-- A conditional branch: predicted taken when its offset is negative (R81). -/
def condBranch (s : State) (taken : Bool) (imm : W64) : Eff := .ok (branch s taken imm.msb (relTarget s imm))

/-- BR (R100). -/
def execBr (imm : W64) (s : State) : Host.Outcome State Fault Refusal :=
  finish s (.ok (branch s true true (relTarget s imm)))

/-- The short form of BR (R100). -/
def execBrShort (imm : W64) (s : State) : Host.Outcome State Fault Refusal :=
  finish s (.ok (branch s true true (relTarget s imm)))

/-- BEQ (R100). -/
def execBeq (d a : Reg) (imm : W64) (s : State) : Host.Outcome State Fault Refusal :=
  finish s (condBranch s (s.x d == s.x a) imm)

/-- BNE (R100). -/
def execBne (d a : Reg) (imm : W64) (s : State) : Host.Outcome State Fault Refusal :=
  finish s (condBranch s (s.x d != s.x a) imm)

/-- BLT (R100). -/
def execBlt (d a : Reg) (imm : W64) (s : State) : Host.Outcome State Fault Refusal :=
  finish s (condBranch s ((s.x d).slt (s.x a)) imm)

/-- BGE (R100). -/
def execBge (d a : Reg) (imm : W64) (s : State) : Host.Outcome State Fault Refusal :=
  finish s (condBranch s (!(s.x d).slt (s.x a)) imm)

/-- BLTN (R100). -/
def execBltn (d a : Reg) (imm : W64) (s : State) : Host.Outcome State Fault Refusal :=
  finish s (condBranch s ((s.x d).ult (s.x a)) imm)

/-- BGEN (R100). -/
def execBgen (d a : Reg) (imm : W64) (s : State) : Host.Outcome State Fault Refusal :=
  finish s (condBranch s (!(s.x d).ult (s.x a)) imm)

/-- BZ (R100). -/
def execBz (d : Reg) (imm : W64) (s : State) : Host.Outcome State Fault Refusal :=
  finish s (condBranch s (s.x d == 0) imm)

/-- BNZ (R100). -/
def execBnz (d : Reg) (imm : W64) (s : State) : Host.Outcome State Fault Refusal :=
  finish s (condBranch s (s.x d != 0) imm)

/-- The short form of BEQ (R100). -/
def execBeqShort (d a : Reg) (imm : W64) (s : State) : Host.Outcome State Fault Refusal :=
  finish s (condBranch s (s.x d == s.x a) imm)

/-- The short form of BNE (R100). -/
def execBneShort (d a : Reg) (imm : W64) (s : State) : Host.Outcome State Fault Refusal :=
  finish s (condBranch s (s.x d != s.x a) imm)

/-- The short form of BZ (R100). -/
def execBzShort (d : Reg) (imm : W64) (s : State) : Host.Outcome State Fault Refusal :=
  finish s (condBranch s (s.x d == 0) imm)

/-- The short form of BNZ (R100). -/
def execBnzShort (d : Reg) (imm : W64) (s : State) : Host.Outcome State Fault Refusal :=
  finish s (condBranch s (s.x d != 0) imm)

/-- JMPR (R101): an odd address traps. -/
def execJmpr (a : Reg) (s : State) : Host.Outcome State Fault Refusal :=
  finish s (if fld (s.x a) 0 0 = 1 then trap 0x03 (s.x a) else .ok (branch s true false (s.x a)))

/-! ### Calls (R102) -/

/-- CALL and CALLR once the target is known: x31, the window, the return stack (R84, R85, R102). -/
def callEff (s : State) (target : W64) (predicted : Bool) : Eff :=
  let s := landAll s
  if spillCrosses s then trap 0x08 s.core.sc.wsp
  else if s.core.sc.res = 8 ∧ s.core.sc.spillBusy then waitPlain s
  else
    let back := s.core.issue.npc
    let t := windowIn (rawX s 31 back)
    let u := t.mapSc (fun c => { c with rstack := (back :: c.rstack).take 8 })
    .ok (branch u true predicted target)

/-- RET (R85, R102; 09_context R233). -/
def retEff (s : State) : Eff :=
  let s := landAll s
  let t := s.x 15
  if s.core.sc.res = 1 ∧ s.core.sc.spilled = 0 then trap 0x08 (1#64 <<< 62)
  else if fld t 0 0 = 1 then trap 0x03 t
  else match (if s.core.sc.res = 1 then reloadPoison s else none) with
    | some a => trap 0x0F a
    | none =>
      let hit := s.core.sc.rstack.head? == some t
      let u := (windowOut s).mapSc (fun c => { c with rstack := c.rstack.drop 1 })
      let u := if uin u && callDepth u.core.sc == u.core.ev.uinDepth then
          (u.mapSys (fun r => { r with status := setBit r.status 6 false })).mapEv (fun e => reloadBack e 0) else u
      .ok (branch u true hit t)

/-- CALL (R102). -/
def execCall (imm : W64) (s : State) : Host.Outcome State Fault Refusal :=
  finish s (callEff s (relTarget s imm) true)

/-- The short form of CALL (R102). -/
def execCallShort (imm : W64) (s : State) : Host.Outcome State Fault Refusal :=
  finish s (callEff s (relTarget s imm) true)

/-- CALLR (R102): the target is read, with every result landed, before the window moves. -/
def execCallr (a : Reg) (s : State) : Host.Outcome State Fault Refusal :=
  let t := (landAll s).x a
  finish s (if fld t 0 0 = 1 then trap 0x03 t else callEff s t false)

/-- RET (R102). -/
def execRet (s : State) : Host.Outcome State Fault Refusal := finish s (retEff s)

/-- The short form of RET (R102). -/
def execRetShort (s : State) : Host.Outcome State Fault Refusal := finish s (retEff s)

/-! ### ALIGN, DLY, NOP -/

/-- Whether another core of the quad with the core's ASID is running (R103). -/
def quadRuns (s : State) (n : Nat) : Bool :=
  let c := getCore s n
  (quadCores s (quadOf c.pos)).any (fun m =>
    m != n && (getCore s m).standing == .running && curAsid (getCore s m) == curAsid c)

/-- Core `n` leaves the ALIGN it waits in; what was evicted of it meanwhile is reloaded first (R103; 05_vector R116). -/
def leaveAlign (s : State) (n : Nat) : State :=
  let t := onCore s n endWait
  if (getCore t n).run = .running then oweReload t n else t

/-- Every core of a quad that waits in an ALIGN which nothing holds back is released at once (R103). -/
def releaseAligns (s : State) (quad : Nat) : State :=
  let go := (quadCores s quad).filter (fun n =>
    (getCore s n).standing == .waiting && ((getCore s n).wait.map (·.what)) == some .align && !quadRuns s n)
  go.foldl leaveAlign s

/-- ALIGN (R103). -/
def alignEff (s : State) (n : Nat) : Eff :=
  let t0 := match s.core.wait with | some w => w.since | none => s.cycle
  if fld s.core.pc 63 62 = 2 then .ok s
  else if t0 + n ≤ s.cycle then .ok s
  else if quadRuns s s.core.num then .error (.wait s .align)
  else
    let t := releaseAligns { s with core := { s.core with run := .waiting, wait := none } } (quadOf s.core.pos)
    .ok t

/-- ALIGN (R103). -/
def execAlign (imm : W64) (s : State) : Host.Outcome State Fault Refusal := finish s (alignEff s imm.toNat)

/-- DLY (R104): it occupies n issue cycles. -/
def execDly (imm : W64) (s : State) : Host.Outcome State Fault Refusal := finish s (.ok (addBusy s (imm.toNat - 1)))

/-- NOP (R105). -/
def execNop (s : State) : Host.Outcome State Fault Refusal := finish s (.ok s)

end Sys2Proof.Machine
end

