-- ==== Sys2Proof/Machine/MemOps.lean ====
section
/-! DEFINITION. Loads, stores, far accesses, atomics, WAITA, PREF, IFENCE, DISCARD, FENCE, LDAQ and STRL: page 3
(06_memory R157 to R169; 07_ordering R203 to R205). -/
namespace Sys2Proof.Machine

/-! ### LD, ST, LDX, STX (R160) -/

/-- A scalar load: 2 cycles when the access lies in the own local memory, otherwise interlocked (R59). -/
def ldEff (s : State) (d : Reg) (ea : W64) (n : Nat) : Eff :=
  match loadCore s ea n with
  | .error e => .error e
  | .ok (t, place, l, _) =>
    if ownLocal t place then .ok (setXL t d (wordOf l) 2) else .ok (setXI t d (wordOf l) 3)

/-- A scalar store of the low bytes of a register. -/
def stEff (s : State) (ea : W64) (n : Nat) (w : W64) : Eff := storeCore s ea (bytesOf w.toNat n)

/-- LD (R160). -/
def execLd (z : Sz) (d a : Reg) (imm : W64) (s : State) : Host.Outcome State Fault Refusal :=
  finish s (ldEff s d (leaAdd (s.x a) imm) (szBytes z))

/-- ST (R160). -/
def execSt (z : Sz) (d a : Reg) (imm : W64) (s : State) : Host.Outcome State Fault Refusal :=
  finish s (stEff s (leaAdd (s.x a) imm) (szBytes z) (s.x d))

/-- The short form of LD.d (R160). -/
def execLdDShort (d a : Reg) (imm : W64) (s : State) : Host.Outcome State Fault Refusal :=
  finish s (ldEff s d (leaAdd (s.x a) imm) 8)

/-- The short form of LD.w (R160). -/
def execLdWShort (d a : Reg) (imm : W64) (s : State) : Host.Outcome State Fault Refusal :=
  finish s (ldEff s d (leaAdd (s.x a) imm) 4)

/-- The short form of ST.d (R160). -/
def execStDShort (d a : Reg) (imm : W64) (s : State) : Host.Outcome State Fault Refusal :=
  finish s (stEff s (leaAdd (s.x a) imm) 8 (s.x d))

/-- The short form of ST.w (R160). -/
def execStWShort (d a : Reg) (imm : W64) (s : State) : Host.Outcome State Fault Refusal :=
  finish s (stEff s (leaAdd (s.x a) imm) 4 (s.x d))

/-- LDX (R160). -/
def execLdx (z : Sz) (d a b : Reg) (s : State) : Host.Outcome State Fault Refusal :=
  finish s (ldEff s d (leaAdd (s.x a) (s.x b)) (szBytes z))

/-- STX (R160). -/
def execStx (z : Sz) (d a b : Reg) (s : State) : Host.Outcome State Fault Refusal :=
  finish s (stEff s (leaAdd (s.x a) (s.x b)) (szBytes z) (s.x d))

/-! ### Far accesses (R161) -/

/-- A blocking far load: the status of the reply is 1 for an absent or failed target and 2 for a poisoned line. -/
def ldfEff (s : State) (d : Reg) (ea : W64) (n : Nat) : Eff :=
  if ea.toNat % n ≠ 0 then trap 0x03 ea
  else match resolve s ea .load with
    | .error e => .error e
    | .ok (t, place, key) =>
      if s.core.mail.mcast ≠ [] then waitPlain s
      else if place ≠ .aperture ∧ stackDead t key then trap 0x04 ea
      else match loadAt (watchAt t ea n false) ea n place key with
        | .error (.trapKeep u 0x0F _) => .error (.trapKeep u 0x0F ea)
        | .error e => .error e
        | .ok (u, l, c) => .ok (setXI (noteReply (countFar u place) place c) d (wordOf l) 3)

/-- LDF, blocking (R161). -/
def execLdf (z : Sz) (d a : Reg) (s : State) : Host.Outcome State Fault Refusal :=
  finish s (ldfEff s d (s.x a) (szBytes z))

/-- A tagged far load leaves as a packet; its reply is a message. At most 64 are outstanding (R161). -/
def ldfTaggedEff (s : State) (ea : W64) (n : Nat) (tag : W64) : Eff :=
  if ea.toNat % n ≠ 0 then trap 0x03 ea
  else match resolve s ea .load with
    | .error e => .error e
    | .ok (t0, place, key) =>
      if place = .aperture ∧ apDenied t0 key then trap 0x04 ea
      else if 64 ≤ s.core.tagged ∨ s.core.mail.mcast ≠ [] then waitPlain s
      else
        let t := watchAt (countFar t0 place) ea n false
        let e := corePacket t ea (.farLoad place key n (BitVec.ofNat 16 tag.toNat))
        let sent := match partnerOf t t.core.num with
          | some (g, m) => pairPush t g m e
          | none => .ok (launch t e)
        match sent with
        | .error x => .error x
        | .ok u => .ok (u.mapCore (fun c => { c with tagged := c.tagged + 1 }))

/-- LDF, tagged (R161). -/
def execLdfTagged (z : Sz) (a b : Reg) (s : State) : Host.Outcome State Fault Refusal :=
  finish s (ldfTaggedEff s (s.x a) (szBytes z) (s.x b))

/-- A far store: always a packet; with a tag register its acknowledgement is a reply message (R161). -/
def stfEff (s : State) (ea : W64) (n : Nat) (w : W64) (tag : Option W64) : Eff :=
  if ea.toNat % n ≠ 0 then trap 0x03 ea
  else match resolve s ea .store with
    | .error e => .error e
    | .ok (t0, place, key) =>
      let t := watchAt t0 ea n true
      if place = .aperture ∧ apDenied t key then trap 0x04 ea
      else if t.core.mail.mcast ≠ [] then waitPlain s
      else
        let cells := cellsAt key (bytesOf w.toNat n)
        sendPacket (countFar t place) ea (match tag with
          | none => .store place cells
          | some g => .farStore place cells (BitVec.ofNat 16 g.toNat))

/-- STF (R161). -/
def execStf (z : Sz) (d a b : Reg) (s : State) : Host.Outcome State Fault Refusal :=
  finish s (stfEff s (s.x a) (szBytes z) (s.x d) (if b = 0 then none else some (s.x b)))

/-! ### Atomics (R162 to R165) -/

def atomEff (s : State) (op : AOp) (z : Wd) (d a b : Reg) : Eff := atomCore s op (wdBytes z) d (s.x a) (s.x d) (s.x b)

/-- ATOM.add (R163). -/
def execAtomAdd (z : Wd) (d a b : Reg) (s : State) : Host.Outcome State Fault Refusal := finish s (atomEff s .add z d a b)
/-- ATOM.and (R163). -/
def execAtomAnd (z : Wd) (d a b : Reg) (s : State) : Host.Outcome State Fault Refusal := finish s (atomEff s .and z d a b)
/-- ATOM.or (R163). -/
def execAtomOr (z : Wd) (d a b : Reg) (s : State) : Host.Outcome State Fault Refusal := finish s (atomEff s .or z d a b)
/-- ATOM.xor (R163). -/
def execAtomXor (z : Wd) (d a b : Reg) (s : State) : Host.Outcome State Fault Refusal := finish s (atomEff s .xor z d a b)
/-- ATOM.min (R163). -/
def execAtomMin (z : Wd) (d a b : Reg) (s : State) : Host.Outcome State Fault Refusal := finish s (atomEff s .min z d a b)
/-- ATOM.max (R163). -/
def execAtomMax (z : Wd) (d a b : Reg) (s : State) : Host.Outcome State Fault Refusal := finish s (atomEff s .max z d a b)
/-- ATOM.minn (R163). -/
def execAtomMinn (z : Wd) (d a b : Reg) (s : State) : Host.Outcome State Fault Refusal := finish s (atomEff s .minn z d a b)
/-- ATOM.maxn (R163). -/
def execAtomMaxn (z : Wd) (d a b : Reg) (s : State) : Host.Outcome State Fault Refusal := finish s (atomEff s .maxn z d a b)
/-- ATOM.swap (R163). -/
def execAtomSwap (z : Wd) (d a b : Reg) (s : State) : Host.Outcome State Fault Refusal := finish s (atomEff s .swap z d a b)
/-- CAS (R164): x[d] holds the expected value; a posted CAS compares against zero. -/
def execCas (z : Wd) (d a b : Reg) (s : State) : Host.Outcome State Fault Refusal := finish s (atomEff s .cas z d a b)
/-- BINC (R165). -/
def execBinc (z : Wd) (d a b : Reg) (s : State) : Host.Outcome State Fault Refusal := finish s (atomEff s .binc z d a b)

/-! ### WAITA (R166) -/

/-- Watches that share a word's table, and the table's size: 64 for a home slice, on this chip or on a peer, 16 for a local
memory, 32 for a quad's share of a scratchpad (R150, R166). -/
def watchHome (key : Nat) : Nat × Nat :=
  let line := lineKeyOf key
  if key < hbmEnd ∨ 2 ^ 65 ≤ key then (2 ^ 70 + homeDie (line * 64) * 96 + superPhys line % 96, 64)
  else if 2 ^ 64 ≤ key then (2 ^ 72 + key / 256 % 96, 64)
  else if key < 2 ^ 63 then (2 ^ 71 + key / 2 ^ 18, 32)
  else (key / 2 ^ 37, 16)

/-- The home registers the core's watch when its table has room. -/
def watchOn (s : State) (key : Nat) : State :=
  let h := watchHome key
  if s.mu.watches.contains (s.core.num, key) then s
  else if (s.mu.watches.filter (fun w => watchHome w.2 == h)).length < h.2 then
    s.mapMu (fun m => { m with watches := m.watches ++ [(s.core.num, key)] })
  else s

def watchOff (s : State) : State :=
  s.mapMu (fun m => { m with watches := m.watches.filter (fun w => w.1 != s.core.num) })

/-- WAITA. Once the core sleeps it reads the word through its home and not from the die's RDC. Its one flit is counted when it
completes (22_resident R418). -/
def waitaEff (s : State) (n : Nat) (d : Reg) (ea : W64) (limit : W64) : Eff :=
  let t0 := match s.core.wait with | some w => w.since | none => s.cycle
  if ea.toNat % n ≠ 0 then trap 0x03 ea
  else match resolve s ea .load with
    | .error e => .error e
    | .ok (r0, place, key) =>
      let t := if s.core.wait.isSome then rdcDrop r0 (dieOf s.core.pos) [lineKeyOf key] else r0
      match loadAt (watchAt t ea n false) ea n place key with
      | .error e => .error e
      | .ok (u, l, c) =>
        let v := noteReply u place c
        let w := ofBytes l
        let res := sext (8 * n) (BitVec.ofNat 64 w)
        if w ≠ (s.x d).toNat % 2 ^ (8 * n) then .ok (setXI (watchOff (acquire (countPlace v place 1) c)) d res 3)
        else if limit = 0 ∨ s.cycle < t0 + limit.toNat then waitPlain (watchOn v key)
        else .ok (setXI (watchOff (countPlace v place 1)) d res 3)

/-- WAITA (R166). -/
def execWaita (z : Wd) (d a b : Reg) (s : State) : Host.Outcome State Fault Refusal :=
  finish s (waitaEff s (wdBytes z) d (s.x a) (s.x b))

/-! ### PREF, IFENCE, DISCARD (R167 to R169) -/

/-- One line filled where the die reads it: its home slice, or the die's RDC. -/
def prefLine (s : State) (place : Place) (line : Nat) : State :=
  match readLine s (dieOf s.core.pos) place line with
  | .ok (t, _, _) => t
  | .error (.poison _ t) => t
  | .error .waits => s

/-- PREF: a hint that never traps (R167). Code 2 takes the line from every holder that a store to it would recall it from:
the instruction caches and a host cache (07_ordering R175, R183; DEDUCED, log 8). DESIGN CHOICE (log 55): where the translation has
to walk, the hint starts the walk and fills nothing, and a line that its home holds back is not filled; R167 lists other reasons for
which a hint is dropped. -/
def prefEff (s : State) (code : Nat) (ea : W64) : State :=
  match resolve s ea (if code = 2 then .store else .load) with
  | .ok (t, place, key) =>
    if place.cached then
      let line := lineKeyOf key
      if code = 1 then (List.range 4).foldl (fun u i => prefLine u place (line / 4 * 4 + i)) t
      else if code = 2 then snoop (codeDrop (prefLine t place line) line) [(key, 0)]
      else prefLine t place line
    else s
  | .error (.wait t _) => keepAsked s t
  | .error _ => s

/-- PREF (R167). -/
def execPref (d : Code3) (a : Reg) (imm : W64) (s : State) : Host.Outcome State Fault Refusal :=
  finish s (.ok (prefEff s d.toNat (leaAdd (s.x a) imm)))

/-- IFENCE (R168). -/
def execIfence (s : State) : Host.Outcome State Fault Refusal := finish s (.ok (emptyFetch s))

/-- The cached lines of `n` bytes from a key are dropped; the lines the range covers in part are written back and kept
(R169). -/
def dropLines (s : State) (key n : Nat) : State :=
  let inside (line : Nat) : Bool := decide (key ≤ line * 64) && decide (line * 64 + 64 ≤ key + n)
  let partly (line : Nat) : Bool :=
    !inside line && decide (line * 64 < key + n) && decide (key < line * 64 + 64)
  let s := s.mapMu (fun m => { m with icache := m.icache.filter (fun p => !inside (p.1 / 128)) })
  let t := (s.mu.l2.filter (fun p => partly p.1)).foldl (fun t p => writeBack t p.1 p.2) s
  t.mapMu (fun m => { m with
    l2 := (m.l2.filter (fun p => !inside p.1)).map (fun p => if partly p.1 then (p.1, { p.2 with dirty := false }) else p)
    rdc := m.rdc.filter (fun p => !inside (p.1 / 4)) })

/-- Whether an engine owns a line of `n` bytes from a key. -/
def ownsAny (s : State) (key n : Nat) : Bool :=
  s.mu.excl.any (fun o => decide (key / 64 < o.hi) && decide (o.lo ≤ (key + n - 1) / 64))

/-- DISCARD, page by page; what is left at a trap or a wait stays in the registers (R169). Pages of a peer chip and of the
aperture are cached nowhere and lose nothing (R151; 08_page R211). -/
def discardGo (a b : Reg) : Nat → State → Eff
  | 0, s => .ok s
  | f + 1, s =>
    let ea := s.x a
    let n := (s.x b).toNat
    if n = 0 then .ok s
    else if fld ea 63 52 ≠ 0 then .error (.trapKeep s 0x04 ea)
    else match tlbLookup s (curAsid s.core) ea.toNat false with
      | (_, .absent) => .error (.trapKeep s 0x05 ea)
      | (t, .waits) => waitPlain t
      | (t, .hit e) =>
        if !permits e .store (inTask t.core) then .error (.trapKeep t 0x04 ea)
        else
          let stop := (ea.toNat / 2 ^ pageBits e.size + 1) * 2 ^ pageBits e.size
          let k := min n (stop - ea.toNat)
          let p := leafPlace e ea.toNat
          if p.1.paged && ownsAny t p.2 k then waitPlain t
          else discardGo a b f (rawX (rawX (if p.1.paged then dropLines t p.2 k else t) b (BitVec.ofNat 64 (n - k))) a (ea + BitVec.ofNat 64 k))

/-- A bound on the pages a DISCARD goes through. With one register for both operands the range grows as it is left behind,
up to the end of virtual space. -/
def discardPages (a b : Reg) (s : State) : Nat := if a = b then 2 ^ 34 else (s.x b).toNat / 2 ^ 19 + 2

/-- DISCARD (R169). -/
def execDiscard (a b : Reg) (s : State) : Host.Outcome State Fault Refusal :=
  finish s (if s.x b = 0 then .ok s
    else if fld (s.x a) 63 62 ≠ 0 then trap 0x04 (s.x a)
    else discardGo a b (discardPages a b s) s)

/-! ### FENCE, LDAQ, STRL (R203 to R205) -/

/-- A failed store held is reported once, by a fence that has not begun to wait (R159, R203). -/
def checkFerr (s : State) : Eff :=
  match s.core.wait, s.core.ev.ferr with
  | none, some a => .error (.trapKeep (s.mapEv (fun e => { e with ferr := none })) 0x04 a)
  | _, _ => .ok s

/-- The wait of a checked pair's member after its pair's release point. -/
def keepPaired (s : State) (r : Eff) : Eff :=
  match partnerOf s s.core.num, r with
  | some (g, _), .error (.wait t .plain) => .error (.wait t (.paired g))
  | _, r => r

/-- What follows a release of its own instruction may wait; the release has stepped its counter, and does not again. -/
def stepsOnce (r : Eff) : Eff :=
  match r with
  | .error (.wait t .plain) => .error (.wait t .stepped)
  | _ => r

/-- What every fence does first: results land, a held error is reported, a checked pair releases (R203, R300). -/
def fenceHead (s : State) : Eff :=
  match checkFerr (landAll s) with
  | .error e => .error e
  | .ok t => pairPoint t

/-- A full FENCE (R203). -/
def fenceEff (s : State) (scope : Scope) : Eff :=
  match fenceHead s with
  | .error e => .error e
  | .ok t => keepPaired t (match relNow t scope with
    | .error e => .error e
    | .ok u => .ok (acquireFence u scope))

/-- FENCE (R203). -/
def execFence (c : Scope) (s : State) : Host.Outcome State Fault Refusal := finish s (fenceEff s c)

/-- FENCE.acq (R203). -/
def execFenceAcq (c : Scope) (s : State) : Host.Outcome State Fault Refusal :=
  finish s (match fenceHead s with
    | .error e => .error e
    | .ok t => .ok (acquireFence t c))

/-- FENCE.rel (R203): it marks and retires. -/
def execFenceRel (c : Scope) (s : State) : Host.Outcome State Fault Refusal :=
  finish s (match fenceHead s with
    | .error e => .error e
    | .ok t => .ok (relMark t c))

/-- LDAQ: at .device and .system scope the line is read at its home, as R175 allows (R204; log entry 8). -/
def ldaqEff (s : State) (scope : Scope) (n : Nat) (d : Reg) (ea : W64) : Eff :=
  if ea.toNat % n ≠ 0 then trap 0x03 ea
  else match resolve s ea .load with
    | .error e => .error e
    | .ok (r, place, key) =>
      let t := if steps scope then rdcDrop r (dieOf s.core.pos) [lineKeyOf key] else r
      match loadAt (watchAt t ea n false) ea n place key with
      | .error e => .error e
      | .ok (u, l, k) => .ok (setXI (acquireAt (noteReply u place k) scope k) d (wordOf l) 3)

/-- LDAQ (R204). -/
def execLdaq (c : Scope) (z : Sz) (d a : Reg) (s : State) : Host.Outcome State Fault Refusal :=
  finish s (ldaqEff s c (szBytes z) d (s.x a))

/-- STRL: the checks, then FENCE.rel, then the store when the release is complete (R205). -/
def strlEff (s : State) (scope : Scope) (ea : W64) (n : Nat) (w : W64) : Eff :=
  if ea.toNat % n ≠ 0 then trap 0x03 ea
  else match resolve s ea .store with
    | .error e => .error e
    | .ok (t0, place, key) =>
      match fenceHead (watchAt t0 ea n true) with
      | .error e => .error e
      | .ok t => keepPaired t (match relNow t scope with
        | .error e => .error e
        | .ok u => stepsOnce (storeAt u ea place key (bytesOf w.toNat n)))

/-- STRL (R205). -/
def execStrl (c : Scope) (z : Sz) (d a : Reg) (s : State) : Host.Outcome State Fault Refusal :=
  finish s (strlEff s c (s.x a) (szBytes z) (s.x d))

end Sys2Proof.Machine
end

