-- ==== Sys2Proof/Machine/Send.lean ====
section
/-! DEFINITION. SEND, SENDB, MCAST, DONE, INBQ, BIND, UNBIND, QW, QR and QTRY, and the events of messages and of accesses
at their homes (10_queue R253 to R277; 06_memory R158 to R162; 07_ordering R171 to R177; 08_page R220). -/
namespace Sys2Proof.Machine

/-! ### SEND, SENDB, MCAST (R271, R272) -/

/-- The checks of a HANDLER operand; a zero handler is legal in class reply only (R271). -/
def checkHandler (w : W64) (zeroOk : Bool) : Except Stop Unit :=
  if fld w 63 32 ≠ 0 ∨ (fld w 31 31 = 1 ∧ fld w 30 16 ≠ 0) ∨ (fld w 31 0 = 0 ∧ !zeroOk) then trap 0x04 w
  else if fld w 0 0 = 1 then trap 0x03 w
  else .ok ()

/-- The message a core builds (R253). -/
def coreMessage (s : State) (cls : Nat) (alen : Nat) (tag handler : Nat) (v : W512) : Msg :=
  { handler := BitVec.ofNat 32 handler, sender := BitVec.ofNat 32 s.core.num, tag := BitVec.ofNat 16 tag, cls := cls
    alen := BitVec.ofNat 8 alen, stime := timeLow s, payload := BitVec.ofNat 384 v.toNat, src := .core s.core.num
    origin := .plain, clock := (getDie s (dieOf s.core.pos)).vc, far := false, age := 0, arrived := 0
    attaching := false }

/-- Messages of the core in its interface, which buffers 8 (R256). -/
def inInterface (s : State) : Nat :=
  (s.net.filter (fun p => p.src == .core s.core.num && p.st == .flying &&
    (match p.body with | .msg _ _ _ => true | _ => false))).length

def interfaceFull (s : State) : Bool := decide (8 ≤ inInterface s) || !s.core.mail.mcast.isEmpty

/-- The context a core's message to another belongs to: none for a monitor's message out of its own context. -/
def sendCtx (s : State) (dest : Nat) : Nat :=
  if !noCtx s.core && inRange s (curCtx s.core) dest then curCtx s.core else 256

/-- Whether the core in focus may send to a receiver: a receiver outside the context is a violation (R271, R146). -/
def checkReceiver (s : State) (dest : Nat) (xa : W64) : Except Stop Unit :=
  if inMonitor s.core || (!noCtx s.core && inRange s (curCtx s.core) dest) then .ok ()
  else if noCtx s.core then trap 0x04 xa
  else .error .freeze

/-- A message of the core leaves for its receiver. -/
def sendMessage (s : State) (dest : Nat) (m : Msg) (att : Option Att) : Eff :=
  if interfaceFull s then waitPlain s
  else (sendPacketAs s (sendCtx s dest) (msgAddr dest) (.msg dest m att)).map (fun t => countFlits t dest 1)

/-- SEND of a class. -/
def sendEff (s : State) (cls : Nat) (vd : W512) (xa xb : W64) : Eff :=
  if cls = 3 ∧ inTask s.core then trap 0x02 0
  else if fld xa 63 48 ≠ 0 ∨ fld xa 31 25 ≠ 0 then trap 0x04 xa
  else match checkHandler xb (cls == 1) with
    | .error e => .error e
    | .ok _ => match checkReceiver s (fld xa 24 0) xa with
      | .error e => .error e
      | .ok _ => sendMessage s (fld xa 24 0) (coreMessage s cls 0 (fld xa 47 32) (fld xb 31 0) vd) none

def mclsCode : MCls → Nat | .req => 0 | .rep => 1 | .sys => 3

/-- SEND (R271). -/
def execSend (c : MCls) (d a b : Reg) (s : State) : Host.Outcome State Fault Refusal :=
  finish s (sendEff s (mclsCode c) (s.v d) (s.x a) (s.x b))

/-- The short form of SEND.req (R271). -/
def execSendReqShort (d a b : Reg) (s : State) : Host.Outcome State Fault Refusal :=
  finish s (sendEff s 0 (s.v d) (s.x a) (s.x b))

/-- Every line of an attachment's source is checked for translation and load permission (R272). -/
def checkSource (s : State) (a : W64) : Nat → Except Stop State
  | 0 => .ok s
  | n + 1 => match resolve s a .load with
    | .error e => .error e
    | .ok (t, _, _) => checkSource t (leaAdd a 64) n

/-- SENDB: class bulk with an attachment (R272). -/
def sendbEff (s : State) (vd : W512) (xa xb : W64) : Eff :=
  let lines := fld xa 55 48 + 1
  let from_ : W64 := BitVec.ofNat 64 (elem vd 64 0)
  let off := elem vd 16 4
  if fld xa 63 56 ≠ 0 ∨ fld xa 31 25 ≠ 0 then trap 0x04 xa
  else match checkHandler xb false with
    | .error e => .error e
    | .ok _ =>
      if from_.toNat % 64 ≠ 0 ∨ off % 64 ≠ 0 ∨ 0x10000 < off + lines * 64 then trap 0x04 xa
      else match checkSource s from_ lines with
        | .error e => .error e
        | .ok t => match checkReceiver t (fld xa 24 0) xa with
          | .error e => .error e
          | .ok _ =>
            sendMessage t (fld xa 24 0) (coreMessage t 2 (fld xa 55 48) (fld xa 47 32) (fld xb 31 0) vd)
              (some (.read from_ off))

/-- SENDB (R272). -/
def execSendb (d a b : Reg) (s : State) : Host.Outcome State Fault Refusal :=
  finish s (sendbEff s (s.v d) (s.x a) (s.x b))

/-- A live group of a kind that the core's context holds (12_group R296). -/
def groupOf (s : State) (g kind : Nat) : Option Group :=
  match tget s.un.groups g with
  | some x => if x.live && x.kind == kind && x.ctx == ctxNum s.core then some x else none
  | none => none

/-- One copy of an MCAST as a packet with its own identity. -/
def mcastPacket (s : State) (m : Msg) (i dest : Nat) : Packet :=
  { corePacket s (msgAddr dest) (.msg dest m none) with id := s.nextId + i, ctx := sendCtx s dest }

/-- The next copy of an MCAST enters the interface, or a checked pair's buffer, when there is room (R271). -/
def mcastNext (s : State) : State :=
  match s.core.mail.mcast with
  | [] => s
  | p :: r =>
    if 8 ≤ inInterface s then s
    else
      let t := s.mapMail (fun m => { m with mcast := r })
      match partnerOf t t.core.num with
      | none => launch t p
      | some (g, m) => match pairPush t g m p with
        | .ok u => u
        | .error (.over u) => u
        | .error _ => s

/-- Copies enter while there is room. -/
def mcastFlow : Nat → State → State
  | 0, s => s
  | n + 1, s => mcastFlow n (mcastNext s)

/-- MCAST of a class. -/
def mcastEff (s : State) (cls : Nat) (vd : W512) (xa xb : W64) : Eff :=
  if cls = 3 ∧ inTask s.core then trap 0x02 0
  else if fld xa 63 48 ≠ 0 ∨ fld xa 31 16 ≠ 0 then trap 0x04 xa
  else match checkHandler xb (cls == 1) with
    | .error e => .error e
    | .ok _ => match groupOf s (fld xa 15 0) 1 with
      | none => trap 0x04 xa
      | some g =>
        let t := settleMarks s
        if held t || interfaceFull t || decide (256 ≤ (unacked t t.core.num).length) then waitPlain t
        else
          let m := coreMessage t cls 0 (fld xa 47 32) (fld xb 31 0) vd
          let ps := (sortBy (fun x y => decide (x ≤ y)) g.members).zipIdx.map (fun p => mcastPacket t m p.2 p.1)
          let u := g.members.foldl (fun w n => countFlits w n 1) t
          .ok (mcastFlow 8 { u.mapMail (fun m => { m with mcast := ps }) with nextId := u.nextId + ps.length })

/-- MCAST (R271). -/
def execMcast (c : MCls) (d a b : Reg) (s : State) : Host.Outcome State Fault Refusal :=
  finish s (mcastEff s (mclsCode c) (s.v d) (s.x a) (s.x b))

/-- MCAST_COPY (R271): a copy of core a's MCAST enters its interface. -/
def execMcastCopy (s : State) : Host.Outcome State Fault Refusal := .next (onCore s s.arg.a mcastNext)

/-! ### DONE (R273) -/

/-- What DONE waits for and reports before the handler ends (R62, R86, R159, R300). -/
def doneHead (s : State) : Eff :=
  if s.core.sc.spillBusy then waitPlain s
  else match s.core.ev.ferr with
    | some a => .error (.trapKeep (s.mapEv (fun e => { e with ferr := none })) 0x04 a)
    | none => pairPoint (landAll s)

/-- DONE: the handler that is dispatched, or the idle state, is where the core goes on. -/
def doneEff (s : State) : Eff :=
  if inMonitor s.core || sbank s || uin s then trap 0x02 0
  else match doneHead s with
    | .error e => .error e
    | .ok t =>
      let u := endHandler t
      .ok { u with core := { u.core with issue := { u.core.issue with npc := u.core.pc } } }

/-- DONE (R273). -/
def execDone (s : State) : Host.Outcome State Fault Refusal := finish s (doneEff s)
/-- The short form of DONE (R273). -/
def execDoneShort (s : State) : Host.Outcome State Fault Refusal := finish s (doneEff s)

/-! ### INBQ, BIND, UNBIND (R274, R275) -/

def inbqEff (s : State) (d : Reg) (sel : W64) : Eff :=
  let h := match dispatchChoice s.core.mail with | some m => msgHeader m | none => 0
  match sel.toNat with
  | 0 => .ok (setXI s d (inboxWord s) 2)
  | 1 => .ok (setXI s d (BitVec.ofNat 64 h) 2)
  | 2 => .ok (setXI s d (BitVec.ofNat 64 (h / 2 ^ 64)) 2)
  | _ => trap 0x04 sel

/-- INBQ (R274). -/
def execInbq (d a : Reg) (s : State) : Host.Outcome State Fault Refusal := finish s (inbqEff s d (s.x a))

/-- BIND: the tag's held replies become dispatchable (R267, R275). -/
def bindEff (s : State) (d : Reg) (xa xb : W64) : Eff :=
  match checkHandler xb false with
  | .error e => .error e
  | .ok _ =>
    let tag := BitVec.ofNat 16 xa.toNat
    let h := BitVec.ofNat 32 xb.toNat
    let mb := s.core.mail
    let rest := mb.tags.filter (fun t => t.1 != tag)
    if 64 ≤ rest.length then .ok (setXI s d 1 2)
    else
      let freed := mb.inbox.any (fun m => heldReply mb m && m.tag == tag)
      let t := s.mapMail (fun m => { m with tags := rest ++ [(tag, h)] })
      .ok (setXI (if freed then signal81 t else t) d 0 2)

/-- BIND (R275). -/
def execBind (d a b : Reg) (s : State) : Host.Outcome State Fault Refusal := finish s (bindEff s d (s.x a) (s.x b))

def unbindEff (s : State) (d : Reg) (xa : W64) : State :=
  let tag := BitVec.ofNat 16 xa.toNat
  if (tagBound s.core.mail tag).isSome then
    setXI (s.mapMail (fun m => { m with tags := m.tags.filter (fun t => t.1 != tag) })) d 0 2
  else setXI s d 1 2

/-- UNBIND (R275). -/
def execUnbind (d a : Reg) (s : State) : Host.Outcome State Fault Refusal := finish s (.ok (unbindEff s d (s.x a)))

/-! ### QW, QR, QTRY (R276, R277) -/

/-- QW: the word goes with CPYVEC.DEFH and the mode of this moment (16_copy R353). -/
def qwEff (s : State) (q : Nat) (w : W64) : Eff :=
  if (getQ s.core q).kind = 0 then trap 0x0A (BitVec.ofNat 64 q)
  else postCmd s 8 [BitVec.ofNat 64 q, w] q (.word w s.core.sys.cpydefh (modeOf s.core))

/-- QW (R276). -/
def execQw (d : Code3) (a : Reg) (s : State) : Host.Outcome State Fault Refusal := finish s (qwEff s d.toNat (s.x a))

/-- QR. A pop from the collective port is an acquire of the contributions the result carries (23_link R436). -/
def qrEff (s : State) (d : Reg) (q : Nat) : Eff :=
  let x := getQ s.core q
  if x.kind = 0 then trap 0x0A (BitVec.ofNat 64 q)
  else match x.res with
    | [] => waitPlain s
    | w :: r =>
      let t := setXI (s.mapCore (fun c => setQ c q { x with res := r })) d w 2
      .ok (if x.kind = 5 then acquireFence t .system else t)

/-- QR (R277). -/
def execQr (d : Reg) (a : Code3) (s : State) : Host.Outcome State Fault Refusal := finish s (qrEff s d a.toNat)

def qtryEff (s : State) (d : Reg) (q : Nat) : Eff :=
  let x := getQ s.core q
  if x.kind = 0 then trap 0x0A (BitVec.ofNat 64 q) else .ok (setXI s d (BitVec.ofNat 64 x.res.length) 2)

/-- QTRY (R277). -/
def execQtry (d : Reg) (a : Code3) (s : State) : Host.Outcome State Fault Refusal := finish s (qtryEff s d a.toNat)

/-- QBIND_WRITE (R268): QBINDb of core a is written with w once its commands have drained. -/
def execQbindWrite (s : State) : Host.Outcome State Fault Refusal :=
  .next (if (getQ (getCore s s.arg.a) s.arg.b).cmd.isEmpty then onCore s s.arg.a (fun t => qbindSet t t.arg.b t.arg.w) else s)

end Sys2Proof.Machine
end

