-- ==== Sys2Proof/Machine/Home.lean ====
section
/-! DEFINITION. The events of the network and of the homes: accesses served, acknowledgements, messages accepted,
attachments, beats, the sweep, the host, page walks, keys, and waits that end (04_core R76, R86, R103; 06_memory R158 to
R166; 07_ordering R171 to R183; 08_page R213, R217, R220; 10_queue R258, R272; 23_link R433). -/
namespace Sys2Proof.Machine

/-! ### Packets of one route (07_ordering R171, R176, 10_queue R257) -/

/-- The 8-byte locations an access touches. -/
def Body.spots : Body → List Nat
  | .farLoad _ key n _ => [key / 8, (key + n - 1) / 8]
  | .shape _ key _ _ => [key / 8]
  | b => (b.cells.map (fun c => c.1 / 8)).dedup

/-- Whether a later packet may not pass an earlier one: the same sender's message of one class to one receiver, or access
to one location. -/
def holdsBack (q p : Packet) : Bool :=
  q.sender == p.sender && q.st == .flying && (match q.body, p.body with
    | .msg d m _, .msg e n _ => d == e && m.cls == n.cls
    | .beat d, .beat e => d == e
    | .sub d _ _ _, .sub e _ _ _ => d == e
    | .ask c _, .ask d _ => c == d
    | .told c _ _ _, .told d _ _ _ => c == d
    | b, c => b.spots.any (fun k => c.spots.contains k))

/-- Whether a packet that crosses to another die waits for writes and beats that left before it (07_ordering R177). -/
def bridgeHolds (s : State) (p : Packet) (ahead : List Packet) : Bool :=
  match p.crosses s with
  | some h => bridgeAhead s p.die h ahead
  | none => false

/-- Whether a packet is held for replay at a link that retrains (23_link R427, R429). -/
def linkHolds (s : State) (p : Packet) : Bool :=
  s.out.links.any (fun l => l.2.st == .retraining && l.2.sent.contains p.id)

/-- The packet with an identity, when nothing of its route is ahead of it. -/
def findPacket (s : State) (id : Nat) : Option Packet :=
  match s.net.find? (fun p => p.id == id) with
  | some p =>
    let ahead := s.net.takeWhile (fun q => q.id != id)
    if p.st == .flying && !ahead.any (fun q => holdsBack q p) && !bridgeHolds s p ahead && !linkHolds s p &&
      !p.body.place.any (fun place => lateCells s ahead place p.body.cells) &&
      !p.toCore.any (fun n => movedHolds s p.sender n p.id) then some p else none
  | none => none

def setPacket (s : State) (id : Nat) (f : Packet → Packet) : State :=
  { s with net := mapFirst (fun p => p.id == id) f s.net }

/-- A packet is over; a link that held it for replay lets it go (23_link R429). -/
def dropPacket (s : State) (id : Nat) : State :=
  { s with
    net := dropFirst (fun p => p.id == id) s.net
    out := if s.out.links.any (fun l => l.2.sent.contains id) then
        { s.out with links := s.out.links.map (fun l => (l.1, { l.2 with sent := l.2.sent.filter (fun j => j != id) })) }
      else s.out }

/-- A packet has been applied: its acknowledgement is on the way. -/
def ackPacket (s : State) (id : Nat) (err : Option W64) : State := setPacket s id (fun p => { p with st := .acked err })

/-- A packet that no core counts is over as soon as it is applied. -/
def endPacket (s : State) (p : Packet) (err : Option W64) : State :=
  match p.src with
  | .core _ => ackPacket s p.id err
  | _ => dropPacket s p.id

/-- Whether the target of an access is there. -/
def placeThere (s : State) (place : Place) (cells : List Host.Cell) : Bool :=
  match place with
  | .loc n => corePresent s n
  | .scr c => clusterPresent s c
  | .peer c _ => chipReached s c
  | .aperture => true
  | _ => !cells.any (fun c => stackDead s c.1)

/-! ### Accesses at their homes -/

/-- The home unit of a byte, each a sender of its own (10_queue R255): an L2 slice of the die, a local memory, or one of the 64
banks of a scratchpad, which interleave as 06_memory R148 says. -/
def homeUnit (s : State) (p : Packet) (place : Place) (key : Nat) : Src :=
  .home ((homeOf s place).getD p.die) (match place with
    | .loc n => 96 + n
    | .scr c => 2 ^ 20 + c * 64 + key % 2 ^ 22 / 2 ^ 18 * 4 + key / 64 % 4
    | .aperture => 2 ^ 21
    | _ => superPhys (lineKeyOf key) % 96)

/-- The reply to a tagged far access (06_memory R161). -/
def farReply (s : State) (p : Packet) (from_ : Src) (tag : BitVec 16) (val status : Nat) (load : Bool) : State :=
  let die := match from_ with
    | .home d _ => d
    | _ => p.die
  match p.src with
  | .core n =>
    let m := unitMessage s from_ die 1 0 tag (val + p.addr.toNat * 2 ^ 64 + status * 2 ^ 128) .plain
    unitSend (dropPacket s p.id) from_ p.ctx die n { m with far := load }
  | _ => dropPacket s p.id

/-- Why cells are not applied at their home: they wait there, or the page that holds their image is absent (08_page R220). -/
inductive HomeStop
  | waits (s : State)
  | absent (va : Nat)
  deriving DecidableEq, Repr

/-- Cells of a packet applied at their home, wherever they are served now. What a peer chip writes is visible to every die from
then on (07_ordering R179). -/
def applyCells (s : State) (p : Packet) (place : Place) (cells : List Host.Cell) : Except HomeStop State :=
  if place = .aperture then .ok (apStoreCells s cells)
  else match servedCells s p.ctx place cells with
    | .error va => .error (.absent va)
    | .ok r =>
      if writeReady r.1 r.2.1 r.2.2 p.die p.stamp then
        let t := noteCounter (applyWrite r.1 r.2.1 r.2.2 p.die p.stamp) p.ctx place cells
        .ok (match p.src with
          | .link _ => rdcDropAll t (cellLines r.2.2)
          | _ => t)
      else .error (.waits (keepAsked s (snoop r.1 r.2.2)))

/-- A packet for a core's local memory at the port of that core: the state when it gets no further, because it parks behind
another of its sender or the port accepts nothing of its side (08_page R220). -/
def heldAtPort (s : State) (p : Packet) (place : Place) : Option State :=
  match place.localCore with
  | none => none
  | some n =>
    if portShut s p.sender n then some s
    else if behindParked s p.sender n then some (parkPacket s p n none)
    else none

/-- What its home has not applied of a packet waits, or is parked. -/
def notApplied (s : State) (p : Packet) (place : Place) (e : HomeStop) : State :=
  match e with
  | .waits t => t
  | .absent va => match place.localCore with
    | some n => parkPacket s p n (some (BitVec.ofNat 64 va))
    | none => s

/-- A store, far store or far load that its home has received is served there (R158, R161, R171, R177). DESIGN CHOICE (log 55):
bytes 0 to 7 of a reply with status 1 or 2, and of the acknowledgement of a far store, are zero; R161 gives them a value for a load
that succeeds only. -/
def servePacket (s : State) (p : Packet) : State :=
  match p.body with
  | .store place cells =>
    if !placeThere s place cells then endPacket s p (some p.addr)
    else (match applyCells s p place cells with
      | .ok t => endPacket t p none
      | .error e => notApplied s p place e)
  | .farStore place cells tag =>
    let home := homeUnit s p place ((cells.head?.map (·.1)).getD 0)
    if !placeThere s place cells then farReply s p home tag 0 1 false
    else (match applyCells s p place cells with
      | .ok t => farReply t p home tag 0 0 false
      | .error e => notApplied s p place e)
  | .farLoad place key n tag =>
    let home := homeUnit s p place key
    if !placeThere s place [(key, 0)] then farReply s p home tag 0 1 true
    else if place = .aperture then farReply s p home tag (ofBytes (apLoad s key n)) 0 true
    else (match servedAt s p.ctx place key with
      | .error va => notApplied s p place (.absent va)
      | .ok r => match readHome r.1 p.die r.2.1 r.2.2 n with
        | .ok (t, l, _) => farReply t p home tag (ofBytes l) 0 true
        | .error .waits => s
        | .error (.poison _ t) => farReply t p home tag 0 2 true)
  | _ => s

/-- What may be served at its home now, past the port of its core. -/
def serveAccess (s : State) (id : Nat) : State :=
  match findPacket s id with
  | none => s
  | some p => (p.body.place.bind (heldAtPort s p)).getD (servePacket s p)

/-- REMOTE_ACCESS_AT_HOME (R171): packet a. -/
def execRemoteAccessAtHome (s : State) : Host.Outcome State Fault Refusal := .next (serveAccess s s.arg.a)

/-- CROSS_DIE_WRITE_APPLY (07_ordering R177): a write that has waited for the beats of the other dies is applied. -/
def execCrossDieWriteApply (s : State) : Host.Outcome State Fault Refusal :=
  .next (match s.net.find? (fun p => p.id == s.arg.a) with
    | some p => if (p.crosses s).isSome then serveAccess s s.arg.a else s
    | none => s)

/-- A posted atomic is executed at its home; a poisoned word is left unchanged (R162). -/
def serveAtomic (s : State) (id : Nat) : State :=
  match findPacket s id with
  | none => s
  | some p => match p.body with
    | .atomic place key n op expect arg =>
      if !placeThere s place [(key, 0)] then endPacket s p (some p.addr)
      else (heldAtPort s p place).getD (match atomHome s p.ctx p.die p.stamp place key n op expect.toNat arg.toNat with
        | .done t _ _ => endPacket t p none
        | .waits t => t
        | .absent va => notApplied s p place (.absent va)
        | .poison t => endPacket t p none)
    | _ => s

/-- ATOMIC_AT_HOME (R162): packet a. -/
def execAtomicAtHome (s : State) : Host.Outcome State Fault Refusal := .next (serveAtomic s s.arg.a)

/-! ### Acknowledgements (R158, R159) -/

/-- A failed store comes back to core `n`: held for its next FENCE or DONE, or a notice when its handler has ended. -/
def holdError (s : State) (n ctx id : Nat) (a : W64) : State :=
  let c := (tget s.un.kept (queueKey ctx n)).getD (getCore s n)
  if id < c.ev.doneBelow then sendNotice s n (mkNotice 2 (ctx % 256) a.toNat a)
  else modTask s ctx n (fun k => { k with ev := { k.ev with ferr := k.ev.ferr.or (some a) } })

/-- The cores that count a packet: its sender, and the partner for what a checked pair has released. -/
def countersOf (s : State) (p : Packet) : List Nat :=
  match p.src with
  | .core n => if p.counted then n :: ((partnerOf s n).map (·.2)).toList else [n]
  | _ => []

/-- What an acknowledgement lets go on: releases of the cores and debts of their handlers. -/
def settleFor (s : State) (l : List Nat) : State := settleDues (l.foldl (fun t n => onCore t n settleMarks) s)

/-- The acknowledgement of a packet returns. -/
def storeAck (s : State) (id : Nat) : State :=
  match s.net.find? (fun p => p.id == id) with
  | none => s
  | some p => match p.st with
    | .flying => s
    | .acked err =>
      let l := countersOf s p
      let t := dropPacket s id
      let u := match err with
        | some a => l.foldl (fun v n => holdError v n p.ctx id a) t
        | none => t
      settleFor u l

/-- STORE_ACK (R158): packet a. -/
def execStoreAck (s : State) : Host.Outcome State Fault Refusal := .next (storeAck s s.arg.a)

/-! ### Messages accepted (10_queue R256 to R258, R265; 08_page R220) -/

/-- A wake of a kernel has been delivered, or dropped for want of its core (11_kernel R284). -/
def wakeGone (s : State) (h : BitVec 32) (lost : Bool) : State :=
  match kerOf s h with
  | none => s
  | some k =>
    let x := getKer s k
    let t := putKer s k { x with wakes := x.wakes - 1, status := if lost then 2 else x.status }
    if lost then kerDec t h else t

/-- A tagged far load of a core, and of its partner in a checked pair, has had its reply (R161). -/
def farDone (s : State) (ctx n : Nat) : State :=
  let dec (t : State) (k : Nat) : State := modTask t ctx k (fun c => { c with tagged := c.tagged - 1 })
  (membersFor s ctx n).foldl dec s

/-- A message that cannot be delivered is reported to its sender, or counts as a dropped wake. -/
def msgLost (s : State) (p : Packet) (m : Msg) : State :=
  let t := endPacket s p (some p.addr)
  match m.origin with
  | .wake h => wakeGone t h true
  | _ => t

/-- One 64-byte line that packet `p` brings lands at offset `off` of core `n`, unless its home cannot take it or it waits for
writes that left its die before it (07_ordering R177). -/
def landLine (s : State) (p : Packet) (n off : Nat) (l : List Byte) (bad : Bool) : Except HomeStop State :=
  let cells := cellsAt (localKey n off) l
  match servedCells s p.ctx (.loc n) cells with
  | .error va => .error (.absent va)
  | .ok r =>
    let ahead := r.1.net.takeWhile (fun q => q.id != p.id)
    let behind := match homeOf r.1 r.2.1 with
      | some h => bridgeAhead r.1 p.die h ahead
      | none => false
    if behind || lateCells r.1 ahead r.2.1 r.2.2 || !writeReady r.1 r.2.1 r.2.2 p.die p.stamp then .error (.waits (keepAsked s (snoop r.1 r.2.2)))
    else
      let t := noteCounter (applyWrite r.1 r.2.1 r.2.2 p.die p.stamp) p.ctx (.loc n) cells
      let t := leaves t p.die r.2.1 (cellLines r.2.2)
      .ok (if bad then (cellLines r.2.2).foldl poisonLine t else t)

/-- The same at several cores: at all of them, or at none. -/
def landAt (p : Packet) (off : Nat) (l : List Byte) (bad : Bool) : List Nat → State → Except HomeStop State
  | [], s => .ok s
  | n :: r, s => match landLine s p n off l bad with
    | .ok t => landAt p off l bad r t
    | .error e => .error e

/-- Whether a message's attachment is still to be read. -/
def reads : Option Att → Bool
  | some (.read _ _) => true
  | _ => false

/-- A pulled row lands at the receiver, and at a checked pair's partner. -/
def landRow (s : State) (p : Packet) (dest : Nat) (att : Option Att) : Except HomeStop State :=
  match att with
  | some (.row bytes off bad) =>
    (List.range (bytes.length / 64)).foldlM (fun u k =>
      landAt p (off + 64 * k) ((bytes.drop (64 * k)).take 64) (bad.contains k) (membersFor s p.ctx dest) u) s
  | _ => .ok s

/-- The message of a packet has been accepted. -/
def msgTaken (s : State) (p : Packet) (dest : Nat) (m : Msg) (att : Option Att) : State :=
  let t := endPacket s p none
  let t := if m.far then farDone t p.ctx dest else t
  match m.origin, att with
  | _, some .held => t
  | .wake h, _ => wakeGone t h false
  | _, some (.read from_ off) =>
    launchUnit t p.src p.ctx p.asid p.die from_ (.attach dest m.age p.id from_ off ((m.alen.toNat + 1) * 64))
  | _, _ => t

/-- A message that reaches the network interface of its receiver takes its place in the order of arrival, whether or not it is
accepted at once (10_queue R259, R264). -/
def reaches (s : State) (p : Packet) (dest : Nat) (m : Msg) (att : Option Att) : State × Packet × Msg :=
  if m.age ≠ 0 then (s, p, m)
  else
    let r := arrivalAge s p.ctx dest
    let n : Msg := { m with age := r.1, arrived := timeLow s }
    (setPacket r.2 p.id (fun q => { q with body := .msg dest n att }), { p with body := .msg dest n att }, n)

/-- A message of core `dest` of this chip is accepted, parked, or waits at the interface (R258, R264; 08_page R220). -/
def takeMessage (s0 : State) (p0 : Packet) (dest : Nat) (m0 : Msg) (att : Option Att) : State :=
  let r := reaches s0 p0 dest m0 att
  let s := r.1
  let p := r.2.1
  let m := r.2.2
  if behindParked s m.src dest then parkPacket s p dest none
  else match landRow s p dest att with
    | .error e => notApplied s p (.loc dest) e
    | .ok t => match acceptMsg t p.ctx dest { m with attaching := reads att || m.attaching } with
      | .done u => msgTaken u p dest m att
      | .absent a => parkPacket s p dest (some a)
      | .waits u => keepAsked s u
      | .broke _ => (acceptMsg s p.ctx dest { m with attaching := reads att || m.attaching }).left s

/-- A request or answer of this chip leaves over the link to its chip, once the chip is reached (17_expert R369; 23_link R429). -/
def leavesChip (s : State) (p : Packet) (chip : Nat) : State :=
  if chipReached s chip then (dropPacket s p.id).mapOut (fun o => { o with linkOut := p.id :: o.linkOut }) else s

/-- A message arrives at its receiver (R258). -/
def messageArrival (s : State) (id : Nat) : State :=
  match findPacket s id with
  | none => s
  | some p => match p.body with
    | .msg dest m att =>
      if nCores ≤ dest then
        (if chipReached s (dest / nCores) then
          (let t := (endPacket s p none).mapOut (fun o => { o with linkOut := id :: o.linkOut })
           match m.origin with
           | .wake h => wakeGone t h false
           | _ => t)
         else msgLost s p m)
      else if !coreHere s dest then msgLost s p m
      else if portShut s m.src dest then s
      else takeMessage s p dest m att
    | .ask chip _ => leavesChip s p chip
    | .told chip _ _ _ => leavesChip s p chip
    | _ => s

/-- MESSAGE_ARRIVAL (R258): packet a. -/
def execMessageArrival (s : State) : Host.Outcome State Fault Refusal := .next (messageArrival s s.arg.a)

/-! ### Attachments (R272) -/

/-- The lines of an attachment, one after another; the address of the first that could not be read comes with the state, and
an attachment that waits leaves what it has asked for. -/
def attachGo (p : Packet) (cl : Nat) (dests : List Nat) :
    Nat → State → W64 → Nat → Option W64 → Except HomeStop (State × Option W64)
  | 0, s, _, _, bad => .ok (s, bad)
  | n + 1, s, a, off, bad =>
    let go (t : State) (l : List Byte) (poison : Bool) (lost : Option W64) : Except HomeStop (State × Option W64) :=
      match landAt p off l poison dests t with
      | .error e => .error e
      | .ok u => attachGo p cl dests n u (leaAdd a 64) (off + 64) lost
    match engRead s cl p.ctx p.asid a 64 with
    | .waits t => .error (.waits t)
    | .got t l poison => go t l poison bad
    | .fails _ => go s (List.replicate 64 0) true (some (bad.getD a))
    | .violates => go s (List.replicate 64 0) true (some (bad.getD a))

/-- A packet that holds an accepted message of core `n` which a save could not append. -/
def holdsMsg (ctx n : Nat) (hit : Msg → Bool) (p : Packet) : Bool :=
  match p.body with
  | .msg d m (some .held) => d == n && p.ctx == ctx && hit m
  | _ => false

/-- The message of a packet changes. -/
def Packet.mapMsg (f : Msg → Msg) (p : Packet) : Packet :=
  match p.body with
  | .msg d m a => { p with body := .msg d (f m) a }
  | _ => p

/-- A bulk message whose attachment has landed becomes dispatchable, in the inbox or in the message queue, or once it is in the
queue. -/
def attached (s : State) (ctx age n : Nat) : State :=
  let hit (m : Msg) : Bool := m.age == age && m.attaching
  let put (m : Msg) : Msg := { m with attaching := false }
  let c := getCore s n
  let k := queueKey ctx n
  match c.mail.inbox.find? hit, (tgetD s.un.overflow k []).find? hit with
  | some m, _ =>
    signalAt (modCore s n (fun c => { c with mail := { c.mail with inbox := mapFirst hit put c.mail.inbox } }))
      (ctxNum c) n (put m)
  | none, some m =>
    signalAt (s.mapUn (fun u => { u with overflow := tput u.overflow k (mapFirst hit put (tgetD u.overflow k [])) })) ctx n
      (put m)
  | none, none =>
    { s with
      net := s.net.map (fun p => if holdsMsg ctx n hit p then p.mapMsg put else p)
      mu := { s.mu with parked := tputD [] s.mu.parked n ((tgetD s.mu.parked n []).map (fun p =>
        if holdsMsg ctx n hit p then p.mapMsg put else p)) } }

/-- The cluster whose engine reads an attachment: the sender's. -/
def srcCluster (s : State) (p : Packet) : Nat :=
  match p.src with
  | .core n => clusterOf (getCore s n).pos
  | .engine cl _ => cl
  | _ => p.die * 32

/-- The attachment of packet `id` is read and written (R272). -/
def attachComplete (s : State) (id : Nat) : State :=
  match findPacket s id with
  | none => s
  | some p => match p.body with
    | .attach dest age by_ from_ off bytes =>
      (heldAtPort s p (.loc dest)).getD (match attachGo p (srcCluster s p) (membersFor s p.ctx dest) (bytes / 64) s from_ off none with
        | .error (.waits t) => keepAsked s t
        | .error e => notApplied s p (.loc dest) e
        | .ok (t, bad) =>
          let t := match p.src with
            | .core n => countFor t n p.ctx dest (bytes / 64)
            | _ => t
          let u := (membersFor s p.ctx dest).foldl (fun v n => attached v p.ctx age n) (dropPacket t id)
          match bad, p.src with
          | some a, .core n => holdError u n p.ctx by_ a
          | _, _ => u)
    | _ => s

/-- ATTACHMENT_COMPLETE (R272): packet a. -/
def execAttachmentComplete (s : State) : Host.Outcome State Fault Refusal := .next (attachComplete s s.arg.a)

/-! ### Waits that may end (04_core R76, R93; 06_memory R149, R166) -/

/-- Whether what a core waits for has come; a wait of whose condition the state keeps no record is judged when the
instruction issues again (04_core R76). -/
def waitMet (s : State) (n : Nat) : Bool :=
  let w : Option WaitFor := (getCore s n).wait.map (·.what)
  match w with
  | some (.phase _ _ _ _) => false
  | some (.bwait _ _) => false
  | some .reload => (evictedSlots (getCore s n).vec).isEmpty
  | some .claim => false
  | some .take => false
  | some (.held _) => false
  | some (.pair _) => false
  | some (.route _) => false
  | _ => true

/-- A waiting core whose condition is met issues its instruction again; until that has completed it still counts as waiting
(`Core.standing`). -/
def goOn (s : State) (n : Nat) : State :=
  if waitMet s n then modCore s n (fun c => if c.run = .waiting then { c with run := .running } else c) else s

/-- WAIT_COMPLETE (04_core R76): core a. -/
def execWaitComplete (s : State) : Host.Outcome State Fault Refusal := .next (goOn s s.arg.a)

/-- LOAD_REPLY (06_memory R149): a load of core a returns; its instruction completes when it issues again. -/
def execLoadReply (s : State) : Host.Outcome State Fault Refusal := .next (goOn s s.arg.a)

/-- A core with a watch. -/
def watching (s : State) (n : Nat) : Bool := s.mu.watches.any (fun w => w.1 == n)

/-- WAITA_WAKE (R166): the home of the word core a watches sends it on. -/
def execWaitaWake (s : State) : Host.Outcome State Fault Refusal :=
  .next (if watching s s.arg.a then goOn s s.arg.a else s)

/-- WAITA_POLL (R166): a core whose watch found no room reads its word again. -/
def execWaitaPoll (s : State) : Host.Outcome State Fault Refusal :=
  .next (if watching s s.arg.a then s else goOn s s.arg.a)

/-- WAITA_TIMEOUT (R166): the limit of core a's WAITA has passed. -/
def execWaitaTimeout (s : State) : Host.Outcome State Fault Refusal := .next (goOn s s.arg.a)

/-- ALIGN_RELEASE (R103): the cores of core a's quad that wait in ALIGN leave it when its condition holds. -/
def execAlignRelease (s : State) : Host.Outcome State Fault Refusal :=
  .next (releaseAligns s (quadOf (getCore s s.arg.a).pos))

/-- SPILL_BUFFER_WRITE (R86): the spill engine has written its buffer. -/
def execSpillBufferWrite (s : State) : Host.Outcome State Fault Refusal :=
  .next (onCore s s.arg.a (fun t => t.mapSc (fun c => { c with spillBusy := false })))

/-! ### Beats and the sweep (07_ordering R177, R178) -/

/-- A beat after 256 cycles in which writes have left. -/
def beatOf (s : State) (die : Nat) : State :=
  let x := getDie s die
  if x.beatDue ∧ x.lastBeat + 256 ≤ s.cycle then sendBeats s die else s

/-- CLOCK_BEAT (R177): die a. -/
def execClockBeat (s : State) : Host.Outcome State Fault Refusal := .next (beatOf s s.arg.a)

/-- The oldest beat from one die to another is received. -/
def beatArrives (s : State) (src dst : Nat) : State :=
  match s.net.find? (fun p => p.die == src && p.body == .beat dst) with
  | none => s
  | some p =>
    if bridgeAhead s src dst (s.net.takeWhile (fun q => q.id != p.id)) then s else hear (dropPacket s p.id) dst src p.stamp

/-- BEAT_ARRIVAL (R177): from die a to die b. -/
def execBeatArrival (s : State) : Host.Outcome State Fault Refusal := .next (beatArrives s s.arg.a s.arg.b)

/-- Whether a fill clock trails the floor by 2^30 or more in a component. -/
def trails (floor fill : Clock) : Bool :=
  (List.range 4).any (fun d => let k := (floor.get d - fill.get d).toNat; decide (2 ^ 30 ≤ k) && decide (k < 2 ^ 31))

/-- RDC_SWEEP (R178): die a. -/
def execRdcSweep (s : State) : Host.Outcome State Fault Refusal :=
  .next (s.mapMu (fun m => { m with
    rdc := m.rdc.filter (fun p => !(p.1 % 4 == s.arg.a && trails (getDie s s.arg.a).floor p.2.clock)) }))

/-! ### The host (07_ordering R183; 23_link R433) -/

/-- The host port is link 24 (R426); it carries traffic while it is up or degraded. -/
def hostUp (s : State) : Bool := (getLink s 24).st == .up || (getLink s 24).st == .degraded

/-- Whether a range serves a host address: enabled, holding it, its context live with that ASID (R433). -/
def hdmServes (s : State) (r a : Nat) : Bool :=
  let h := getHdm s r
  let ctx := fld h.hctl 15 8
  fld h.hctl 63 63 == 1 && decide (h.hbase.toNat ≤ a) && decide (a < h.hlimit.toNat + 2 ^ 21) &&
    ctxLife s ctx == 1 && ctxAsid s ctx == fld h.hctl 7 0

/-- The first range that serves an address. -/
def hdmOf (s : State) (a : Nat) : Option Hdm := (firstNat (fun r => hdmServes s r a) 16).map (getHdm s)

/-- A host request outside every range: the port is frozen and quarantined and the monitor is told (R433, 09_context
R246). The request belongs to no context, so none is frozen with it. -/
def hostViolation (s : State) : State :=
  let t := putLink s 24 { getLink s 24 with st := .quarantined, frozen := true }
  sendNotice t (noticeCore t 0) (mkNotice 1 0 (2 * 2 ^ 48) 0)

/-- A host access translated in task mode at its virtual address: place and key, an error response, or a walk. DESIGN CHOICE:
the host port translates through the TLB of cluster 0, the first of its die; R216 says only that inbound ports use the cluster
TLB. -/
def hostResolve (s : State) (h : Hdm) (a : Nat) (acs : Acs) : Except EngStop (State × Place × Nat) :=
  let va := h.hvbase.toNat + (a - h.hbase.toNat)
  match ctlbLookup s 0 (fld h.hctl 7 0) va with
  | (_, .absent) => .error (.cause 5)
  | (t, .waits) => .error (.waits t)
  | (t, .hit e) =>
    if !permits e acs true then .error (.cause 4)
    else match leafPlace e va with
      | (.hbm d c k, key) => if keyInstalled s k then .ok (t, .hbm d c k, key) else .error (.cause 4)
      | (p, key) => .ok (t, p, key)

/-- What goes back to the host: the bytes of a read, none of a write, or an error response (R433). -/
def hostReply (s : State) (r : Option (List Byte)) : State := s.mapOut (fun o => { o with hostOut := o.hostOut ++ [r] })

/-- HOST_MEM_WRITE (R183, R433): b bytes of line at host address a, applied at the home slice. DESIGN CHOICE (log 54): the write
carries no clock, since R177 names none for it, whichever die its home is on, and no die's counter steps for it; the copies that RDCs
hold of its lines serve on until an acquire at .device on their die, as R183 says of readers on other dies. -/
def hostWrite (s : State) (a n : Nat) (data : W512) : State :=
  if !hostUp s then s
  else match hdmOf s a with
    | none => hostViolation s
    | some h =>
      if fld h.hctl 62 62 = 0 then hostViolation s
      else match hostResolve s h a .store with
        | .error (.waits t) => keepAsked s t
        | .error _ => hostReply s none
        | .ok (t, place, key) =>
          let cells := cellsAt key (bytesOf data.toNat n)
          let die := (homeOf t place).getD 0
          if place = .aperture || !placeThere t place cells then hostReply s none
          else if !writeReady t place cells die Clock.zero then snoop s cells
          else hostReply (rdcStale (applyWrite t place cells die Clock.zero) (cellLines cells)) (some [])

def execHostMemWrite (s : State) : Host.Outcome State Fault Refusal := .next (hostWrite s s.arg.a s.arg.b s.arg.line)

/-- The line of an HBM key that the host now holds in its cache. -/
def hostTakes (s : State) (place : Place) (key : Nat) : State :=
  match place with
  | .hbm _ _ _ =>
    if s.mu.hostHeld.contains (lineKeyOf key) then s
    else s.mapMu (fun m => { m with hostHeld := m.hostHeld ++ [lineKeyOf key] })
  | _ => s

/-- HOST_MEM_READ (R433): b bytes at host address a; the host may keep the line (R183). -/
def hostRead (s : State) (a n : Nat) : State :=
  if !hostUp s then s
  else match hdmOf s a with
    | none => hostViolation s
    | some h => match hostResolve s h a .load with
      | .error (.waits t) => keepAsked s t
      | .error _ => hostReply s none
      | .ok (t, place, key) => match readHome t ((homeOf t place).getD 0) place key n with
        | .ok (u, l, _) => hostReply (hostTakes u place key) (some l)
        | .error .waits => s
        | .error (.poison _ u) => hostReply u none

def execHostMemRead (s : State) : Host.Outcome State Fault Refusal := .next (hostRead s s.arg.a s.arg.b)

/-- HOST_CACHE_SNOOP (R183): the host reads host memory at a; the device's dirty line is given up to it. -/
def execHostCacheSnoop (s : State) : Host.Outcome State Fault Refusal :=
  .next (let line := lineKeyOf (hostKey s.arg.a)
    match tget s.mu.l2 line with
    | some l => (writeBack s line l).mapMu (fun m => { m with l2 := tput m.l2 line { l with dirty := false } })
    | none => s)

/-- HOST_DOORBELL (R278): the host rings the doorbell of context a. -/
def execHostDoorbell (s : State) : Host.Outcome State Fault Refusal :=
  .next (if hostUp s then ringDoorbell s s.arg.a else s)

/-- BACK_INVALIDATE_RESPONSE (R183): the host no longer holds the line of HBM address a. -/
def execBackInvalidateResponse (s : State) : Host.Outcome State Fault Refusal :=
  .next (let line := lineKeyOf s.arg.a
    if s.mu.snooped.contains line then
      s.mapMu (fun m => { m with snooped := m.snooped.erase line, hostHeld := m.hostHeld.filter (fun l => l != line) })
    else s)

/-! ### Page walks and keys (08_page R213, R216, R217) -/

/-- PAGE_WALK_COMPLETE (R217): the walker of cluster a ends a walk for ASID b and address w. -/
def execPageWalkComplete (s : State) : Host.Outcome State Fault Refusal :=
  .next (endWalk s s.arg.a s.arg.b s.arg.w.toNat)

/-- KEY_WRITE (R213): c bytes of line at offset b of KEY(a). -/
def execKeyWrite (s : State) : Host.Outcome State Fault Refusal :=
  .next (keyWrite s s.arg.a s.arg.b (bytesOf s.arg.line.toNat s.arg.c))

end Sys2Proof.Machine
end

