-- ==== Sys2Proof/Machine/VectorMem.lean ====
section
/-! DEFINITION. Vector loads and stores (05_vector R133 to R135; 06_memory R147). -/
namespace Sys2Proof.Machine

/-- The masked-on units of an access with their addresses; a mask bit governs a unit of any type (R57, R58). -/
def vUnits (s : State) (m : Msk) (t : ETy) (at_ : Nat → W64) : List (Nat × W64) :=
  ((List.range (64 / unitBytes t)).filter (fun i => mskOn s m 8 i)).map (fun i => (i, at_ i))

/-- Consecutive units from an address (R133). -/
def unitAt (ea : W64) (t : ETy) (i : Nat) : W64 := leaAdd ea (BitVec.ofNat 64 (i * unitBytes t))

/-- Units at a stride, and units at indexes (R134). -/
def strideAt (base stride : W64) (i : Nat) : W64 := leaAdd base (BitVec.ofNat 64 i * stride)
def indexAt (base : W64) (v : W512) (t : ETy) (i : Nat) : W64 :=
  leaAdd base (BitVec.ofInt 64 (sgnOf (tyWidth t) (elem v (tyWidth t) i) * unitBytes t))

/-- Whether an address lies in the core's own local memory (R133). -/
def ownWindow (s : State) (ea : W64) : Bool := fld ea 63 62 == 2 && fld ea 61 37 == s.core.num && fld ea 36 16 == 0

/-- A register loaded: an off unit keeps its old value, or reads as zero in agnostic mode (R58). -/
def vldReg (s : State) (t : ETy) (d : Reg) (m : Msk) (vs : List (Nat × Nat)) : W512 :=
  let w := 8 * unitBytes t
  pack w ((List.range (512 / w)).map (fun i =>
    if mskOn s m 8 i then ((vs.find? (fun p => p.1 == i)).map (·.2)).getD 0
    else if m.ag then 0 else elem (s.v d) w i))

/-- A vector load. One of 64 bytes in the own local memory lands in 2 cycles (R59). -/
def vldEff (s : State) (t : ETy) (d : Reg) (m : Msk) (fixed : Bool) (at_ : Nat → W64) : Eff :=
  match loadEls s (unitBytes t) (vUnits s m t at_) with
  | .error e => .error e
  | .ok (u, vs) =>
    let w := vldReg s t d m vs
    .ok (if fixed then setVL u d w 2 else setVI u d w 3)

/-- A vector store of the masked-on units, in ascending order (R134). -/
def vstEff (s : State) (t : ETy) (d : Reg) (m : Msk) (at_ : Nat → W64) : Eff :=
  let w := 8 * unitBytes t
  storeEls s (unitBytes t) (vUnits s m t at_) (fun i => elem (s.v d) w i)

/-- A 64-byte access of the own local memory that is not 8-aligned takes one cycle more (R147). -/
def bankCycle (s : State) (ea : W64) (r : Eff) : Eff :=
  match r with
  | .ok t => .ok (if ownWindow s ea && fld ea 2 0 != 0 then addBusy t 1 else t)
  | .error e => .error e

/-- The address of VLD and VST: the immediate counts 64-byte units (R133). -/
def vldAddr (s : State) (a : Reg) (imm : W64) : W64 := leaAdd (s.x a) (imm * 64)

def vldOff (s : State) (t : ETy) (d a : Reg) (imm : W64) (m : Msk) : Eff :=
  let ea := vldAddr s a imm
  bankCycle s ea (vldEff s t d m (ownWindow s ea) (unitAt ea t))

def vstOff (s : State) (t : ETy) (d a : Reg) (imm : W64) (m : Msk) : Eff :=
  let ea := vldAddr s a imm
  bankCycle s ea (vstEff s t d m (unitAt ea t))

/-- VLD (R133). -/
def execVld (t : ETy) (d a : Reg) (imm : W64) (m : Msk) (s : State) : Host.Outcome State Fault Refusal :=
  finish s (vldOff s t d a imm m)

/-- VST (R133). -/
def execVst (t : ETy) (d a : Reg) (imm : W64) (m : Msk) (s : State) : Host.Outcome State Fault Refusal :=
  finish s (vstOff s t d a imm m)

/-- The short form of VLD.f32 (R133). -/
def execVldF32Short (d a : Reg) (imm : W64) (m : Msk) (s : State) : Host.Outcome State Fault Refusal :=
  finish s (vldOff s .f32 d a imm m)

/-- The short form of VST.f32 (R133). -/
def execVstF32Short (d a : Reg) (imm : W64) (m : Msk) (s : State) : Host.Outcome State Fault Refusal :=
  finish s (vstOff s .f32 d a imm m)

/-- VLDS (R134). -/
def execVlds (t : ETy) (d a b : Reg) (m : Msk) (s : State) : Host.Outcome State Fault Refusal :=
  finish s (vldEff s t d m false (strideAt (s.x a) (s.x b)))

/-- VSTS (R134). -/
def execVsts (t : ETy) (d a b : Reg) (m : Msk) (s : State) : Host.Outcome State Fault Refusal :=
  finish s (vstEff s t d m (strideAt (s.x a) (s.x b)))

/-- VLDX (R134). -/
def execVldx (t : ETy) (d a b : Reg) (m : Msk) (s : State) : Host.Outcome State Fault Refusal :=
  finish s (vldEff s t d m false (indexAt (s.x a) (s.v b) t))

/-- VSTX (R134). -/
def execVstx (t : ETy) (d a b : Reg) (m : Msk) (s : State) : Host.Outcome State Fault Refusal :=
  finish s (vstEff s t d m (indexAt (s.x a) (s.v b) t))

end Sys2Proof.Machine
end

