-- ==== Sys2Proof/Machine/Stream.lean ====
section
/-! DEFINITION. Stream registers (16_copy R361 to R363, R365, R366). -/
namespace Sys2Proof.Machine

/-- A signed 32-bit stride times an index. -/
def strideBy (v : BitVec 32) (i : Nat) : W64 := v.signExtend 64 * BitVec.ofNat 64 i

/-- The address of the strip a stream stands at (R361). -/
def Stream.addr (x : Stream) : W64 := leaAdd x.base (strideBy x.s1 x.i1 + strideBy x.s2 x.i2 + strideBy x.s3 x.i3)

/-- The stream at its next strip. -/
def Stream.next (x : Stream) : Stream :=
  if x.i1 + 1 < x.c1.toNat then { x with i1 := x.i1 + 1 }
  else if x.i2 + 1 < x.c2.toNat then { x with i1 := 0, i2 := x.i2 + 1 }
  else { x with i1 := 0, i2 := 0, i3 := x.i3 + 1 }

def Stream.over (x : Stream) : Bool := decide (x.c3.toNat ≤ x.i3)

def Stream.ahead (x : Stream) : Nat → Stream
  | 0 => x
  | n + 1 => (Stream.ahead x n).next

def getStream (s : State) (r : Reg) : Option Stream := tget s.core.vec.streams r.toNat
def putStream (s : State) (r : Reg) (x : Stream) : State :=
  s.mapVec (fun v => { v with streams := tput v.streams r.toNat x })

/-- The 64 bytes of a strip, read as a load; every fault names the strip address (R362). -/
def fetchStrip (s : State) (ea : W64) : Except Stop (State × W512) :=
  if ea.toNat % 64 ≠ 0 then trap 0x03 ea
  else match resolve s ea .load with
    | .error e => .error e
    | .ok (t, place, key) => match loadAt t ea 64 place key with
      | .error (.trapKeep u 0x0F _) => .error (.trapKeep u 0x0F ea)
      | .error e => .error e
      | .ok (u, l, c) => .ok (noteReply u place c, lineOf l)

/-- A read of a register in read-stream mode delivers the next strip and leaves it as the register's content (R362); it is a load
of the core that a watchpoint may match (25_life R447). -/
def popStrip (s : State) (r : Reg) : Eff :=
  match getStream s r with
  | none => .ok s
  | some x =>
    let s := if x.dir || x.over then s else watchAt s x.addr 64 false
    if x.dir then .ok s
    else if x.over then .ok (putStream (vset s r 0) r { x with exh := true })
    else match x.fetched with
      | v :: rest => .ok (putStream (vset s r v) r { x.next with fetched := rest, count := x.count + 1 })
      | [] => match fetchStrip s x.addr with
        | .error e => .error e
        | .ok (t, v) => .ok (putStream (vset t r v) r { x.next with count := x.count + 1 })

/-- The unit fetches one strip ahead, up to four (R362). -/
def prefetchStrip (s : State) (r : Reg) : State :=
  match getStream s r with
  | none => s
  | some x =>
    let n := x.fetched.length
    if x.dir ∨ 4 ≤ n ∨ (x.ahead n).over then s
    else match fetchStrip s (x.ahead n).addr with
      | .error (.wait t _) => keepAsked s t
      | .error _ => s
      | .ok (t, v) => putStream t r { x with fetched := x.fetched ++ [v] }

/-- A write to a register in write-stream mode stores its 64 bytes at the next strip as a VST.f32 would (R363). -/
def pushStrip (s : State) (r : Reg) (v : W512) : Eff :=
  match getStream s r with
  | none => .ok s
  | some x =>
    if !x.dir then .ok s
    else if x.over then .ok (putStream s r { x with exh := true })
    else if x.addr.toNat % 64 ≠ 0 then trap 0x03 x.addr
    else match storeEls s 4 ((List.range 16).map (fun i => (i, unitAt x.addr .f32 i))) (fun i => elem v 32 i) with
      | .error e => .error e
      | .ok t => .ok (putStream t r { x.next with count := x.count + 1 })

/-- A stream descriptor (R361); none when a count is 0 or a reserved bit is set. -/
def streamOf (l : List W64) : Option Stream :=
  let w (i : Nat) : W64 := l.getD i 0
  let x : Stream := {
    base := w 0, s1 := BitVec.ofNat 32 (fld (w 1) 31 0), s2 := BitVec.ofNat 32 (fld (w 2) 31 0)
    s3 := BitVec.ofNat 32 (fld (w 2) 63 32), c1 := BitVec.ofNat 16 (fld (w 1) 47 32)
    c2 := BitVec.ofNat 16 (fld (w 1) 63 48), c3 := BitVec.ofNat 16 (fld (w 3) 15 0), dir := fld (w 3) 16 16 == 1
    i1 := 0, i2 := 0, i3 := 0, exh := false, count := 0, fetched := [] }
  if x.c1 = 0 ∨ x.c2 = 0 ∨ x.c3 = 0 ∨ fld (w 3) 63 17 ≠ 0 then none else some x

def strmEff (s : State) (d : Reg) (ea : W64) : Eff :=
  match s.core.vec.s3 with
  | .evicted => .error (.wait (placeReload s s.core.num) .reload)
  | .unmapped => trap 0x04 (d.zeroExtend 64)
  | .mapped _ =>
    if fld ea 2 0 ≠ 0 then trap 0x03 ea
    else match loadWords s ea 4 with
      | .error e => .error e
      | .ok (t, l) => match streamOf l with
        | none => trap 0x04 ea
        | some x => .ok (putStream t d x)

/-- STRM (R365). -/
def execStrm (d a : Reg) (s : State) : Host.Outcome State Fault Refusal := finish s (strmEff s d (s.x a))

/-- STRMX (R366). -/
def execStrmx (d a : Reg) (s : State) : Host.Outcome State Fault Refusal :=
  finish s (match getStream s a with
    | none => .ok (setXI s d 0 2)
    | some x => .ok (setXI (endStream s a) d (BitVec.ofNat 64 (b2n x.exh * 2 ^ 63 + x.count)) 2))

end Sys2Proof.Machine
end

