-- ==== Sys2Proof/Machine/TileMath.lean ====
section
/-! DEFINITION. Tile records and the arithmetic of a chunk and of a drain row (02_numbers R37; 14_tile R327 to R332). -/
namespace Sys2Proof.Machine

/-! ### Formats (R327) -/

/-- An operand format: an element type, or shared-exponent blocks. -/
inductive OpFmt
  | ty (t : ETy)
  | sx (x : SxF)
  deriving DecidableEq, Repr

/-- AFMT and BFMT. -/
def opFmt : Nat → Option OpFmt
  | 0 => some (.ty .f16) | 1 => some (.ty .bf16) | 2 => some (.ty .e4m3) | 3 => some (.ty .e5m2)
  | 4 => some (.ty .e2m1) | 5 => some (.sx .sx3) | 6 => some (.sx .sx5) | 7 => some (.sx .sx8)
  | 8 => some (.ty .i8) | _ => none

/-- The length in bytes of `n` elements of a format. -/
def fmtLen (f : OpFmt) (n : Nat) : Nat :=
  match f with
  | .ty t => (n * tyWidth t + 7) / 8
  | .sx x => n / 16 * sxBytes x

def isI8 (f : OpFmt) : Bool := f == .ty .i8
def isSx : OpFmt → Bool | .sx _ => true | _ => false

/-- DFMT. -/
def drainTy : Nat → Option ETy
  | 0 => some .f32 | 1 => some .bf16 | 2 => some .f16 | 3 => some .e4m3 | 4 => some .i32 | _ => none

/-- The bytes of a drain row: 32 elements (R329). -/
def drainRowBytes (dfmt : Nat) : Nat := match drainTy dfmt with | some t => 4 * tyWidth t | none => 0

/-- The values of `n` elements of a row. -/
def rowVals (f : OpFmt) (l : List Byte) (n xval : Nat) : List FV :=
  let w := ofBytes l
  match f with
  | .ty t => (List.range n).map (fun i => dec t (w >>> (i * tyWidth t) % 2 ^ tyWidth t) xval)
  | .sx x => (List.range n).map (fun i => sxDec x (w >>> (8 * sxBytes x * (i / 16)) % 2 ^ (8 * sxBytes x)) (i % 16))

/-! ### The words of a record (R327, R328) -/

/-- The word of a record at a byte offset. -/
def recWord (r : BitVec 1024) (off : Nat) : W64 := BitVec.ofNat 64 (r.toNat >>> (8 * off))

def rAfmt (r : BitVec 1024) : Nat := fld (recWord r 0) 55 52
def rBfmt (r : BitVec 1024) : Nat := fld (recWord r 0) 51 48
def rCfmt (r : BitVec 1024) : Nat := fld (recWord r 0) 47 44
def rBit (r : BitVec 1024) (i : Nat) : Bool := fld (recWord r 0) i i == 1
def rGang (r : BitVec 1024) : Bool := rBit r 7
def rDrain (r : BitVec 1024) : Bool := rBit r 6
def rKeep (r : BitVec 1024) : Bool := rBit r 5
def rScla (r : BitVec 1024) : Bool := rBit r 4
def rSclb (r : BitVec 1024) : Bool := rBit r 3
def rTrb (r : BitVec 1024) : Bool := rBit r 2
def rPad (r : BitVec 1024) : Bool := rBit r 1
def rPrio (r : BitVec 1024) : Nat := fld (recWord r 8) 63 58
def rWait (r : BitVec 1024) : Nat := fld (recWord r 8) 57 48
def rK (r : BitVec 1024) : Nat := fld (recWord r 8) 47 32
def rN (r : BitVec 1024) : Nat := fld (recWord r 8) 23 16
def rM (r : BitVec 1024) : Nat := fld (recWord r 8) 7 0
def rAcck (r : BitVec 1024) : Nat := fld (recWord r 0x30) 63 62
def rAccaddr (r : BitVec 1024) : W64 := recWord r 0x38
def rTarget (r : BitVec 1024) : BitVec 128 := BitVec.ofNat 128 (r.toNat >>> (8 * 0x40))
def rSca (r : BitVec 1024) : Nat := fld (recWord r 0x50) 2 0
def rScb (r : BitVec 1024) : Nat := fld (recWord r 0x58) 2 0
def rBar (r : BitVec 1024) (i : Nat) : Nat := fld (recWord r 0x60) (63 - 16 * i) (48 - 16 * i)
def rMcg (r : BitVec 1024) : Nat := fld (recWord r 0x60) 15 4
def rAct (r : BitVec 1024) (i : Nat) : Bool := fld (recWord r 0x60) i i == 1
def rWake (r : BitVec 1024) : BitVec 32 := BitVec.ofNat 32 (fld (recWord r 0x68) 63 32)
def rFlagOff (r : BitVec 1024) : Nat := fld (recWord r 0x68) 31 16
def rFlagVal (r : BitVec 1024) : Nat := fld (recWord r 0x68) 15 0
def rSucc (r : BitVec 1024) (i : Nat) : W64 := recWord r (0x70 + 8 * i)

/-- DTGT: the offset of row 0, core, DREL, DFMT and pitch. -/
def dOff (t : BitVec 128) : Nat := fld t 63 48
def dCore (t : BitVec 128) : Nat := fld t 24 0
def dRel (t : BitVec 128) : Bool := fld t 127 127 == 1
def dFmt (t : BitVec 128) : Nat := fld t 83 80
def dPitch (t : BitVec 128) : Nat := fld t 79 64

/-- A drain target that is malformed for `m` rows of a slot read as FP32 or as I32 (R329). -/
def targetBad (t : BitVec 128) (i32 : Bool) (m : Nat) : Bool :=
  fld t 47 25 != 0 || fld t 126 84 != 0 || decide (4 < dFmt t) || (dFmt t == 4) != i32 || dOff t % 16 != 0 ||
    dPitch t % 16 != 0 || decide (0x10000 < dOff t + (m - 1) * dPitch t + drainRowBytes (dFmt t))

/-- An operand descriptor whose start, rotation or pitch is malformed (R328, R329). -/
def descBad (d0 d1 : W64) (rowLen : Nat) (gang : Bool) : Bool :=
  let win := fld d0 47 46
  fld d1 62 44 != 0 || decide (3 < fld d1 35 32) || win == 3 ||
    (win != 0 && (fld d0 45 41 != 0 || fld d0 47 0 % 16 != 0)) || decide (fld d0 63 48 * 16 < rowLen) ||
    (gang && fld d1 63 63 == 1 && win == 1 && fld d1 31 0 % 16 != 0)

/-- Reserved bits of a record outside its descriptors and target. -/
def reservedSet (r : BitVec 1024) : Bool :=
  fld (recWord r 0) 43 8 != 0 || fld (recWord r 0) 0 0 != 0 || fld (recWord r 8) 31 24 != 0 ||
    fld (recWord r 8) 15 8 != 0 || fld (recWord r 0x30) 61 0 != 0 || fld (recWord r 0x50) 63 3 != 0 ||
    fld (recWord r 0x58) 63 3 != 0 || fld (recWord r 0x60) 3 3 != 0

/-- A record is malformed (R329); `gang` says that MGANG submits it. -/
def recordBad (r : BitVec 1024) (gang : Bool) : Bool :=
  match opFmt (rAfmt r), opFmt (rBfmt r) with
  | some fa, some fb =>
    let wake := rWake r
    let wakeBad := wake == 0 || fld wake 0 0 == 1 || (fld wake 31 31 == 1 && fld wake 30 16 != 0)
    let bRow := if rTrb r then fmtLen fb (rK r) else fmtLen fb (rN r)
    reservedSet r || fld (recWord r 0) 63 56 != 1 || decide (1 < rCfmt r) || rAcck r == 3 || rGang r != gang ||
    (!rDrain r && !rKeep r) || isI8 fa != isI8 fb || (rCfmt r == 1 && !isI8 fa) ||
    rM r == 0 || decide (32 < rM r) || rN r == 0 || decide (32 < rN r) || rK r == 0 || rK r % 32 != 0 ||
    (!rPad r && (decide (rM r < 32) || decide (rN r < 32))) || (isSx fb && !rTrb r) ||
    (rCfmt r == 1 && (rScla r || rSclb r)) ||
    descBad (recWord r 0x10) (recWord r 0x18) (fmtLen fa (rK r)) gang ||
    descBad (recWord r 0x20) (recWord r 0x28) bRow gang ||
    targetBad (rTarget r) (rCfmt r == 1) (rM r) ||
    (rAcck r == 0 && rAccaddr r != 0) || (rAcck r == 1 && (gang || (rAccaddr r).toNat % 128 != 0)) ||
    (rAcck r == 2 && (rAccaddr r).toNat % 64 != 0) ||
    (rSucc r 0).toNat % 128 != 0 || (rSucc r 1).toNat % 128 != 0 ||
    ((rAct r 1 || rAct r 2) && wakeBad) || (rAct r 0 && rFlagOff r % 2 != 0)
  | _, _ => true

/-- The start of a share's operand: BASE, or each partner's own (R328). `member` is the partner of the share. -/
def descStart (d0 d1 : W64) (share : Nat) (member : Option Nat) : W64 :=
  let rel := fld d1 63 63 == 1
  let b := fld d0 47 0
  match fld d0 47 46 with
  | 2 =>
    let n := match rel, member with
      | true, some m => m
      | _, _ => b / 2 ^ 16 % 2 ^ 25
    BitVec.ofNat 64 (localKey n (b % 2 ^ 16))
  | 1 =>
    let a : W64 := BitVec.ofNat 64 (scratchKey (b / 2 ^ 22 % 2 ^ 19) (b % 2 ^ 22))
    if rel then leaAdd a (BitVec.ofNat 64 (share * fld d1 31 0)) else a
  | _ =>
    let a : W64 := BitVec.ofNat 64 (b % 2 ^ 46 * 64)
    if rel then a + BitVec.ofNat 64 (share * fld d1 31 0) else a

/-- The address of offset `o` in row `i` (R328): bits 7:6 of the offset rotate with the row. -/
def descAt (start d0 d1 : W64) (i o : Nat) : W64 :=
  let o' := o / 256 * 256 + ((o / 64 + i * fld d1 35 32) % 4) * 64 + o % 64
  leaAdd (leaAdd start (BitVec.ofNat 64 (i * fld d0 63 48 * 16))) (BitVec.ofNat 64 o')

/-! ### Chunks (02_numbers R37) -/

/-- The exact value of a product in the window, truncated toward zero, in units of `2^q`. -/
def windowTerm (d : Dy) (q : Int) : Int :=
  let v : Nat := if q ≤ d.e then d.m <<< (d.e - q).toNat else d.m >>> (q - d.e).toNat
  if d.neg then -(v : Int) else v

/-- The leading exponent of a nonzero value. -/
def leadExp (d : Dy) : Int := d.e + bitLen d.m - 1

/-- The sum of finite products in a window of 48 bits below the largest (R37). -/
def windowSum (l : List Dy) : Dy :=
  let nz := l.filter (fun d => d.m != 0)
  match nz with
  | [] => Dy.zero false
  | x :: r =>
    let emax := r.foldl (fun e d => max e (leadExp d)) (leadExp x)
    let q := emax - 48
    let v := nz.foldl (fun s d => s + windowTerm d q) 0
    if v = 0 then Dy.zero false else ⟨v < 0, v.natAbs, q⟩

/-- One element of a chunk: the products of a row and a column, with the block scales that apply (R28, R37). -/
def chunkElem (ps : List (FV × FV)) (scale : Option (Option Int × Option Int)) : Nat × Flags :=
  let rs := ps.map (fun p => fMul p.1 p.2)
  let fl := rs.foldl (fun (f : Flags) r => f ||| r.2) 0
  let pos := rs.any (fun r => r.1 == .inf false)
  let neg := rs.any (fun r => r.1 == .inf true)
  if pos && neg then (0x7FC00000, fl ||| fNV)
  else if rs.any (fun r => r.1.isNaN) then (0x7FC00000, fl)
  else if pos then (0x7F800000, fl)
  else if neg then (0xFF800000, fl)
  else
    let s := windowSum (rs.filterMap (fun r => match r.1 with | .fin d => some d | _ => none))
    match scale with
    | none => let r := rnd .f32 (.fin s) .rne; (r.1, fl ||| r.2)
    | some (some a, some b) => let r := rnd .f32 (.fin { s with e := s.e + a + b }) .rne; (r.1, fl ||| r.2)
    | some _ => (0x7FC00000, fl ||| fNV)

/-- The chunk joins the accumulator word. -/
def accumulate (acc : BitVec 32) (c : Nat × Flags) : BitVec 32 × Flags :=
  let r := roundR .f32 (fAdd (dec .f32 acc.toNat 0) (dec .f32 c.1 0) .rne) .rne
  (BitVec.ofNat 32 r.1, c.2 ||| r.2)

/-- The exact value of an 8-bit integer element. -/
def intOf (v : FV) : Int := match v with | .fin d => windowTerm d 0 | _ => 0

/-- An integer chunk: the word plus the exact sum, modulo 2^32, with no flag (R333). -/
def accumulateInt (acc : BitVec 32) (ps : List (FV × FV)) : BitVec 32 :=
  acc + BitVec.ofInt 32 (ps.foldl (fun s p => s + intOf p.1 * intOf p.2) 0)

/-- What a chunk adds to a slot: rows `a` of A and columns `b` of B, with the scales of the rows and columns; `m` rows and
`n` columns are not padded. -/
def chunkInto (words : Tbl (BitVec 32)) (flags : Flags) (i32 : Bool) (a b : List (List FV))
    (sa sb : Option (List (Option Int))) : Tbl (BitVec 32) × Flags :=
  let scale (i j : Nat) : Option (Option Int × Option Int) :=
    if sa.isNone && sb.isNone then none
    else some ((match sa with | some l => l.getD i none | none => some 0), (match sb with | some l => l.getD j none | none => some 0))
  a.zipIdx.foldl (fun st p =>
    b.zipIdx.foldl (fun (st : Tbl (BitVec 32) × Flags) q =>
      let k := 32 * p.2 + q.2
      let ps := p.1.zip q.1
      let old := tgetD st.1 k 0
      if i32 then (tputD 0 st.1 k (accumulateInt old ps), st.2)
      else
        let r := accumulate old (chunkElem ps (scale p.2 q.2))
        (tputD 0 st.1 k r.1, st.2 ||| r.2)) st) (words, flags)

/-! ### Drains (R331) -/

/-- One drained row: `n` columns converted, with their flags. -/
def drainRow (words : Tbl (BitVec 32)) (row n dfmt : Nat) : List Byte × Flags :=
  match drainTy dfmt with
  | none => ([], 0)
  | some t =>
    (List.range n).foldl (fun acc j =>
      let w := tgetD words (32 * row + j) 0
      let r : Nat × Flags := if t = .i32 then (w.toNat, 0) else rnd t (dec .f32 w.toNat 0) .rne
      (acc.1 ++ bytesOf r.1 (tyWidth t / 8), acc.2 ||| r.2)) ([], 0)

end Sys2Proof.Machine
end

