-- ==== Sys2Proof/Machine/Tile.lean ====
section
/-! DEFINITION. Matrix engines, accumulator slots, tile records and their instructions (14_tile R325 to R348). -/
namespace Sys2Proof.Machine

/-! ### Entries -/

def Acc.fresh : Acc :=
  { st := .free, words := [], flags := 0, owner := 0, sub := 0, ctx := 0, chunk := 0, row := 0, fault := 0
    faultAddr := 0, target := 0, rkey := 0 }
def accKey (cl slot : Nat) : Nat := cl * 32 + slot
def getAcc (s : State) (cl slot : Nat) : Acc := tgetD s.un.accs (accKey cl slot) Acc.fresh
def putAcc (s : State) (cl slot : Nat) (x : Acc) : State :=
  s.mapUn (fun u => { u with accs := tputD Acc.fresh u.accs (accKey cl slot) x })

def Engine.fresh : Engine := { run := none, input := none, mmas := [], frozen := false }
def engKey (cl e : Nat) : Nat := cl * 8 + e
def getEng (s : State) (cl e : Nat) : Engine := tgetD s.un.engines (engKey cl e) Engine.fresh
def putEng (s : State) (cl e : Nat) (x : Engine) : State :=
  s.mapUn (fun u => { u with engines := tputD Engine.fresh u.engines (engKey cl e) x })

def recKey (cl i : Nat) : Nat := cl * 1024 + i
def getRec (s : State) (cl i : Nat) : Option TileRec := tget s.un.recs (recKey cl i)
def putRec (s : State) (cl i : Nat) (x : TileRec) : State :=
  s.mapUn (fun u => { u with recs := tput u.recs (recKey cl i) x })
def modRec (s : State) (cl i : Nat) (f : TileRec → TileRec) : State :=
  match getRec s cl i with
  | some r => putRec s cl i (f r)
  | none => s

/-- A record that is not done, abandoned or ended (R334). -/
def TileRec.live (r : TileRec) : Bool := r.st != .done && r.st != .abandoned && r.st != .ended
def TileRec.shares (r : TileRec) : Nat := max 1 r.members.length
def TileRec.ticket (r : TileRec) (i : Nat) : Nat := r.gen * 1024 + i
def TileRec.member (r : TileRec) (share : Nat) : Option Nat := r.members[share]?

/-- The entry a ticket names, when its generation still stands. -/
def recOf (s : State) (cl ticket : Nat) : Option (Nat × TileRec) :=
  match getRec s cl (ticket % 1024) with
  | some r => if r.gen = ticket / 1024 then some (ticket % 1024, r) else none
  | none => none

/-- The slot that serves a share. -/
def slotOfShare (s : State) (cl ticket share : Nat) : Option Nat :=
  firstNat (fun k =>
    let a := getAcc s cl k
    a.st != .free && a.st != .reserved && a.owner == ticket && a.sub == share) 32

/-! ### Operand reads (R328, R331, R332, R338) -/

/-- What a span of an operand gives: bytes, or why the engine stops, with the address. -/
inductive Span
  | got (s : State) (l : List Byte)
  | fault (s : State) (c : Nat) (a : W64)
  | violates
  | waits (s : State)
  deriving DecidableEq, Repr

/-- Bytes `o` to `o + n - 1` of row `i`, piece by piece within 64-byte units of the offset and lines of the address. -/
def readSpan (cl ctx asid : Nat) (start d0 d1 : W64) (i : Nat) : Nat → State → Nat → Nat → List Byte → Span
  | 0, s, _, _, acc => .got s acc
  | f + 1, s, o, n, acc =>
    if n = 0 then .got s acc
    else
      let a := descAt start d0 d1 i o
      let k := min n (min (64 - o % 64) (64 - a.toNat % 64))
      match engRead s cl ctx asid a k with
      | .got t l false => readSpan cl ctx asid start d0 d1 i f t (o + k) (n - k) (acc ++ l)
      | .got t _ true => .fault t 0x0F a
      | .fails c => .fault s c a
      | .violates => .violates
      | .waits t => .waits t

/-- The rows of an operand part: row `i` for each of `n`, `len` bytes from offset `o`. -/
def readRows (cl ctx asid : Nat) (start d0 d1 : W64) (o len : Nat) : State → List Nat → Span ⊕ (State × List (List Byte))
  | s, [] => .inr (s, [])
  | s, i :: r =>
    match readSpan cl ctx asid start d0 d1 i (len / 4 + 4) s o len [] with
    | .got t l => match readRows cl ctx asid start d0 d1 o len t r with
      | .inr (u, ls) => .inr (u, l :: ls)
      | .inl e => .inl e
    | e => .inl e

/-- Single bytes at a list of addresses: the block scales (R332). -/
def readScales (cl ctx asid : Nat) (ent : ScaleEnt) : State → List W64 → Span ⊕ (State × List (Option Int))
  | s, [] => .inr (s, [])
  | s, e :: r =>
    let a := leaAdd ent.s ((e - ent.t).sshiftRight ent.h)
    match engRead s cl ctx asid a 1 with
    | .got t l false => match readScales cl ctx asid ent t r with
      | .inr (u, ls) => .inr (u, e8m0 (ofBytes l) :: ls)
      | .inl x => .inl x
    | .got t _ true => .inl (.fault t 0x0F a)
    | .fails c => .inl (.fault s c a)
    | .violates => .inl .violates
    | .waits t => .inl (.waits t)

/-- A record's copy of its two scale entries. -/
def packScales (a b : ScaleEnt) : BitVec 384 :=
  BitVec.ofNat 384 (a.s.toNat + a.t.toNat * 2 ^ 64 + a.h * 2 ^ 128 + (b.s.toNat + b.t.toNat * 2 ^ 64 + b.h * 2 ^ 128) * 2 ^ 192)
def unpackScale (w : BitVec 384) (k : Nat) : ScaleEnt :=
  let v := w.toNat >>> (192 * k)
  ⟨BitVec.ofNat 64 v, BitVec.ofNat 64 (v >>> 64), v >>> 128 % 64⟩

/-- The operands of chunk `c` of a share, decoded: rows of A, columns of B and their scales. -/
def chunkOperands (s : State) (cl : Nat) (r : TileRec) (share c : Nat) :
    Span ⊕ (State × (List (List FV)) × (List (List FV)) × Option (List (Option Int)) × Option (List (Option Int))) :=
  let w := r.words
  match opFmt (rAfmt w), opFmt (rBfmt w) with
  | some fa, some fb =>
    let a0 := recWord w 0x10
    let a1 := recWord w 0x18
    let b0 := recWord w 0x20
    let b1 := recWord w 0x28
    let sa := descStart a0 a1 share (r.member share)
    let sb := descStart b0 b1 share (r.member share)
    let oa := fmtLen fa (32 * c)
    let xa := fld a1 43 36
    let xb := fld b1 43 36
    let rowsA := List.range (rM w)
    let colsB := List.range (rN w)
    (match readRows cl r.ctx r.asid sa a0 a1 oa (fmtLen fa 32) s rowsA with
      | .inl e => .inl e
      | .inr (s1, la) =>
        let av := la.map (fun l => rowVals fa l 32 xa)
        let bPart :=
          if rTrb w then readRows cl r.ctx r.asid sb b0 b1 (fmtLen fb (32 * c)) (fmtLen fb 32) s1 colsB
          else readRows cl r.ctx r.asid sb b0 b1 0 (fmtLen fb (rN w)) s1 ((List.range 32).map (fun k => 32 * c + k))
        (match bPart with
          | .inl e => .inl e
          | .inr (s2, lb) =>
            let bv :=
              if rTrb w then lb.map (fun l => rowVals fb l 32 xb)
              else
                let rows := lb.map (fun l => rowVals fb l (rN w) xb)
                colsB.map (fun j => rows.map (fun l => l.getD j (FV.zero false)))
            let scA := if rScla w then
                readScales cl r.ctx r.asid (unpackScale r.scales 0) s2 (rowsA.map (fun i => descAt sa a0 a1 i oa))
              else .inr (s2, [])
            (match scA with
              | .inl e => .inl e
              | .inr (s3, va) =>
                let bAddr (j : Nat) : W64 :=
                  if rTrb w then descAt sb b0 b1 j (fmtLen fb (32 * c))
                  else descAt sb b0 b1 (32 * c) (match fb with | .ty t => j * tyWidth t / 8 | .sx _ => 0)
                let scB := if rSclb w then
                    readScales cl r.ctx r.asid (unpackScale r.scales 1) s3 (colsB.map bAddr)
                  else .inr (s3, [])
                (match scB with
                  | .inl e => .inl e
                  | .inr (s4, vb) =>
                    .inr (s4, av, bv, (if rScla w then some va else none), (if rSclb w then some vb else none))))))
  | _, _ => .inl (.waits s)

/-! ### Faults of a share (R338, R246) -/

/-- The TVAL of cause 0x0B. -/
def tileTval (ticket share c : Nat) : W64 := BitVec.ofNat 64 (ticket % 2 ^ 32 + share * 2 ^ 32 + c * 2 ^ 40)

/-- The address of a core's save area for a context. -/
def areaOf (s : State) (ctx n : Nat) (alt : Bool) : Nat :=
  (descWord s ctx (if alt then 0x20 else 0x18)).toNat + (n - ctxFirst s ctx) * 0x40000

/-- A pending cause 0x0B of a core: in the core while its context is resident, otherwise in its saved image (R240,
R338). The image holds the first; the device keeps the list, whose first place stands for the image's. -/
def raise0B (s : State) (ctx n : Nat) (v : W64) : State :=
  let c := getCore s n
  if !noCtx c && curCtx c == ctx then putCore s { c with ev := { c.ev with pend0B := c.ev.pend0B ++ [v] } }
  else match tget s.mu.away (ctx * 8192 + n) with
    | none => s
    | some alt =>
      let a := areaOf s ctx n (alt != 0) + 48
      let beside := modTask s ctx n (fun k => { k with ev := { k.ev with
        pend0B := (if k.ev.pend0B.isEmpty then [0] else k.ev.pend0B) ++ [v] } })
      match vaRead s (clusterOf c.pos) ctx a 8 with
      | .error _ => beside
      | .ok (t, l) =>
        if l = bytesOf 0 8 then
          (match vaWrite t (clusterOf c.pos) ctx a (bytesOf v.toNat 8) with
            | .ok u => u
            | .error _ => beside)
        else beside

/-- A slot becomes faulted with its position kept; the record notes it and its submitter will trap. -/
def shareFault (s : State) (cl slot c : Nat) (a : W64) : State :=
  let x := getAcc s cl slot
  let t := putAcc s cl slot { x with st := .faulted, fault := c, faultAddr := a }
  match recOf t cl x.owner with
  | none => t
  | some (i, r) =>
    let u := putRec t cl i { r with cause := c, share := x.sub, faultAddr := a }
    raise0B u r.ctx r.core (tileTval x.owner x.sub c)

/-- An engine has committed a violation: it stops with its task held (R246). -/
def engineViolates (s : State) (cl e ctx : Nat) : State :=
  tellViolation (putEng s cl e { getEng s cl e with frozen := true }) ctx (cl / 32) 1 (engKey cl e)

/-- The slot leaves the engine's run or input place. -/
def leaveEngine (s : State) (cl slot : Nat) : State :=
  let e := slot / 4
  let x := getEng s cl e
  putEng s cl e { x with
    run := if x.run = some slot then none else x.run, input := if x.input = some slot then none else x.input }

/-! ### Completion of a record (R337, R339) -/

/-- A share whose accumulator stands in TILESAVE (R341). -/
def pausedShare (s : State) (cl ticket share : Nat) : Option Acc :=
  (s.un.paused.find? (fun p => p.1 % 4096 / 32 == cl && p.2.owner == ticket && p.2.sub == share)).map (·.2)

/-- K-chunks a share has completed, for the status word (R347). -/
def shareChunks (s : State) (cl i : Nat) (r : TileRec) (share : Nat) : Nat :=
  match slotOfShare s cl (r.ticket i) share, pausedShare s cl (r.ticket i) share with
  | some k, _ => (getAcc s cl k).chunk
  | none, some x => x.chunk
  | none, none => if r.finished.contains share then rK r.words / 32 else tgetD r.chunks share 0

def anyFaulted (s : State) (cl i : Nat) (r : TileRec) : Bool :=
  (List.range 32).any (fun k => (getAcc s cl k).st == .faulted && (getAcc s cl k).owner == r.ticket i)

/-- Lowest faulted or abandoned share. -/
def lowShare (s : State) (cl i : Nat) (r : TileRec) : Nat :=
  (firstNat (fun k => r.dropped.contains k ||
    (match slotOfShare s cl (r.ticket i) k, pausedShare s cl (r.ticket i) k with
      | some j, _ => (getAcc s cl j).st == .faulted
      | none, some x => x.st == .faulted
      | none, none => false)) 8).getD 0

def recFlags (s : State) (cl i : Nat) (r : TileRec) : Flags :=
  (List.range 32).foldl (fun (f : Flags) k =>
    let a := getAcc s cl k
    if a.st != .free && a.st != .reserved && a.owner == r.ticket i then f ||| a.flags else f)
    (s.un.paused.foldl (fun (f : Flags) p =>
      if p.1 % 4096 / 32 == cl && p.2.owner == r.ticket i then f ||| p.2.flags else f) r.flags)

def recState (s : State) (cl i : Nat) (r : TileRec) : Nat :=
  match r.st with
  | .done => 3 | .abandoned => 6 | .ended => 15 | .paused => 5
  | _ => if anyFaulted s cl i r then 4 else match r.st with | .pending => 0 | .ready => 1 | .faulted => 4 | _ => 2

def statusWord (s : State) (cl i : Nat) (r : TileRec) : W64 :=
  if r.st = .ended then BitVec.ofNat 64 (15 * 2 ^ 60)
  else
    let share := lowShare s cl i r
    BitVec.ofNat 64 (recState s cl i r * 2 ^ 60 + r.cause % 256 * 2 ^ 52 + share * 2 ^ 49 + b2n r.extra * 2 ^ 48 +
      b2n r.barErr * 2 ^ 47 + (recFlags s cl i r).toNat * 2 ^ 42 + b2n r.cErr * 2 ^ 41 +
      shareChunks s cl i r share % 65536 * 2 ^ 16 + r.finished.length % 256 * 2 ^ 8)

/-- The live record of a context at an address. -/
def recAt (s : State) (cl ctx : Nat) (a : W64) : Option Nat :=
  firstNat (fun i => match getRec s cl i with
    | some r => r.live && r.ctx == ctx && r.addr == a
    | none => false) 1024

/-- A wait count goes down; at 0 the record is ready and its clock of age starts (R335). -/
def decWait (s : State) (cl i : Nat) : State :=
  modRec s cl i (fun r =>
    { r with wait := r.wait - 1
             st := if r.wait = 1 ∧ r.st = .pending then .ready else r.st, readyAt := s.cycle })

/-- How a part of a completion ends: the next part follows, the engine has stopped with its task held (R246), or memory does
not answer yet and nothing has happened but what was asked. -/
inductive Goes
  | on (s : State)
  | stops (s : State)
  | waits (s : State)
  deriving DecidableEq, Repr

/-- The parts of a completion one after another. -/
def Goes.andThen (g : Goes) (f : State → Goes) : Goes :=
  match g with
  | .on s => f s
  | .stops s => .stops s
  | .waits s => .waits s

/-- What the completion leaves for the event that made it in state `s`. -/
def Goes.state (s : State) (g : Goes) : State :=
  match g with
  | .on t => t
  | .stops t => t
  | .waits t => keepAsked s t

/-- One successor of a finishing record is decremented (R337). A register of the aperture is out of reach like a page that
is not writable. -/
def decSuccessor (cl i e : Nat) (r : TileRec) (succ : W64) (s : State) : Goes :=
  if succ = 0 then .on s
  else match recAt s cl r.ctx succ with
    | some j =>
      (match getRec s cl j with
        | some q => .on (if q.wait = 0 then modRec s cl i (fun r => { r with extra := true }) else decWait s cl j)
        | none => .on s)
    | none =>
      let word := leaAdd succ 8
      match engResolve s cl r.ctx r.asid word .store with
      | .error (.cause _) => .on (modRec s cl i (fun r => { r with cErr := true }))
      | .error .violation => .stops (engineViolates s cl e r.ctx)
      | .error (.waits t) => .waits t
      | .ok (_, .aperture, _) => .on (modRec s cl i (fun r => { r with cErr := true }))
      | .ok (t, place, key) =>
        let u := modRec t cl i (fun r => { r with
          peerWin := if place.isPeer then some (windowNow t) else r.peerWin })
        .on (launchUnit u (.engine cl e) r.ctx r.asid (cl / 32) word (.shape place key cl (r.ticket i)))

/-- The flag of ACT bit 0 (R339). -/
def writeFlag (cl i e : Nat) (r : TileRec) (s : State) : Goes :=
  if !rAct r.words 0 then .on s
  else
    let a : W64 := BitVec.ofNat 64 (localKey (dCore (rTarget r.words)) (rFlagOff r.words))
    match engPut s cl r.ctx r.asid a (bytesOf (rFlagVal r.words) 2) with
    | .done t => .on t
    | .fails _ => .on (modRec s cl i (fun r => { r with cErr := true }))
    | .violates => .stops (engineViolates s cl e r.ctx)
    | .waits t => .waits t

/-- One engine arrival. -/
def arriveFor (s : State) (cl i : Nat) (r : TileRec) (k : Nat) : State :=
  let id := rBar r.words k
  if id = 0xFFFF then s
  else match engineArrives s cl r.ctx id with
    | some t => t
    | none => modRec s cl i (fun r => { r with barErr := true })

/-- A wake message to a core, or CERR when it is not there (R339). -/
def wakeCore (s : State) (cl i e : Nat) (r : TileRec) (status : W64) (n : Nat) : State :=
  if !corePresent s n || !inContext s r.ctx n then modRec s cl i (fun r => { r with cErr := true })
  else
    let payload := r.ticket i + status.toNat * 2 ^ 64 + r.addr.toNat * 2 ^ 128
    let die := cl / 32
    unitSend s (.engine cl e) r.ctx die n (unitMessage s (.engine cl e) die 0 (rWake r.words) 0 payload .plain)

/-- The wakes of step 5. -/
def sendWakes (s : State) (cl i e : Nat) (r : TileRec) : State :=
  let status := match getRec s cl i with | some q => statusWord s cl i q | none => 0
  let t := if rAct r.words 1 then
      (if r.members.isEmpty then [dCore (rTarget r.words)] else r.members).foldl (fun u n => wakeCore u cl i e r status n) s
    else s
  if rAct r.words 2 then
    match tget t.un.groups (rMcg r.words) with
    | some g =>
      if g.live ∧ g.kind = 1 ∧ g.ctx = r.ctx then
        (sortBy (fun x y => decide (x ≤ y)) g.members).foldl (fun u n => wakeCore u cl i e r status n) t
      else modRec t cl i (fun r => { r with cErr := true })
    | none => modRec t cl i (fun r => { r with cErr := true })
  else t

/-- Whether every share of a record is over. -/
def allOver (r : TileRec) : Bool :=
  (List.range r.shares).all (fun k => r.finished.contains k || r.dropped.contains k)

/-- Decrements of a record that its successors' homes have not acknowledged (R337). -/
def shapesOut (s : State) (cl ticket : Nat) : Bool :=
  s.net.any (fun p => match p.body with
    | .shape _ _ c k => c == cl && k == ticket
    | _ => false)

/-- Steps 3 to 5 of a completion. A decrement on a peer chip makes it a release at .system, which waits for its time window
(07_ordering R172, R179). -/
def finishRec (cl i e : Nat) (s : State) : Goes :=
  match getRec s cl i with
  | none => .on s
  | some r =>
    if !windowMet s r.peerWin then .waits s
    else (writeFlag cl i e r s).andThen (fun s3 =>
      let s4 := [0, 1, 2].foldl (fun t k => arriveFor t cl i r k) s3
      let s5 := sendWakes s4 cl i e r
      .on ({ modRec s5 cl i (fun q => { q with
        st := if q.dropped.isEmpty then .done else .abandoned, endSeq := s5.nextId }) with nextId := s5.nextId + 1 }))

/-- A record whose shares are all over completes (R339). `e` is the engine of the last share. The flag, the arrivals and the
wakes follow once every decrement is acknowledged. A violation stops the engine there, with the record held (R246). -/
def completeRec (s : State) (cl i e : Nat) : Goes :=
  match getRec s cl i with
  | none => .on s
  | some r =>
    if !allOver r || !r.live || r.st = .finishing then .on s
    else
      let s1 := modRec (unitRelease s (cl / 32)) cl i (fun q => { q with st := .finishing, released := true })
      ((decSuccessor cl i e r (rSucc r.words 0) s1).andThen (decSuccessor cl i e r (rSucc r.words 1))).andThen (fun s2 =>
        if shapesOut s2 cl (r.ticket i) then .on s2 else finishRec cl i e s2)

/-! ### Chunks and drains as events (R325, R326, R338) -/

/-- Whether the slot is the one its engine runs, or may now be. -/
def engineTakes (s : State) (cl slot : Nat) : Option State :=
  let e := slot / 4
  let x := getEng s cl e
  if x.frozen then none
  else match x.run with
    | some k => if k = slot then some s else none
    | none => match x.input with
      | some k => if k = slot then some (putEng s cl e { x with run := some slot, input := none }) else none
      | none => some (putEng s cl e { x with run := some slot })

/-- The accumulator source of ACCK 2, read when the engine reaches it: `M` rows of 128 bytes, of which the padded columns and
rows are not accessed (R327, R331). -/
def accSource (s : State) (cl : Nat) (r : TileRec) (x : Acc) : Span ⊕ (State × Acc) :=
  if x.chunk = 0 ∧ rAcck r.words = 2 then
    match readRows cl r.ctx r.asid (rAccaddr r.words) (setFld 0#64 63 48 8) 0 0 (4 * rN r.words) s (List.range (rM r.words)) with
    | .inr (t, rows) =>
      .inr (t, { x with words := rows.zipIdx.foldl (fun (tb : Tbl (BitVec 32)) p =>
        (List.range (rN r.words)).foldl (fun (tb : Tbl (BitVec 32)) j =>
          tputD 0 tb (32 * p.2 + j) (BitVec.ofNat 32 (ofBytes ((p.1.drop (4 * j)).take 4)))) tb) [] })
    | .inl e => .inl e
  else .inr (s, x)

/-- Why a chunk does not end. -/
def chunkStop (s : State) (cl slot : Nat) (r : TileRec) (e : Span) : State :=
  match e with
  | .fault t c a => shareFault (leaveEngine t cl slot) cl slot c a
  | .violates => engineViolates s cl (slot / 4) r.ctx
  | .waits t => keepAsked s t
  | .got _ _ => s

/-- After its last chunk a share drains, or is kept (R326). -/
def afterChunks (s : State) (cl slot : Nat) (x : Acc) (r : TileRec) (i : Nat) : Goes :=
  let t := leaveEngine s cl slot
  if rDrain r.words then .on (putAcc t cl slot { x with st := .draining, row := 0 })
  else completeRec (putRec (putAcc t cl slot { x with st := .kept }) cl i
      { r with finished := r.finished ++ [x.sub], flags := r.flags ||| x.flags }) cl i (slot / 4)

/-- TILE_CHUNK: the next chunk of the share in slot `slot` of cluster `cl` (02_numbers R37). -/
def tileChunk (s : State) (cl slot : Nat) : State :=
  let x := getAcc s cl slot
  if x.st ≠ .busy then s
  else match engineTakes s cl slot, recOf s cl x.owner with
    | some s0, some (i, r) =>
      (match accSource s0 cl r x with
        | .inl e => chunkStop s cl slot r e
        | .inr (s1, x1) => match chunkOperands s1 cl r x.sub x.chunk with
          | .inl e => chunkStop s cl slot r e
          | .inr (s2, av, bv, sa, sb) =>
            let w := chunkInto x1.words x1.flags (rCfmt r.words == 1) av bv sa sb
            let x2 := { x1 with words := w.1, flags := w.2, chunk := x.chunk + 1 }
            if x2.chunk * 32 < rK r.words then putAcc s2 cl slot x2
            else (afterChunks (putAcc s2 cl slot x2) cl slot x2 r i).state s)
    | _, _ => s

def execTileChunk (s : State) : Host.Outcome State Fault Refusal := .next (tileChunk s s.arg.a s.arg.b)

/-- How the drain of a slot goes on: done, stopped at a row, with the flags of the rows converted so far, or waiting. -/
inductive DrainEnd
  | done (s : State) (flags : Flags)
  | fault (s : State) (row c : Nat) (a : W64) (violation : Bool) (flags : Flags)
  | waits (s : State)
  deriving DecidableEq, Repr

/-- Rows `row` to `m` - 1 of a slot are converted and written to a core's local memory (R331, R338). -/
def drainGo (cl ctx asid : Nat) (words : Tbl (BitVec 32)) (t : BitVec 128) (core n : Nat) :
    Nat → State → Nat → Flags → DrainEnd
  | 0, s, _, fl => .done s fl
  | k + 1, s, row, fl =>
    let a : W64 := BitVec.ofNat 64 (localKey core (dOff t + row * dPitch t))
    let r := drainRow words row n (dFmt t)
    match engPut s cl ctx asid a r.1 with
    | .done u => drainGo cl ctx asid words t core n k u (row + 1) (fl ||| r.2)
    | .fails c => .fault s row c a false (fl ||| r.2)
    | .violates => .fault s row 4 a true (fl ||| r.2)
    | .waits t => .waits t

/-- The core a share drains to: DCORE, or each partner's own (R327). -/
def drainCore (r : TileRec) (t : BitVec 128) (share : Nat) : Nat :=
  match dRel t, r.member share with
  | true, some m => m
  | _, _ => dCore t

/-- DRAIN_COMPLETE: the rows of a draining slot are written and acknowledged (R326, R339). -/
def drainComplete (s : State) (cl slot : Nat) : State :=
  let x := getAcc s cl slot
  if x.st ≠ .draining || (getEng s cl (slot / 4)).frozen then s
  else match recOf s cl x.owner with
    | none => s
    | some (i, r) =>
      match drainGo cl r.ctx r.asid x.words x.target (drainCore r x.target x.sub) (rN r.words) (rM r.words - x.row) s x.row
          x.flags with
      | .waits t => keepAsked s t
      | .fault t row c a v fl =>
        let u := shareFault (putAcc t cl slot { x with row := row, flags := fl }) cl slot c a
        if v then engineViolates u cl (slot / 4) r.ctx else u
      | .done t0 fl =>
        -- rows that went to a peer chip make the completion wait for their time window
        let t := if nCores ≤ drainCore r x.target x.sub then modRec t0 cl i (fun q => { q with peerWin := some (windowNow t0) })
          else t0
        let r := (getRec t cl i).getD r
        -- a kept accumulator that MDRAIN drains leaves its slot; a record's own drain keeps it when KEEP is 1
        let own := !r.finished.contains x.sub
        let u := if own && rKeep r.words then putAcc t cl slot { x with st := .kept, flags := fl, row := 0 }
          else putAcc t cl slot Acc.fresh
        if own then
          (completeRec (putRec u cl i { r with finished := r.finished ++ [x.sub], flags := r.flags ||| fl }) cl i
            (slot / 4)).state s
        else modRec u cl i (fun q => { q with flags := q.flags ||| fl })

def execDrainComplete (s : State) : Host.Outcome State Fault Refusal := .next (drainComplete s s.arg.a s.arg.b)

/-- SHAPE_DECREMENT_AT_HOME: packet `id` decrements a WAIT field at its home (R337). -/
def shapeDecrement (s : State) (id : Nat) : State :=
  match findPacket s id with
  | none => s
  | some p => match p.body with
    | .shape place key cl ticket =>
      let e := match p.src with | .engine _ e => e | _ => 0
      -- the acknowledgement: what it reports, and the rest of the completion after the last one
      let ends (t0 : State) (f : TileRec → TileRec) : State :=
        let t := dropPacket t0 id
        match recOf t cl ticket with
        | some (i, r) =>
          let u := putRec t cl i (f r)
          if r.st = .finishing ∧ !shapesOut u cl ticket ∧ !(getEng u cl e).frozen then (finishRec cl i e u).state s else u
        | none => t
      if !placeThere s place [(key, 0)] then ends s (fun r => { r with cErr := true })
      else (heldAtPort s p place).getD (match servedAt s p.ctx place key with
        | .error va => notApplied s p place (.absent va)
        | .ok q =>
          let cells0 := cellsAt q.2.2 (List.replicate 8 0)
          if !writeReady q.1 q.2.1 cells0 p.die p.stamp then keepAsked s (snoop q.1 cells0)
          else match readNow q.1 q.2.1 q.2.2 8 with
            | .error .waits => s
            | .error (.poison _ t) => ends t (fun r => { r with cErr := true })
            | .ok (t, l, _) =>
              let w := wordOf l
              if fld w 57 48 = 0 then ends t (fun r => { r with extra := true })
              else ends (noteCounter (applyWrite t q.2.1
                  (cellsAt q.2.2 (bytesOf (setFld w 57 48 (fld w 57 48 - 1)).toNat 8)) p.die p.stamp) p.ctx place
                  (cellsAt key (List.replicate 8 0))) (fun r => r))
    | _ => s

def execShapeDecrementAtHome (s : State) : Host.Outcome State Fault Refusal := .next (shapeDecrement s s.arg.a)

/-! ### Submission (R334, R343) -/

/-- Live records of a cluster. -/
def liveRecs (s : State) (cl : Nat) : Nat :=
  (s.un.recs.filter (fun p => p.1 / 1024 == cl && p.2.live)).length

/-- The entry a new record takes: the lowest never used, then the least recently ended (R334; log 9). -/
def recEntry (s : State) (cl : Nat) : Option Nat :=
  match firstNat (fun i => (getRec s cl i).isNone) 1024 with
  | some i => some i
  | none =>
    let dead := s.un.recs.filter (fun p => p.1 / 1024 == cl && !p.2.live)
    (bestBy (fun (a b : Nat × TileRec) => decide (a.2.endSeq < b.2.endSeq)) dead).map (fun p => p.1 % 1024)

/-- The next generation of a 22-bit count that is never 0. -/
def nextGen (g bits : Nat) : Nat := if g + 1 < 2 ^ bits then g + 1 else 1

/-- A record enters the table for core `n`: its ticket, or 0 when the table is full. -/
def submit (s : State) (cl n ctx asid : Nat) (a : W64) (words : BitVec 1024) (members : List Nat) : State × W64 :=
  match (if 1024 ≤ liveRecs s cl then none else recEntry s cl) with
  | none => (s, 0)
  | some i =>
    let gen := nextGen (match getRec s cl i with | some r => r.gen | none => 0) 22
    let r : TileRec := {
      gen := gen, st := if rWait words = 0 then .ready else .pending, addr := a, words := words, ctx := ctx, asid := asid
      core := n, prio := rPrio words, wait := rWait words, members := members, seq := s.nextId, readyAt := s.cycle
      placed := [], finished := [], dropped := [], cause := 0, share := 0, faultAddr := 0, extra := false, barErr := false
      cErr := false, flags := 0, chunks := [], scales := 0, endSeq := 0, peerWin := none, released := false }
    ({ putRec s cl i r with nextId := s.nextId + 1 }, BitVec.ofNat 64 (r.ticket i))

/-- A decrement of the cluster to a record's SHAPE word that is not acknowledged holds MTSUB of that record (R337). -/
def shapeOut (s : State) (cl : Nat) (a : W64) : Bool :=
  s.net.any (fun p => match p.body with
    | .shape _ _ c _ => c == cl && p.addr == leaAdd a 8
    | _ => false)

def recOfWords (l : List W64) : BitVec 1024 := BitVec.ofNat 1024 (packNat 64 (l.map (·.toNat)))

/-- MTSUB and MGANG: `gang` is the group operand of MGANG. -/
def mtsubEff (s : State) (d : Reg) (a : W64) (gang : Option W64) : Eff :=
  let cl := clusterOf s.core.pos
  if a.toNat % 128 ≠ 0 then trap 0x03 a
  else if shapeOut s cl a then waitPlain s
  else match loadWords s a 16 with
    | .error e => .error e
    | .ok (t, l) =>
      let words := recOfWords l
      if recordBad words gang.isSome then trap 0x04 a
      else
        let members : Except Stop (List Nat) := match gang with
          | none => .ok []
          | some g => if fld g 63 12 ≠ 0 then trap 0x04 g else match groupOf t (fld g 11 0) 0 with
            | some x => .ok x.members
            | none => trap 0x04 g
        (match members with
          | .error e => .error e
          | .ok ms =>
            (match pairCmd t 1 [a, gang.getD 0] (fun u =>
                let r := submit u cl u.core.num (ctxNum u.core) (curAsid u.core) a words ms
                .ok r) with
              | .error e => .error e
              | .ok (u, ticket) => .ok (setXI u d ticket 6)))

/-- MTSUB (R343). -/
def execMtsub (d a : Reg) (s : State) : Host.Outcome State Fault Refusal := finish s (mtsubEff s d (s.x a) none)
/-- MGANG (R343). -/
def execMgang (d a b : Reg) (s : State) : Host.Outcome State Fault Refusal :=
  finish s (mtsubEff s d (s.x a) (some (s.x b)))

/-! ### Placement (R336) -/

/-- The priority of a ready share: one level more for each 65,536 cycles it has waited. -/
def sharePrio (s : State) (r : TileRec) : Nat := min 63 (r.prio + (s.cycle - r.readyAt) / 65536)

/-- Whether a resumed share waits for the input stage of an engine (R344). -/
def resumedWaits (s : State) (cl e : Nat) : Bool :=
  let x := getEng s cl e
  (List.range 4).any (fun k =>
    let slot := 4 * e + k
    (getAcc s cl slot).st == .busy && x.run != some slot && x.input != some slot)

def inputFree (s : State) (cl e : Nat) : Bool :=
  let x := getEng s cl e
  x.input.isNone && !x.frozen && !resumedWaits s cl e

/-- A restore of handles or a resumed pause in the cluster waits for slots: no placement takes a free one (R336, R341). A
core that is being restored has handles to restore when its saved task held some. -/
def restoreWaits (s : State) (cl : Nat) : Bool :=
  (List.range 64).any (fun k =>
    let n := coreAt s (cl * 64 + k)
    match (getCore s n).job with
    | some ⟨false, some ctx, _, _, _⟩ => (match tget s.un.kept (queueKey ctx n) with
      | some c => !c.handles.isEmpty
      | none => false)
    | _ => false)

/-- Whether a context is resident on some core of a cluster: its tasks there pause otherwise (09_context R244). -/
def ctxHere (s : State) (cl ctx : Nat) : Bool :=
  (List.range 64).any (fun k => residentIn (getCore s (coreAt s (cl * 64 + k))) ctx)

/-- A paused accumulator of a context that is back in the cluster. -/
def pausedHere (s : State) (cl : Nat) : Option (Nat × Acc) :=
  (s.un.paused.find? (fun p => p.1 % 4096 / 32 == cl && ctxHere s cl p.2.ctx)).map (fun p => (p.1 % 32, p.2))

/-- The slot a share of a record takes, and whether it is a kept accumulator. -/
def slotFor (s : State) (cl : Nat) (r : TileRec) : Option (Nat × Bool) :=
  if rAcck r.words = 1 then
    (firstNat (fun k =>
      let a := getAcc s cl k
      a.st == .kept && a.ctx == r.ctx && a.rkey == rAccaddr r.words && inputFree s cl (k / 4)) 32).map (fun k => (k, true))
  else if restoreWaits s cl || (pausedHere s cl).isSome then none
  else (firstNat (fun k => (getAcc s cl k).st == .free && inputFree s cl (k / 4)) 32).map (fun k => (k, false))

/-- The share of a record that is to be placed next. -/
def nextShare (r : TileRec) : Option Nat :=
  firstNat (fun k => (tget r.placed k).isNone && !r.finished.contains k && !r.dropped.contains k) r.shares

/-- Every share of a record has been placed. -/
def TileRec.allPlaced (r : TileRec) : Bool := (nextShare r).isNone

/-- Ready records with a share to place, best first; records of a paused context are not placed (R341). -/
def readyRecs (s : State) (cl : Nat) : List (Nat × TileRec) :=
  sortBy (fun a b =>
      decide (sharePrio s b.2 < sharePrio s a.2) || (sharePrio s a.2 == sharePrio s b.2 && decide (a.2.seq ≤ b.2.seq)))
    ((s.un.recs.filter (fun p =>
      p.1 / 1024 == cl && p.2.st == .ready && (nextShare p.2).isSome && ctxHere s cl p.2.ctx)).map
        (fun p => (p.1 % 1024, p.2)))

/-- A share is placed on a slot (R326, R332, R335). -/
def placeShare (s : State) (cl i : Nat) (r : TileRec) (share slot : Nat) (kept : Bool) : State :=
  let old := getAcc s cl slot
  let x : Acc := {
    st := .busy, words := if kept then old.words else [], flags := if kept then old.flags else 0
    owner := r.ticket i, sub := share, ctx := r.ctx, chunk := 0, row := 0, fault := 0, faultAddr := 0
    target := rTarget r.words, rkey := r.addr }
  let t := putAcc s cl slot x
  let t := putEng t cl (slot / 4) { getEng t cl (slot / 4) with input := some slot }
  let sc (k : Nat) : ScaleEnt := tgetD s.un.scales (cl * 8 + k) ⟨0, 0, 0⟩
  let placed := tput r.placed share slot
  putRec t cl i { r with
    placed := placed, st := if TileRec.allPlaced { r with placed := placed } then .running else r.st
    scales := if r.placed.isEmpty ∧ r.scales = 0 then packScales (sc (rSca r.words)) (sc (rScb r.words)) else r.scales }

/-! ### Pauses (R341; 09_context R244) -/

/-- The address of PAUSE(c, i) in a context's tile save area. -/
def pauseAddr (s : State) (ctx cl i : Nat) : Nat := (descWord s ctx 0x30).toNat + 0x20800 * cl + 0x1040 * i

/-- The 1,024 words of an accumulator. -/
def accBytes (x : Acc) : List Byte := (List.range 1024).flatMap (fun k => bytesOf (tgetD x.words k 0).toNat 4)
def accWords (l : List Byte) : Tbl (BitVec 32) :=
  (List.range 1024).foldl (fun t k => tputD 0 t k (BitVec.ofNat 32 (ofBytes ((l.drop (4 * k)).take 4)))) []

def accCode : AccSt → Nat
  | .free => 0 | .reserved => 1 | .busy => 2 | .draining => 3 | .kept => 4 | .faulted => 5

/-- The header of a PAUSE entry: ticket, share, state, flags and cause, position, and the record's scale entries
(DESIGN CHOICE of their places, log 20). -/
def pauseHeader (x : Acc) (scales : BitVec 384) : List Byte :=
  bytesOf (x.owner + x.sub * 2 ^ 32 + accCode x.st * 2 ^ 40 + x.flags.toNat * 2 ^ 48 + x.fault % 256 * 2 ^ 56 +
    x.chunk * 2 ^ 64 + x.row * 2 ^ 96 + scales.toNat * 2 ^ 128) 64

/-- Bytes of a context written and read in 64-byte units from an aligned address. -/
def vaPutGo (cl ctx : Nat) : Nat → State → Nat → List Byte → Except State State
  | 0, s, _, _ => .ok s
  | n + 1, s, va, l => match devSet s cl ctx va (l.take 64) with
    | .error t => .error t
    | .ok t => vaPutGo cl ctx n t (va + 64) (l.drop 64)
def vaPut (cl ctx va : Nat) (l : List Byte) (s : State) : Except State State := vaPutGo cl ctx ((l.length + 63) / 64) s va l
def vaGetGo (cl ctx : Nat) : Nat → State → Nat → Except State (State × List Byte)
  | 0, s, _ => .ok (s, [])
  | n + 1, s, va => match devGet s cl ctx va 64 with
    | .error t => .error t
    | .ok (t, l) => match vaGetGo cl ctx n t (va + 64) with
      | .error u => .error u
      | .ok (u, r) => .ok (u, l ++ r)
def vaGet (cl ctx va n : Nat) (s : State) : Except State (State × List Byte) :=
  match vaGetGo cl ctx ((n + 63) / 64) s va with
  | .error t => .error t
  | .ok (t, l) => .ok (t, l.take n)

/-- The key of a PAUSE entry of a context. -/
def pauseKey (ctx cl i : Nat) : Nat := ctx * 4096 + accKey cl i

/-- A slot of a context that pauses: its accumulator and position go to the lowest free entry of TILESAVE, and the slot is
free. -/
def pauseSlot (cl ctx : Nat) (s : State) (slot : Nat) : Except State State :=
  let x := getAcc s cl slot
  if x.ctx ≠ ctx ∨ (x.st ≠ .busy ∧ x.st ≠ .kept ∧ x.st ≠ .faulted) then .ok s
  else
    let r := recOf s cl x.owner
    let i := (firstNat (fun i => (tget s.un.paused (pauseKey ctx cl i)).isNone) 32).getD 0
    let a := pauseAddr s ctx cl i
    match vaPut cl ctx a (pauseHeader x ((r.map (fun p => p.2.scales)).getD 0) ++ accBytes x) s with
    | .error t => .error t
    | .ok t =>
      let t := leaveEngine (putAcc t cl slot Acc.fresh) cl slot
      let t := t.mapUn (fun u => { u with paused := tput u.paused (pauseKey ctx cl i) { x with words := [] } })
      .ok (match r with
        | some (j, p) => putRec t cl j { p with placed := tdel p.placed x.sub }
        | none => t)

/-- Each record of a context in a cluster. -/
def mapRecs (cl ctx : Nat) (f : Nat → TileRec → TileRec) (s : State) : State :=
  s.mapUn (fun u => { u with recs := u.recs.map (fun p =>
    if p.1 / 1024 == cl && p.2.ctx == ctx then (p.1, f (p.1 % 1024) p.2) else p) })

/-- The tile tasks of a context pause in a cluster: its busy, kept and faulted slots go to TILESAVE, and its ready and running
records are paused (R244, R335, R341). -/
def pauseTasks (cl ctx : Nat) (s : State) : Except State State :=
  match (List.range 32).foldlM (pauseSlot cl ctx) s with
  | .error t => .error t
  | .ok t => .ok (mapRecs cl ctx (fun _ r => if r.st = .ready ∨ r.st = .running then { r with st := .paused } else r) t)

/-- A paused record goes on once none of its accumulators is in TILESAVE (R335). -/
def recGoesOn (s : State) (cl i : Nat) (r : TileRec) : TileRec :=
  if r.st = .paused ∧ !s.un.paused.any (fun p => p.1 % 4096 / 32 == cl && p.2.owner == r.ticket i) then
    { r with st := if r.allPlaced then .running else .ready }
  else r

/-- A core of a context is restored in a cluster: its paused records there go on (R335). -/
def resumeTasks (cl ctx : Nat) (s : State) : State := mapRecs cl ctx (recGoesOn s cl) s

/-- A paused accumulator takes a free slot again; its share goes on when the engine's input stage is empty. -/
def resumeSlot (s : State) (cl i slot : Nat) (x : Acc) : State :=
  match vaGet cl x.ctx (pauseAddr s x.ctx cl i) 0x1040 s with
  | .error t => keepAsked s t
  | .ok (s1, l) =>
    let h := ofBytes (l.take 64)
    let y : Acc := { x with
      words := accWords (l.drop 64), flags := BitVec.ofNat 5 (h / 2 ^ 48)
      chunk := h / 2 ^ 64 % 2 ^ 32, row := h / 2 ^ 96 % 2 ^ 32 }
    let t := (putAcc s1 cl slot y).mapUn (fun u => { u with paused := tdel u.paused (pauseKey x.ctx cl i) })
    match recOf t cl x.owner with
    | none => t
    | some (j, r) => putRec t cl j (recGoesOn t cl j { r with placed := tput r.placed x.sub slot })

/-- The free slot a resumed pause takes: a restore of handles comes before it (R341). -/
def resumeAt (s : State) (cl : Nat) : Option (Nat × Acc × Nat) :=
  match pausedHere s cl, firstNat (fun k => (getAcc s cl k).st == .free) 32 with
  | some (i, x), some slot => if restoreWaits s cl then none else some (i, x, slot)
  | _, _ => none

/-- SHARE_PLACEMENT: a resumed pause takes a slot first; otherwise the first ready share that can be placed is placed, or in
replay the logged one (R336, R341; 25_life R449). -/
def sharePlacement (s : State) (cl : Nat) : State :=
  match resumeAt s cl with
  | some (i, x, slot) => resumeSlot s cl i slot x
  | none =>
    let l := (readyRecs s cl).filter (fun p => (slotFor s cl p.2).isSome)
    if l.isEmpty then s
    else match chooseRank s 2 cl l.length with
      | none => noteLack s 2 cl l.length
      | some (n, t) => match l[n]? with
        | none => s
        | some (i, r) => match nextShare r, slotFor s cl r with
          | some k, some (slot, kept) => placeShare t cl i r k slot kept
          | _, _ => s

def execSharePlacement (s : State) : Host.Outcome State Fault Refusal := .next (sharePlacement s s.arg.a)

/-- SHARE_AGEING: the record of ticket b rises a level for each 65,536 cycles it has waited (R336). -/
def shareAgeing (s : State) (cl ticket : Nat) : State :=
  match recOf s cl ticket with
  | some (i, r) =>
    if r.st = .ready ∧ r.readyAt + 65536 ≤ s.cycle then
      putRec s cl i { r with prio := min 63 (r.prio + 1), readyAt := r.readyAt + 65536 }
    else s
  | none => s

def execShareAgeing (s : State) : Host.Outcome State Fault Refusal := .next (shareAgeing s s.arg.a s.arg.b)

/-! ### Handles and MMA (R333, R342) -/

/-- What the operand of a tile instruction names (R342). -/
inductive TileOpd
  | handle (h : Nat)
  | ticket (t share : Nat)
  | bad
  deriving DecidableEq, Repr

def tileOpd (w : W64) : TileOpd :=
  if fld w 63 63 = 1 then (if fld w 62 35 = 0 then .ticket (fld w 31 0) (fld w 34 32) else .bad)
  else if fld w 62 2 = 0 then .handle (fld w 1 0)
  else .bad

/-- The slot of a handle of the core in focus. -/
def handleSlot (s : State) (h : Nat) : Option Nat := tget s.core.handles h

/-- Queued MMAs of a slot. -/
def mmasOf (s : State) (cl slot : Nat) : Nat := ((getEng s cl (slot / 4)).mmas.filter (fun j => j.slot == slot)).length

/-- The registers `r` to `r` + 7. -/
def eightOf (r : Reg) : List Reg := (List.range 8).map (fun k => r + BitVec.ofNat 5 k)

/-- Eight registers side by side. -/
def eightRegs (s : State) (r : Reg) : BitVec 4096 := BitVec.ofNat 4096 (packNat 512 ((eightOf r).map (fun k => (s.v k).toNat)))

/-- Whether a register is in read-stream mode. -/
def readStream (s : State) (r : Reg) : Bool := (getStream s r).any (fun x => !x.dir)

/-- Eight strips of a register in stream mode, one for each register it stands for (R333). -/
def eightStrips (s : State) (r : Reg) : Except Stop (State × BitVec 4096) :=
  ((List.range 8).foldlM (fun (acc : State × List Nat) _ =>
    (popStrip acc.1 r).map (fun t => (t, acc.2 ++ [(t.v r).toNat]))) (s, [])).map
      (fun acc => (acc.1, BitVec.ofNat 4096 (packNat 512 acc.2)))

/-- One operand of an MMA: eight strips of its register when that is in stream mode, or eight registers. -/
def mmaOperand (s : State) (r : Reg) : Except Stop (State × BitVec 4096) :=
  if readStream s r then eightStrips s r else .ok (s, eightRegs s r)

/-- The operands of an MMA. A register that both name is read once; of the registers that an operand which does not itself stream
stands for, each one in stream mode gives one strip (R110, R333). -/
def mmaOperands (s : State) (a b : Reg) : Except Stop (State × BitVec 4096 × BitVec 4096) := do
  let plain (r : Reg) : List Reg := if readStream s r then [] else eightOf r
  let each := (plain a ++ plain b).dedup.filter (fun r => !((r == a || r == b) && readStream s r))
  let t ← each.foldlM popStrip s
  let (t, x) ← mmaOperand t a
  if a = b then .ok (t, x, x)
  else do
    let (t, y) ← mmaOperand t b
    .ok (t, x, y)

/-- What an MMA that waits or traps leaves of the strips: all of them. -/
def mmaStrips (s : State) (r : Except Stop (State × BitVec 4096 × BitVec 4096)) : Except Stop (State × BitVec 4096 × BitVec 4096) :=
  let back (t : State) : State := { t with
    core := { t.core with vec := { t.core.vec with own := s.core.vec.own, streams := s.core.vec.streams } }
    un := { t.un with frames := s.un.frames } }
  match r with
  | .error (.wait t w) => .error (.wait (back t) w)
  | .error (.trapKeep t c v) => .error (.trapKeep (back t) c v)
  | r => r

def mmaEff (s : State) (t : ETy) (d a b : Reg) : Eff :=
  let cl := clusterOf s.core.pos
  match tileOpd (s.x d) with
  | .handle h => match handleSlot s h with
    | none => trap 0x04 (s.x d)
    | some slot =>
      let e := getEng s cl (slot / 4)
      if 2 ≤ e.mmas.length then waitPlain s
      else match mmaStrips s (mmaOperands s a b) with
        | .error x => .error x
        | .ok (u, va, vb) =>
          let job : MmaJob := { core := s.core.num, handle := h, slot := slot, ty := t, a := va, b := vb
                                xval := BitVec.ofNat 8 (xval s) }
          .ok (addBusy (putEng u cl (slot / 4) { e with mmas := e.mmas ++ [job] }) 3)
  | _ => trap 0x04 (s.x d)

/-- MMA (R342). -/
def execMma (t : ETy) (d a b : Reg) (s : State) : Host.Outcome State Fault Refusal := finish s (mmaEff s t d a b)

/-- Row or column `i` of a queued MMA: element `i` of each of its eight registers (R333). -/
def mmaVals (t : ETy) (w : BitVec 4096) (xval i : Nat) : List FV :=
  (List.range 8).map (fun k => dec t (elem (BitVec.ofNat 512 (w.toNat >>> (512 * k))) (tyWidth t) i) xval)

/-- MMA_APPLY: the oldest queued MMA of an engine is applied as one chunk of 8 (R333). -/
def mmaApply (s : State) (cl e : Nat) : State :=
  let x := getEng s cl e
  if x.frozen then s
  else match x.mmas with
    | [] => s
    | j :: r =>
      let a := getAcc s cl j.slot
      let rows (w : BitVec 4096) : List (List FV) := (List.range 32).map (mmaVals j.ty w j.xval.toNat)
      let w := chunkInto a.words a.flags (j.ty == .i8) (rows j.a) (rows j.b) none none
      putEng (putAcc s cl j.slot { a with words := w.1, flags := w.2 }) cl e { x with mmas := r }

def execMmaApply (s : State) : Host.Outcome State Fault Refusal := .next (mmaApply s s.arg.a s.arg.b)

/-! ### MDRAIN (R344) -/

/-- The handle form: all 32 rows and columns to the target at x[b]. -/
def mdrainSlot (s : State) (d : Reg) (slot : Nat) (xb : W64) : Eff :=
  let cl := clusterOf s.core.pos
  if mmasOf s cl slot ≠ 0 then waitPlain s
  else match loadWords s xb 2 with
    | .error e => .error e
    | .ok (t, l) =>
      let tgt := BitVec.ofNat 128 (packNat 64 (l.map (·.toNat)))
      if targetBad tgt (dFmt tgt == 4) 32 || dRel tgt then trap 0x04 xb
      else
        let x := getAcc t cl slot
        match drainGo cl (ctxNum t.core) (curAsid t.core) x.words tgt (dCore tgt) 32 32 t 0 x.flags with
        | .waits u => waitPlain (keepAsked s u)
        | .fault u _ _ a v fl =>
          let w := putAcc u cl slot { getAcc u cl slot with flags := fl }
          .error (.trapKeep (if v then engineViolates w cl (slot / 4) (ctxNum w.core) else w) 0x04 a)
        | .done u fl => .ok (setXI (putAcc u cl slot { getAcc u cl slot with flags := fl }) d 0 6)

/-- The ticket form: a faulted share resumes, a kept accumulator drains and leaves its slot. -/
def mdrainShare (s : State) (d : Reg) (ticket share : Nat) (xb : W64) : Eff :=
  let cl := clusterOf s.core.pos
  match recOf s cl ticket, slotOfShare s cl ticket share with
  | some (_, r), some slot =>
    let x := getAcc s cl slot
    if x.st = .faulted ∧ xb = 0 then
      .ok (setXI (putAcc s cl slot { x with
        st := if x.chunk * 32 < rK r.words then .busy else .draining, fault := 0, faultAddr := 0 }) d 0 6)
    else if x.st = .kept then
      (match (if xb = 0 then Except.ok (s, [recWord r.words 0x40, recWord r.words 0x48]) else loadWords s xb 2) with
        | .error e => .error e
        | .ok (t, l) =>
          let tgt := BitVec.ofNat 128 (packNat 64 (l.map (·.toNat)))
          if targetBad tgt (rCfmt r.words == 1) (rM r.words) then trap 0x04 xb
          else
            let u := drainComplete (putAcc t cl slot { x with st := .draining, row := 0, target := tgt }) cl slot
            if (getAcc u cl slot).st = .free then .ok (setXI u d 0 6) else .error (.wait u (.drain slot)))
    else .ok (setXI s d 1 6)
  | _, _ => .ok (setXI s d 1 6)

def mdrain (s : State) (d a b : Reg) : Eff :=
  match s.core.wait with
  | some ⟨_, .drain slot⟩ =>
    let mine := match tileOpd (s.x a) with
      | .ticket t share => slotOfShare s (clusterOf s.core.pos) t share == some slot
      | _ => false
    if mine then .error (.wait s (.drain slot)) else .ok (setXI s d 0 6)
  | _ => match tileOpd (s.x a) with
    | .bad => trap 0x04 (s.x a)
    | .ticket t share => mdrainShare s d t share (s.x b)
    | .handle h => match handleSlot s h with
      | none => trap 0x04 (s.x a)
      | some slot => mdrainSlot s d slot (s.x b)

/-- MDRAIN, handle form (R344). -/
def execMdrainHandle (d a b : Reg) (s : State) : Host.Outcome State Fault Refusal := finish s (mdrain s d a b)
/-- MDRAIN, ticket form (R344). -/
def execMdrainTicket (d a b : Reg) (s : State) : Host.Outcome State Fault Refusal := finish s (mdrain s d a b)

/-! ### MCLR (R345) -/

/-- Reserved and busy slots of an engine. -/
def slotsUsed (s : State) (cl e : Nat) : Nat :=
  ((List.range 4).filter (fun k =>
    let st := (getAcc s cl (4 * e + k)).st
    st == .reserved || st == .busy)).length

def freeIn (s : State) (cl e : Nat) : Option Nat :=
  (firstNat (fun k => (getAcc s cl (4 * e + k)).st == .free) 4).map (fun k => 4 * e + k)

/-- The slot that RESERVE takes: the engine with the fewest reserved and busy slots, the lowest on a tie. -/
def reserveSlot (s : State) (cl : Nat) : Option Nat :=
  let es := (List.range 8).filter (fun e => (freeIn s cl e).isSome)
  match bestBy (fun a b => decide (slotsUsed s cl a < slotsUsed s cl b)) es with
  | none => none
  | some e => freeIn s cl e

/-- A handle of the core takes a slot. -/
def takeHandle (s : State) (h slot : Nat) : State :=
  let t := putAcc s (clusterOf s.core.pos) slot
    { Acc.fresh with st := .reserved, owner := s.core.num, sub := h, ctx := ctxNum s.core }
  t.mapCore (fun c => { c with handles := tput c.handles h slot })

def mclrHandle (s : State) (d : Reg) (h : Nat) (reserve release : Bool) (xa : W64) : Eff :=
  let cl := clusterOf s.core.pos
  match handleSlot s h with
  | none =>
    if reserve then
      (match reserveSlot s cl with
        | none => .ok (setXI s d (BitVec.allOnes 64) 6)
        | some slot => .ok (setXI (takeHandle s h slot) d (BitVec.ofNat 64 slot) 6))
    else trap 0x04 xa
  | some slot =>
    if reserve then trap 0x04 xa
    else if mmasOf s cl slot ≠ 0 then waitPlain s
    else if release then
      .ok (setXI ((putAcc s cl slot Acc.fresh).mapCore (fun c => { c with handles := tdel c.handles h })) d 0 6)
    else .ok (setXI (putAcc s cl slot { getAcc s cl slot with words := [], flags := 0 }) d 0 6)

/-- The ticket form: a faulted share is abandoned, a kept accumulator freed. -/
def mclrShare (s : State) (d : Reg) (ticket share : Nat) : Eff :=
  let cl := clusterOf s.core.pos
  match recOf s cl ticket, slotOfShare s cl ticket share with
  | some (i, r), some slot =>
    let x := getAcc s cl slot
    if x.st = .faulted then
      let t := putAcc s cl slot Acc.fresh
      if r.finished.contains share then .ok (setXI t d 0 6)
      else
        (match completeRec (putRec t cl i { r with
            dropped := r.dropped ++ [share], chunks := tput r.chunks share x.chunk, flags := r.flags ||| x.flags }) cl i
            (slot / 4) with
          | .on u => .ok (setXI u d 0 6)
          | .stops u => .ok (setXI u d 0 6)
          | .waits u => waitPlain (keepAsked s u))
    else if x.st = .kept then .ok (setXI (putAcc s cl slot Acc.fresh) d 0 6)
    else .ok (setXI s d 1 6)
  | _, _ => .ok (setXI s d 1 6)

def mclr (s : State) (d a : Reg) : Eff :=
  let w := s.x a
  match tileOpd w with
  | .ticket t share => mclrShare s d t share
  | .handle h => mclrHandle s d h false false w
  | .bad =>
    if fld w 63 10 = 0 ∧ fld w 7 2 = 0 ∧ fld w 9 8 ≠ 3 then mclrHandle s d (fld w 1 0) (fld w 9 9 == 1) (fld w 8 8 == 1) w
    else trap 0x04 w

/-- MCLR with RESERVE (R345). -/
def execMclrReserve (d a : Reg) (s : State) : Host.Outcome State Fault Refusal := finish s (mclr s d a)
/-- MCLR with RELEASE (R345). -/
def execMclrRelease (d a : Reg) (s : State) : Host.Outcome State Fault Refusal := finish s (mclr s d a)
/-- MCLR of a handle's contents (R345). -/
def execMclrClear (d a : Reg) (s : State) : Host.Outcome State Fault Refusal := finish s (mclr s d a)
/-- MCLR by ticket (R345). -/
def execMclrTicket (d a : Reg) (s : State) : Host.Outcome State Fault Refusal := finish s (mclr s d a)

/-! ### MSCL, MSTAT, MWAIT (R346 to R348) -/

/-- MSCL (R346). -/
def execMscl (d : Code3) (a b : Reg) (s : State) : Host.Outcome State Fault Refusal :=
  finish s (.ok (s.mapUn (fun u => { u with
    scales := tput u.scales (clusterOf s.core.pos * 8 + d.toNat) ⟨s.x a, s.x b &&& ~~~ 63#64, fld (s.x b) 5 0⟩ })))

/-- MSTAT of a handle: selector 0 is stated; the value of the others is free (log 4). -/
def mstatHandle (s : State) (d : Reg) (slot sel : Nat) : State :=
  let cl := clusterOf s.core.pos
  if sel = 0 then
    setXI s d (BitVec.ofNat 64 (slot + mmasOf s cl slot % 4 * 2 ^ 8 + (getAcc s cl slot).flags.toNat * 2 ^ 42)) 12
  else
    let r := freshWord s
    setXI r.2 d r.1 12

def mstatEff (s : State) (d : Reg) (xa xb : W64) : Eff :=
  let cl := clusterOf s.core.pos
  if 2 < xb.toNat then trap 0x04 xb
  else match tileOpd xa with
    | .bad => trap 0x04 xa
    | .handle h => match handleSlot s h with
      | none => trap 0x04 xa
      | some slot => .ok (mstatHandle s d slot xb.toNat)
    | .ticket t _ => match recOf s cl t with
      | none => .ok (setXI s d (if xb = 0 then BitVec.ofNat 64 (15 * 2 ^ 60) else 0) 12)
      | some (i, r) =>
        .ok (setXI s d (match xb.toNat with | 0 => statusWord s cl i r | 1 => r.faultAddr | _ => r.addr) 12)

/-- MSTAT (R347). -/
def execMstat (d a b : Reg) (s : State) : Host.Outcome State Fault Refusal := finish s (mstatEff s d (s.x a) (s.x b))

def mwaitEff (s : State) (d : Reg) (xa : W64) : Eff :=
  let cl := clusterOf s.core.pos
  match tileOpd xa with
  | .bad => trap 0x04 xa
  | .handle h => match handleSlot s h with
    | none => trap 0x04 xa
    | some slot => if mmasOf s cl slot = 0 then .ok (setXI s d 0 2) else waitPlain s
  | .ticket t _ =>
    let t1 := acquire s (getDie s (dieOf s.core.pos)).vc
    match recOf s cl t with
    | none => .ok (setXI t1 d (BitVec.ofNat 64 (15 * 2 ^ 60)) 2)
    | some (i, r) =>
      let st := recState s cl i r
      if st = 3 ∨ st = 4 ∨ st = 6 ∨ st = 15 then .ok (setXI t1 d (statusWord s cl i r) 2) else waitPlain s

/-- MWAIT (R348). -/
def execMwait (d a : Reg) (s : State) : Host.Outcome State Fault Refusal := finish s (mwaitEff s d (s.x a))

/-! ### Cause 0x0B at the submitting core (R338) -/

/-- The core in focus traps with a pending cause 0x0B at an instruction boundary, outside monitor mode, once the copies of an MCAST have
left it (04_core R89). -/
def tileFaultTrap (s : State) : State :=
  let free : Bool := match s.core.wait with
    | none => true
    | some ⟨_, .drain _⟩ => true
    | _ => false
  match s.core.ev.pend0B with
  | [] => s
  | v :: r =>
    if (s.core.run = .running ∨ s.core.run = .waiting) ∧ free ∧ !inMonitor s.core ∧ !copiesWait s then
      let t := (withdrawWait s).mapEv (fun e => { e with pend0B := r })
      takeInto { t with core := { t.core with run := .running } } (routeSync t 0x0B) false 0x0B v t.core.pc
    else s

/-- TILE_FAULT_TRAP (R338): core a. -/
def execTileFaultTrap (s : State) : Host.Outcome State Fault Refusal := .next (onCore s s.arg.a tileFaultTrap)

end Sys2Proof.Machine
end

