-- ==== Sys2Proof/Machine/Copy.lean ====
section
/-! DEFINITION. The copy engine: blocks, pieces, gathers and scatters, completion, and CPY, CPYF, GATH, SCAT and CPYST
(16_copy R350 to R360, R364, R367; 06_memory R152). -/
namespace Sys2Proof.Machine

/-! ### Results of queue registers (10_queue R269) -/

/-- Words of answers at the head that are known move into the result FIFO while it holds fewer than 16; what is left of an
answer stays at the head. -/
def flushOwed (res : List W64) : List (Nat × List W64) → List W64 × List (Nat × List W64)
  | [] => (res, [])
  | (k, ws) :: r =>
    if ws.isEmpty then (res, (k, ws) :: r)
    else
      let n := 16 - res.length
      if n < ws.length then (res ++ ws.take n, (k, ws.drop n) :: r) else flushOwed (res ++ ws) r

def QReg.flush (x : QReg) : QReg :=
  let p := flushOwed x.res x.owed
  { x with res := p.1, owed := p.2 }

/-- Known answers at the head join the results that the save area holds for a queue register, while it holds fewer than
16 (R269, R270). -/
def flushAway (s : State) (ctx n q : Nat) (x : QReg) : State × QReg :=
  match x.owed, tget s.mu.away (ctx * 8192 + n) with
  | (key, w :: ws) :: r, some alt =>
    let area := areaOf s ctx n (alt != 0)
    let cl := clusterOf (getCore s n).pos
    match vaRead s cl ctx (area + 0xD80 + q) 1 with
    | .error _ => (s, x)
    | .ok (t, l) =>
      let k := ofBytes l
      if 16 ≤ k then (s, x)
      else match vaWrite t cl ctx (area + 0x980 + 128 * q + 8 * k) (bytesOf w.toNat 8) with
        | .error _ => (s, x)
        | .ok t => match vaWrite t cl ctx (area + 0xD80 + q) (bytesOf (k + 1) 1) with
          | .error _ => (s, x)
          | .ok u => (u, { x with owed := if ws.isEmpty then r else (key, ws) :: r })
  | _, _ => (s, x)

def flushAwayGo (ctx n q : Nat) : Nat → State → QReg → State × QReg
  | 0, s, x => (s, x)
  | f + 1, s, x =>
    let p := flushAway s ctx n q x
    if p.2.owed = x.owed then p else flushAwayGo ctx n q f p.1 p.2

/-- A queue register of a context's core changes, in the core or, while the context is not resident there, in what the
device keeps for it; then results that are due move on. -/
def modQ (s : State) (ctx n q : Nat) (f : QReg → QReg) : State :=
  match tget s.un.awayQ (ctx * 8192 + n) with
  | some t =>
    let x := f (tgetD t q QReg.fresh)
    let p := flushAwayGo ctx n q 16 s x
    p.1.mapUn (fun u => { u with awayQ := tput u.awayQ (ctx * 8192 + n) (tput t q p.2) })
  | none => modCore s n (fun c => setQ c q (f (getQ c q)).flush)

/-- A port owes an answer for a command, in push order. -/
def oweAnswer (s : State) (n q key : Nat) : State :=
  modCore s n (fun c => setQ c q { getQ c q with owed := (getQ c q).owed ++ [(key, [])] })

/-- The answer of a command is known. A checked pair's partner receives the same words (12_group R299). -/
def answer (s : State) (ctx n q key : Nat) (ws : List W64) : State :=
  let t := modQ s ctx n q (fun x => { x with owed := mapFirst (fun p => p.1 == key) (fun p => (p.1, ws)) x.owed })
  match pairIn s ctx n with
  | none => t
  | some g => (g.2.members.filter (fun m => m != n)).foldl (fun u m =>
      modQ u ctx m q (fun x => { x with owed := x.owed ++ [(key, ws)] })) t

/-! ### Blocks (R352, R353, R359) -/

def blkWord (b : BitVec 384) (i : Nat) : W64 := BitVec.ofNat 64 (b.toNat >>> (64 * i))

/-- Whether an address lies in a window and keeps its must-be-zero bits (R144). -/
def inWindow (a : W64) : Bool :=
  match fld a 63 62 with
  | 0 => fld a 61 52 == 0
  | 1 => fld a 42 22 == 0
  | 2 => fld a 36 16 == 0
  | _ => false

/-- Whether a range stays inside its local memory or scratchpad. -/
def rangeFits (a : W64) (n : Nat) : Bool :=
  match fld a 63 62 with
  | 1 => decide (fld a 21 0 + n ≤ 2 ^ 22)
  | 2 => decide (fld a 15 0 + n ≤ 2 ^ 16)
  | _ => true

def rangesMeet (a b : W64) (n : Nat) : Bool :=
  fld a 63 62 == fld b 63 62 && decide (a.toNat < b.toNat + n) && decide (b.toNat < a.toNat + n)

def flagBad (a : W64) : Bool := (fld a 63 62 != 1 && fld a 63 62 != 2) || !inWindow a || a.toNat % 4 != 0

/-- A handler that breaks R254, or none at all. -/
def handlerBad (h : BitVec 32) : Bool := h == 0 || fld h 0 0 == 1 || (fld h 31 31 == 1 && fld h 30 16 != 0)

/-- SRC, DST, LEN, FLG and UIR of a copy block; BUF and the rest of a gather or scatter. -/
def bSrc (b : BitVec 384) : W64 := blkWord b 0
def bDst (b : BitVec 384) : W64 := blkWord b 1
def bLen (b : BitVec 384) : Nat := fld (blkWord b 2) 39 0
def bStrict (b : BitVec 384) : Bool := fld (blkWord b 3) 3 0 == 1
def bFlag (b : BitVec 384) : W64 := blkWord b 4
def bFval (b : BitVec 384) : Nat := fld (blkWord b 5) 31 0
def bHandler (b : BitVec 384) : BitVec 32 := BitVec.ofNat 32 (fld (blkWord b 5) 63 32)
def bFlg (kind : Nat) (b : BitVec 384) : Bool := if kind = 0 then fld (blkWord b 3) 8 8 == 1 else bFlag b != 0
def bUir (kind : Nat) (b : BitVec 384) : Bool := if kind = 0 then fld (blkWord b 3) 9 9 == 1 else bHandler b != 0
def gCount (b : BitVec 384) : Nat := fld (blkWord b 2) 15 0
def gRow (b : BitVec 384) : Nat := fld (blkWord b 2) 21 16 * 64
def gFirst (b : BitVec 384) : Nat := fld (blkWord b 3) 24 0
def gOff (b : BitVec 384) : Nat := fld (blkWord b 3) 47 32
def gPer (b : BitVec 384) : Nat := fld (blkWord b 3) 63 48

/-- The handler a block selects: its own, or CPYVEC.DEFH (R352). -/
def bChosen (b : BitVec 384) (defh : BitVec 32) : BitVec 32 := if bHandler b = 0 then defh else bHandler b

/-- A block is malformed (R353, R359); kind 0 copy, 1 gather, 2 scatter. -/
def blockBad (kind : Nat) (b : BitVec 384) (defh : BitVec 32) : Bool :=
  (bFlg kind b && flagBad (bFlag b)) || (bUir kind b && handlerBad (bChosen b defh)) ||
  (if kind = 0 then
    fld (blkWord b 2) 63 40 != 0 || (blkWord b 3 &&& ~~~ 0x301#64) != 0 ||
    !inWindow (bSrc b) || !inWindow (bDst b) || !rangeFits (bSrc b) (bLen b) || !rangeFits (bDst b) (bLen b) ||
    rangesMeet (bSrc b) (bDst b) (bLen b)
  else
    fld (blkWord b 2) 63 22 != 0 || fld (blkWord b 3) 31 25 != 0 || gCount b == 0 || decide (4096 < gCount b) ||
    gRow b == 0 || gPer b == 0 || gOff b % 64 != 0 || decide (0x10000 < gOff b + gPer b * gRow b) ||
    !inWindow (bDst b) || !rangeFits (bDst b) (gCount b * gRow b))

/-! ### Transfers (R350, R351) -/

def Xfer.fresh : Xfer :=
  { gen := 0, st := .free, kind := 0, block := 0, blockAddr := 0, forWhom := .core 0 0, ctx := 256, asid := 0, doneB := 0
    cause := 0, pois := false, handler := 0
    flagged := false, counters := [], rows := [], endSeq := 0, mode := 0, peerWin := none, released := false, seq := 0 }

def xferKey (cl slot : Nat) : Nat := cl * 64 + slot
def getXfer (s : State) (cl slot : Nat) : Xfer := tgetD s.un.xfers (xferKey cl slot) Xfer.fresh
def putXfer (s : State) (cl slot : Nat) (x : Xfer) : State :=
  s.mapUn (fun u => { u with xfers := tput u.xfers (xferKey cl slot) x })

def Xfer.over (x : Xfer) : Bool := x.st == .free || x.st == .done || x.st == .stopped

/-- The slot of a new transfer: the lowest never used, then the one that ended least recently (R350; log 9). -/
def xferSlot (s : State) (cl : Nat) : Option Nat :=
  match firstNat (fun k => (getXfer s cl k).gen == 0) 64 with
  | some k => some k
  | none => bestBy (fun a b => decide ((getXfer s cl a).endSeq < (getXfer s cl b).endSeq))
      ((List.range 64).filter (fun k => (getXfer s cl k).over))

def Xfer.id (x : Xfer) (slot : Nat) : Nat := x.gen * 64 + slot

/-- A transfer begins in a slot of a cluster's engine. -/
def xferStart (s : State) (cl slot : Nat) (x : Xfer) : State :=
  { putXfer s cl slot { x with gen := nextGen (getXfer s cl slot).gen 26, seq := s.nextId } with nextId := s.nextId + 1 }

/-- The slot of an identifier. -/
def xferOf (s : State) (cl id : Nat) : Option (Nat × Xfer) :=
  let x := getXfer s cl (id % 64)
  if x.gen = id / 64 ∧ x.gen ≠ 0 then some (id % 64, x) else none

/-- A frozen transfer stops its whole engine (R351). -/
def copierFrozen (s : State) (cl : Nat) : Bool := (List.range 64).any (fun k => (getXfer s cl k).st == .frozen)

/-- Lines of a transfer are released. -/
def dropOwned (s : State) (cl slot : Nat) : State :=
  if s.mu.excl.isEmpty then s
  else s.mapMu (fun m => { m with excl := m.excl.filter (fun o => o.owner != xferKey cl slot) })

/-- Whether a packet carries a sub-list or a row of a transfer. -/
def Packet.ofXfer (cl slot : Nat) (p : Packet) : Bool :=
  match p.body with
  | .sub _ c k _ => c == cl && k == slot
  | .row c k _ _ => c == cl && k == slot
  | _ => false

/-- The sub-lists and rows of a transfer still on their way are discarded. -/
def dropRows (s : State) (cl slot : Nat) : State := { s with net := s.net.filter (fun p => !p.ofXfer cl slot) }

/-- A transfer stops with a cause; for a copy the bytes done stay as they are, for rows they read 0 (R355, R360). -/
def xferStop (s : State) (cl slot c : Nat) : State :=
  let x := getXfer s cl slot
  putXfer (dropRows (dropOwned s cl slot) cl slot) cl slot { x with st := .completing, cause := c, doneB := if x.kind = 0 then x.doneB else 0 }

/-- The engine's number among engines in a notice of kind 1: copy engines stand after the 1,024 matrix engines of the
chip (DESIGN CHOICE, log 15). -/
def xferViolates (s : State) (cl slot : Nat) : State :=
  let x := getXfer s cl slot
  tellViolation (putXfer (dropOwned s cl slot) cl slot { x with st := .frozen }) x.ctx (cl / 32) 1 (1024 + cl)

/-! ### The block is read (R351, R360) -/

/-- Lines of at most 64 bytes read for an engine by `rd`, one after another. -/
def engReadGo (rd : State → W64 → Nat → EngRead) : Nat → State → W64 → Nat → List Byte → EngRead
  | 0, s, _, _, acc => .got s acc false
  | f + 1, s, a, n, acc =>
    if n = 0 then .got s acc false
    else
      let k := min n (64 - a.toNat % 64)
      match rd s a k with
      | .got t l false => engReadGo rd f t (leaAdd a (BitVec.ofNat 64 k)) (n - k) (acc ++ l)
      | .got t _ true => .got t [] true
      | r => r

/-- `n` bytes from an address, over as many lines as they touch. -/
def engReads (s : State) (cl ctx asid : Nat) (a : W64) (n : Nat) : EngRead :=
  engReadGo (fun t a k => engRead t cl ctx asid a k) (n / 64 + 2) s a n []

/-! ### A transfer's own accesses -/

/-- Whether a transfer may reach a register of the aperture: it was issued in system or monitor mode, and in monitor mode for
what only that mode maps (08_page R213; DESIGN CHOICE, log 8: the manual names engine writes of the aperture and not their mode). -/
def Xfer.reaches (x : Xfer) (key : Nat) : Bool :=
  decide (1 ≤ x.mode) && (x.mode == 2 || !monOnly key)

def xRead (s : State) (cl : Nat) (x : Xfer) (a : W64) (n : Nat) : EngRead :=
  match engResolve s cl x.ctx x.asid a .load with
  | .ok (t, .aperture, key) => if x.reaches key then .got t (apLoad t key n) false else .fails 4
  | r => readThrough s cl x.ctx n r

/-- Bytes of one line written to the aperture: a KEY register takes them in one step, others register by register
(08_page R213). -/
def apPuts : Nat → State → Nat → List Byte → State
  | 0, s, _, _ => s
  | f + 1, s, key, l =>
    if l.isEmpty then s
    else if 0x12000 ≤ key ∧ key < 0x13000 then apStore s key l
    else
      let k := 8 - key % 8
      apPuts f (apStore s key (l.take k)) (key + k) (l.drop k)

def xPut (s : State) (cl : Nat) (x : Xfer) (a : W64) (l : List Byte) : EngPut :=
  match engResolve s cl x.ctx x.asid a .store with
  | .ok (t, .aperture, key) => if x.reaches key then .done (apPuts 9 t key l) else .fails 4
  | r => writeThrough s cl x.ctx l r

/-- The window of the last write to a peer chip, after one to an address (07_ordering R172, R179). -/
def peerNote (s : State) (cl : Nat) (x : Xfer) (a : W64) : Option Nat :=
  match engResolve s cl x.ctx x.asid a .store with
  | .ok (_, place, _) => if place.isPeer then some (windowNow s) else x.peerWin
  | _ => x.peerWin

/-! ### Lines that an engine owns (06_memory R152) -/

/-- Whether another engine owns a line of a range. -/
def ownedIn (s : State) (lo hi : Nat) : Bool := s.mu.excl.any (fun o => decide (o.lo < hi) && decide (lo < o.hi))

/-- A line leaves what is owned. -/
def cutLine (line : Nat) (l : List Own) : List Own :=
  l.flatMap (fun o =>
    if o.lo ≤ line ∧ line < o.hi then
      [{ o with hi := line }, { o with lo := line + 1 }].filter (fun o => decide (o.lo < o.hi))
    else [o])

/-- The lines of a destination in HBM or host memory. -/
def ownLines (place : Place) (key n : Nat) : Nat × Nat :=
  match place with
  | .hbm _ _ _ => (lineKeyOf key, lineKeyOf (key + n - 1) + 1)
  | .host _ => (lineKeyOf key, lineKeyOf (key + n - 1) + 1)
  | _ => (0, 0)

/-- Bytes left in the page of an address. -/
def pageLeft (s : State) (cl asid : Nat) (a : W64) : Nat :=
  if fld a 63 62 = 0 then
    (match (ctlbLookup s cl asid a.toNat).2 with
      | .hit e => 2 ^ pageBits e.size - a.toNat % 2 ^ pageBits e.size
      | _ => 1)
  else 2 ^ 40

/-- Lines of `n` bytes from an address, page by page; a page that cannot be reached gives none, and its row will fault. -/
def ownRange (cl slot ctx asid : Nat) : Nat → State → W64 → Nat → List Own → Except State (State × List Own)
  | 0, s, _, _, acc => .ok (s, acc)
  | f + 1, s, a, n, acc =>
    if n = 0 then .ok (s, acc)
    else match engResolve s cl ctx asid a .store with
      | .error (.waits t) => .error (keepAsked s t)
      | .error _ =>
        let k := 2 ^ 19 - a.toNat % 2 ^ 19
        ownRange cl slot ctx asid f s (leaAdd a (BitVec.ofNat 64 k)) (n - k) acc
      | .ok (t, place, key) =>
        let k := min n (pageLeft t cl asid a)
        let r := ownLines place key k
        ownRange cl slot ctx asid f t (leaAdd a (BitVec.ofNat 64 k)) (n - k)
          (if r.1 < r.2 then acc ++ [⟨r.1, r.2, xferKey cl slot⟩] else acc)

/-- The answer of a transfer's result word, when a core's command asked for it. -/
def xferAnswer (s : State) (x : Xfer) (slot : Nat) (w : W64) : State :=
  match x.forWhom with
  | .core n q => answer s x.ctx n q (x.id slot) [w]
  | _ => s

/-- The block of a QW command cannot be used: the slot is free again (R351). -/
def xferRefuse (s : State) (cl slot c : Nat) : State :=
  let x := getXfer s cl slot
  let t := xferAnswer s x slot (BitVec.ofNat 64 (2 ^ 63 + c))
  { putXfer t cl slot { x with st := .free, endSeq := t.nextId } with nextId := t.nextId + 1 }

/-- The owner of a row (R359). -/
def rowOwner (b : BitVec 384) (r : Nat) : Nat := gFirst b + r / gPer b

/-- The counters of the owners, in ascending order: rows expected, none arrived. -/
def ownerCounts (b : BitVec 384) (rows : List Nat) : Tbl (Nat × Nat) :=
  rows.foldl (fun t r => let o := rowOwner b r; tput t o ((tgetD t o (0, 0)).1 + 1, 0)) []

/-- The engine of a cluster as a sender of its own (10_queue R255). -/
def copierSrc (cl : Nat) : Src := .engine cl 64

/-- One sub-list goes to each owner, in ascending order, as a message from the engine (R360). -/
def sendSubs (s : State) (cl slot : Nat) (x : Xfer) (rows : List Nat) (cnt : Tbl (Nat × Nat)) : State :=
  cnt.foldl (fun t p => launchUnit t (copierSrc cl) x.ctx x.asid (cl / 32) (msgAddr p.1)
    (.sub p.1 cl slot ((List.range rows.length).filter (fun k => rowOwner x.block (rows.getD k 0) == p.1)))) s

/-- A gather or scatter reads its index list and checks every owner before anything is sent (R360). An entry is held as
its place in the list times 2^32 plus its row. -/
def startRows (s : State) (cl slot : Nat) (x : Xfer) : State :=
  match engReads s cl x.ctx x.asid (blkWord x.block 0) (4 * gCount x.block) with
  | .waits t => keepAsked s t
  | .fails c => xferStop s cl slot c
  | .violates => xferViolates s cl slot
  | .got t _ true => xferStop t cl slot 0x0F
  | .got t l false =>
    let w := ofBytes l
    let rows := (List.range (gCount x.block)).map (fun k => (w >>> (32 * k)) % 2 ^ 32)
    let cnt := ownerCounts x.block rows
    if (blkWord x.block 0).toNat % 4 ≠ 0 then xferStop t cl slot 3
    else if cnt.any (fun p => !inContext t x.ctx p.1 || !corePresent t p.1) ∨ 64 < cnt.length then xferStop t cl slot 4
    else match (if x.kind = 1 then ownRange cl slot x.ctx x.asid 64 t (bDst x.block) (gCount x.block * gRow x.block) []
        else .ok (t, [])) with
      | .error u => keepAsked s u
      | .ok (u, own) =>
        -- a gather owns the lines of its buffer from here on; it waits for those of another engine
        if own.any (fun o => ownedIn u o.lo o.hi) then s
        else putXfer (sendSubs (u.mapMu (fun m => { m with excl := m.excl ++ own })) cl slot x rows cnt) cl slot { x with
          st := .running, counters := cnt, rows := rows.zipIdx.map (fun p => p.2 * 2 ^ 32 + p.1) }

/-- Whether a transfer pushed before through the same queue register has not begun (R350). -/
def startsBehind (s : State) (x : Xfer) : Bool :=
  match x.forWhom with
  | .core _ _ => s.un.xfers.any (fun p =>
      p.2.st == .reading && p.2.ctx == x.ctx && p.2.forWhom == x.forWhom && decide (p.2.seq < x.seq))
  | _ => false

/-- COPY_BLOCK_READ: the transfer in slot `slot` of cluster `cl` starts running, or is refused (R351). -/
def copyBlockRead (s : State) (cl slot : Nat) : State :=
  let x := getXfer s cl slot
  if x.st ≠ .reading || copierFrozen s cl || startsBehind s x then s
  else if x.flagged then
    -- posted through QW: the block has still to be read
    (if x.blockAddr.toNat % 8 ≠ 0 then xferRefuse s cl slot 3
     else match engReads s cl x.ctx x.asid x.blockAddr 48 with
      | .waits t => keepAsked s t
      | .fails c => xferRefuse s cl slot c
      | .violates => xferViolates s cl slot
      | .got t _ true => xferRefuse t cl slot 0x0F
      | .got t l false =>
        let b := BitVec.ofNat 384 (ofBytes l)
        if blockBad 0 b x.handler then xferRefuse t cl slot 4
        else putXfer (xferAnswer t x slot (BitVec.ofNat 64 (x.id slot))) cl slot
          { x with st := .running, block := b, handler := bChosen b x.handler, flagged := false })
  else if x.kind = 0 then putXfer s cl slot { x with st := .running }
  else startRows s cl slot x

def execCopyBlockRead (s : State) : Host.Outcome State Fault Refusal := .next (copyBlockRead s s.arg.a s.arg.b)

/-! ### Pieces (R354, R355) -/

/-- How the checks of a piece end: its length, and the lines of its destination to own. -/
inductive PieceEnd
  | ok (s : State) (n : Nat) (lo hi : Nat)
  | stop (c : Nat)
  | violates
  | waits (s : State)
  /-- a fill whose write waits for an absent page, parked under R220 (17_expert R377) -/
  | parks (n : Nat) (dst : W64)
  deriving DecidableEq, Repr

/-- A fill of a replica waits for an absent page of its destination (17_expert R377). -/
def fillOf (s : State) : XferFor → Option Nat
  | .fill e r => some ((tgetD s.un.experts e Expert.fresh).reps.getD r Rep.fresh).first
  | _ => none

/-- Translation and permission at both ends of the piece that starts at an offset (R354, R355). -/
def checkPiece (s : State) (cl : Nat) (x : Xfer) (off : Nat) : PieceEnd :=
  let src := leaAdd (bSrc x.block) (BitVec.ofNat 64 off)
  let dst := leaAdd (bDst x.block) (BitVec.ofNat 64 off)
  match engResolve s cl x.ctx x.asid src .load with
  | .error (.cause c) => .stop c
  | .error .violation => .violates
  | .error (.waits t) => .waits t
  | .ok (t, from_, skey) => match engResolve t cl x.ctx x.asid dst .store with
    | .error (.cause c) => (match fillOf s x.forWhom with
      | some n => if c = 5 then .parks n dst else .stop c
      | none => .stop c)
    | .error .violation => .violates
    | .error (.waits u) => .waits u
    | .ok (u, place, key) =>
      let n := min (bLen x.block - off) (min (pageLeft u cl x.asid src) (pageLeft u cl x.asid dst))
      let barred := (from_ == .aperture && !x.reaches skey) || (place == .aperture && !x.reaches key)
      if barred || (place != .aperture && stackDead u key) then .stop 4
      else
        let r := ownLines place key n
        .ok u n r.1 r.2

/-- A transfer that waits for a local memory whose image page is absent parks its access at the port of that core (08_page R220;
09_context R242). -/
def parkXfer (s : State) (cl slot : Nat) (x : Xfer) (a : W64) (n : Nat) (k : Acs) : State :=
  match engResolve s cl x.ctx x.asid a k with
  | .ok (_, place, key) => parkAbsent s (.engine cl slot) x.ctx x.asid (cl / 32) place a key n
  | .error _ => s

/-- The same at both ends of what a transfer moves. -/
def parkEnds (s : State) (cl slot : Nat) (x : Xfer) (src dst : W64) (n : Nat) : State :=
  parkXfer (parkXfer s cl slot x src n .load) cl slot x dst n .store

/-- One span of at most 64 bytes, within one line at each end, is copied; what memory did not answer is asked again. -/
def copySpan (s : State) (cl slot : Nat) : Except State State :=
  let x := getXfer s cl slot
  let src := leaAdd (bSrc x.block) (BitVec.ofNat 64 x.doneB)
  let dst := leaAdd (bDst x.block) (BitVec.ofNat 64 x.doneB)
  let k := min (bLen x.block - x.doneB) (min (64 - src.toNat % 64) (64 - dst.toNat % 64))
  let own := s.mu.excl.filter (fun o => o.owner == xferKey cl slot)
  let t := dropOwned s cl slot
  match xRead t cl x src k with
  | .waits u => .error (parkEnds (keepAsked s u) cl slot x src dst k)
  | .fails c => .ok (xferStop s cl slot c)
  | .violates => .ok (xferViolates s cl slot)
  | .got t1 l bad =>
    if bad && bStrict x.block then .ok (xferStop t1 cl slot 0x0F)
    else match xPut t1 cl x dst l with
      | .waits u => .error (parkEnds (keepAsked s u) cl slot x src dst k)
      | .fails c => .ok (xferStop s cl slot c)
      | .violates => .ok (xferViolates s cl slot)
      | .done t2 =>
        let line := match engResolve t2 cl x.ctx x.asid dst .store with
          | .ok (_, _, key) => lineKeyOf key
          | .error _ => 0
        let t3 := if bad then poisonLine t2 line else t2
        -- a mismatch of the line written poisons it, and the status reports it (25_life R444)
        let x' := { x with doneB := x.doneB + k, pois := x.pois || isPoisoned t3 line, peerWin := peerNote t2 cl x dst }
        -- lines below the next byte are written and released; a piece that ends owns nothing
        let next := if (dst.toNat + k) % 64 = 0 then line + 1 else line
        let rest := (own.map (fun o => { o with lo := max o.lo next })).filter (fun o => decide (o.lo < o.hi))
        .ok (putXfer (t3.mapMu (fun m => { m with excl := m.excl ++ rest })) cl slot x')

/-- Whether an offset starts a piece: the copy's first byte, or a page boundary at an end. -/
def pieceStarts (s : State) (cl : Nat) (x : Xfer) : Bool :=
  let starts (a : W64) : Bool := fld a 63 62 == 0 &&
    (match (ctlbLookup s cl x.asid a.toNat).2 with
      | .hit e => a.toNat % 2 ^ pageBits e.size == 0
      | .absent => true
      | .waits => false)
  x.doneB == 0 || starts (leaAdd (bSrc x.block) (BitVec.ofNat 64 x.doneB)) ||
    starts (leaAdd (bDst x.block) (BitVec.ofNat 64 x.doneB))

/-- The piece at the copy's offset is checked and its destination owned; it waits for the lines that another engine owns. -/
def startPiece (s : State) (cl slot : Nat) : Except State State :=
  let x := getXfer s cl slot
  let t := dropOwned s cl slot
  match checkPiece t cl x x.doneB with
  | .waits u => .error (keepAsked s u)
  | .stop c => .ok (xferStop s cl slot c)
  | .violates => .ok (xferViolates s cl slot)
  | .parks n dst => .error (parkProbe s (.engine cl slot) x.ctx x.asid (cl / 32) n dst (some dst))
  | .ok u _ lo hi =>
    if ownedIn u lo hi then .error (keepAsked s u)
    else if lo = hi then .ok u
    else .ok (u.mapMu (fun m => { m with excl := m.excl ++ [⟨lo, hi, xferKey cl slot⟩] }))

/-- The copy in slot `slot` goes on: at the start of a piece its checks, then one span (R354, R355); or what it waits for. -/
def copyTry (s : State) (cl slot : Nat) : Except State State :=
  let x := getXfer s cl slot
  if x.st ≠ .running || x.kind ≠ 0 || copierFrozen s cl || decide (bLen x.block ≤ x.doneB) then .error s
  else match (if pieceStarts s cl x then startPiece s cl slot else .ok s) with
    | .error t => .error t
    | .ok t => if (getXfer t cl slot).st = .running then copySpan t cl slot else .ok t

/-! ### Rows at their owners (R360) -/

/-- Bytes written by `wr` over the lines they touch, one after another. -/
def engPutGo (wr : State → W64 → List Byte → EngPut) : Nat → State → W64 → List Byte → EngPut
  | 0, s, _, _ => .done s
  | f + 1, s, a, l =>
    if l.isEmpty then .done s
    else
      let k := 64 - a.toNat % 64
      match wr s a (l.take k) with
      | .done t => engPutGo wr f t (leaAdd a (BitVec.ofNat 64 k)) (l.drop k)
      | r => r

def engPuts (s : State) (cl ctx asid : Nat) (a : W64) (l : List Byte) : EngPut :=
  engPutGo (fun t a l => engPut t cl ctx asid a l) (l.length / 64 + 2) s a l

def xReads (s : State) (cl : Nat) (x : Xfer) (a : W64) (n : Nat) : EngRead :=
  engReadGo (fun t a k => xRead t cl x a k) (n / 64 + 2) s a n []

def xPuts (s : State) (cl : Nat) (x : Xfer) (a : W64) (l : List Byte) : EngPut :=
  engPutGo (fun t a l => xPut t cl x a l) (l.length / 64 + 2) s a l

/-- Whole lines of `n` bytes at an address that have been written are owned no longer. -/
def cutLines (s : State) (cl : Nat) (x : Xfer) (own : List Own) (a : W64) (n : Nat) : List Own :=
  if own.isEmpty then own
  else (List.range (n / 64)).foldl (fun l i =>
    match engResolve s cl x.ctx x.asid (leaAdd a (BitVec.ofNat 64 ((64 - a.toNat % 64) % 64 + 64 * i))) .store with
    | .ok (_, _, key) => if (64 - a.toNat % 64) % 64 + 64 * i + 64 ≤ n then cutLine (lineKeyOf key) l else l
    | .error _ => l) own

/-- The sub-list of a transfer reaches its owner, over the link when the owner is on a peer chip: none while an earlier one of
the engine is ahead of it (R257, R360). An owner that has its list already changes nothing. -/
def subArrives (s : State) (cl slot n : Nat) : Option State :=
  let isMine (p : Packet) : Bool := match p.body with
    | .sub d c k _ => d == n && c == cl && k == slot
    | _ => false
  match s.net.find? isMine with
  | none => some s
  | some p => match findPacket s p.id with
    | none => none
    | some _ => if nCores ≤ n then
        (if chipReached s (n / nCores) then some (leavesChip s p (n / nCores)) else none)
      else some (dropPacket s p.id)

/-- The row of an entry that is on its way. -/
def rowSent (s : State) (cl slot k : Nat) : Option (Packet × List Byte) :=
  s.net.findSome? (fun p => match p.body with
    | .row c j i l => if c = cl ∧ j = slot ∧ i = k then some (p, l) else none
    | _ => none)

/-- Entry `k` of a gather or scatter goes on: once its owner has the sub-list its row is read and leaves as a packet, and then it
is written, in BUF or at the owner (R360). An earlier entry of the same row goes first in a scatter, so that the later one
wins. -/
def rowTry (s : State) (cl slot k : Nat) : Except State State :=
  let x := getXfer s cl slot
  if x.st ≠ .running || x.kind = 0 || copierFrozen s cl then .error s
  else match x.rows.find? (fun e => e / 2 ^ 32 == k) with
    | none => .error s
    | some e =>
      let r := e % 2 ^ 32
      let before := x.kind == 2 && x.rows.any (fun f => decide (f / 2 ^ 32 < k) && f % 2 ^ 32 == r)
      let n := rowOwner x.block r
      if before then .error s
      else match subArrives s cl slot n with
      | none => .error s
      | some s =>
        let there : W64 := BitVec.ofNat 64 (localKey n (gOff x.block + r % gPer x.block * gRow x.block))
        let here := leaAdd (bDst x.block) (BitVec.ofNat 64 (k * gRow x.block))
        let src := if x.kind = 1 then there else here
        let dst := if x.kind = 1 then here else there
        let own := s.mu.excl.filter (fun o => o.owner == xferKey cl slot)
        match rowSent s cl slot k with
        | none => (match xReads (dropOwned s cl slot) cl x src (gRow x.block) with
          | .waits u => .error (parkXfer (keepAsked s u) cl slot x src (gRow x.block) .load)
          | .fails c => .ok (xferStop s cl slot c)
          | .violates => .ok (xferViolates s cl slot)
          | .got t _ true => .ok (xferStop t cl slot 0x0F)
          | .got t l false =>
            let sent := launchUnit t (copierSrc cl) x.ctx x.asid (if x.kind = 1 ∧ n < nCores then dieOf (getCore t n).pos else cl / 32)
              dst (.row cl slot k l)
            .ok (sent.mapMu (fun m => { m with excl := m.excl ++ own })))
        | some (p, l) => match xPuts (dropOwned (dropPacket s p.id) cl slot) cl x dst l with
          | .waits u => .error (parkXfer (keepAsked s u) cl slot x dst (gRow x.block) .store)
          | .fails c => .ok (xferStop s cl slot c)
          | .violates => .ok (xferViolates s cl slot)
          | .done u =>
            let c := tgetD x.counters n (0, 0)
            .ok (putXfer (u.mapMu (fun m => { m with excl := m.excl ++ cutLines u cl x own dst (gRow x.block) })) cl slot
              { x with
                rows := x.rows.filter (fun f => f != e), doneB := x.doneB + gRow x.block
                counters := tput x.counters n (c.1, c.2 + 1), peerWin := peerNote u cl x dst })

/-! ### The order of service (R350) -/

def canGo (r : Except State State) : Bool :=
  match r with
  | .ok _ => true
  | .error _ => false

/-- Whether the transfer in a slot can go on now. -/
def xferMoves (s : State) (cl slot : Nat) : Bool :=
  let x := getXfer s cl slot
  x.st == .running && (if x.kind = 0 then canGo (copyTry s cl slot) else x.rows.any (fun e => canGo (rowTry s cl slot (e / 2 ^ 32))))

/-- The slot that the engine of a cluster serves next: the first after the last one served, in rotation, that can go on. -/
def copyNext (s : State) (cl : Nat) : Option Nat :=
  ((List.range 64).map (fun d => (tgetD s.un.copyTurn cl 63 + 1 + d) % 64)).find? (fun k => xferMoves s cl k)

def putTurn (s : State) (cl k : Nat) : State := s.mapUn (fun u => { u with copyTurn := tputD 63 u.copyTurn cl k })

/-- COPY_PIECE_START: the engine goes on with the copy in slot `slot` when it is its turn; a piece that has begun keeps the
turn (R350, R354). -/
def copyPiece (s : State) (cl slot : Nat) : State :=
  match copyTry s cl slot with
  | .error t => t
  | .ok t =>
    if copyNext s cl ≠ some slot then s
    else
      let x := getXfer t cl slot
      let ended := x.st != .running || decide (bLen x.block ≤ x.doneB) || pieceStarts t cl x
      putTurn t cl (if ended then slot else (slot + 63) % 64)

def execCopyPieceStart (s : State) : Host.Outcome State Fault Refusal := .next (copyPiece s s.arg.a s.arg.b)

/-- A row of a gather or scatter goes when it is the transfer's turn. -/
def moveRow (s : State) (cl slot k : Nat) : State :=
  match rowTry s cl slot k with
  | .error t => t
  | .ok t => if copyNext s cl ≠ some slot then s else putTurn t cl slot

/-- GATHER_ROW_AT_OWNER (R360): entry c of the transfer in slot b of cluster a. -/
def execGatherRowAtOwner (s : State) : Host.Outcome State Fault Refusal := .next (moveRow s s.arg.a s.arg.b s.arg.c)

/-! ### Completion (R356, R358) -/

/-- Whether everything of a running transfer is written. -/
def xferWritten (x : Xfer) : Bool := if x.kind = 0 then decide (bLen x.block ≤ x.doneB) else x.rows.isEmpty

/-- The registers a save area's SREG holds, in number order: those that task or system mode can write (09_context R240). -/
def sregList : List Nat := (List.range 0x100).filter (fun n => sysAccess n 1 == .both)
def sregOff (n : Nat) : Nat := 0x500 + 8 * (sregList.idxOf n)

/-- An entry joins the completion queue of a core: its own, or the one in its image (R356, R358). It waits while the queue is
full and while the image cannot be reached. -/
def appendUir (s : State) (ctx n : Nat) (h id : BitVec 32) : Except State State :=
  let c := getCore s n
  if (noCtx c && ctx == 256) || (!noCtx c && curCtx c == ctx) then
    (if 64 ≤ c.mail.cpyq.length then .error s
     else .ok (putCore s { c with mail := { c.mail with cpyq := c.mail.cpyq ++ [(h, id)] } }))
  else match tget s.mu.away (ctx * 8192 + n) with
    | none => .ok s
    | some alt =>
      let area := areaOf s ctx n (alt != 0)
      let cl := clusterOf c.pos
      match vaRead s cl ctx (area + sregOff 0x71) 8 with
      | .error a => .error (a.left s)
      | .ok (t, l) =>
        let w := wordOf l
        let k := fld w 47 40
        if 64 ≤ k then .error s
        else match vaWrite t cl ctx (area + 0x1800 + 8 * k) (bytesOf (h.toNat * 2 ^ 32 + id.toNat) 8) with
          | .error a => .error (a.left s)
          | .ok t => match vaWrite t cl ctx (area + sregOff 0x71) (bytesOf (setFld w 47 40 (k + 1)).toNat 8) with
            | .error a => .error (a.left s)
            | .ok u => .ok u

/-- The end of a node's copy is noted at the node (11_kernel R281, R288). -/
def nodeCopyOver (s : State) (g i c : Nat) : State :=
  match tget s.un.graphs g with
  | none => s
  | some x => match tget x.nodes i with
    | none => s
    | some n => s.mapUn (fun u => { u with
        graphs := tput u.graphs g { x with nodes := tput x.nodes i { n with job := 2 ^ 32 + c } } })

/-- The end of a replica's copy is noted at its descriptor (17_expert R372, R386). -/
def repCopyOver (s : State) (e r c : Nat) : State :=
  let x := getExp s e
  if x.st = .free then s
  else putExp s e { x with reps := x.reps.modify r (fun p => { p with job := 2 ^ 32 + c }) }

/-- A transfer is over. -/
def xferEnds (s : State) (cl slot : Nat) (x : Xfer) : State :=
  let t := { putXfer s cl slot { x with st := if x.cause = 0 then .done else .stopped, endSeq := s.nextId } with
    nextId := s.nextId + 1 }
  match x.forWhom with
  | .node g i => nodeCopyOver t g i x.cause
  | .core _ _ => t
  | .fill e r => repCopyOver t e r x.cause
  | .handover e r => repCopyOver t e r x.cause
  | .publish e r => repCopyOver t e r x.cause

/-- Step 3 of R356. -/
def xferUir (s : State) (cl slot : Nat) : State :=
  let x := getXfer s cl slot
  match x.forWhom with
  | .core n _ =>
    -- entries of one core and context wait in the order their transfers reached this step
    let ahead := s.un.xfers.any (fun p => p.2.st == .completing && p.2.flagged && p.2.ctx == x.ctx &&
      decide (p.2.endSeq < x.endSeq) && (match p.2.forWhom with | .core m _ => m == n | _ => false))
    if x.st ≠ .completing || !x.flagged || ahead || copierFrozen s cl then s
    else match appendUir s x.ctx n x.handler (BitVec.ofNat 32 (x.id slot)) with
      | .error t => keepAsked s t
      | .ok t => xferEnds t cl slot x
  | _ => s

/-- COMPLETION_QUEUE_APPEND (R356): the transfer in slot b of cluster a. -/
def execCompletionQueueAppend (s : State) : Host.Outcome State Fault Refusal := .next (xferUir s s.arg.a s.arg.b)

/-- COPY_COMPLETE: every payload write is acknowledged; the flag is written and the interrupt's entry appended (R356). The
completion is a release at .device, or at .system when a destination lies on a peer chip: it then waits for its time window
(07_ordering R172, R179). -/
def copyComplete (s : State) (cl slot : Nat) : State :=
  let x := getXfer s cl slot
  let ready := (x.st == .running && xferWritten x) || (x.st == .completing && !x.flagged)
  if !ready || copierFrozen s cl then s
  else
    let y := { x with st := .completing, released := true }
    let s1 := putXfer (if x.released then s else unitRelease (dropOwned s cl slot) (cl / 32)) cl slot y
    if !windowMet s1 x.peerWin then s1
    else match x.forWhom with
    | .core _ _ =>
      let flag := if bFlg x.kind x.block then engPut s1 cl x.ctx x.asid (bFlag x.block) (bytesOf (bFval x.block) 4)
        else .done s1
      (match flag with
        | .waits t => keepAsked s1 t
        | .violates => xferViolates s1 cl slot
        | .fails _ => xferAfterFlag s1 cl slot y
        | .done s2 => xferAfterFlag s2 cl slot y)
    | _ => xferEnds s1 cl slot y
where
  /-- The transfer has reached step 3 or is over. -/
  xferAfterFlag (s : State) (cl slot : Nat) (x : Xfer) : State :=
    if bUir x.kind x.block then
      xferUir { putXfer s cl slot { x with st := .completing, flagged := true, endSeq := s.nextId } with
        nextId := s.nextId + 1 } cl slot
    else xferEnds s cl slot x

def execCopyComplete (s : State) : Host.Outcome State Fault Refusal := .next (copyComplete s s.arg.a s.arg.b)

/-! ### CPY, CPYF, GATH, SCAT (R364) -/

/-- Posting a copy: the checks, then the command. -/
def cpyEff (s : State) (q : Nat) (a : W64) (kind : Nat) (fenced : Bool) : Eff :=
  if (getQ s.core q).kind ≠ 1 then trap 0x0A (BitVec.ofNat 64 q)
  else if fld a 2 0 ≠ 0 then trap 0x03 a
  else match loadWords s a 6 with
    | .error e => .error e
    | .ok (t, l) =>
      let b := BitVec.ofNat 384 (packNat 64 (l.map (·.toNat)))
      let defh := t.core.sys.cpydefh
      if blockBad kind b defh then trap 0x04 a
      else
        let post (u : State) : Eff :=
          postCmd u (2 + kind) [BitVec.ofNat 64 q, a] q (.copy kind a b (bChosen b defh) (fld u.core.sys.status 1 0))
        if fenced then
          (match fenceHead t with
            | .error e => .error e
            | .ok u => keepPaired u (match relNow u .device with
              | .error e => .error e
              | .ok v => stepsOnce (post v)))
        else post t

/-- CPY (R364). -/
def execCpy (d : Code3) (a : Reg) (s : State) : Host.Outcome State Fault Refusal :=
  finish s (cpyEff s d.toNat (s.x a) 0 false)
/-- CPYF (R364). -/
def execCpyf (d : Code3) (a : Reg) (s : State) : Host.Outcome State Fault Refusal :=
  finish s (cpyEff s d.toNat (s.x a) 0 true)
/-- GATH (R364). -/
def execGath (d : Code3) (a : Reg) (s : State) : Host.Outcome State Fault Refusal :=
  finish s (cpyEff s d.toNat (s.x a) 1 false)
/-- SCAT (R364). -/
def execScat (d : Code3) (a : Reg) (s : State) : Host.Outcome State Fault Refusal :=
  finish s (cpyEff s d.toNat (s.x a) 2 false)

/-- The port of KIND 1 takes a command of core `n` (R350, R351). -/
def copyPort (s : State) (n q : Nat) (c : QCmd) : State :=
  let k := getCore s n
  let cl := clusterOf k.pos
  match xferSlot s cl with
  | none => answer (oweAnswer s n q s.nextId) (ctxNum k) n q s.nextId [0]
  | some slot =>
    let base : Xfer := { Xfer.fresh with st := .reading, forWhom := .core n q, ctx := ctxNum k, asid := curAsid k }
    match c with
    | .word a defh mode =>
      let t := xferStart s cl slot { base with blockAddr := a, handler := defh, mode := mode, flagged := true }
      oweAnswer t n q ((getXfer t cl slot).id slot)
    | .copy kind a b h mode =>
      let t := xferStart s cl slot { base with kind := kind, block := b, blockAddr := a, handler := h, mode := mode }
      let id := (getXfer t cl slot).id slot
      answer (oweAnswer t n q id) (ctxNum k) n q id [BitVec.ofNat 64 id]
    | _ => s

/-! ### CPYST (R367) -/

def xferStatus (x : Xfer) : W64 :=
  BitVec.ofNat 64 (xferCode x.st x.cause * 2 ^ 60 + x.cause % 256 * 2 ^ 52 + b2n x.pois * 2 ^ 51 + x.doneB % 2 ^ 40)

def cpystEff (s : State) (d : Reg) (xa xb : W64) : Eff :=
  if fld xa 63 32 ≠ 0 then trap 0x04 xa
  else if 64 < xb.toNat then trap 0x04 xb
  else match xferOf s (clusterOf s.core.pos) xa.toNat with
    | none => .ok (setXI s d (if xb = 0 then BitVec.ofNat 64 (15 * 2 ^ 60) else 0) 12)
    | some (_, x) =>
      if xb = 0 then .ok (setXI s d (xferStatus x) 12)
      else .ok (setXI s d (match x.counters[xb.toNat - 1]? with
        | some (o, e, a) => BitVec.ofNat 64 (o * 2 ^ 32 + e * 2 ^ 16 + a)
        | none => 0) 12)

/-- CPYST (R367). -/
def execCpyst (d a b : Reg) (s : State) : Host.Outcome State Fault Refusal := finish s (cpystEff s d (s.x a) (s.x b))

end Sys2Proof.Machine
end

