-- ==== Sys2Proof/Machine/Expert.lean ====
section
/-! DEFINITION. Experts and their directory Accord: routing, receipts, growth, retirement, hand-over, join and update, and
EXROUTE, EXBACK, EXGROW, EXRETIRE, EXJOIN, EXUPD, EXSTAT and HSIFT (17_expert R368 to R388). -/
namespace Sys2Proof.Machine

/-! ### Names and the directory (R368, R369, R372) -/

/-- What a name stands for on this chip, which is chip 0 of its domain. -/
inductive ExName
  | none
  | here (e : Nat)
  | peer (chip : Nat)
  deriving DecidableEq, Repr

/-- TVAL of cause 0x10 (R380). -/
def exTval (kind : Nat) (name : W64) : W64 := BitVec.ofNat 64 (kind * 2 ^ 60 + fld name 31 0)

def getCopy (s : State) (e die : Nat) : Expert := tgetD s.un.copies (copyKey e die) Expert.fresh

/-- The entry a name in a register names for a context, as the copy of a die shows it; names of a chip that can be reached
cross its link. -/
def exName (s : State) (die ctx : Nat) (name : W64) : ExName :=
  if fld name 63 32 ≠ 0 ∨ fld name 19 16 ≠ 0 ∨ ctx = 256 then .none
  else if fld name 31 20 ≠ 0 then (if chipReached s (fld name 31 20) then .peer (fld name 31 20) else .none)
  else
    let c := getCopy s (fld name 15 0) die
    if c.st ≠ .free ∧ c.ctx = ctx then .here (fld name 15 0) else .none

/-- The entry and its home copy change together. -/
def setExp (s : State) (e : Nat) (x : Expert) : State := syncHome (putExp s e x) e

def setRep (s : State) (e r : Nat) (f : Rep → Rep) : State :=
  setExp s e { getExp s e with reps := (getExp s e).reps.modify r f }

def Expert.rep (x : Expert) (r : Nat) : Rep := x.reps.getD r Rep.fresh
def Rep.infl (r : Rep) : Nat := r.slots.length

/-- A replica's creation sequence is not above another's, in serial order over 16 bits (R379; 07_ordering R177). -/
def Rep.upTo (a b : Rep) : Bool := !serialLt b.cseq a.cseq

def repsWhere (x : Expert) (p : Rep → Bool) : List Nat := (List.range 16).filter (fun k => (x.rep k).nslot != 0 && p (x.rep k))
def servingReps (x : Expert) : List Nat := repsWhere x (fun r => r.st == .serving)

/-- DIRECTORY_COPY_UPDATE (R369): the copy of an entry on a die takes what the home holds. -/
def copyUpdate (s : State) (e die : Nat) : State :=
  if (getExp s e).st = .free then s
  else s.mapUn (fun u => { u with copies := tput u.copies (copyKey e die) (getExp s e) })

/-- DIRECTORY_COPY_UPDATE: entry a, die b. -/
def execDirectoryCopyUpdate (s : State) : Host.Outcome State Fault Refusal := .next (copyUpdate s s.arg.a s.arg.b)

/-- All four copies show something. -/
def allCopies (s : State) (e : Nat) (p : Expert → Bool) : Bool := (List.range 4).all (fun d => p (getCopy s e d))

/-- EXCFG_INSTALL (R369): EXCFG(a) is written with w, whose V is 1. -/
def execExcfgInstall (s : State) : Host.Outcome State Fault Refusal :=
  .next (if fld s.arg.w 0 0 = 1 then excfgWrite s s.arg.a s.arg.w else s)

/-- EXCFG_REMOVE (R371): EXCFG(a) is written with w, whose V is 0. -/
def execExcfgRemove (s : State) : Host.Outcome State Fault Refusal :=
  .next (if fld s.arg.w 0 0 = 0 then excfgWrite s s.arg.a s.arg.w else s)

/-! ### Routing (R373, R374) -/

/-- The serving replicas a copy shows among those not asked, the least loaded first. -/
def repOrder (c : Expert) (asked : List Nat) : List Nat :=
  sortBy (fun a b => decide ((c.rep a).infl < (c.rep b).infl) ||
      ((c.rep a).infl == (c.rep b).infl && (c.rep a).upTo (c.rep b)))
    ((servingReps c).filter (fun k => !asked.contains k))

/-- The router's choice: the first of that order, or in replay the logged one; none while the router waits for it
(25_life R449, R450). -/
def pickRep (s : State) (die : Nat) (c : Expert) (asked : List Nat) : Option (Nat × State) :=
  match chooseRank s 3 die (repOrder c asked).length with
  | none => none
  | some (r, t) => (repOrder c asked)[r]?.map (fun k => (k, t))

/-- The router of a die that lacks candidates for a name in replay begins to wait (25_life R450). -/
def routerLacks (s : State) (die e : Nat) (asked : List Nat) : State := noteLack s 3 die (repOrder (getCopy s e die) asked).length

/-- A status result (R374). -/
def exStatus (code : Nat) : W64 := BitVec.ofNat 64 (2 ^ 63 + code)

/-- ALEN and the offset, tag and length of a route word; what R381 forbids of it. -/
def rowLen (w : W64) : Nat := (fld w 23 16 + 1) * 64
def routeBad (w : W64) : Bool :=
  fld w 63 42 != 0 || fld w 5 0 != 0 || fld w 41 40 == 3 || decide (0x10000 < fld w 15 0 + rowLen w)

/-- A reservation goes out from the router of a die, or the answer is known there (R373 steps 1 and 2); none while the router
waits. The answer goes to queue register `q`, to the waiting core, or to the chip that asks, known by `ticket`. -/
def routeStart (s : State) (e core ctx : Nat) (name word : W64) (q : Option Nat) (die ticket : Nat) :
    Option (State × Option W64) :=
  let c := getCopy s e die
  if c.st ≠ .live then some (s, some (exStatus 2))
  else if (repOrder c []).isEmpty then some (s, some (exStatus 3))
  else match pickRep s die c [] with
    | none => none
    | some (k, s) => some
      ({ s with
          un := { s.un with resvs := s.un.resvs ++ [⟨s.nextId, BitVec.ofNat 32 name.toNat, core, ctx, word, [k], k, c.ws, q,
            ticket, none, die⟩] }
          nextId := s.nextId + 1 }, none)

/-- The code of a queue register's answer where EXROUTE would trap with cause 0x10: 5 for kind 0, 6 for kind 3 (R382). -/
def portCode (tval : W64) : W64 := exStatus (if fld tval 63 60 = 0 then 5 else 6)

/-- An answer leaves for the core of another chip that has asked (R369). -/
def tellPeer (s : State) (die ctx core ticket : Nat) (word : W64) (traps : Bool) : State :=
  launchUnit s (.router die) ctx 0 die (msgAddr core) (.told (core / nCores) ticket [word] traps)

/-- The answer of a reservation or of a peer's directory reaches the core, its queue register, or the chip that asks (R369, R381,
R382). -/
def routeAnswer (s : State) (v : Resv) (word : W64) (traps : Bool) : State :=
  let t := s.mapUn (fun u => { u with resvs := u.resvs.filter (fun r => r.id != v.id) })
  if nCores ≤ v.core then tellPeer t v.die v.ctx v.core v.ticket word traps
  else match v.q with
  | some q => answer t v.ctx v.core q v.ticket [if traps then portCode word else word]
  | none => modCore t v.core (fun c => match c.wait with
    | some ⟨n, .route id⟩ => if id = v.id then { c with wait := some ⟨n, .routed word traps⟩ } else c
    | _ => c)

/-- A reservation for a name of this chip. -/
def findResv (s : State) (id : Nat) : Option Resv := s.un.resvs.find? (fun r => r.id == id && fld r.name 31 20 == 0)

/-- A request for a name of another chip (R369). -/
def findAsk (s : State) (id : Nat) : Option Resv := s.un.resvs.find? (fun r => r.id == id && fld r.name 31 20 != 0)

/-- RESERVATION_AT_PORT (R373 steps 3 to 5): a reservation reaches the port of the replica it names. -/
def resvAtPort (s : State) (id : Nat) : State :=
  match findResv s id with
  | none => s
  | some v =>
    let e := fld v.name 15 0
    let x := getExp s e
    let r := x.rep v.at_
    let c := getCopy s e (dieOf (getCore s r.first).pos)
    if v.granted.isSome then s
    else if c.st ≠ .live ∨ c.ws ≠ v.ws then routeAnswer s v (exStatus 2) false
    else if r.st ≠ .serving ∨ r.nslot ≤ r.infl then
      (if (repOrder c v.asked).isEmpty then routeAnswer s v (exStatus 1) false
       else match pickRep s (dieOf (getCore s r.first).pos) c v.asked with
        | none => routerLacks s (dieOf (getCore s r.first).pos) e v.asked
        | some (k, s) => s.mapUn (fun u => { u with
            resvs := mapFirst (fun w => w.id == id) (fun w => { w with at_ := k, asked := w.asked ++ [k] }) u.resvs }))
    else if r.rsz * 64 < rowLen v.word then routeAnswer s v (exTval 3 (v.name.zeroExtend 64)) true
    else
      let slot := (firstNat (fun k => (tget r.slots k).isNone) r.nslot).getD 0
      let t := setRep s e v.at_ (fun p => { p with slots := tput p.slots slot false, tok := min (p.tok + 1) (2 ^ 22 - 1) })
      t.mapUn (fun u => { u with
        resvs := mapFirst (fun w => w.id == id) (fun w => { w with granted := some (w.at_, slot) }) u.resvs })

/-- RESERVATION_AT_PORT: reservation a. -/
def execReservationAtPort (s : State) : Host.Outcome State Fault Refusal := .next (resvAtPort s s.arg.a)

/-- The receipt of a slot. -/
def receiptOf (e r slot : Nat) (cseq : BitVec 16) : W64 :=
  BitVec.ofNat 64 (r * 2 ^ 58 + slot * 2 ^ 48 + cseq.toNat * 2 ^ 32 + e)

/-- A pulled row: its bytes, which of its lines are poisoned, and the address of the first that could not be read (R373;
10_queue R272). -/
structure Row where
  bytes : List Byte
  bad : List Nat
  lost : Option W64
  deriving DecidableEq, Repr

/-- The lines of a row read from a core's local memory, wherever it is served: a poisoned line as it stands, one whose image page
is absent as poisoned zeros (R373; 10_queue R272). -/
def readRow (ctx core die : Nat) : Nat → Nat → State → Row → Nat → Option (State × Row)
  | 0, _, s, acc, _ => some (s, acc)
  | n + 1, off, s, acc, k =>
    match servedAt s ctx (.loc core) (localKey core off) with
    | .error _ =>
      readRow ctx core die n (off + 64) s { bytes := acc.bytes ++ List.replicate 64 0, bad := acc.bad ++ [k]
                                            lost := acc.lost.or (some (BitVec.ofNat 64 (localKey core off))) } (k + 1)
    | .ok r => match readHome r.1 die r.2.1 r.2.2 64 with
      | .ok (t, l, _) => readRow ctx core die n (off + 64) t { acc with bytes := acc.bytes ++ l } (k + 1)
      | .error .waits => none
      | .error (.poison _ t) => readRow ctx core die n (off + 64) t
          { acc with bytes := acc.bytes ++ poisonedBytes t r.2.1 r.2.2 64, bad := acc.bad ++ [k] } (k + 1)

/-- The row of a route word. -/
def pullRow (s : State) (ctx core die : Nat) (word : W64) : Option (State × Row) :=
  readRow ctx core die (rowLen word / 64) (fld word 15 0) s ⟨[], [], none⟩ 0

/-- The sender of a row holds the error of a line that could not be read (06_memory R159). -/
def rowError (s : State) (ctx core id : Nat) (row : Row) : State :=
  match row.lost with
  | some a => if core < nCores then holdError s core ctx id a else s
  | none => s

/-- A message with a pulled row as its attachment. -/
def withRow (l : List Byte) (off : Nat) (bad : List Nat) : Body → Body
  | .msg d m _ => .msg d m (some (.row l off bad))
  | b => b

/-- A row leaves from the router of a die for the member that serves a slot, as a bulk message from the routing core, in order
with that core's own (R374; 10_queue R257). -/
def deliverRow (s : State) (e r slot core ctx die : Nat) (word : W64) (ws : BitVec 32) (back : Bool) (row : Row) : State :=
  let x := getExp s e
  let p := x.rep r
  let dest := p.first + slot % p.count
  let land_ := (p.land_ + slot / p.count * p.rsz * 64) % 65536
  let m := unitMessage s (.core core) die 2 (if back then x.bwdh else x.fwdh) (BitVec.ofNat 16 (fld word 39 24))
    ((receiptOf e r slot p.cseq).toNat + ws.toNat * 2 ^ 64 + land_ * 2 ^ 96 + b2n back * 2 ^ 112)
    (if back then .receipt e r slot else .plain)
  let t := unitSend s (.router die) ctx die dest { m with
    sender := BitVec.ofNat 32 core, alen := BitVec.ofNat 8 (fld word 23 16) }
  { t with net := mapFirst (fun q => q.id == s.nextId) (fun q => { q with body := withRow row.bytes land_ row.bad q.body }) t.net }

/-- EXPERT_ROW_PULLED (R373 step 6): the granted row is read, delivered, and the receipt returned. -/
def rowPulled (s : State) (id : Nat) : State :=
  match findResv s id with
  | none => s
  | some v => match v.granted with
    | none => s
    | some (r, slot) =>
      let e := fld v.name 15 0
      match pullRow s v.ctx v.core v.die v.word with
      | none => s
      | some (t, row) =>
        routeAnswer (deliverRow (rowError t v.ctx v.core v.id row) e r slot v.core v.ctx v.die v.word v.ws false row) v
          (receiptOf e r slot ((getExp s e).rep r).cseq) false

/-- EXPERT_ROW_PULLED: reservation a. -/
def execExpertRowPulled (s : State) : Host.Outcome State Fault Refusal := .next (rowPulled s s.arg.a)

/-! ### EXROUTE, EXBACK (R381, R383) -/

/-- The end of a wait for the router or for a peer's directory; none when the instruction starts afresh. -/
def routedEff (s : State) (d : Reg) : Option Eff :=
  match s.core.wait with
  | some ⟨_, .routed w false⟩ => some (.ok (setXI s d w 12))
  | some ⟨_, .routed w true⟩ => some (trap 0x10 w)
  | some ⟨_, .route r⟩ => some (.error (.wait s (.route r)))
  | _ => none

/-- A request to the directory of a peer chip leaves over its link; what answers it is known by `ticket` (R369). -/
def sendAsk (s : State) (n chip : Nat) (op : ExOp) (name xa xb : W64) (q : Option Nat) (ticket : Nat) : State :=
  let ctx := ctxNum (getCore s n)
  let die := dieOf (getCore s n).pos
  let t := s.mapUn (fun u => { u with resvs := u.resvs ++ [⟨ticket, BitVec.ofNat 32 name.toNat, n, ctx, xb, [], 0, 0, q, ticket,
    none, die⟩] })
  launchUnit t (.router die) ctx 0 die (msgAddr (chip * nCores)) (.ask chip ⟨ticket, op, n, ctx, xa, xb⟩)

/-- An expert instruction asks a peer chip and waits for the answer. -/
def askPeer (s : State) (chip : Nat) (op : ExOp) (name xa xb : W64) : Eff :=
  .error (.wait (sendAsk { s with nextId := s.nextId + 1 } s.core.num chip op name xa xb none s.nextId) (.route s.nextId))

/-- How an operation on an entry ends: with a value for x[d], with cause 0x10 and its TVAL, or it waits. -/
inductive ExEnd
  | gives (s : State) (w : W64)
  | faults (t : W64)
  | waits (s : State)
  deriving DecidableEq, Repr

def ExEnd.eff (d : Reg) : ExEnd → Eff
  | .gives t w => .ok (setXI t d w 12)
  | .faults w => trap 0x10 w
  | .waits t => waitPlain t

/-- An expert instruction on a name: its entry, its request to a peer, or kind 0 of cause 0x10. -/
def onName (s : State) (d : Reg) (op : ExOp) (name xa xb : W64) (k : Nat → Eff) : Eff :=
  match routedEff s d with
  | some r => r
  | none => match exName s (dieOf s.core.pos) (ctxNum s.core) name with
    | .none => trap 0x10 (exTval 0 name)
    | .peer chip => askPeer s chip op name xa xb
    | .here e => k e

/-- An instruction that only the owner may issue: no core of this chip owns an entry of another (R385, R386). -/
def onOwned (s : State) (d : Reg) (name : W64) (k : Nat → Eff) : Eff :=
  match routedEff s d with
  | some r => r
  | none => match exName s (dieOf s.core.pos) (ctxNum s.core) name with
    | .none => trap 0x10 (exTval 0 name)
    | .peer _ => trap 0x10 (exTval 1 name)
    | .here e => k e

def exrouteEff (s : State) (d : Reg) (xa xb : W64) : Eff :=
  match routedEff s d with
  | some r => r
  | none =>
    if routeBad xb then trap 0x04 xb
    else onName s d .route xa xa xb (fun e =>
      match routeStart s e s.core.num (ctxNum s.core) xa xb none (dieOf s.core.pos) s.nextId with
      | none => waitPlain (routerLacks s (dieOf s.core.pos) e [])
      | some (t, some w) => .ok (setXI t d w 4)
      | some (t, none) => .error (.wait t (.route s.nextId)))

/-- EXROUTE (R381). -/
def execExroute (d a b : Reg) (s : State) : Host.Outcome State Fault Refusal := finish s (exrouteEff s d (s.x a) (s.x b))

/-- The slot a receipt names, when it is open and not closing (R375, R383). -/
def receiptOpen (x : Expert) (w : W64) : Bool :=
  let r := x.rep (fld w 61 58)
  fld w 63 62 == 0 && r.nslot != 0 && r.cseq == BitVec.ofNat 16 (fld w 47 32) && tget r.slots (fld w 57 48) == some false

/-- A route word that asks for the release alone. -/
def backOnly (xb : W64) : Bool := xb == 1#64 <<< 63

/-- EXBACK at the entry, for a core of context `ctx` served by the router of a die: the receipt closes, or is marked closing with
a row on its way (R375, R383). -/
def backEnd (s : State) (e core ctx die : Nat) (xa xb : W64) : ExEnd :=
  let x := getExp s e
  let k := fld xa 61 58
  let slot := fld xa 57 48
  if !receiptOpen x xa then .faults (exTval 2 xa)
  else if backOnly xb then .gives (setRep s e k (fun p => { p with slots := tdel p.slots slot })) 0
  else if (x.rep k).rsz * 64 < rowLen xb then .faults (exTval 3 xa)
  else match pullRow s ctx core die xb with
    | none => .waits s
    | some (t, row) =>
      let u := setRep (rowError t ctx core s.nextId row) e k (fun p => { p with slots := tput p.slots slot true })
      .gives (deliverRow u e k slot core ctx die xb x.ws true row) 0

/-- A closure is a release at .device: the core's stores are acknowledged first (R375). -/
def closes (s : State) (xb : W64) (k : State → Eff) : Eff :=
  if backOnly xb then (match relNow s .device with
    | .error e => .error e
    | .ok t => k t)
  else k s

def exbackEff (s : State) (d : Reg) (xa xb : W64) : Eff :=
  let name := BitVec.ofNat 64 (fld xa 31 0)
  match routedEff s d with
  | some r => r
  | none =>
    if !backOnly xb && routeBad xb then trap 0x04 xb
    else match exName s (dieOf s.core.pos) (ctxNum s.core) name with
      | .none => trap 0x10 (exTval 0 name)
      | .peer chip => closes s xb (fun t => askPeer t chip .back name xa xb)
      | .here e =>
        if !receiptOpen (getExp s e) xa then trap 0x10 (exTval 2 xa)
        else closes s xb (fun t => (backEnd t e t.core.num (ctxNum t.core) (dieOf t.core.pos) xa xb).eff d)

/-- EXBACK (R383). -/
def execExback (d a b : Reg) (s : State) : Host.Outcome State Fault Refusal := finish s (exbackEff s d (s.x a) (s.x b))

/-- The numbers of candidates for what stands at the router of a die: EXROUTEs, pairs of queue registers, reservations turned away
(R373; 25_life R450). -/
def routerWants (s : State) (die : Nat) : List Nat :=
  let left (e : Nat) (asked : List Nat) : Nat := (repOrder (getCopy s e die) asked).length
  let named (c : Core) (name : W64) : List Nat := match exName s die (ctxNum c) name with
    | .here e => [left e []]
    | _ => []
  ((s.core :: s.others.map (·.2)).filter (fun c => dieOf c.pos == die)).flatMap (fun c =>
    (match c.issue.instr with
      | some (.exroute _ a _) => if c.run = .waiting then named c (c.sc.get a) else []
      | _ => []) ++
    (List.range 8).flatMap (fun q => match (getQ c q).kind, (getQ c q).cmd with
      | 4, .word a _ _ :: _ => named c a
      | _, _ => [])) ++
  (s.un.resvs.filter (fun v => v.granted.isNone && fld v.name 31 20 == 0)).filterMap (fun v =>
    let r := (getExp s (fld v.name 15 0)).rep v.at_
    if dieOf (getCore s r.first).pos = die ∧ (r.st ≠ .serving ∨ r.nslot ≤ r.infl) then some (left (fld v.name 15 0) v.asked)
    else none)

/-- The port of KIND 4 takes a name and a route word of core `n` (R382); none while the router waits. -/
def routePort (s : State) (n q : Nat) (name word : W64) : Option State :=
  let c := getCore s n
  let key := s.nextId
  let t := { oweAnswer s n q key with nextId := s.nextId + 1 }
  let ends (w : W64) : State := answer t (ctxNum c) n q key [w]
  if routeBad word then some (ends (exStatus 4))
  else match exName t (dieOf c.pos) (ctxNum c) name with
    | .none => some (ends (exStatus 5))
    | .peer chip => some (sendAsk t n chip .route name name word (some q) key)
    | .here e => match routeStart t e n (ctxNum c) name word (some q) (dieOf c.pos) key with
      | none => none
      | some (u, some w) => some (answer u (ctxNum c) n q key [w])
      | some (u, none) => some u

/-! ### Growth, retirement and hand-over (R372, R377, R378) -/

/-- A copy for a replica in the engine of its first member's cluster. -/
def repCopy (s : State) (x : Expert) (r : Rep) (who : XferFor) (src dst : W64) (len : Nat) : Option State :=
  let cl := clusterOf (getCore s r.first).pos
  (xferSlot s cl).map (fun slot => xferStart s cl slot { Xfer.fresh with
    st := .running, block := BitVec.ofNat 384 (src.toNat + dst.toNat * 2 ^ 64 + len * 2 ^ 128), forWhom := who, ctx := x.ctx
    asid := ctxAsid s x.ctx })

/-- The replica a fill copies from: a serving one on the same die, else any, the lowest CSEQ. -/
def fillFrom (s : State) (x : Expert) (r : Rep) : Option Nat :=
  let die (p : Rep) : Nat := dieOf (getCore s p.first).pos
  let near := (servingReps x).filter (fun k => die (x.rep k) == die r)
  bestBy (fun a b => !(x.rep b).upTo (x.rep a)) (if near.isEmpty then servingReps x else near)

/-- The descriptor a growth takes (R377). -/
def growInto (x : Expert) : Option Nat :=
  (repsWhere x (fun r => r.st == .retired && !r.hop && !r.ferr)).head?

/-- GLEN bytes of +0 at a replica's accumulator; a write that waits or fails leaves what it has asked for. -/
def zeroAcc (x : Expert) (r : Rep) (s : State) : Except State State :=
  match engPuts s (clusterOf (getCore s r.first).pos) x.ctx (ctxAsid s x.ctx) r.gacc (List.replicate x.glen 0) with
  | .done t => .ok t
  | .waits t => .error (keepAsked s t)
  | .fails _ => .error s
  | .violates => .error s

/-- One growth of a live entry: the index, or nothing when no descriptor qualifies or no copy can start. -/
def grow (s : State) (e : Nat) : Option (Nat × State) :=
  let x := getExp s e
  if x.st ≠ .live then none
  else match growInto x with
    | none => none
    | some k => match fillFrom s x (x.rep k) with
      | none => none
      | some from_ => match repCopy s x (x.rep k) (.fill e k) (x.rep from_).wbuf (x.rep k).wbuf x.wlen with
        | none => none
        | some t =>
          let z := zeroAcc x (x.rep k) t
          let y := { x with nseq := x.nseq + 1, grows := min 255 (x.grows + 1), sinceGrow := 0 }
          let y := { y with reps := y.reps.modify k (fun r => { r with
            st := .filling, cseq := x.nseq, tok := 0, slots := [], fillWs := x.ws, job := 1, zeroed := canGo z }) }
          some (k, setExp (orAsked t z) e y)

/-- A serving replica begins draining. -/
def retireRep (s : State) (e k : Nat) : State :=
  let x := getExp s e
  setExp s e { x with sinceRetire := 0, reps := x.reps.modify k (fun r => { r with st := .draining }) }

/-- ACCORD_EVALUATION (R377): growth, else retirement, with damping. -/
def evaluate (s : State) (e : Nat) : State :=
  let x := getExp s e
  if x.st ≠ .live ∨ s.cycle / 4096 ≤ x.lastEval then s
  else
    let x := { x with
      lastEval := s.cycle / 4096, sinceGrow := min 17 (x.sinceGrow + 1), sinceRetire := min 17 (x.sinceRetire + 1) }
    let t := setExp s e x
    let sv := servingReps x
    let l := (sv.map (fun k => (x.rep k).infl)).sum
    let c := (sv.map (fun k => (x.rep k).nslot)).sum
    if x.growT ≠ 0 ∧ x.growT * c ≤ 8 * l then
      (if 16 < x.sinceRetire then (match grow t e with
        | some (_, u) => u
        | none => t) else t)
    else if x.shrinkT ≠ 0 ∧ 8 * l ≤ x.shrinkT * c ∧ 2 ≤ sv.length ∧ 16 < x.sinceGrow then
      (match bestBy (fun a b => !(x.rep a).upTo (x.rep b)) sv with
        | some k => retireRep t e k
        | none => t)
    else t

/-- ACCORD_EVALUATION: entry a. -/
def execAccordEvaluation (s : State) : Host.Outcome State Fault Refusal := .next (evaluate s s.arg.a)

/-- REPLICA_FILL_COMPLETE (R372): entry a, replica b. While an update publishes, the copy is the publication's, and the update
ends it. -/
def fillComplete (s : State) (e k : Nat) : State :=
  let x := getExp s e
  let r := x.rep k
  if r.st ≠ .filling ∨ r.job < 2 ^ 32 ∨ x.pub then s
  else if r.job ≠ 2 ^ 32 then setRep s e k (fun p => { p with st := .retired, ferr := true, job := 0 })
  else if r.fillWs ≠ x.ws then s
  else
    let z := if r.zeroed then .ok s else zeroAcc x r s
    match z with
    | .error t => t
    | .ok t => setRep t e k (fun p => { p with st := .serving, job := 0, zeroed := true })

def execReplicaFillComplete (s : State) : Host.Outcome State Fault Refusal := .next (fillComplete s s.arg.a s.arg.b)

/-- HANDOVER_START (R378): the accumulator is copied to the hand-over place once nothing can reach the replica. -/
def handoverStart (s : State) (e k : Nat) : State :=
  let x := getExp s e
  let r := x.rep k
  if r.st ≠ .draining ∨ r.infl ≠ 0 ∨ !allCopies s e (fun c => (c.rep k).st == .draining) then s
  else match repCopy s x r (.handover e k) r.gacc (x.hobuf + BitVec.ofNat 64 (k * x.glen)) x.glen with
    | none => s
    | some t => setRep t e k (fun p => { p with st := .handing, job := 1 })

/-- HANDOVER_START: entry a, replica b. -/
def execHandoverStart (s : State) : Host.Outcome State Fault Refusal := .next (handoverStart s s.arg.a s.arg.b)

/-- HANDOVER_COMPLETE (R378): HOP is set as a release; a copy that stopped counts as over (DESIGN CHOICE, log 18). -/
def handoverComplete (s : State) (e k : Nat) : State :=
  let r := (getExp s e).rep k
  if r.st ≠ .handing ∨ r.job < 2 ^ 32 then s
  else setRep (unitRelease s (dieOf (getCore s r.first).pos)) e k (fun p => { p with st := .retired, hop := true, job := 0 })

/-- HANDOVER_COMPLETE: entry a, replica b. -/
def execHandoverComplete (s : State) : Host.Outcome State Fault Refusal := .next (handoverComplete s s.arg.a s.arg.b)

/-! ### EXGROW, EXRETIRE, EXSTAT (R384, R387) -/

def growEnd (s : State) (e : Nat) : ExEnd :=
  match grow s e with
  | some (k, t) => .gives t (BitVec.ofNat 64 k)
  | none => .gives s (BitVec.allOnes 64)

def exgrowEff (s : State) (d : Reg) (xa : W64) : Eff := onName s d .grow xa xa 0 (fun e => (growEnd s e).eff d)

/-- EXGROW (R384). -/
def execExgrow (d a : Reg) (s : State) : Host.Outcome State Fault Refusal := finish s (exgrowEff s d (s.x a))

def retireEnd (s : State) (e k : Nat) : ExEnd :=
  let x := getExp s e
  if x.st ≠ .live then .gives s 2
  else if !(servingReps x).contains k || decide ((servingReps x).length < 2) then .gives s 1
  else .gives (retireRep s e k) 0

def exretireEff (s : State) (d : Reg) (xa xb : W64) : Eff :=
  if 15 < xb.toNat then trap 0x04 xb
  else onName s d .retire xa xa xb (fun e => (retireEnd s e xb.toNat).eff d)

/-- EXRETIRE (R384). -/
def execExretire (d a b : Reg) (s : State) : Host.Outcome State Fault Refusal := finish s (exretireEff s d (s.x a) (s.x b))

def expStCode : ExpSt → Nat | .free => 0 | .live => 1 | .joining => 2 | .joined => 3 | .updating => 4
def repStCode : RepSt → Nat | .retired => 0 | .filling => 1 | .serving => 2 | .draining => 3 | .handing => 4

/-- The words EXSTAT reads (R387). -/
def exstatWord (s : State) (c : Expert) (sel : Nat) : W64 :=
  if sel = 0 then
    BitVec.ofNat 64 (expStCode c.st * 2 ^ 61 + (servingReps c).length * 2 ^ 56 + c.grows * 2 ^ 48 + c.nseq.toNat * 2 ^ 32 +
      c.ws.toNat)
  else
    let r := c.rep (sel - 1)
    if r.nslot = 0 then 0
    else BitVec.ofNat 64 (repStCode r.st * 2 ^ 61 + b2n r.hop * 2 ^ 60 + dieOf (getCore s r.first).pos * 2 ^ 58 +
      b2n r.ferr * 2 ^ 57 + r.cseq.toNat * 2 ^ 32 + r.tok * 2 ^ 10 + r.infl)

def exstatEff (s : State) (d : Reg) (xa xb : W64) : Eff :=
  match routedEff s d with
  | some r => r
  | none =>
    if 16 < xb.toNat then trap 0x04 xb
    else match exName s (dieOf s.core.pos) (ctxNum s.core) xa with
      | .none => .ok (setXI s d 0 12)
      | .peer chip => askPeer s chip .stat xa xa xb
      | .here e => .ok (setXI s d (exstatWord s (getCopy s e (dieOf s.core.pos)) xb.toNat) 12)

/-- EXSTAT (R387). -/
def execExstat (d a b : Reg) (s : State) : Host.Outcome State Fault Refusal := finish s (exstatEff s d (s.x a) (s.x b))

/-! ### Requests of other chips (R369) -/

/-- A request of another chip has come over a link to a die of this one and is served there; none while the router or memory
makes it wait. -/
def serveAsk (s : State) (die : Nat) (a : ExAsk) : Option State :=
  let name := match a.op with
    | .back => BitVec.ofNat 64 (fld a.xa 31 0)
    | _ => a.xa
  let tell (t : State) (w : W64) (traps : Bool) : State := tellPeer t die a.ctx a.core a.id w traps
  let ends (r : ExEnd) : Option State := match r with
    | .gives t w => some (tell t w false)
    | .faults w => some (tell s w true)
    | .waits _ => none
  match exName s die a.ctx name with
  | .here e => (match a.op with
    | .route => (match routeStart s e a.core a.ctx name a.xb none die a.id with
      | none => none
      | some (t, some w) => some (tell t w false)
      | some (t, none) => some t)
    | .back => ends (backEnd s e a.core a.ctx die a.xa a.xb)
    | .grow => ends (growEnd s e)
    | .retire => ends (retireEnd s e a.xb.toNat)
    | .stat => some (tell s (exstatWord s (getCopy s e die) a.xb.toNat) false))
  | _ => match a.op with
    | .stat => some (tell s 0 false)
    | _ => some (tell s (exTval 0 name) true)

/-! ### EXJOIN (R379, R385) -/

/-- Every receipt is closed and no replica drains or hands over. -/
def quiet (x : Expert) : Bool := x.reps.all (fun r => r.slots.isEmpty && r.st != .draining && r.st != .handing)

/-- The contributions in ascending CSEQ: replica and where its gradient stands. -/
def contributions (x : Expert) : List (Nat × W64) :=
  (sortBy (fun a b => (x.rep a).upTo (x.rep b))
    (repsWhere x (fun r => r.st == .serving || (r.st == .retired && r.hop)))).map (fun k =>
      (k, if (x.rep k).st = .serving then (x.rep k).gacc else x.hobuf + BitVec.ofNat 64 (k * x.glen)))

/-- One FP32 sum in RNE (02_numbers R41). DESIGN CHOICE: it raises no flag in the issuing core's FFLAGS; the spec names no
core whose flags the sums of EXJOIN would join. -/
def addF32 (a b : Nat) : Nat := (roundR .f32 (fAdd (dec .f32 a 0) (dec .f32 b 0) .rne) .rne).1

/-- The ordered sum of one element over the contributions; +0 with none. A NaN that stands alone becomes the canonical one,
for EXJOIN neither moves nor copies its operands (02_numbers R44). -/
def sumF32 : List Nat → Nat
  | [] => 0
  | a :: r => r.foldl addF32 (rnd .f32 (dec .f32 a 0) .rne).1

/-- Why contributions are not read: a fault with its address, or memory that does not answer yet. -/
inductive ReadsEnd
  | fault (c : Nat) (a : W64)
  | waits (s : State)
  deriving DecidableEq, Repr

/-- Lines of one contribution; a poisoned line faults as a load of it would (log 36). -/
def readContrib (cl ctx asid : Nat) : Nat → State → W64 → List Byte → Except ReadsEnd (State × List Byte)
  | 0, s, _, acc => .ok (s, acc)
  | n + 1, s, a, acc =>
    match engRead s cl ctx asid a 64 with
    | .waits t => .error (.waits (keepAsked s t))
    | .fails c => .error (.fault c a)
    | .violates => .error (.fault 4 a)
    | .got _ _ true => .error (.fault 0x0F a)
    | .got t l false => readContrib cl ctx asid n t (leaAdd a 64) (acc ++ l)

/-- The bytes of every contribution. -/
def readContribs (s : State) (x : Expert) : List (Nat × W64) → Except ReadsEnd (State × List Nat)
  | [] => .ok (s, [])
  | (k, a) :: r =>
    match readContrib (clusterOf (getCore s (x.rep k).first).pos) x.ctx (ctxAsid s x.ctx) (x.glen / 64) s a [] with
    | .error e => .error e
    | .ok (t, l) => match readContribs t x r with
      | .error e => .error e
      | .ok (u, ls) => .ok (u, ofBytes l :: ls)

/-- Element `i` of the sum. -/
def sumAt (ls : List Nat) (i : Nat) : Nat := sumF32 (ls.map (fun w => (w >>> (32 * i)) % 2 ^ 32))

/-- Every line of a range is checked for a store of the core. -/
def checkDest (s : State) (a : W64) : Nat → Except Stop State
  | 0 => .ok s
  | n + 1 => match resolve s a .store with
    | .error e => .error e
    | .ok (t, _, _) => checkDest t (leaAdd a 64) n

/-- Accumulators of the serving replicas zeroed. -/
def zeroServing (s : State) (x : Expert) : Except State State :=
  (servingReps x).foldlM (fun t k => zeroAcc x (x.rep k) t) s

/-- The sum is written, the accumulators zeroed, the hand-overs consumed. -/
def joinFinish (s : State) (d : Reg) (e : Nat) (xb : W64) : Eff :=
  let x := getExp s e
  let cs := contributions x
  match readContribs s x cs with
  | .error (.waits t) => .error (.wait (keepAsked s t) .update)
  | .error (.fault c a) => .error (.trapKeep s (BitVec.ofNat 8 c) a)
  | .ok (t, ls) =>
    match checkDest t xb (x.glen / 64) with
    | .error (.trap c v) => .error (.trapKeep t c v)
    | .error z => .error z
    | .ok u =>
      let bytes := (List.range (x.glen / 4)).flatMap (fun i => bytesOf (sumAt ls i) 4)
      match engPuts u (clusterOf s.core.pos) (ctxNum s.core) (curAsid s.core) xb bytes with
      | .waits v => .error (.wait (keepAsked s v) .update)
      | .fails c => .error (.trapKeep u (BitVec.ofNat 8 c) xb)
      | .violates => .error .freeze
      | .done v => match zeroServing v x with
        | .error w => .error (.wait (keepAsked s w) .update)
        | .ok w =>
          let y := { x with st := .joined, reps := x.reps.map (fun r => { r with hop := false }) }
          .ok (setXI (stepRelease (setExp w e y) (dieOf s.core.pos)) d (BitVec.ofNat 64 cs.length) 12)

def exjoinEff (s : State) (d : Reg) (xa xb : W64) : Eff :=
  match routedEff s d with
  | some r => r
  | none =>
    if fld xb 5 0 ≠ 0 then trap 0x03 xb
    else onOwned s d xa (fun e =>
      let x := getExp s e
      if x.owner ≠ s.core.num then trap 0x10 (exTval 1 xa)
      else if x.st = .joined ∨ x.st = .updating then trap 0x10 (exTval 4 xa)
      else
        let t := if x.st = .live then setExp s e { x with st := .joining } else s
        let m := settleMarks t
        if !allCopies t e (fun c => c.st == .joining) || !quiet (getExp t e) then .error (.wait t .update)
        -- its completion is a release at .device: the owner's earlier stores are acknowledged
        else if !(releaseIds m .device).isEmpty then .error (.wait m .update)
        else joinFinish t d e xb)

/-- EXJOIN (R385). -/
def execExjoin (d a b : Reg) (s : State) : Host.Outcome State Fault Refusal := finish s (exjoinEff s d (s.x a) (s.x b))

/-! ### EXUPD (R379, R386) -/

/-- Fills of an entry stop where they are. -/
def stopFills (s : State) (e : Nat) : State :=
  let mine (x : Xfer) : Bool := match x.forWhom with
    | .fill f _ => f == e && !x.over
    | _ => false
  (s.un.xfers.filter (fun p => mine p.2)).foldl (fun t p =>
    let u := dropOwned t (p.1 / 64) (p.1 % 64)
    { putXfer u (p.1 / 64) (p.1 % 64) { p.2 with st := .stopped, endSeq := u.nextId } with nextId := u.nextId + 1 }) s

/-- The replicas an update publishes to, in ascending CSEQ. -/
def publishTo (x : Expert) : List Nat :=
  sortBy (fun a b => (x.rep a).upTo (x.rep b))
    (repsWhere x (fun r => r.st == .serving || r.st == .filling))

/-- Every copy of an update starts; none while an engine has no free slot. -/
def publish (s : State) (e : Nat) (src : W64) : Option State :=
  let x := getExp s e
  let t := (publishTo x).foldl (fun t k => t.bind (fun u =>
    repCopy u x (x.rep k) (.publish e k) src (x.rep k).wbuf x.wlen)) (some (stopFills s e))
  t.map (fun u => setExp u e { x with
    pub := true, reps := x.reps.map (fun r => if r.st = .serving ∨ r.st = .filling then { r with job := 1 } else r) })

/-- Every line of a range is checked for a load of the core. -/
def checkFrom (s : State) (a : W64) : Nat → Except Stop State
  | 0 => .ok s
  | n + 1 => match resolve s a .load with
    | .error e => .error e
    | .ok (t, _, _) => checkFrom t (leaAdd a 64) n

/-- The stages of an update after its release. A copy that stopped counts as acknowledged (DESIGN CHOICE, log 18). -/
def updStages (s : State) (d : Reg) (e : Nat) (xb : W64) : Eff :=
  let x := getExp s e
  let t := if x.st = .live ∨ x.st = .joined then setExp s e { x with st := .updating } else s
  let y := getExp t e
  if !allCopies t e (fun c => c.st == .updating) || !quiet y then .error (.wait t .update)
  else if !y.pub then (match publish t e xb with
    | none => .error (.wait t .update)
    | some u => .error (.wait u .update))
  else if y.reps.any (fun r => r.job == 1) then .error (.wait t .update)
  else
    let z := { y with
      ws := y.ws + 1, st := .live, pub := false
      reps := y.reps.map (fun r => { r with st := if r.st = .filling then .serving else r.st, job := 0 }) }
    .ok (setXI (stepRelease (setExp t e z) (dieOf s.core.pos)) d (z.ws.zeroExtend 64) 12)

/-- EXUPD first acts as FENCE.rel at .device; a wait it is in has that behind it. -/
def updRelease (s : State) : Eff :=
  match s.core.wait with
  | some ⟨_, .update⟩ => .ok s
  | _ => match fenceHead s with
    | .error e => .error e
    | .ok t => keepPaired t (relNow t .device)

def exupdEff (s : State) (d : Reg) (xa xb : W64) : Eff :=
  match routedEff s d with
  | some r => r
  | none => match updRelease s with
    | .error e => .error e
    | .ok t =>
      if fld xb 5 0 ≠ 0 then trap 0x03 xb
      else onOwned t d xa (fun e =>
        let x := getExp t e
        if x.owner ≠ t.core.num then trap 0x10 (exTval 1 xa)
        else if x.st = .joining then trap 0x10 (exTval 4 xa)
        else match checkFrom t xb (x.wlen / 64) with
          | .error z => .error z
          | .ok u => updStages u d e xb)

/-- EXUPD (R386). -/
def execExupd (d a b : Reg) (s : State) : Host.Outcome State Fault Refusal := finish s (exupdEff s d (s.x a) (s.x b))

/-! ### HSIFT (R388) -/

/-- The order of FP32 scores that are not NaN: −0 below +0. -/
def scoreKey (c : Nat) : Int := if c < 2 ^ 31 then (c : Int) else - ((c - 2 ^ 31 : Nat) : Int) - 1

/-- One entry is below another. -/
def heapLt (e f : Nat) : Bool :=
  let a := e / 2 ^ 32 % 2 ^ 32
  let b := f / 2 ^ 32 % 2 ^ 32
  !(dec .f32 a 0).isNaN && !(dec .f32 b 0).isNaN &&
    (decide (scoreKey a < scoreKey b) || (a == b && decide (f % 2 ^ 32 < e % 2 ^ 32)))

def swapAt (l : List Nat) (i j : Nat) : List Nat := (l.set i (l.getD j 0)).set j (l.getD i 0)

/-- The entry at place `i` rises while it is below its parent; the levels moved are counted. -/
def siftUp : Nat → List Nat → Nat → Nat → List Nat × Nat
  | 0, l, _, n => (l, n)
  | f + 1, l, i, n =>
    if i = 0 ∨ !heapLt (l.getD i 0) (l.getD ((i - 1) / 2) 0) then (l, n)
    else siftUp f (swapAt l i ((i - 1) / 2)) ((i - 1) / 2) (n + 1)

/-- The entry at place `i` falls while the lesser child is below it, the left one on a tie. -/
def siftDown : Nat → List Nat → Nat → Nat → List Nat × Nat
  | 0, l, _, n => (l, n)
  | f + 1, l, i, n =>
    let a := 2 * i + 1
    if l.length ≤ a then (l, n)
    else
      let c := if a + 1 < l.length ∧ heapLt (l.getD (a + 1) 0) (l.getD a 0) then a + 1 else a
      if heapLt (l.getD c 0) (l.getD i 0) then siftDown f (swapAt l c i) c (n + 1) else (l, n)

/-- The new heap, whether it changed, and the levels moved. -/
def heapPut (l : List Nat) (k new : Nat) : List Nat × Bool × Nat :=
  if l.length < k then
    let p := siftUp 8 (l ++ [new]) l.length 0
    (p.1, true, p.2)
  else if heapLt (l.getD 0 0) new then
    let p := siftDown 8 (l.set 0 new) 0 0
    (p.1, true, p.2)
  else (l, false, 0)

def hsiftEff (s : State) (d : Reg) (xa xb : W64) : Eff :=
  let off := fld xa 15 0
  let here := BitVec.ofNat 64 (localKey s.core.num off)
  if fld xa 2 0 ≠ 0 then trap 0x03 xa
  else if xa ≠ here then trap 0x04 xa
  else match loadWord s xa with
    | .error e => .error e
    | .ok (t, w) =>
      let n := fld w 3 0
      let k := fld w 7 4
      if k = 0 ∨ 8 < k ∨ k < n ∨ fld w 63 8 ≠ 0 ∨ 0x10000 < off + 8 + 8 * k then trap 0x04 xa
      else if (dec .f32 (fld xb 63 32) 0).isNaN then .ok (setXI (raise t fNV) d 0 4)
      else match loadWords t (xa + 8) n with
        | .error e => .error e
        | .ok (u, l) =>
          let p := heapPut (l.map (·.toNat)) k xb.toNat
          if !p.2.1 then .ok (setXI u d 0 4)
          else
            let words := (k * 16 + p.1.length) :: p.1
            let m := settleMarks u
            if held m then waitPlain m
            else
              let cells := cellsAt xa.toNat (words.flatMap (fun v => bytesOf v 8))
              .ok (setXI (noteCounter (rawWrite m cells) (ctxNum m.core) (.loc m.core.num) cells) d 1 (min 10 (4 + 2 * p.2.2)))

/-- HSIFT (R388). -/
def execHsift (d a b : Reg) (s : State) : Host.Outcome State Fault Refusal := finish s (hsiftEff s d (s.x a) (s.x b))

end Sys2Proof.Machine
end

