-- ==== Sys2Proof/Machine/Group.lean ====
section
/-! DEFINITION. Groups and checked pairs: GMAKE, GDROP, GINFO, PAIR and UNPAIR (12_group R296 to R307). -/
namespace Sys2Proof.Machine

/-! ### GMAKE (R296, R303) -/

/-- The lowest free group number (R296). -/
def groupFree (s : State) : Option Nat := firstNat (fun g => (tget s.un.groups g).isNone) 4096

/-- COUNT of a kind (R296). -/
def groupCountOk (kind n : Nat) : Bool :=
  match kind with
  | 0 => decide (2 ≤ n) && decide (n ≤ 8)
  | 1 => decide (1 ≤ n) && decide (n ≤ 256)
  | 2 => decide (2 ≤ n) && decide (n ≤ 64)
  | _ => false

/-- The placement limit of a kind. -/
def placedOk (s : State) (kind : Nat) (l : List Nat) : Bool :=
  let pos (n : Nat) : Nat := (getCore s n).pos
  match kind with
  | 0 => l.all (fun n => decide (n < nCores)) && l.all (fun n => clusterOf (pos n) == clusterOf (pos (l.headD 0)))
  | 2 => l.all (fun n => decide (n < nCores)) && l.all (fun n => dieOf (pos n) == dieOf (pos (l.headD 0))) &&
      l.all (fun n => (stealGroup s (ctxNum s.core) n).isNone)
  | _ => true

/-- Consecutive 4-byte loads (R157). -/
def loadNames (s : State) (ea : W64) : Nat → Except Stop (State × List Nat)
  | 0 => .ok (s, [])
  | k + 1 => match loadCore s ea 4 with
    | .error e => .error e
    | .ok (t, p, l, c) => match loadNames (noteReply t p c) (leaAdd ea 4) k with
      | .error e => .error e
      | .ok (u, r) => .ok (u, ofBytes l :: r)

def gmakeEff (s : State) (d : Reg) (xa xb : W64) : Eff :=
  let kind := fld xa 3 0
  let n := fld xa 16 8
  if fld xa 7 4 ≠ 0 ∨ fld xa 63 17 ≠ 0 ∨ !groupCountOk kind n then trap 0x04 xa
  else if fld xb 1 0 ≠ 0 then trap 0x03 xb
  else match loadNames s xb n with
    | .error e => .error e
    | .ok (t, l) =>
      if l.dedup.length ≠ l.length ∨ noCtx t.core ∨ !l.all (inRange t (curCtx t.core)) ∨ !placedOk t kind l then
        trap 0x04 xb
      else match groupFree t with
        | none => .ok (setXI t d (BitVec.allOnes 64) 12)
        | some g => .ok (setXI (t.mapUn (fun u => { u with
            groups := tput u.groups g ⟨kind, ctxNum t.core, true, l⟩ })) d (BitVec.ofNat 64 g) 12)

/-- GMAKE (R303). -/
def execGmake (d a b : Reg) (s : State) : Host.Outcome State Fault Refusal := finish s (gmakeEff s d (s.x a) (s.x b))

/-! ### GDROP, GINFO (R304, R305) -/

def gdropEff (s : State) (xa : W64) : Eff :=
  match tget s.un.groups (fld xa 11 0) with
  | some g =>
    if fld xa 63 12 = 0 ∧ g.live ∧ g.kind ≤ 2 ∧ g.ctx = ctxNum s.core then
      .ok (s.mapUn (fun u => { u with groups := tdel u.groups (fld xa 11 0) }))
    else trap 0x04 xa
  | none => trap 0x04 xa

/-- GDROP (R304). -/
def execGdrop (a : Reg) (s : State) : Host.Outcome State Fault Refusal := finish s (gdropEff s (s.x a))

def groupWord (g : Group) : W64 :=
  BitVec.ofNat 64 (b2n g.live * 2 ^ 63 + b2n (!g.live) * 2 ^ 62 + g.kind * 2 ^ 40 + g.ctx % 256 * 2 ^ 32 + g.members.length)

def ginfoEff (s : State) (d : Reg) (xa xb : W64) : Eff :=
  if fld xa 63 12 ≠ 0 then trap 0x04 xa
  else
    let g : Option Group := match tget s.un.groups xa.toNat with
      | some g => if g.ctx = ctxNum s.core then some g else none
      | none => none
    .ok (setXI s d (match g with
      | none => 0
      | some g =>
        if xb = 0 then groupWord g
        else match g.members[xb.toNat - 1]? with
          | some m => BitVec.ofNat 64 m
          | none => BitVec.allOnes 64) 12)

/-- GINFO (R305). -/
def execGinfo (d a b : Reg) (s : State) : Host.Outcome State Fault Refusal := finish s (ginfoEff s d (s.x a) (s.x b))

/-! ### PAIR, UNPAIR (R298, R306, R307) -/

/-- Whether a core of a context is paired already. -/
def isPaired (s : State) (ctx n : Nat) : Bool := (pairIn s ctx n).isSome

/-- The forming entry of a context in which a core waits for a partner (R296, R298). -/
def formingOf (s : State) (ctx first second : Nat) : Option Nat :=
  (s.un.groups.find? (fun g => g.2.kind == 3 && !g.2.live && g.2.ctx == ctx && g.2.members == [first, second])).map (·.1)

/-- The pair is live: both PAIRs complete, and the comparison counts from here. -/
def pairForm (s : State) (g n m ctx : Nat) : State :=
  let t := s.mapUn (fun u => { u with groups := tput u.groups g ⟨3, ctx, true, [m, n]⟩, pairs := tput u.pairs g PairSt.fresh })
  let t := modCore t m (fun c => { c with retired := 0, wait := c.wait.map (fun w => ⟨w.since, .paired g⟩) })
  modCore t n (fun c => { c with retired := 0 })

def pairEff (s : State) (d : Reg) (xa : W64) : Eff :=
  let n := s.core.num
  let m := xa.toNat
  match s.core.wait with
  | some ⟨_, .paired g⟩ => .ok (setXI s d (BitVec.ofNat 64 g) 12)
  | _ =>
    if noCtx s.core ∨ !inRange s (curCtx s.core) m ∨ nCores ≤ m ∨ (getCore s m).pos ≠ s.core.pos ^^^ 1 ∨
        isPaired s (curCtx s.core) n ∨ isPaired s (curCtx s.core) m then trap 0x04 xa
    else match s.core.wait with
      | some ⟨_, .pair g⟩ => .error (.wait s (.pair g))
      | _ => match formingOf s (ctxNum s.core) m n with
        | some g => .ok (setXI (pairForm s g n m (ctxNum s.core)) d (BitVec.ofNat 64 g) 12)
        | none => match groupFree s with
          | none => .ok (setXI s d (BitVec.allOnes 64) 12)
          | some g =>
            .error (.wait (s.mapUn (fun u => { u with groups := tput u.groups g ⟨3, ctxNum s.core, false, [n, m]⟩ })) (.pair g))

/-- PAIR (R306). -/
def execPair (d a : Reg) (s : State) : Host.Outcome State Fault Refusal := finish s (pairEff s d (s.x a))

/-- UNPAIR: a release point; the second member to reach it frees the entry. -/
def unpairEff (s : State) : Eff :=
  match s.core.wait with
  | some ⟨_, .paired _⟩ => .ok s
  | _ => match pairOf s s.core.num with
    | none => trap 0x04 0
    | some (g, _) =>
      match partnerOf s s.core.num with
      | none => waitPlain s
      | some _ => match pairPointAs (landAll s) (2 ^ 20) with
        | .error e => .error e
        | .ok t => .ok (t.mapUn (fun u => { u with groups := tdel u.groups g, pairs := tdel u.pairs g }))

/-- UNPAIR (R307). -/
def execUnpair (s : State) : Host.Outcome State Fault Refusal := finish s (unpairEff s)

end Sys2Proof.Machine
end

