-- ==== Sys2Proof/Machine/Kernel.lean ====
section
/-! DEFINITION. Kernels: submission and admission, graph nodes, kernel slots and wakes, layers and weight switches, FORK,
JOIN, YIELD, KLAUNCH, KWAIT and stealing (11_kernel R278 to R295). -/
namespace Sys2Proof.Machine

/-! ### Graphs and nodes (R279 to R282) -/

def Node.fresh : Node := { st := .pending, hdr := 0, waits := 0, readyAt := 0, iter := 0, limit := none, job := 0, body := 0 }

def getGraph (s : State) (g : Nat) : Option Graph := tget s.un.graphs g
def putGraph (s : State) (g : Nat) (x : Graph) : State := s.mapUn (fun u => { u with graphs := tput u.graphs g x })
def Graph.node (x : Graph) (i : Nat) : Node := tgetD x.nodes i Node.fresh
def Graph.putNode (x : Graph) (i : Nat) (n : Node) : Graph := { x with nodes := tput x.nodes i n }

/-- KIND, NSUCC, WAITS, ALT and LAYER of a header (R280). -/
def Node.kind (n : Node) : Nat := fld n.hdr 3 0
def Node.nsucc (n : Node) : Nat := fld n.hdr 15 8
def Node.waits0 (n : Node) : Nat := fld n.hdr 31 16
def Node.succ (n : Node) (k : Nat) : Nat := fld n.hdr (47 + 16 * k) (32 + 16 * k)
def Node.succs (n : Node) : List Nat := (List.range n.nsucc).map n.succ
def Node.alt (n : Node) : Nat := fld n.hdr 95 80
def Node.layer (n : Node) : Nat := fld n.hdr 111 96

/-- The 64-bit word of a body at node offset 0x10 + 8k (R281). -/
def Node.word (n : Node) (k : Nat) : W64 := blkWord n.body k

/-- A malformed header among `nodes` nodes, at index `i` (R280 to R282). -/
def headerBad (n : Node) (nodes i : Nat) : Bool :=
  let k := n.kind
  fld n.hdr 7 4 != 0 || decide (7 < k) || fld n.hdr 127 112 != 0 || decide (3 < n.nsucc) ||
  n.succs.any (fun t => decide (nodes ≤ t)) ||
  (n.alt != 0xFFFF && ((k != 2 && k != 3) || decide (nodes ≤ n.alt))) ||
  (k == 3 && (n.nsucc == 0 || decide (i ≤ n.succ 0)))

/-- A malformed LAYER (R280). -/
def layerBad (n : Node) : Bool :=
  (n.kind == 0 && decide (1023 < n.layer) && n.layer != 0xFFFF) || (n.kind == 7 && decide (1023 < n.layer)) ||
    (n.kind != 0 && n.kind != 7 && n.layer != 0xFFFF)

/-- FIRST, COUNT, DOMAIN, MODE and ARGS of a kernel body. -/
def Node.kFirst (n : Node) : Nat := fld (n.word 0) 56 32
def Node.kCount (n : Node) : Nat := fld (n.word 1) 24 0

/-- The copy block of a copy node, its completion mode ignored. -/
def Node.block (n : Node) : BitVec 384 := n.body &&& ~~~ (BitVec.ofNat 384 (0x300 * 2 ^ 192))

/-- A malformed body (R281, R282); that of a copy node is judged as a copy block (DEDUCED, log 16). -/
def bodyBad (s : State) (ctx : Nat) (n : Node) : Bool :=
  let zero (k : Nat) (mask : W64) : Bool := (n.word k &&& mask) == 0
  let rest (k : Nat) : Bool := (List.range (6 - k)).all (fun j => zero (k + j) (ones 63 0))
  match n.kind with
  | 0 =>
    !(zero 0 (ones 31 31 ||| ones 63 57) && zero 1 (ones 31 25 ||| ones 63 37 ||| ones 35 34) && rest 3) ||
      n.kCount == 0 || !(inRange s ctx n.kFirst && inRange s ctx (n.kFirst + n.kCount - 1))
  | 1 => blockBad 0 n.block 0
  | 2 => !zero 2 (~~~ 0x107#64) || decide (5 < fld (n.word 2) 2 0) || !rest 3
  | 3 => !zero 2 (ones 31 0 &&& ~~~ 0x107#64) || decide (5 < fld (n.word 2) 2 0) || !rest 3
  | 4 => !zero 2 (ones 31 0 &&& ~~~ 0x107#64) || decide (5 < fld (n.word 2) 2 0) || !rest 3
  | 7 => !zero 0 (ones 63 32) || !rest 2
  | _ => !rest 2

/-- A command processor reads memory of a context, as an acquire (R281, R283). -/
def cpRead (s : State) (cp ctx : Nat) (a : W64) (n : Nat) : EngRead :=
  engReads (raiseFloor s cp (chipClock s)) (cp * 32) ctx (ctxAsid s ctx) a n

/-! ### The end of a graph (R279, R283) -/

def Node.busy (n : Node) : Bool := n.st == .ready || n.st == .held || n.st == .running

/-- The graph ends with a code charged to a node: the charged node and a wait node that waits run no more. -/
def endGraph (s : State) (g code i : Nat) : State :=
  match getGraph s g with
  | none => s
  | some x =>
    if x.ended.isSome then s
    else putGraph s g { x with
      ended := some (code, i)
      nodes := x.nodes.map (fun p =>
        if (p.1 == i && code != 0 && code != 5) || (p.2.st == .running && p.2.kind == 4) then (p.1, { p.2 with st := .done }) else p) }

/-- A graph with nothing ready, held or running ends with code 0. -/
def tidyGraph (s : State) (g : Nat) : State :=
  match getGraph s g with
  | none => s
  | some x => if x.nodes.any (fun p => p.2.busy) then s else endGraph s g 0 0

/-- The status word. -/
def graphWord (code i : Nat) : W64 :=
  BitVec.ofNat 64 (code + (if code = 0 ∨ code = 5 ∨ code = 7 then 0 else i % 65536 * 65536))

/-- GRAPH_END (R279): the status word is written once no node runs, or the monitor is told. -/
def graphEnd (s : State) (g : Nat) : State :=
  match getGraph s g with
  | none => s
  | some x => match x.ended with
    | none => s
    | some (code, i) =>
      if x.nodes.any (fun p => p.2.st == .running) then s
      else
        let t := s.mapUn (fun u => { u with graphs := tdel u.graphs g })
        if x.alone then t
        else
          let tell (u : State) : State :=
            sendNotice u (noticeCore u x.cp) (mkNotice 10 x.ctx (code + i % 65536 * 256) x.status)
          if x.status.toNat % 8 ≠ 0 then tell t
          else match engPut (unitRelease t x.cp) (x.cp * 32) x.ctx (ctxAsid t x.ctx) x.status
              (bytesOf (graphWord code i).toNat 8) with
            | .done u => u
            | .waits u => keepAsked s u
            | .fails _ => tell t
            | .violates => tell (tellViolation t x.ctx x.cp 1 (2048 + x.cp))

/-- GRAPH_END: graph a. -/
def execGraphEnd (s : State) : Host.Outcome State Fault Refusal := .next (graphEnd s s.arg.a)

/-! ### Successors (R281, R283) -/

/-- One WAITS count is decremented by node `src`; a loop node is made ready again by its body. -/
def decNode (now src : Nat) (x : Graph) (t : Nat) : Graph :=
  match tget x.nodes t with
  | none => x
  | some n =>
    let up (m : Node) : Graph := x.putNode t { m with st := .ready, readyAt := now }
    if n.kind = 3 ∧ n.succ 0 ≤ src ∧ src < t then
      (if n.st = .ready ∨ n.st = .running then x else up n)
    else
      let m := { n with waits := n.waits - 1 }
      if n.waits = 1 ∧ (n.st = .pending ∨ n.st = .done) then up m else x.putNode t m

/-- A node has completed, and decrements the nodes it names: a release at .device. -/
def finNode (s : State) (g i : Nat) (targets : List Nat) : State :=
  match getGraph s g with
  | none => s
  | some x =>
    let n := x.node i
    let y := x.putNode i { n with st := .done }
    let y := if n.kind = 0 ∧ n.layer ≠ 0xFFFF then { y with doneTop := max y.doneTop (n.layer + 1) } else y
    let t := unitRelease s x.cp
    if x.ended.isSome then putGraph t g y
    else tidyGraph (putGraph t g (targets.foldl (decNode s.cycle i) y)) g

/-! ### Admission (R278, R279) -/

/-- A submission entry that a command processor may examine. -/
structure Entry where
  ctx : Nat
  index : BitVec 32
  rung : Nat
  line : Nat
  deriving DecidableEq, Repr

def Entry.graph (e : Entry) : W64 := BitVec.ofNat 64 e.line
def Entry.nodes (e : Entry) : Nat := e.line / 2 ^ 64 % 2 ^ 16
def Entry.prio (e : Entry) : Nat := e.line / 2 ^ 80 % 64
def Entry.batch (e : Entry) : BitVec 32 := BitVec.ofNat 32 (e.line / 2 ^ 96)
def Entry.status (e : Entry) : W64 := BitVec.ofNat 64 (e.line / 2 ^ 128)
def Entry.bad (e : Entry) : Bool :=
  e.graph.toNat % 64 != 0 || e.nodes == 0 || decide (4096 < e.nodes) || e.line / 2 ^ 86 % 2 ^ 10 != 0 ||
    e.line / 2 ^ 192 != 0

/-- A switch in progress that keeps a batch of a context from admission (R288 step 1). -/
def switchBars (s : State) (ctx : Nat) (batch : BitVec 32) : Bool :=
  s.un.graphs.any (fun p => p.2.ctx == ctx && p.2.nodes.any (fun q =>
    q.2.kind == 7 && q.2.st == .running && serialLt batch (BitVec.ofNat 32 (q.2.word 0).toNat)))

/-- A submission queue as its context's last doorbell gave it (R278): context, address and header. -/
structure Subq where
  ctx : Nat
  addr : Nat
  head : QHead
  deriving DecidableEq, Repr

/-- The first entry, from the `k`-th on, of the first 16 of a queue that are not taken and that a doorbell covers, each read
in turn; an entry whose page is absent is not seen. The read that waits ends the search with what it has asked for. -/
def entriesGo (cp : Nat) (q : Subq) : List Nat → State → Except State (State × List Entry)
  | [], s => .ok (s, [])
  | k :: r, s =>
    let i := q.head.head + BitVec.ofNat 32 k
    match s.un.doorbells.find? (fun b => b.ctx == q.ctx && b.tail.any (fun t => serialLt i t)) with
    | none => entriesGo cp q r s
    | some b =>
      if (tgetD s.un.taken q.ctx []).contains i.toNat then entriesGo cp q r s
      else match vaRead s (cp * 32) q.ctx (qEntry q.addr q.head i) 64 with
        | .error (.waits t) => .error (keepAsked s t)
        | .error (.absent _) => entriesGo cp q r s
        | .error (.done _) => entriesGo cp q r s
        | .error (.broke _) => entriesGo cp q r s
        | .ok (t, l) => match entriesGo cp q r t with
          | .error u => .error u
          | .ok (u, es) => .ok (u, ⟨q.ctx, i, b.at_, ofBytes l⟩ :: es)

/-- The entries among the first 16 of a queue that may be admitted, with the doorbell that covers each (R279). -/
def entriesOf (s : State) (cp : Nat) (q : Subq) : Except State (State × List Entry) :=
  entriesGo cp q (List.range (min 16 q.head.count)) s

/-- The last doorbell of a context: it latched where the queue lies and which command processor serves it (R278). -/
def lastBell (s : State) (ctx : Nat) : Option Bell := s.un.doorbells.reverse.find? (fun b => b.ctx == ctx)

/-- The last doorbells of the contexts that a command processor serves. -/
def rungBells (s : State) (cp : Nat) : List Bell :=
  ((s.un.doorbells.map (·.ctx)).dedup).filterMap (fun c => (lastBell s c).filter (fun b => ctxLife s c == 1 && b.cp == cp))

/-- A queue that is malformed becomes broken (R264). -/
def breakSubq (s : State) (cp ctx va : Nat) (h : QHead) : State :=
  match vaWrite s (cp * 32) ctx va (QHead.bytes { h with state := 3 }) with
  | .ok t => sendNotice t (noticeCore t cp) (mkNotice 9 ctx va (BitVec.ofNat 64 va))
  | .error (.waits t) => keepAsked s t
  | .error (.absent _) => s
  | .error (.done _) => s
  | .error (.broke _) => s

/-- The headers of the queues of a command processor: those that can be read, with the malformed ones broken; a read that
waits ends the search. -/
def subqHeads (cp : Nat) : List Bell → State → Except State (State × List Subq)
  | [], s => .ok (s, [])
  | b :: r, s => match vaRead s (cp * 32) b.ctx b.addr 64 with
    | .error (.waits t) => .error (keepAsked s t)
    | .error (.absent _) => subqHeads cp r s
    | .error (.done _) => subqHeads cp r s
    | .error (.broke _) => subqHeads cp r s
    | .ok (t, l) =>
      let h := qHeadOf l
      if h.broken then subqHeads cp r t
      else if h.bad then subqHeads cp r (breakSubq t cp b.ctx b.addr h)
      else match subqHeads cp r t with
        | .error u => .error u
        | .ok (u, qs) => .ok (u, ⟨b.ctx, b.addr, h⟩ :: qs)

/-- Highest PRIO, then the earliest doorbell, then the lower context, then the earlier entry (R279). -/
def entryFirst (a b : Entry) : Bool :=
  decide (b.prio < a.prio) || (a.prio == b.prio && (decide (a.rung < b.rung) || (a.rung == b.rung &&
    (decide (a.ctx < b.ctx) || (a.ctx == b.ctx && serialLt a.index b.index)))))

/-- The entries at the head of a queue that are taken leave it. -/
def headPast (taken : List Nat) : Nat → BitVec 32 → BitVec 32
  | 0, h => h
  | n + 1, h => if taken.contains h.toNat then headPast taken n (h + 1) else h

/-- An entry is marked taken, HEAD advances, and doorbells that cover nothing any more are gone. -/
def takeEntry (s : State) (cp : Nat) (q : Subq) (e : Entry) : Except State State :=
  let h := q.head
  let taken := tgetD s.un.taken e.ctx [] ++ [e.index.toNat]
  let head := headPast taken h.count h.head
  let left := taken.filter (fun k => !serialLt (BitVec.ofNat 32 k) head)
  let h' := { h with head := head, state := if head = h.tail then 0 else 1 }
  let noted (t : State) : State := t.mapUn (fun u => { u with
    taken := tput u.taken e.ctx left
    doorbells := u.doorbells.filter (fun b => b.ctx != e.ctx || b.tail.all (fun x => serialLt head x)) })
  if head = h.head then .ok (noted s)
  else match vaWrite s (cp * 32) e.ctx q.addr h'.bytes with
    | .ok t => .ok (noted t)
    | .error (.waits t) => .error (keepAsked s t)
    | .error (.absent _) => .ok (noted s)
    | .error (.done _) => .ok (noted s)
    | .error (.broke _) => .ok (noted s)

/-- The headers of nodes from `i` on, `n` of them, or the first that cannot be read (R280); a read that waits ends the
work with what it has asked for. -/
def readHeaders (cp ctx : Nat) (a : W64) : Nat → Nat → State → Except State (State × List (BitVec 128) × Option Nat)
  | 0, _, s => .ok (s, [], none)
  | n + 1, i, s => match cpRead s cp ctx (a + BitVec.ofNat 64 (64 * i)) 16 with
    | .waits t => .error (keepAsked s t)
    | .got t l false => (match readHeaders cp ctx a n (i + 1) t with
      | .error u => .error u
      | .ok (u, hs, bad) => .ok (u, BitVec.ofNat 128 (ofBytes l) :: hs, bad))
    | .got _ _ true => .ok (s, [], some i)
    | .fails _ => .ok (s, [], some i)
    | .violates => .ok (s, [], some i)

/-- A graph is admitted: its entry and headers are checked, and the nodes that wait for nothing are ready. -/
def openGraph (s : State) (cp : Nat) (e : Entry) : Except State State :=
  let g := s.nextId
  let x : Graph :=
    { ctx := e.ctx, cp := cp, prio := e.prio, batch := e.batch, addr := e.graph, status := e.status, nodes := []
      ended := none, top := 0, doneTop := 0, alone := false }
  let s := { s with nextId := s.nextId + 1 }
  if e.bad then .ok (putGraph s g { x with ended := some (7, 0) })
  else
    match readHeaders cp e.ctx e.graph e.nodes 0 s with
    | .error t => .error t
    | .ok (t, _, some i) => .ok (putGraph t g { x with ended := some (6, i) })
    | .ok (t, l, none) =>
      let nodes := (l.zipIdx).map (fun p =>
        let n : Node := { Node.fresh with hdr := p.1 }
        (p.2, { n with waits := n.waits0, st := if n.waits0 = 0 then .ready else .pending, readyAt := s.cycle }))
      match nodes.find? (fun p => headerBad p.2 e.nodes p.1 || layerBad p.2) with
      | some p => .ok (putGraph t g { x with ended := some (3, p.1) })
      | none => .ok (tidyGraph (putGraph t g { x with nodes := nodes }) g)

/-- Graphs a command processor has admitted that have not ended. -/
def admitted (s : State) (cp : Nat) : Nat :=
  (s.un.graphs.filter (fun p => p.2.cp == cp && !p.2.alone && p.2.ended.isNone)).length

/-- The entries of several queues that may be admitted. -/
def allEntries (cp : Nat) : List Subq → State → Except State (State × List Entry)
  | [], s => .ok (s, [])
  | q :: r, s => match entriesOf s cp q with
    | .error t => .error t
    | .ok (t, es) => match allEntries cp r t with
      | .error u => .error u
      | .ok (u, fs) => .ok (u, es ++ fs)

/-- GRAPH_ADMISSION (R279): one entry of the queues of a command processor, once everything it has to read has answered. -/
def graphAdmission (s : State) (cp : Nat) : State :=
  if 64 ≤ admitted s cp then s
  else
    let s0 := readBells s cp
    match subqHeads cp (rungBells s0 cp) s0 with
    | .error t => keepAsked s0 t
    | .ok (s1, qs) => match allEntries cp qs s1 with
      | .error t => keepAsked s1 t
      | .ok (s2, es) => match bestBy entryFirst (es.filter (fun e => !switchBars s2 e.ctx e.batch)) with
        | none => s2
        | some e => match qs.find? (fun q => q.ctx == e.ctx) with
          | none => s2
          | some q => match takeEntry s2 cp q e with
            | .error t => keepAsked s2 t
            | .ok s3 => match openGraph s3 cp e with
              | .error t => keepAsked s2 t
              | .ok t => t

/-- GRAPH_ADMISSION: command processor a. -/
def execGraphAdmission (s : State) : Host.Outcome State Fault Refusal := .next (graphAdmission s s.arg.a)

/-! ### Kernels (R284 to R286) -/

/-- A slot that holds no live kernel: the lowest never used, then the one that completed least recently (log 9). -/
def kerSlot (s : State) : Option Nat :=
  match firstNat (fun k => (getKer s k).gen == 0) 256 with
  | some k => some k
  | none => bestBy (fun a b => decide ((getKer s a).ended < (getKer s b).ended))
      ((List.range 256).filter (fun k => (getKer s k).st == .complete))

def kerHandle (k : Nat) (x : Kernel) : BitVec 32 := BitVec.ofNat 32 (x.gen * 256 + k)

/-- A slot is taken by the kernel of a node. -/
def kerTake (s : State) (k g i cp : Nat) (x : Graph) (n : Node) (layer : Nat) : State :=
  putKer s k
    { gen := nextGen (getKer s k).gen 24, st := .ready, ctx := x.ctx, entry := BitVec.ofNat 32 (fld (n.word 0) 31 0)
      first := n.kFirst, count := n.kCount, domain := fld (n.word 1) 33 32, mode := fld (n.word 1) 36 36 == 1
      args := n.word 2, layer := layer, prio := x.prio, batch := x.batch, live := 0, status := 0, wakes := 0
      graph := some (g, i), ended := 0, cp := cp }

/-- The wake of one core (R285). -/
def wakeMsg (s : State) (die : Nat) (h : BitVec 32) (x : Kernel) : Msg :=
  { unitMessage s (.cp die) die 3 x.entry 0 (x.args.toNat + h.toNat * 2 ^ 64) (.wake h) with clock := chipClock s }

/-- The die whose command processor sends a core its wake; a peer chip's wakes leave from the die that starts the
kernel. -/
def wakeDie (s : State) (cp n : Nat) : Nat := if n < nCores then dieOf (getCore s n).pos else cp

/-- The wake flood: every core of the range is sent one message; LIVE becomes COUNT (R284, R285). -/
def kerFlood (s : State) (k : Nat) : State :=
  let x := getKer s k
  let h := kerHandle k x
  let s := putKer s k { x with st := .waking, live := x.count, wakes := x.count }
  (List.range x.count).foldl (fun t j =>
    let n := x.first + j
    unitSend t (.cp (wakeDie t x.cp n)) x.ctx (wakeDie t x.cp n) n (wakeMsg t (wakeDie t x.cp n) h x)) s

/-- KERNEL_RUNNING (R284): every wake has been delivered or dropped. -/
def kernelRunning (s : State) (k : Nat) : State :=
  let x := getKer s k
  if x.st = .waking ∧ x.wakes = 0 then putKer s k { x with st := .running } else s

/-- KERNEL_RUNNING: slot a. -/
def execKernelRunning (s : State) : Host.Outcome State Fault Refusal := .next (kernelRunning s s.arg.a)

/-! ### Starting a node (R281, R283, R288) -/

/-- The first index of launched kernels' nodes, above every index a submission entry may name. -/
def launchedFrom : Nat := 4096

/-- Whether a ready node may be selected: a kernel node needs a free slot unless its launch has taken one. -/
def startable (s : State) (i : Nat) (n : Node) : Bool :=
  n.st == .ready && (n.kind != 0 || decide (launchedFrom ≤ i) || (kerSlot s).isSome)

/-- The ready nodes of a command processor: graph, PRIO, ready time, node. -/
def readyNodes (s : State) (cp : Nat) : List (Nat × Nat × Nat × Nat) :=
  (s.un.graphs.filter (fun p => p.2.cp == cp && p.2.ended.isNone)).flatMap (fun p =>
    (p.2.nodes.filter (fun q => startable s q.1 q.2)).map (fun q => (p.1, p.2.prio, q.2.readyAt, q.1)))

/-- Highest PRIO, then ready earliest, then the lower index (R283). -/
def nodeFirst (a b : Nat × Nat × Nat × Nat) : Bool :=
  decide (b.2.1 < a.2.1) || (a.2.1 == b.2.1 && (decide (a.2.2.1 < b.2.2.1) ||
    (a.2.2.1 == b.2.2.1 && decide (a.2.2.2 < b.2.2.2))))

def setNode (s : State) (g i : Nat) (f : Node → Node) : State :=
  match getGraph s g with
  | none => s
  | some x => putGraph s g (x.putNode i (f (x.node i)))

/-- A kernel node: the layer rule, then its kernel starts (R284, R288). -/
def startKernel (s : State) (g i : Nat) (x : Graph) (n : Node) : State :=
  let lay := n.layer
  let cur := layerCur s x.ctx lay
  if lay ≠ 0xFFFF ∧ lay + 1 < x.top then endGraph s g 4 i
  else if lay ≠ 0xFFFF ∧ serialLt x.batch cur then endGraph s g 2 i
  else if lay ≠ 0xFFFF ∧ x.batch ≠ cur then setNode s g i (fun m => { m with st := .held })
  else
    let go (t : State) (k : Nat) : State :=
      let y := { x with top := if lay = 0xFFFF then x.top else max x.top (lay + 1) }
      kerFlood (putGraph t g (y.putNode i { n with st := .running, job := (kerHandle k (getKer t k)).toNat })) k
    if launchedFrom ≤ i then go s (n.job % 256)
    else match kerSlot s with
      | none => s
      | some k => go (kerTake s k g i x.cp x n lay) k

/-- A copy for a node starts in the engine of cluster 0 of the command processor's die (DESIGN CHOICE, log 17). -/
def nodeCopy (s : State) (g i : Nat) (x : Graph) (b : BitVec 384) : Option State :=
  (xferSlot s (x.cp * 32)).map (fun slot =>
    xferStart s (x.cp * 32) slot { Xfer.fresh with
      st := .running, block := b, forWhom := .node g i, ctx := x.ctx, asid := ctxAsid s x.ctx })

/-- What OP compares (R281). -/
def predHolds (op bits v val : Nat) : Bool :=
  let w := v % 2 ^ bits
  let x := val % 2 ^ bits
  match op with
  | 0 => w == x
  | 1 => w != x
  | 2 => decide (sgnOf bits w < sgnOf bits x)
  | 3 => decide (sgnOf bits x ≤ sgnOf bits w)
  | 4 => decide (w < x)
  | _ => decide (x ≤ w)

/-- How a predicate reads. -/
inductive Pred
  | is (s : State) (b : Bool)
  | faults
  | waits (s : State)
  deriving DecidableEq, Repr

def nodePred (s : State) (x : Graph) (n : Node) : Pred :=
  let bytes := if fld (n.word 2) 8 8 = 1 then 8 else 4
  if (n.word 0).toNat % bytes ≠ 0 then .faults
  else match cpRead s x.cp x.ctx (n.word 0) bytes with
    | .got t l false => .is t (predHolds (fld (n.word 2) 2 0) (8 * bytes) (ofBytes l) (n.word 1).toNat)
    | .waits t => .waits t
    | .got _ _ true => .faults
    | .fails _ => .faults
    | .violates => .faults

/-- A condition node, or a loop node with its body's counts restored (R281). -/
def startBranch (s : State) (g i : Nat) (x : Graph) (n : Node) : State :=
  match nodePred s x n with
  | .waits t => keepAsked s t
  | .faults => endGraph s g 6 i
  | .is t true =>
    if n.kind = 2 then finNode t g i n.succs
    else if fld (n.word 2) 63 32 ≠ 0 ∧ fld (n.word 2) 63 32 ≤ n.iter then
      finNode (setNode t g i (fun m => { m with iter := 0 })) g i [n.alt]
    else
      let y := { x with nodes := x.nodes.map (fun (p : Nat × Node) =>
        if n.succ 0 ≤ p.1 ∧ p.1 < i then (p.1, { p.2 with waits := p.2.waits0, st := .pending }) else p) }
      finNode (putGraph t g (y.putNode i { n with iter := n.iter + 1 })) g i [n.succ 0]
  | .is t false => finNode (setNode t g i (fun m => { m with iter := 0 })) g i [n.alt]

/-- A wait node: it completes at once, or waits with its limit (R281). -/
def startWait (s : State) (g i : Nat) (x : Graph) (n : Node) : State :=
  match nodePred s x n with
  | .waits t => keepAsked s t
  | .faults => endGraph s g 6 i
  | .is t true => finNode t g i n.succs
  | .is t false =>
    let lim := fld (n.word 2) 63 32
    setNode t g i (fun m => { m with st := .running, limit := if lim = 0 then none else some (s.out.time + lim * 1000) })

/-- The lines of a superblock are filled; a fill that fails is dropped, and one that waits holds the node. -/
def prefFill (cp : Nat) (place : Place) : List Nat → State → Except State State
  | [], s => .ok s
  | line :: r, s => match readLine s cp place line with
    | .ok (t, _, _) => prefFill cp place r t
    | .error (.poison _ t) => prefFill cp place r t
    | .error .waits => .error s

/-- The superblocks of a prefetch node (R167, R281). -/
def prefNode (cp ctx : Nat) (a stop : Nat) : Nat → State → Except State State
  | 0, s => .ok s
  | f + 1, s =>
    if stop ≤ a ∨ 2 ^ 62 ≤ a then .ok s
    else match engResolve s (cp * 32) ctx (ctxAsid s ctx) (BitVec.ofNat 64 a) .load with
      | .error (.waits t) => .error (keepAsked s t)
      | .error _ => prefNode cp ctx (a / 256 * 256 + 256) stop f s
      | .ok (t, place, key) =>
        match (if place.cached then prefFill cp place ((List.range 4).map (fun j => lineKeyOf key / 4 * 4 + j)) t else .ok t) with
        | .error u => .error u
        | .ok u => prefNode cp ctx (a / 256 * 256 + 256) stop f u

/-- The pages of a discard node: none when a page is absent, not permitted or on a failed stack; it waits for walks and for
the lines that an engine owns (R169, R281). -/
def dropNode (cp ctx : Nat) (a stop : Nat) : Nat → State → Except State (Option State)
  | 0, s => .ok (some s)
  | f + 1, s =>
    if stop ≤ a then .ok (some s)
    else if 2 ^ 52 ≤ a then .ok none
    else match ctlbLookup s (cp * 32) (ctxAsid s ctx) a with
      | (t, .waits) => .error (keepAsked s t)
      | (_, .absent) => .ok none
      | (t, .hit e) =>
        if !permits e .store false then .ok none
        else
          let next := (a / 2 ^ pageBits e.size + 1) * 2 ^ pageBits e.size
          let k := min stop next - a
          let p := leafPlace e a
          let dead := match p.1 with
            | .hbm _ _ key => stackDead t p.2 || !keyInstalled t key
            | _ => false
          if dead then .ok none
          else if !p.1.paged then dropNode cp ctx (a + k) stop f t
          else if ownsAny t p.2 k then .error (keepAsked s t)
          else dropNode cp ctx (a + k) stop f (dropLines t p.2 k)

/-- A node starts with its body read (R280 to R283). -/
def startNode (s : State) (g i : Nat) (x : Graph) (n : Node) : State :=
  let a := (n.word 0).toNat
  let len := (n.word 1).toNat
  if bodyBad s x.ctx n then endGraph s g 3 i
  else match n.kind with
    | 0 => startKernel s g i x n
    | 1 => match nodeCopy s g i x n.block with
      | none => s
      | some t => setNode t g i (fun _ => { n with st := .running, job := 1 })
    | 2 => startBranch s g i x n
    | 3 => startBranch s g i x n
    | 4 => startWait s g i x n
    | 5 => match prefNode x.cp x.ctx a (a + len) (len / 256 + 2) s with
      | .error t => keepAsked s t
      | .ok t => finNode t g i n.succs
    | 6 => match dropNode x.cp x.ctx a (a + len) (len / 2 ^ 19 + 2) s with
      | .error t => keepAsked s t
      | .ok none => endGraph s g 6 i
      | .ok (some t) => finNode t g i n.succs
    | _ =>
      if serialLt (layerCur s x.ctx n.layer) (BitVec.ofNat 32 (n.word 0).toNat) then
        setNode s g i (fun _ => { n with st := .running, job := 0 })
      else endGraph s g 3 i

/-- NODE_START (R283): the first ready node of a command processor. -/
def nodeStart (s : State) (cp : Nat) : State :=
  match bestBy nodeFirst (readyNodes s cp) with
  | none => s
  | some (g, _, _, i) => match getGraph s g with
    | none => s
    | some x =>
      let n := x.node i
      if launchedFrom ≤ i then startKernel s g i x n
      else match cpRead s x.cp x.ctx (x.addr + BitVec.ofNat 64 (64 * i + 16)) 48 with
        | .waits t => keepAsked s t
        | .got t l false =>
          let m := { n with body := BitVec.ofNat 384 (ofBytes l) }
          startNode (setNode t g i (fun _ => m)) g i (x.putNode i m) m
        | _ => endGraph s g 6 i

/-- NODE_START: command processor a. -/
def execNodeStart (s : State) : Host.Outcome State Fault Refusal := .next (nodeStart s s.arg.a)

/-! ### Completion of nodes (R279, R281, R283, R288) -/

/-- Whether the kernel of a handle is over: complete, or its slot taken by another. -/
def kerOver (s : State) (h : Nat) : Bool :=
  let x := getKer s (h % 256)
  x.gen != h / 256 || x.st == .complete

/-- NODE_COMPLETE: a kernel or copy node that runs has finished its work. -/
def nodeComplete (s : State) (g i : Nat) : State :=
  match getGraph s g with
  | none => s
  | some x =>
    let n := x.node i
    if n.st ≠ .running then s
    else if n.kind = 0 then
      (if kerOver s n.job then finNode s g i (if launchedFrom ≤ i then [] else n.succs) else s)
    else if n.kind = 1 ∧ 2 ^ 32 ≤ n.job then
      (if n.job = 2 ^ 32 then finNode s g i n.succs
       else endGraph (setNode s g i (fun m => { m with st := .done })) g 6 i)
    else s

/-- NODE_COMPLETE: graph a, node b. -/
def execNodeComplete (s : State) : Host.Outcome State Fault Refusal := .next (nodeComplete s s.arg.a s.arg.b)

/-- A wait node that waits is judged again, as its word is watched (R281). -/
def waitSatisfied (s : State) (g i : Nat) : State :=
  match getGraph s g with
  | none => s
  | some x =>
    let n := x.node i
    if n.st ≠ .running ∨ n.kind ≠ 4 then s
    else match nodePred s x n with
      | .is t true => finNode t g i n.succs
      | .faults => endGraph s g 6 i
      | .waits t => keepAsked s t
      | .is _ false => s

/-- WAIT_NODE_SATISFIED (R281): graph a, node b. -/
def execWaitNodeSatisfied (s : State) : Host.Outcome State Fault Refusal := .next (waitSatisfied s s.arg.a s.arg.b)

/-- WAIT_NODE_TIMEOUT (R281): graph a, node b. -/
def waitTimeout (s : State) (g i : Nat) : State :=
  match getGraph s g with
  | none => s
  | some x =>
    let n := x.node i
    if n.st = .running ∧ n.kind = 4 ∧ n.limit.any (fun t => decide (t ≤ s.out.time)) then endGraph s g 1 i else s

def execWaitNodeTimeout (s : State) : Host.Outcome State Fault Refusal := .next (waitTimeout s s.arg.a s.arg.b)

/-! ### Weight switches (R288) -/

/-- A graph has left layer `l`. -/
def leftLayer (x : Graph) (l : Nat) : Bool :=
  x.ended.isSome || (decide (l + 1 < x.doneTop) &&
    !x.nodes.any (fun p => p.2.kind == 0 && p.2.layer == l && p.2.busy))

/-- Every graph of a lower batch, other than the switch's own, has left the layer. -/
def switchFree (s : State) (g : Nat) (x : Graph) (l : Nat) (w : BitVec 32) : Bool :=
  s.un.graphs.all (fun p => p.1 == g || p.2.ctx != x.ctx || !serialLt p.2.batch w || leftLayer p.2 l)

/-- WEIGHT_SWITCH_COPY: the copy at PARAM starts once the layer has been left. A block that cannot be used stops like a
copy that stops. -/
def switchCopy (s : State) (g i : Nat) : State :=
  match getGraph s g with
  | none => s
  | some x =>
    let n := x.node i
    let w := BitVec.ofNat 32 (n.word 0).toNat
    let ends (t : State) (c : Nat) : State := setNode t g i (fun m => { m with job := 2 ^ 32 + c })
    if n.st ≠ .running ∨ n.kind ≠ 7 ∨ n.job ≠ 0 ∨ !switchFree s g x n.layer w then s
    else if n.word 1 = 0 then ends s 0
    else if (n.word 1).toNat % 8 ≠ 0 then ends s 3
    else match cpRead s x.cp x.ctx (n.word 1) 48 with
      | .waits t => keepAsked s t
      | .fails c => ends s c
      | .violates => ends (tellViolation s x.ctx x.cp 1 (2048 + x.cp)) 4
      | .got t _ true => ends t 0x0F
      | .got t l false =>
        let b := ({ n with body := BitVec.ofNat 384 (ofBytes l) } : Node).block
        if blockBad 0 b 0 then ends t 4
        else match nodeCopy t g i x b with
          | none => s
          | some u => setNode u g i (fun m => { m with job := 1 })

/-- WEIGHT_SWITCH_COPY: graph a, node b. -/
def execWeightSwitchCopy (s : State) : Host.Outcome State Fault Refusal := .next (switchCopy s s.arg.a s.arg.b)

/-- The held nodes of a context that wait for a layer's set become ready (R284, R288). -/
def unholdLayer (s : State) (ctx l : Nat) (w : BitVec 32) : State :=
  s.mapUn (fun u => { u with graphs := u.graphs.map (fun p =>
    if p.2.ctx = ctx ∧ p.2.batch = w then
      (p.1, { p.2 with nodes := p.2.nodes.map (fun q =>
        if q.2.st = .held ∧ q.2.layer = l then (q.1, { q.2 with st := .ready, readyAt := s.cycle }) else q) })
    else p) })

/-- WEIGHT_SWITCH_COMMIT: cur(L) advances, and what waited for it goes on; a switch whose copy stopped has ended its graph
with code 6 (DEDUCED, log 16). -/
def switchCommit (s : State) (g i : Nat) : State :=
  match getGraph s g with
  | none => s
  | some x =>
    let n := x.node i
    let w := BitVec.ofNat 32 (n.word 0).toNat
    if n.st ≠ .running ∨ n.kind ≠ 7 ∨ n.job < 2 ^ 32 then s
    else
      let t := s.mapUn (fun u => { u with layers := tput u.layers (layerKey x.ctx n.layer) w })
      let t := releaseLayer (unholdLayer t x.ctx n.layer w) x.ctx n.layer
      if n.job = 2 ^ 32 then finNode t g i n.succs
      else endGraph (setNode (unitRelease t x.cp) g i (fun m => { m with st := .done })) g 6 i

/-- WEIGHT_SWITCH_COMMIT: graph a, node b. -/
def execWeightSwitchCommit (s : State) : Host.Outcome State Fault Refusal := .next (switchCommit s s.arg.a s.arg.b)

/-! ### FORK, YIELD (R289 to R291, R293) -/

/-- The checks of a HANDLER field that stands in a larger operand (R271). -/
def checkHandlerIn (h : BitVec 32) (tval : W64) : Except Stop Unit :=
  if h = 0 ∨ (fld h 31 31 = 1 ∧ fld h 30 16 ≠ 0) then trap 0x04 tval
  else if fld h 0 0 = 1 then trap 0x03 tval
  else .ok ()

/-- The checks of FORK: the kernel in service and the key of the counter, if one is used. -/
def forkChecks (s : State) (xb : W64) : Except Stop (BitVec 32 × Option Nat) :=
  if fld xb 62 48 ≠ 0 then trap 0x04 xb
  else match checkHandlerIn (BitVec.ofNat 32 xb.toNat) xb with
    | .error e => .error e
    | .ok _ =>
      if fld xb 63 63 = 1 ∧ fld xb 34 32 ≠ 0 then trap 0x03 xb
      else match serviceKernel s.core with
        | none => trap 0x04 xb
        | some h => .ok (h, if fld xb 63 63 = 1 then some (localKey s.core.num (fld xb 47 32)) else none)

/-- The counter of an item goes up by one, as an access of the core. -/
def countUp (s : State) (key : Option Nat) : Eff :=
  match key with
  | none => .ok s
  | some k => match loadAt s (BitVec.ofNat 64 k) 8 (.loc s.core.num) k with
    | .error e => .error e
    | .ok (t, l, _) =>
      let cells := cellsAt k (bytesOf (ofBytes l + 1) 8)
      .ok (noteCounter (rawWrite t cells) (ctxNum t.core) (.loc t.core.num) cells)

/-- An item counted in its kernel's LIVE. -/
def countLive (s : State) (h : BitVec 32) : State :=
  match kerOf s h with
  | none => s
  | some k => putKer s k { getKer s k with live := (getKer s k).live + 1 }

def forkItem (s : State) (v : W512) (xb : W64) (h : BitVec 32) (key : Option Nat) : Item :=
  { handler := BitVec.ofNat 32 xb.toNat, payload := BitVec.ofNat 384 v.toNat, forker := BitVec.ofNat 32 s.core.num
    time := timeLow s, kernel := h, counter := key, clock := (getDie s (dieOf s.core.pos)).vc }

def forkEff (s : State) (d : Reg) (v : W512) (xb : W64) : Eff :=
  match forkChecks s xb with
  | .error e => .error e
  | .ok (h, key) =>
    if 16 ≤ s.core.mail.deque.length then .ok (setXI s d 1 2)
    else match countUp s key with
      | .error e => .error e
      | .ok t =>
        let u := countLive t h
        .ok (setXI (u.mapMail (fun m => { m with deque := forkItem u v xb h key :: m.deque })) d 0 2)

/-- FORK (R291). -/
def execFork (d a b : Reg) (s : State) : Host.Outcome State Fault Refusal := finish s (forkEff s d (s.v a) (s.x b))

/-- YIELD: the continuation goes on top of the deque, or into the core's own inbox, and the handler ends. -/
def yieldEff (s : State) (v : W512) (xb : W64) : Eff :=
  match forkChecks s xb with
  | .error e => .error e
  | .ok (h, key) =>
    if inMonitor s.core || sbank s || uin s then trap 0x02 0
    else match doneHead s with
      | .error e => .error e
      | .ok t => match countUp t key with
        | .error e => .error e
        | .ok t =>
          let i := forkItem t v xb h key
          let placed : Append :=
            if t.core.mail.deque.length < 16 then .done (t.mapMail (fun m => { m with deque := m.deque ++ [i] }))
            else
              let r := selfAge t t.core.num
              acceptHere r.2 { itemMsg i with age := r.1, arrived := timeLow s }
          match placed with
          | .done u =>
            let w := endHandler (countLive u h)
            .ok { w with core := { w.core with issue := { w.core.issue with npc := w.core.pc } } }
          | .waits u => waitPlain (keepAsked s u)
          | .broke _ => waitPlain ((queueAppend s (curCtx s.core) s.core.num (itemMsg i)).left s)
          | .absent _ => waitPlain s

/-- YIELD (R293). -/
def execYield (a b : Reg) (s : State) : Host.Outcome State Fault Refusal := finish s (yieldEff s (s.v a) (s.x b))

/-- DEQUE_STEAL (R289): idle core a, whose inbox has nothing to dispatch, runs the next item. -/
def dequeSteal (s : State) : State :=
  if s.core.run ≠ .idle || !(candidates s.core.mail).isEmpty || (owedPick s).any (·.isSome) then s
  else (takeItem s).getD (stealLacks s)

def execDequeSteal (s : State) : Host.Outcome State Fault Refusal := .next (onCore s s.arg.a dequeSteal)

/-! ### JOIN (R292) -/

/-- The counter of a JOIN, an aligned offset of the core's own local memory. -/
def joinKey (s : State) (xa : W64) : Except Stop Nat :=
  if fld xa 2 0 ≠ 0 then trap 0x03 xa
  else if fld xa 63 16 ≠ 0 then trap 0x04 xa
  else .ok (localKey s.core.num xa.toNat)

def joinEff (s : State) (d : Reg) (xa : W64) : Eff :=
  match joinKey s xa with
  | .error e => .error e
  | .ok k => match loadAt s (BitVec.ofNat 64 k) 8 (.loc s.core.num) k with
    | .error e => .error e
    | .ok (t, l, _) => if ofBytes l = 0 then .ok (setXI (acquire t (chipClock t)) d 0 2) else waitPlain t

/-- JOIN, blocking (R292). -/
def execJoin (d a : Reg) (s : State) : Host.Outcome State Fault Refusal := finish s (joinEff s d (s.x a))

/-- The message of a continuation. -/
def joinMsg (s : State) (j : JoinWait) : Msg :=
  { handler := j.handler, sender := BitVec.ofNat 32 j.core, tag := 0, cls := 0, alen := 0, stime := timeLow s, payload := 0
    src := .core j.core, origin := .plain, clock := chipClock s, far := false, age := 0, arrived := 0, attaching := false }

/-- A continuation whose counter is 0, or has been 0 since, delivers its message once. -/
def joinDeliver (s : State) (j : JoinWait) : State :=
  if !j.due then s
  else
    let r := selfAge s j.core
    let a := acceptAt r.2 j.ctx j.core { joinMsg s j with age := r.1, arrived := timeLow s }
    match a with
    | .done u => u.mapUn (fun w => { w with joins := dropFirst (fun k => k == j) w.joins })
    | _ => a.left s

def joinContEff (s : State) (d : Reg) (xa xb : W64) : Eff :=
  match joinKey s xa with
  | .error e => .error e
  | .ok k => match checkHandler xb false with
    | .error e => .error e
    | .ok _ => match loadAt s (BitVec.ofNat 64 k) 8 (.loc s.core.num) k with
      | .error e => .error e
      | .ok (t, l, _) =>
        let j : JoinWait := ⟨ctxNum t.core, t.core.num, xa.toNat, BitVec.ofNat 32 xb.toNat, ofBytes l == 0⟩
        let u := t.mapUn (fun w => { w with joins := w.joins ++ [j] })
        .ok (setXI (joinDeliver u j) d (wordOf l) 4)

/-- JOIN, continuation (R292). -/
def execJoinCont (d a b : Reg) (s : State) : Host.Outcome State Fault Refusal :=
  finish s (joinContEff s d (s.x a) (s.x b))

/-- JOIN_CONTINUATION (R292): a continuation of core a whose counter has reached 0. -/
def execJoinContinuation (s : State) : Host.Outcome State Fault Refusal :=
  .next ((s.un.joins.filter (fun j => j.core == s.arg.a)).foldl joinDeliver s)

/-! ### KLAUNCH, KWAIT (R294, R295) -/

/-- The live graph of the kernel in service. -/
def serviceGraph (s : State) : Option (Nat × Graph) :=
  match (serviceKernel s.core).bind (kerOf s) with
  | none => none
  | some k => match (getKer s k).graph with
    | none => none
    | some (g, _) => match getGraph s g with
      | some x => if x.ended.isNone then some (g, x) else none
      | none => none

/-- The graph a launched kernel stands in: the one in service, or one of its own, whose batch is cur(LAYER); with no layer
that batch is not stated (log 4). -/
def launchGraph (s : State) (layer : Nat) : State × Nat × Graph :=
  match serviceGraph s with
  | some (g, x) => (s, g, x)
  | none =>
    let ctx := curCtx s.core
    let p := if layer = 0xFFFF then freshWord s else ((layerCur s ctx layer).zeroExtend 64, s)
    ({ p.2 with nextId := p.2.nextId + 1 }, p.2.nextId,
      { ctx := ctx, cp := subqCp s ctx, prio := fld s.core.sys.prio 5 0, batch := BitVec.ofNat 32 p.1.toNat, addr := 0
        status := 0, nodes := [], ended := none, top := 0, doneTop := 0, alone := true })

/-- A kernel is launched: its slot is taken and it is ready. -/
def launchKernel (s : State) (n : Node) : State × W64 :=
  match kerSlot s with
  | none => (s, 0)
  | some k =>
    let r := launchGraph s n.layer
    let g := r.2.1
    let x := r.2.2
    let i := max launchedFrom (x.nodes.foldl (fun m p => max m (p.1 + 1)) 0)
    let t := kerTake r.1 k g i x.cp x n n.layer
    let h := kerHandle k (getKer t k)
    let m := { n with st := .ready, waits := 0, readyAt := s.cycle, job := h.toNat, iter := 0, limit := none }
    (putGraph t g (x.putNode i m), h.zeroExtend 64)

/-- A node as its 64 bytes give it. -/
def nodeOf (l : List W64) : Node :=
  let w := packNat 64 (l.map (·.toNat))
  { Node.fresh with hdr := BitVec.ofNat 128 w, body := BitVec.ofNat 384 (w / 2 ^ 128) }

/-- A node KLAUNCH cannot launch: its KIND is not 0, or it is malformed but for the fields KLAUNCH ignores (R294). -/
def launchBad (s : State) (n : Node) : Bool :=
  n.kind != 0 || fld n.hdr 7 4 != 0 || fld n.hdr 127 112 != 0 || layerBad n || noCtx s.core || bodyBad s (curCtx s.core) n

def klaunchEff (s : State) (d : Reg) (xa : W64) : Eff :=
  match fenceHead s with
  | .error e => .error e
  | .ok t => keepPaired t (match relNow t .device with
    | .error e => .error e
    | .ok t =>
      if fld xa 5 0 ≠ 0 then trap 0x03 xa
      else match loadWords t xa 8 with
        | .error e => .error e
        | .ok (t, l) =>
          if launchBad t (nodeOf l) then trap 0x04 xa
          else match pairCmd t 9 [xa] (fun u => .ok (launchKernel u (nodeOf l))) with
            | .error e => .error e
            | .ok (u, h) => .ok (setXI u d h 4))

/-- KLAUNCH (R294). -/
def execKlaunch (d a : Reg) (s : State) : Host.Outcome State Fault Refusal := finish s (klaunchEff s d (s.x a))

def kwaitEff (s : State) (d : Reg) (xa : W64) : Eff :=
  let h := BitVec.ofNat 32 xa.toNat
  let over_ (w : Nat) : Eff := .ok (setXI (acquire s (chipClock s)) d (BitVec.ofNat 64 w) 4)
  match s.core.wait with
  | some ⟨_, .status w⟩ => over_ w
  | _ =>
    if h = 0 ∨ fld xa 63 32 ≠ 0 ∨ serviceKernel s.core = some h then trap 0x04 xa
    else match kerOf s h with
      | none => over_ 0xFF
      | some k => if (getKer s k).st = .complete then over_ (getKer s k).status else .error (.wait s (.kernel h))

/-- KWAIT (R295). -/
def execKwait (d a : Reg) (s : State) : Host.Outcome State Fault Refusal := finish s (kwaitEff s d (s.x a))

end Sys2Proof.Machine
end

