-- ==== Sys2Proof/Machine/Link.lean ====
section
/-! DEFINITION. The link and its collectives (23_link R426 to R436): link states, flits that arrive, the clock of the
domain, ARED and AGATH, and the collective port. -/
namespace Sys2Proof.Machine

/-! ### Link states (R427, R428) -/

/-- The die a link or the host port leaves (01_machine R20). -/
def linkDie (i : Nat) : Nat := if i < 24 then i / 6 else 0

def linkNotice (s : State) (i kind data : Nat) : State :=
  sendNotice s (noticeCore s (linkDie i)) (mkNotice kind 0 data 0)

/-- Lanes of a link that carries traffic on all its lanes, or on half of them. -/
def lanesOf (i : Nat) (half : Bool) : Nat := (if i = 24 then 16 else 8) / (if half then 2 else 1)

/-- A link becomes quarantined (R427): a violation of master class 3, or 2 for the host port; what it holds is replayed elsewhere
(R429). -/
def quarantine (s : State) (i : Nat) (frozen : Bool) : State :=
  linkNotice (replayHeld (putLink s i { getLink s i with st := .quarantined, lanes := 0, frozen := frozen }) i) i 1
    ((if i = 24 then 2 else 3) * 2 ^ 48 + i)

/-- An attempt to train or retrain has failed; the third takes the link down (R427). -/
def linkFails (s : State) (i : Nat) : State :=
  let x := getLink s i
  if x.tries < 2 then putLink s i { x with tries := x.tries + 1 }
  else linkNotice (replayHeld (putLink s i { x with st := .down, lanes := 0, tries := 0 }) i) i 6 i

/-- LINK_TRAINING_COMPLETE: outcome 0 all lanes, 1 half of them, 2 the identity fails, 3 W differs, 4 the attempt fails. -/
def trainingOver (s : State) (i outcome peer : Nat) : State :=
  let x := getLink s i
  if x.st ≠ .training then s
  else match outcome with
    | 2 => quarantine s i false
    | 3 => linkNotice (putLink s i { x with st := .down, lanes := 0, tries := 0 }) i 6 i
    | 4 => linkFails s i
    | k =>
      if i < 24 ∧ fld s.out.peerauth (peer % 4096) (peer % 4096) = 0 then quarantine s i false
      else putLink s i { x with
        st := if k = 0 then .up else .degraded, peer := if i < 24 then peer % 4096 else 0, errs := 0
        lanes := lanesOf i (k != 0), tries := 0
        trains := if x.trains = BitVec.allOnes 8 then x.trains else x.trains + 1 }

/-- A link that carries traffic goes to retraining; its flits are held (R427, R429). -/
def toRetraining (s : State) (i : Nat) : State :=
  let x := getLink s i
  if x.st = .up ∨ x.st = .degraded then putLink s i { x with st := .retraining, lanes := 0, tries := 0 } else s

/-- LINK_RETRAIN_COMPLETE: outcome 0 all lanes, 1 half of them, else a failed attempt. Held flits are replayed on it. -/
def retrainOver (s : State) (i outcome : Nat) : State :=
  let x := getLink s i
  if x.st ≠ .retraining then s
  else if outcome = 0 then putLink s i { x with st := .up, lanes := lanesOf i false, tries := 0 }
  else if outcome = 1 then putLink s i { x with st := .degraded, lanes := lanesOf i true, tries := 0 }
  else linkFails s i

/-! ### Flits that arrive (R427, R432) -/

/-- A window fault is known: WFAULT and the first faulted window (R432). -/
def windowFault (s : State) (w : Nat) : State :=
  s.mapOut (fun o => { o with wfault := true, wfaultWin := if o.wfault then o.wfaultWin else BitVec.ofNat 32 w })

/-- Where a flit's address lies in this chip: a window address of its cores or clusters, or a physical address of HBM,
which is homed in the stack's die. -/
def flitPlace (a : W64) (kid : Nat) : Place × Nat :=
  match fld a 63 62 with
  | 2 => (.loc (fld a 61 37 % nCores), localKey (fld a 61 37 % nCores) (fld a 15 0))
  | 1 => (.scr (fld a 61 43 % 128), scratchKey (fld a 61 43 % 128) (fld a 21 0))
  | _ => (.hbm (homeDie (fld a 39 0)) true kid, fld a 39 0)

/-- The 8 words of a line. -/
def laneWords (v : W512) : List W64 := (List.range 8).map (fun i => BitVec.ofNat 64 (elem v 64 i))

/-- A flit of bytes goes on to its home, under the key of its KEYID (08_page R212): a write as a packet of the link, in the order of
the bridges and under the flit's window; a read fills as any read does, and its reply leaves again, poisoned when the line is.
None while the home does not answer: it stays at the link. -/
def flitHome (s : State) (f : Flit) : Option State :=
  let die := linkDie f.link
  let r := flitPlace f.addr f.kid
  let reply (t : State) (l : List Byte) (bad : Bool) : State :=
    launchUnit t (.link f.link) 256 0 die f.addr (.told f.chip f.dest (laneWords (lineOf l)) bad)
  if f.write then
    let t := launchUnit s (.link f.link) 256 0 die f.addr (.store r.1 (cellsAt r.2 (bytesOf f.data.toNat (min f.bytes 64))))
    some (setPacket t s.nextId (fun p => { p with window := f.window }))
  else match readHome s die r.1 r.2 f.bytes with
    | .ok (t, l, _) => some (reply t l false)
    | .error (.poison _ t) => some (reply t (poisonedBytes t r.1 r.2 f.bytes) true)
    | .error .waits => none

/-- A flit is delivered: a message goes on from the link's die as a packet, and bytes go on to their home; a request to this chip's
directory is served at the link's die; no bytes answer a request of this chip to the directory of the flit's chip, with bit 64 set
where it traps (17_expert R369); a write of no bytes tells of a window fault at another chip. -/
def deliverFlit (s : State) (f : Flit) : Option State :=
  match f.msg, f.ask with
  | some m, _ => some (launchUnit s (.link f.link) 256 0 (linkDie f.link) (msgAddr f.dest) (.msg f.dest m none))
  | none, some a => serveAsk s (linkDie f.link) a
  | none, none =>
    if f.bytes = 0 then
      some (if f.write then windowFault s f.window
        else match findAsk s f.dest with
          | some v =>
            if fld v.name 31 20 = f.chip then routeAnswer s v (BitVec.ofNat 64 f.data.toNat) (f.data.toNat / 2 ^ 64 % 2 == 1) else s
          | none => s)
    else flitHome s f

/-- A write of bytes that has not been applied when window N + 2 of its stamp N begins (R179, R432). -/
def Flit.missed (s : State) (f : Flit) : Bool :=
  f.write && f.bytes != 0 && f.msg.isNone && decide (f.window + 2 ≤ windowNow s)

/-- A link tells of a window fault: it goes to retraining, notice kind 6 with DATA bit 8, and WFAULT (R432). -/
def tellFault (s : State) (link window : Nat) : State :=
  linkNotice (windowFault (toRetraining s link) window) link 6 (link + 256)

/-- The flits at the links that miss their bound now raise their faults; they are still delivered (R432). -/
def lateFlits (s : State) : State :=
  if s.out.linkIn.isEmpty then s
  else
    let due (f : Flit) : Bool := !f.told && f.missed s
    (s.out.linkIn.filter due).foldl (fun t f => tellFault t f.link f.window)
      (s.mapOut (fun o => { o with linkIn := o.linkIn.map (fun f => if due f then { f with told := true } else f) }))

/-- The link a packet between chips has come over, or is carried by. -/
def Packet.link (s : State) (p : Packet) : Option Nat :=
  match p.src with
  | .link i => some i
  | _ => if p.toPeer then (s.out.links.find? (fun l => l.2.sent.contains p.id)).map (·.1) else none

/-- Writes between chips that are on their way and have not been applied when window N + 2 of their stamp N begins raise their
faults, once each; they are still delivered (07_ordering R179; R432). -/
def latePackets (s : State) : State :=
  let due (p : Packet) : Bool := p.st == .flying && !p.body.cells.isEmpty && decide (p.window + 2 ≤ windowNow s) &&
    (p.link s).isSome && !s.out.lateTold.contains p.id
  let l := if s.out.links.isEmpty then [] else s.net.filter due
  if l.isEmpty then s
  else l.foldl (fun t p => tellFault t ((p.link s).getD 0) p.window)
    (s.mapOut (fun o => { o with lateTold := o.lateTold.filter (fun i => s.net.any (fun p => p.id == i)) ++ l.map (·.id) }))

/-- Everything between chips that misses its bound now (R432). -/
def lateWrites (s : State) : State := latePackets (lateFlits s)

/-- Corrected flit errors are counted since the last training (R426). -/
def countErrs (s : State) (i k : Nat) : State :=
  let x := getLink s i
  if k = 0 then s else putLink s i { x with errs := BitVec.ofNat 16 (min 65535 (x.errs.toNat + k)) }

/-- LINK_FLIT_ARRIVAL: the oldest flit at a link is checked and delivered. A flit of another source quarantines and
freezes the link; a late one is delivered with a window fault. -/
def flitArrival (s : State) (i : Nat) : State :=
  let x := getLink s i
  if x.frozen ∨ (x.st ≠ .up ∧ x.st ≠ .degraded) then s
  else match s.out.linkIn.find? (fun f => f.link == i) with
    | none => s
    | some f =>
      let t := s.mapOut (fun o => { o with linkIn := dropFirst (fun g => g.link == i) o.linkIn })
      if i < 24 ∧ f.chip ≠ x.peer then quarantine t i true
      else match deliverFlit t f with
        | none => s
        | some u =>
          let late := f.late || f.missed s
          -- the packet its write goes on as tells nothing more
          let u := if (late || f.told) && f.write then u.mapOut (fun o => { o with lateTold := o.lateTold ++ [s.nextId] }) else u
          if late && !f.told then tellFault u f.link f.window else u

/-- PTP_SYNC (R430): the grandmaster and the measured offset; locked within 25 ns. TIME is not stepped: the offset is worked
off by slewing its rate. -/
def ptpSync (s : State) (gm : Nat) (w : W64) : State :=
  s.mapOut (fun o => { o with
    slew := -(BitVec.ofNat 32 w.toNat).toInt
    ptpGm := gm % 4096, ptpOffset := BitVec.ofNat 32 w.toNat
    ptpLock := decide ((BitVec.ofNat 32 w.toNat).toInt ≤ 25) && decide (-25 ≤ (BitVec.ofNat 32 w.toNat).toInt) })

/-! ### Collectives (R434, R435) -/

def Coll.fresh : Coll :=
  { id := 0, ctx := 256, tag := 0, k := 0, members := [], kind := 0, mixed := false, contribs := [], arrived := []
    dests := [], ports := [], result := none, failed := none, taken := [], seen := Clock.zero }

def getColl (s : State) (id : Nat) : Option Coll := s.out.colls.find? (fun c => c.id == id)
def modColl (s : State) (id : Nat) (f : Coll → Coll) : State :=
  s.mapOut (fun o => { o with colls := mapFirst (fun c => c.id == id) f o.colls })

/-- Numbers in rising order. -/
def sortNats (l : List Nat) : List Nat := l.foldl (fun acc n => acc.filter (fun m => decide (m < n)) ++
  n :: acc.filter (fun m => decide (n ≤ m))) []

/-- The scope of a member set (R434). -/
def collScope (members : List Nat) : Scope := if members.all (fun n => decide (n < nCores)) then .device else .system

/-- The key of a tag in a core's counts. -/
def collKey (ctx tag : Nat) : Nat := ctx * 65536 + tag

/-- A contribution of core `n` to its next collective with a tag: the collective's number. -/
def contribute (s : State) (n ctx tag kind : Nat) (members : List Nat) (v : W512) (dest : Option W64)
    (port : Option Nat) : State × Nat :=
  let c := getCore s n
  let k := tgetD c.collCount (collKey ctx tag) 0
  let clock := (getDie s (dieOf c.pos)).vc
  let add (x : Coll) : Coll := { x with
    mixed := x.mixed || x.kind != kind, contribs := tput x.contribs n v, seen := x.seen.merge clock
    dests := match dest with | some a => tput x.dests n a | none => x.dests
    ports := match port with | some q => tput x.ports n q | none => x.ports }
  let s1 := modCore s n (fun c => { c with collCount := tput c.collCount (collKey ctx tag) (k + 1) })
  match s.out.colls.find? (fun x => x.ctx == ctx && x.tag == tag && x.k == k && x.members == members) with
  | some x => (modColl s1 x.id add, x.id)
  | none =>
    let x := add { Coll.fresh with id := s.nextId, ctx := ctx, tag := tag, k := k, members := members, kind := kind }
    ({ s1.mapOut (fun o => { o with colls := o.colls ++ [x] }) with nextId := s.nextId + 1 }, s.nextId)

/-- TVAL of cause 0x0B from a collective: kind, tag and group (R435). -/
def collTval (kind tag group : Nat) : W64 := BitVec.ofNat 64 (2 ^ 63 + kind * 2 ^ 60 + tag * 2 ^ 16 + group)

/-- The lanes of a combined result, or what an AGATH member has brought. -/
def combine (kind : Nat) (l : List W512) : W512 :=
  pack 32 ((List.range 16).map (fun i =>
    let vals := l.map (fun v => dec .f32 (elem v 32 i) 0)
    let op (a b : FV) : FV :=
      let r := if kind = 0 then fAdd a b .rne else fMinMax (kind == 1) a b
      dec .f32 (roundR .f32 r .rne).1 0
    match foursGo op vals.length vals with
    | x :: _ => (rnd .f32 x .rne).1
    | [] => 0))

/-- Why a collective fails: 0 mismatch, 2 a member missing, 3 a chip out of reach (R435). -/
def collFails (s : State) (x : Coll) : Option Nat :=
  if x.mixed then some 0
  else if x.members.any (fun n => decide (n < nCores) && !coreHere s n) then some 2
  else if x.members.any (fun n => decide (nCores ≤ n) && !chipReached s (n / nCores)) then some 3
  else none

/-- The rows of an AGATH member written one after another; a write that waits leaves what it has asked for. -/
def writeRows (cl ctx : Nat) (dest : W64) : Nat → List W512 → State → Except State State
  | _, [], s => .ok s
  | i, v :: r, s => match engPuts s cl ctx (ctxAsid s ctx) (leaAdd dest (BitVec.ofNat 64 (64 * i))) (bytesOf v.toNat 64) with
    | .done t => writeRows cl ctx dest (i + 1) r t
    | .waits t => .error (keepAsked s t)
    | .fails _ => writeRows cl ctx dest (i + 1) r s
    | .violates => writeRows cl ctx dest (i + 1) r s

/-- The collective engine stands in the die that holds the lowest-numbered member (R434). -/
def collCluster (s : State) (x : Coll) : Nat :=
  match x.members with
  | n :: _ => if n < nCores then dieOf (getCore s n).pos * 32 else 0
  | [] => 0

/-- The answer of a collective to a port: a status word and 8 words (R436). -/
def portWords (x : Coll) (group : Nat) : List W64 :=
  match x.failed, x.result with
  | some f, _ => collTval f x.tag group :: List.replicate 8 0
  | none, some v => 0 :: laneWords v
  | none, none => []

/-- A collective is over once each of this chip's members has collected what it brought. -/
def tidyColl (s : State) (id : Nat) : State :=
  match getColl s id with
  | none => s
  | some x =>
    if x.members.all (fun n => decide (nCores ≤ n) || x.taken.contains n) then
      s.mapOut (fun o => { o with colls := o.colls.filter (fun c => c.id != id) })
    else s

/-- The engine of a collective as a sender of its own (10_queue R255). -/
def collSrc (s : State) (x : Coll) : Src := .engine (collCluster s x) 65

/-- The engine sends each member on another chip what it answers: the lanes, the rows of an AGATH, or with the mark of a trap the kind
of the failure and the tag (R434, R435). -/
def tellMembers (s : State) (x : Coll) : State :=
  let words : List W64 := match x.failed, x.result with
    | some f, _ => [collTval f x.tag 0]
    | none, some v => if x.kind = 3 then x.members.flatMap (fun n => laneWords (tgetD x.contribs n 0)) else laneWords v
    | none, none => []
  (x.members.filter (fun n => decide (nCores ≤ n))).foldl (fun t n =>
    launchUnit t (collSrc s x) x.ctx 0 (collCluster s x / 32) (msgAddr n) (.told (n / nCores) n words x.failed.isSome)) s

/-- The members that wait at ports receive their words. -/
def answerPorts (s : State) (x : Coll) : State :=
  (x.ports.filter (fun p => !x.taken.contains p.1)).foldl (fun t p =>
    let q := p.2 % 8
    let c := getCore t p.1
    let u := modTask t x.ctx p.1 (fun c => { c with replyClock := some (match c.replyClock with
      | some d => d.merge x.seen | none => x.seen) })
    let v := answer u x.ctx p.1 q (p.2 / 8) (portWords x ((getQ c q).unit % 4096))
    modColl v x.id (fun y => { y with taken := p.1 :: y.taken })) s

/-- A collective is over: ports and members on other chips are told. -/
def collOver (s : State) (y : Coll) : State :=
  let t := modColl s y.id (fun _ => y)
  -- the engine stands at the chip of the lowest member; every chip answers its own members
  let here := (y.members.head?).any (fun m => decide (m < nCores))
  tidyColl (answerPorts (if here then tellMembers t y else t) y) y.id

/-- COLLECTIVE_RESULT: the contributions are combined and sent to every member, or the collective fails. -/
def collResult (s : State) (id : Nat) : State :=
  match getColl s id with
  | none => s
  | some x =>
    if x.result.isSome || x.failed.isSome then s
    else match collFails s x with
      | some f => collOver s { x with failed := some f }
      | none =>
        if !x.members.all x.arrived.contains then s
        else
          let vals := x.members.map (fun n => tgetD x.contribs n 0)
          if x.kind = 3 then
            (let cl := collCluster s x
             match x.dests.foldlM (fun t p => writeRows cl x.ctx p.2 0 vals t) s with
             | .ok t => collOver t { x with result := some 0 }
             | .error t => keepAsked s t)
          else collOver s { x with result := some (combine x.kind vals) }

/-- Whether a write of a chip has still to be applied here: a contribution of the chip has been sent after the release that covers
it (R434; 07_ordering R173, R179). -/
def writesFrom (s : State) (chip : Nat) : Bool :=
  let of (i : Nat) : Bool := (getLink s i).peer == chip
  s.out.linkIn.any (fun f => f.write && f.bytes != 0 && f.chip == chip) ||
    s.net.any (fun p => p.st == .flying && !p.body.cells.isEmpty && (match p.src with | .link i => of i | _ => false))

/-- A contribution of this chip crosses to the chip whose engine serves the collective, when that is another one (R434). -/
def sendOn (s : State) (x : Coll) (n : Nat) (v : W512) : State :=
  match x.members.head? with
  | some m => if nCores ≤ m then
      launchUnit s (collSrc s x) x.ctx 0 (dieOf (getCore s n).pos) (msgAddr m)
        (.told (m / nCores) n (BitVec.ofNat 64 x.kind :: laneWords v) false)
    else s
  | none => s

/-- COLLECTIVE_CONTRIBUTION: a contribution arrives at the engine. One of a member on another chip brings its kind and
its line, behind every write of its chip, which no die's RDC hides once it is applied (07_ordering R179). -/
def collArrives (s : State) (id n kind : Nat) (v : W512) : State :=
  match getColl s id with
  | none => s
  | some x =>
    if !x.members.contains n || x.arrived.contains n then s
    else if n < nCores then
      (match tget x.contribs n with
        | some v => sendOn (modColl s id (fun y => { y with arrived := n :: y.arrived })) x n v
        | none => s)
    else if writesFrom s (n / nCores) then s
    else modColl s id (fun y => { y with
      arrived := n :: y.arrived, contribs := tput y.contribs n v, mixed := y.mixed || y.kind != kind })

/-- A member collects what its collective has answered. -/
def collect (s : State) (id : Nat) (x : Coll) : State :=
  let n := s.core.num
  let t := s.mapCore (fun c => { c with collOpen := tdel c.collOpen (collKey x.ctx x.tag) })
  tidyColl (modColl t id (fun y => { y with taken := n :: y.taken })) id

/-- The wait is over by a trap, which leaves x[b] as it is (R435: an interrupt or a save marks it). -/
def noWait (s : State) : State := s.mapCore (fun c => { c with wait := none })

/-- What a member that waits finds: a failure, the result, or its time limit. -/
def collJudge (s : State) (d b : Reg) (id group since : Nat) (gather : Bool) : Eff :=
  match getColl s id with
  | none => .error (.wait s (.coll id b))
  | some x =>
    match x.failed, x.result with
    | some f, _ => .error (.trapKeep (noWait (collect s id x)) 0x0B (collTval f x.tag group))
    | none, some v =>
      let t := acquireAt (collect s id x) (collScope x.members) x.seen
      .ok (if gather then t else setVI t d v 64)
    | none, none =>
      let limit := s.core.sys.btimeout.toNat
      if limit ≠ 0 ∧ since + limit ≤ s.cycle then .error (.trapKeep (noWait s) 0x0B (collTval 1 x.tag group))
      else .error (.wait s (.coll id b))

/-- ARED and AGATH (R435): `kind` 0 sum, 1 max, 2 min, 3 gather. -/
def collEff (s : State) (d b : Reg) (kind : Nat) (v : W512) : Eff :=
  let xb := s.x b
  let xd := s.x d
  let group := fld xb 11 0
  let tag := fld xb 31 16
  let ctx := ctxNum s.core
  match s.core.wait with
  | some ⟨_, .failed c t⟩ => trap c t
  | some ⟨since, .coll id _⟩ => collJudge s d b id group since (kind == 3)
  | _ =>
    if fld xb 62 32 ≠ 0 ∨ fld xb 15 12 ≠ 0 then trap 0x04 xb
    else match groupOf s group 1 with
      | none => trap 0x04 xb
      | some g =>
        let members := sortNats g.members
        if !members.contains s.core.num then trap 0x04 xb
        else if kind = 3 ∧ fld xd 5 0 ≠ 0 then trap 0x03 xd
        else if kind = 3 ∧ (fld xd 63 62 ≠ 2 ∨ fld xd 36 16 ≠ 0 ∨ fld xd 61 37 ≠ s.core.num ∨
            0x10000 < fld xd 15 0 + 64 * members.length) then trap 0x04 xd
        else if fld xb 63 63 = 0 then
          (match relNow s (collScope members) with
            | .error e => .error e
            | .ok t =>
              let r := contribute t t.core.num ctx tag kind members v (if kind = 3 then some xd else none) none
              let u := r.1.mapCore (fun c => { c with collOpen := tput c.collOpen (collKey ctx tag) r.2 })
              .error (.wait u (.coll r.2 b)))
        else match tget s.core.collOpen (collKey ctx tag) with
          | none => trap 0x04 xb
          | some id => collJudge s d b id group s.cycle (kind == 3)

/-- ARED.sum (R435). -/
def execAredSum (d a b : Reg) (s : State) : Host.Outcome State Fault Refusal := finish s (collEff s d b 0 (s.v a))
/-- ARED.max (R435). -/
def execAredMax (d a b : Reg) (s : State) : Host.Outcome State Fault Refusal := finish s (collEff s d b 1 (s.v a))
/-- ARED.min (R435). -/
def execAredMin (d a b : Reg) (s : State) : Host.Outcome State Fault Refusal := finish s (collEff s d b 2 (s.v a))
/-- AGATH (R435). -/
def execAgath (d a b : Reg) (s : State) : Host.Outcome State Fault Refusal := finish s (collEff s d b 3 (s.v a))

/-- COLLECTIVE_TIMEOUT: a member that has waited BTIMEOUT.LIMIT cycles traps; its contribution stands. -/
def collTimeout (s : State) (n : Nat) : State :=
  let c := getCore s n
  match c.wait with
  | some ⟨since, .coll id b⟩ =>
    let limit := c.sys.btimeout.toNat
    (match getColl s id with
      | none => s
      | some x =>
        if limit ≠ 0 ∧ since + limit ≤ s.cycle ∧ x.failed.isNone ∧ x.result.isNone then
          modCore s n (fun k => { k with
            wait := some ⟨since, .failed 0x0B (collTval 1 x.tag (fld ((focus s n).x b) 11 0))⟩ })
        else s)
  | _ => s

/-! ### The port of KIND 5 (R436) -/

/-- Whether the release of R173 holds for a core at a scope, without waiting for its register results. -/
def releaseHolds (s : State) (n : Nat) (scope : Scope) : Bool :=
  let t := focus s n
  (releaseIds t scope).isEmpty && windowMet t (if scope = .system then t.core.peerWindow else none)

/-- A malformed control word is answered at once and the 8 words after it are discarded. -/
def badControl (s : State) (n q : Nat) : State :=
  let t := { oweAnswer s n q s.nextId with nextId := s.nextId + 1 }
  let u := answer t (ctxNum (getCore s n)) n q s.nextId (BitVec.ofNat 64 (2 ^ 63) :: List.replicate 8 0)
  modCore u n (fun c => setQ c q { getQ c q with skip := 8 })

/-- The word of a command that QW has pushed. -/
def QCmd.asWord : QCmd → W64
  | .word w _ _ => w
  | _ => 0

/-- The collective engine takes command words of a queue register: none while it cannot. -/
def collPort (s : State) (n q : Nat) : Option State :=
  let c := getCore s n
  let x := getQ c q
  match x.cmd with
  | [] => none
  | h :: r =>
    if x.skip ≠ 0 then some (modCore s n (fun c => setQ c q { x with cmd := r, skip := x.skip - 1 }))
    else
      let w := h.asWord
      let kind := fld w 3 0
      let took (k : Nat) : State := modCore s n (fun c => setQ c q { x with cmd := x.cmd.drop k })
      match groupOf (focus s n) x.unit 1 with
      | none => some (badControl (took 1) n q)
      | some g =>
        let members := sortNats g.members
        if fld w 63 32 ≠ 0 ∨ fld w 15 4 ≠ 0 ∨ 2 < kind ∨ !members.contains n then some (badControl (took 1) n q)
        else if x.cmd.length < 9 ∨ !releaseHolds s n (collScope members) then none
        else
          let t := took 9
          let key := t.nextId
          let u := { oweAnswer t n q key with nextId := key + 1 }
          let u := if steps (collScope members) then stepRelease u (dieOf c.pos) else u
          let v := pack 64 ((r.take 8).map (fun c => c.asWord.toNat))
          let p := contribute u n (ctxNum c) (fld w 31 16) kind members v none (some (q + 8 * key))
          -- a collective that has failed already answers at once
          some (match getColl p.1 p.2 with
            | some y => if y.failed.isSome then tidyColl (answerPorts p.1 y) p.2 else p.1
            | none => p.1)

/-! ### Events -/

/-- LINK_TRAINING_COMPLETE (R427). -/
def execLinkTrainingComplete (s : State) : Host.Outcome State Fault Refusal :=
  .next (trainingOver s s.arg.a s.arg.b s.arg.c)
/-- LINK_LANE_LOSS (R427). -/
def execLinkLaneLoss (s : State) : Host.Outcome State Fault Refusal := .next (toRetraining s s.arg.a)
/-- LINK_ERROR_THRESHOLD (R426, R427): the flits of link a have passed the threshold of errors; b more have been corrected. -/
def execLinkErrorThreshold (s : State) : Host.Outcome State Fault Refusal := .next (toRetraining (countErrs s s.arg.a s.arg.b) s.arg.a)
/-- LINK_RETRAIN_COMPLETE (R427). -/
def execLinkRetrainComplete (s : State) : Host.Outcome State Fault Refusal := .next (retrainOver s s.arg.a s.arg.b)
/-- LINK_FLIT_ARRIVAL (R426, R432): at link a, with b errors that the link corrects. -/
def execLinkFlitArrival (s : State) : Host.Outcome State Fault Refusal := .next (flitArrival (countErrs s s.arg.a s.arg.b) s.arg.a)
/-- LCTL_EN_WRITE (R426, R427). -/
def execLctlEnWrite (s : State) : Host.Outcome State Fault Refusal := .next (linkEn s s.arg.a s.arg.f)
/-- LCTL_QREL (R426, R427). -/
def execLctlQrel (s : State) : Host.Outcome State Fault Refusal := .next (linkQrel s s.arg.a)
/-- LCTL_RETRAIN (R426, R427). -/
def execLctlRetrain (s : State) : Host.Outcome State Fault Refusal := .next (linkRetrain s s.arg.a)
/-- TWIN_WRITE (R431). -/
def execTwinWrite (s : State) : Host.Outcome State Fault Refusal := .next (twinSet s s.arg.w)
/-- DSTAT_WFAULT_CLEAR (R432). -/
def execDstatWfaultClear (s : State) : Host.Outcome State Fault Refusal := .next (dstatWrite s s.arg.w)
/-- PTP_SYNC (R430). -/
def execPtpSync (s : State) : Host.Outcome State Fault Refusal := .next (ptpSync s s.arg.a s.arg.w)
/-- COLLECTIVE_CONTRIBUTION (R434). -/
def execCollectiveContribution (s : State) : Host.Outcome State Fault Refusal :=
  .next (collArrives s s.arg.a s.arg.b s.arg.c s.arg.line)
/-- COLLECTIVE_RESULT (R434, R435). -/
def execCollectiveResult (s : State) : Host.Outcome State Fault Refusal := .next (collResult s s.arg.a)
/-- COLLECTIVE_TIMEOUT (R435). -/
def execCollectiveTimeout (s : State) : Host.Outcome State Fault Refusal := .next (collTimeout s s.arg.a)

end Sys2Proof.Machine
end

