-- ==== Sys2Proof/Machine/Placement.lean ====
section
/-! DEFINITION. The resident task and Sillage (22_resident R417 to R425): positions, traffic, swap instants, exchanges
and forwarding. -/
namespace Sys2Proof.Machine

/-! ### Positions (R417) -/

/-- A core's column and row on its die's grid of 64 by 32. -/
def gridX (pos : Nat) : Nat := 8 * (pos / 64 % 8) + 4 * (pos / 16 % 2) + 2 * (pos / 4 % 2) + pos % 2
def gridY (pos : Nat) : Nat := 8 * (pos / 512 % 4) + 4 * (pos / 32 % 2) + 2 * (pos / 8 % 2) + pos / 2 % 2

/-- The position at a column and row of a die. -/
def gridPos (die x y : Nat) : Nat :=
  die * 2048 + y / 8 * 512 + x / 8 * 64 + (y / 4 % 2 * 2 + x / 4 % 2) * 16 + (y / 2 % 2 * 2 + x / 2 % 2) * 4 +
    (y % 2 * 2 + x % 2)

def apart (a b : Nat) : Nat := max a b - min a b
def gridDist (a b : Nat) : Nat := apart (gridX a) (gridX b) + apart (gridY a) (gridY b)

/-- The pairs of positions of a sub-round (R420). -/
def subroundPairs (die sub : Nat) : List (Nat × Nat) :=
  if sub ≤ 2 then
    (List.range 32).flatMap (fun y => ((List.range 63).filter (fun x => x % 2 == sub - 1)).map (fun x =>
      (gridPos die x y, gridPos die (x + 1) y)))
  else
    (List.range 31).filter (fun y => y % 2 == sub - 3) |>.flatMap (fun y => (List.range 64).map (fun x =>
      (gridPos die x y, gridPos die x (y + 1))))

/-! ### Eligibility and cost (R421, R422) -/

/-- What R120 lets no exchange across quads touch: mapped or evicted slots, offers, claims and takes. -/
def frameBound (s : State) (n : Nat) : Bool :=
  let c := getCore s n
  let p := getPool s (quadOf c.pos)
  c.vec.s1 != .unmapped || c.vec.s2 != .unmapped || c.vec.s3 != .unmapped || p.offers.any (fun o => o.giver == n) ||
  p.claims.any (fun x => x.1 == n) || p.takers.any (fun x => x.1 == n) ||
  p.reloads.any (fun r => match r with
    | .slots m => m == n
    | .offer m _ o => m == n || o.giver == n)

/-- A core whose task takes part. -/
def swapReady (s : State) (n : Nat) : Bool :=
  let c := getCore s n
  c.task.mov && decide (ctxNum c < 256) &&
  !(c.run == .halted || c.run == .frozen || c.run == .switching || c.run == .swapping || c.run == .disabled) &&
  !isPaired s (ctxNum c) n && !s.un.groups.any (fun g => g.2.kind == 3 && g.2.members.contains n)

/-- What binds a task to its cluster: a reserved accumulator, or a queue register of KIND 1 or 2. -/
def clusterBound (c : Core) : Bool :=
  !c.handles.isEmpty || (List.range 8).any (fun q => (getQ c q).kind == 1 || (getQ c q).kind == 2)

def eligible (s : State) (n m : Nat) : Bool :=
  let a := getCore s n
  let b := getCore s m
  swapReady s n && swapReady s m && ctxNum a == ctxNum b &&
  (quadOf a.pos == quadOf b.pos || (!frameBound s n && !frameBound s m)) &&
  (clusterOf a.pos == clusterOf b.pos || (!clusterBound a && !clusterBound b))

/-- Where a logical core stands once tasks `n` and `m` have changed places, or before. -/
def posIf (s : State) (n m : Nat) (after : Bool) (k : Nat) : Nat :=
  if after then (if k = n then (getCore s m).pos else if k = m then (getCore s n).pos else (getCore s k).pos)
  else (getCore s k).pos

/-- The cost of one task's entries; a destination on another die or chip does not count. -/
def taskCost (s : State) (n m : Nat) (after : Bool) (k : Nat) : Nat :=
  let c := getCore s k
  (List.range 8).foldl (fun acc i =>
    let w := tgetD c.task.sdest i 0
    let dest := fld w 56 32
    if fld w 63 63 = 1 ∧ dest < nCores ∧ dieOf (getCore s dest).pos = dieOf c.pos then
      acc + fld w 31 0 * gridDist (posIf s n m after k) (posIf s n m after dest)
    else acc) 0

def pairCost (s : State) (n m : Nat) (after : Bool) : Nat := taskCost s n m after n + taskCost s n m after m

/-- A task that has moved at this instant or at one of the 4 before it. -/
def damped (c : Core) : Bool := decide (c.task.age ≤ 4)

/-- The outcome of a pair: the RESULT both record, 1 for an exchange. -/
def pairResult (s : State) (n m : Nat) : Nat :=
  if !eligible s n m then 4
  else if damped (getCore s n) || damped (getCore s m) then 3
  else if pairCost s n m false < 8 * (pairCost s n m false - pairCost s n m true) then 1
  else 2

/-! ### The exchange (R423) -/

def setTask (s : State) (n : Nat) (f : Resident → Resident) : State := modCore s n (fun c => { c with task := f c.task })

/-- A core stops for an exchange. What it waits for is taken up again at its new position; a wait of which nothing stands starts
afresh there as after an interrupt, a claim or a take is withdrawn from the pool it stands in, and a BARW keeps its arrival (R423;
04_core R77). -/
def stopForSwap (s : State) (n : Nat) : State :=
  onCore s n (fun t =>
    let u := match t.core.wait with
      | some w => (match w.what with
        | .plain => withdrawWait t
        | .ownStore => withdrawWait t
        | .align => withdrawWait t
        | .claim => withdrawWait t
        | .take => withdrawWait t
        | _ => t)
      | none => t
    { u with core := { u.core with
        former := if u.core.standing = .waiting && u.core.wait.isNone then .running else u.core.standing, run := .swapping } })

/-- An exchange starts. -/
def startSwap (s : State) (die n m : Nat) : State :=
  let t := stopForSwap (stopForSwap s n) m
  let u := setTask t n (fun k => { k with result := 1, age := 0, partner := m })
  let v := setTask u m (fun k => { k with result := 1, age := 0, partner := n })
  v.mapOut (fun o => { o with swaps := o.swaps ++ [⟨n, m, die⟩] })

/-- A task crosses to another position: its fetched strips and fetch buffer are emptied; what belongs to the place (its
CYCLE and translations) is the place's. -/
def crossTo (c there : Core) : Core :=
  { c with
    pos := there.pos, cycleBase := there.cycleBase, tlb := there.tlb, run := c.former
    fbuf := none, rreg := none, freq := none
    vec := { c.vec with streams := c.vec.streams.map (fun p => (p.1, { p.2 with fetched := [] })) } }

/-- Frames of a core mapped in its pool are its own by logical number, so an exchange within a quad keeps them (R120). -/
def swapDone (s : State) (e : Exchange) : State :=
  let a := getCore s e.a
  let b := getCore s e.b
  let t := putCore (putCore s (crossTo a b)) (crossTo b a)
  let at_ := s.cycle + 16384
  t.mapOut (fun o => { o with
    swaps := o.swaps.filter (fun x => x != e)
    forwards := o.forwards.filter (fun f => f.num != e.a && f.num != e.b) ++ [⟨e.a, a.pos, at_, s.nextId⟩, ⟨e.b, b.pos, at_, s.nextId⟩] })

/-- Whether a core of an exchange is ready to cross: no unacknowledged store, no command left, the spill buffer written. -/
def crossReady (s : State) (n : Nat) : Bool :=
  let c := getCore s n
  (unacked s n).isEmpty && (List.range 8).all (fun q => (getQ c q).cmd.isEmpty) && !c.sc.spillBusy

/-- SWAP_EXCHANGE_COMPLETE, for the exchange that a core takes part in. -/
def swapComplete (s : State) (n : Nat) : State :=
  match s.out.swaps.find? (fun e => e.a == n || e.b == n) with
  | none => s
  | some e => if crossReady s e.a && crossReady s e.b then swapDone s e else s

/-! ### Instants (R418 to R420) -/

/-- The low 16 bits of an instant's number. -/
def instLow (v : Nat) : Nat := v / 8 % 65536

/-- Cores of a die that differ from a core at reset, by number. -/
def dieCores (s : State) (die : Nat) : List Nat :=
  (if dieOf s.core.pos = die then [s.core.num] else []) ++
  (s.others.filter (fun p => dieOf p.2.pos == die)).map (·.1)

/-- SWAP_INSTANT: one falls every 2^22 cycles. Every task's AGE rises; a disabled die records RESULT 5 for its movable
tasks and evaluates no pair. -/
def swapInstant (s : State) (die : Nat) : State :=
  let v := tgetD s.out.subround die 0
  if v % 8 ≠ 0 ∨ s.cycle / 4194304 ≤ v / 8 then s
  else
    let on := fld s.out.silEn die die == 1
    let t := (dieCores s die).foldl (fun t n => setTask t n (fun k => { k with
      age := min 15 (k.age + 1), result := if k.mov && !on then 5 else k.result })) s
    t.mapOut (fun o => { o with
      instant := if serialLt o.instant (BitVec.ofNat 32 (v / 8 + 1)) then BitVec.ofNat 32 (v / 8 + 1) else o.instant
      subround := tput o.subround die ((v / 8 + 1) * 8 + (if on then 1 else 5)) })

/-- The counts are halved once an instant's exchanges are over (R418). -/
def halveCounts (s : State) (die : Nat) : State :=
  (dieCores s die).foldl (fun t n => setTask t n (fun k => { k with
    sdest := k.sdest.map (fun e => (e.1, setFld e.2 31 0 (fld e.2 31 0 / 2))) })) s

/-- SWAP_SUBROUND: once the previous sub-round's exchanges have completed, the pairs of the next are decided together. -/
def swapSubround (s : State) (die : Nat) : State :=
  let v := tgetD s.out.subround die 0
  let sub := v % 8
  if sub = 0 ∨ s.out.swaps.any (fun e => e.die == die) then s
  else if 5 ≤ sub then
    (halveCounts s die).mapOut (fun o => { o with subround := tput o.subround die (v / 8 * 8) })
  else
    let ps := (subroundPairs die sub).map (fun p => (coreAt s p.1, coreAt s p.2))
    let rs := ps.map (fun p => (p, pairResult s p.1 p.2))
    let t := rs.foldl (fun t r =>
      let mark (k : Resident) : Resident := { k with result := r.2, inst := instLow v }
      let u := setTask (setTask t r.1.1 mark) r.1.2 mark
      if r.2 = 1 then startSwap u die r.1.1 r.1.2 else u) s
    t.mapOut (fun o => { o with subround := tput o.subround die (v + 1) })

/-- FORWARDING_END (R424): 16,384 cycles have passed and nothing sent under the old mapping is in flight. -/
def forwardEnd (s : State) (n : Nat) : State :=
  match s.out.forwards.find? (fun f => f.num == n) with
  | none => s
  | some f =>
    let old := s.net.any (fun p => decide (p.id < f.first) && p.st == .flying && p.toCore == some n)
    if f.until_ ≤ s.cycle ∧ !old then s.mapOut (fun o => { o with forwards := o.forwards.filter (fun g => g.num != n) })
    else s

/-! ### Instructions (R425) -/

/-- RESIDE. -/
def execReside (d : Reg) (s : State) : Host.Outcome State Fault Refusal :=
  finish s (if s.core.task.mov then .ok (setXI s d 1 2)
    else .ok (setXI (s.mapCore (fun c => { c with task := { c.task with mov := true, sdest := [] } })) d 0 2))

/-- UNRESIDE. -/
def execUnreside (d : Reg) (s : State) : Host.Outcome State Fault Refusal :=
  finish s (.ok (setXI (s.mapCore (fun c => { c with task := { c.task with mov := false } })) d
    (BitVec.ofNat 64 (b2n s.core.task.mov)) 2))

def swapqEff (s : State) (d : Reg) (xa : W64) : Eff :=
  if xa = BitVec.allOnes 64 then .ok (setXI s d (soutWord s.core) 12)
  else if 2 ^ 25 ≤ xa.toNat ∨ !inContext s (ctxNum s.core) xa.toNat then trap 0x04 xa
  else if coreHere s xa.toNat then .ok (setXI s d (soutWord (getCore s xa.toNat)) 12)
  else .ok (setXI s d (BitVec.ofNat 64 (4 * 2 ^ 61)) 12)

/-- SWAPQ. -/
def execSwapq (d a : Reg) (s : State) : Host.Outcome State Fault Refusal := finish s (swapqEff s d (s.x a))

/-! ### Events -/

/-- SWAP_INSTANT (R420). -/
def execSwapInstant (s : State) : Host.Outcome State Fault Refusal := .next (swapInstant s s.arg.a)
/-- SWAP_SUBROUND (R420). -/
def execSwapSubround (s : State) : Host.Outcome State Fault Refusal := .next (swapSubround s s.arg.a)
/-- SWAP_EXCHANGE_COMPLETE (R423). -/
def execSwapExchangeComplete (s : State) : Host.Outcome State Fault Refusal := .next (swapComplete s s.arg.a)
/-- FORWARDING_END (R424). -/
def execForwardingEnd (s : State) : Host.Outcome State Fault Refusal := .next (forwardEnd s s.arg.a)

end Sys2Proof.Machine
end

