-- ==== Sys2Proof/Machine/System.lean ====
section
/-! DEFINITION. System registers, TRET, WFI, HALT, TRAP and BRK (09_context R247 to R251). -/
namespace Sys2Proof.Machine

/-- TVAL of an instruction that is privileged as a whole: the base word and the words before it (R232, R53). -/
def privTval (s : State) : W64 := BitVec.ofNat 64 (s.core.issue.idx * 65536 + s.core.issue.word.toNat)

/-- The lowest mode that may execute an instruction: 1 system, 2 monitor (R56). -/
def needsMode (s : State) (mode : Nat) (k : Eff) : Eff := if modeOf s.core < mode then trap 0x02 (privTval s) else k

/-- The word a write forms from a register: read once the results it waits for have landed (03_encoding R62). -/
def sysSrc (s : State) (d : Reg) (n : Nat) : W64 := (if landsFor n then landAll s else s).x d

/-- SRR (R247). -/
def execSrr (d : Reg) (imm : W64) (s : State) : Host.Outcome State Fault Refusal := finish s (sysReadEff s d imm.toNat)

/-- SRW (R247). -/
def execSrw (d : Reg) (imm : W64) (s : State) : Host.Outcome State Fault Refusal :=
  finish s (sysWriteEff s imm.toNat (fun _ => sysSrc s d imm.toNat))

/-- SRSET (R247). -/
def execSrset (d : Reg) (imm : W64) (s : State) : Host.Outcome State Fault Refusal :=
  finish s (sysWriteEff s imm.toNat (fun w => w ||| sysSrc s d imm.toNat))

/-- SRCLR (R247). -/
def execSrclr (d : Reg) (imm : W64) (s : State) : Host.Outcome State Fault Refusal :=
  finish s (sysWriteEff s imm.toNat (fun w => w &&& ~~~ sysSrc s d imm.toNat))

/-- TRET (R248). -/
def execTret (s : State) : Host.Outcome State Fault Refusal :=
  finish s (needsMode s 1 (returnFrom s (inMonitor s.core)))

/-- WFI (R250): it waits until the inbox holds a message or an interrupt is pending. -/
def execWfi (s : State) : Host.Outcome State Fault Refusal :=
  finish s (if s.core.mail.inbox.isEmpty && (pendingInts s.core).isEmpty then .error (.wait s .wfi) else .ok s)

/-- HALT (R251): completes and halts, in monitor mode. -/
def execHalt (s : State) : Host.Outcome State Fault Refusal := finish s (needsMode s 2 (.ok (haltCore s 0 0)))

/-- TRAP (R249): cause 0x0E with the code. -/
def execTrap (imm : W64) (s : State) : Host.Outcome State Fault Refusal := finish s (trap 0x0E imm)

/-- BRK (R249): cause 0x0D with the code, or a halt when DBGCTL.BRKHALT is 1. -/
def execBrk (imm : W64) (s : State) : Host.Outcome State Fault Refusal :=
  finish s (if (getDbg s s.core.pos).brkHalt then .ok (haltCore s 2 imm.toNat) else trap 0x0D imm)

end Sys2Proof.Machine
end

