-- ==== Sys2Proof/Machine/Query.lean ====
section
/-! DEFINITION. Attar, the search beneath the stacks (20_query R393 to R414): graphs, query slots, the search and its
distances, arbitration with ordinary reads, completion, and the instructions and port that reach it. -/
namespace Sys2Proof.Machine

/-! ### Slots and identifiers (R393) -/

def Query.fresh : Query :=
  { gen := 0, st := .free, ctx := 256, asid := 0, core := 0, q := 0, pkt := 0, hdr := 0, vecWords := [], visited := []
    cand := [], found := [], exp := 0, unrec := 0, susp := 0, batch := 0, badId := 0, nans := 0, cause := 0
    poison := false, hop := [], inHop := false, cur := none, prio := 0, raised := 0, readyAt := 0, waited := 0, seq := 0
    endSeq := 0, cancel := false, peerWin := none, released := false }

/-- Queries are keyed 64 x stack + slot. -/
def getQuery (s : State) (k : Nat) : Query := tgetD s.un.queries k Query.fresh
def putQuery (s : State) (k : Nat) (x : Query) : State :=
  { s with un := { s.un with queries := tput s.un.queries k x } }

def Query.ended (q : Query) : Bool := q.st == .done || q.st == .faulted || q.st == .cancelled

/-- A query that holds its slot and has not ended. -/
def Query.live (q : Query) : Bool := !q.ended && q.st != .free

def queryId (k : Nat) (q : Query) : BitVec 32 := BitVec.ofNat 32 (k / 64 * 2 ^ 28 + q.gen * 64 + k % 64)

/-- The slot an identifier names, while it still holds that query. -/
def queryOf (s : State) (ctx : Nat) (id : BitVec 32) : Option Nat :=
  let k := fld id 31 28 * 64 + fld id 5 0
  let q := getQuery s k
  if q.st != .free && q.gen == fld id 27 6 && q.ctx == ctx && decide (fld id 31 28 < 12) then some k else none

/-- The slot of a new query: the lowest never used, then the one that ended least recently (log 9). -/
def querySlot (s : State) (stack : Nat) : Option Nat :=
  match firstNat (fun j => (getQuery s (stack * 64 + j)).gen == 0) 64 with
  | some j => some (stack * 64 + j)
  | none => bestBy (fun a b => decide ((getQuery s a).endSeq < (getQuery s b).endSeq))
      (((List.range 64).map (fun j => stack * 64 + j)).filter (fun k => !(getQuery s k).live))

/-! ### Graphs (R394, R395) -/

def dWord (d : BitVec 1024) (i : Nat) : W64 := BitVec.ofNat 64 (d.toNat >>> (64 * i))
def ngDim (d : BitVec 1024) : Nat := fld (dWord d 0) 10 0
def ngFmt (d : BitVec 1024) : Nat := fld (dWord d 0) 13 12
def ngRec (d : BitVec 1024) : Nat := fld (dWord d 0) 23 16
def ngKey (d : BitVec 1024) : Nat := fld (dWord d 0) 29 24
def ngHas (d : BitVec 1024) (st : Nat) : Bool := decide (st < 12) && fld (dWord d 1) st st == 1
def ngBase (d : BitVec 1024) (st : Nat) : Nat := fld (dWord d (2 + st)) 39 0
def ngCount (d : BitVec 1024) (st : Nat) : Nat := fld (dWord d (2 + st)) 63 40

/-- Bytes and type of an element, by EFMT or QFMT. -/
def elBytes (fmt : Nat) : Nat := if fmt = 0 then 4 else if fmt = 1 then 2 else 1
def elTy (fmt : Nat) : ETy := if fmt = 0 then .f32 else if fmt = 1 then .bf16 else .e4m3

/-- The bytes of a vector, padded to 64. -/
def vecBytes (dim fmt : Nat) : Nat := (dim * elBytes fmt + 63) / 64 * 64

/-- A malformed descriptor. A DIM outside 1 to 1,024 and a BASE word of a stack that STACKS does not name are taken as
malformed too (DEDUCED, log 19). -/
def graphBad (d : BitVec 1024) : Bool :=
  (dWord d 0 &&& ~~~0x3FFF37FF#64) != 0 || dWord d 1 >>> 12 != 0 || dWord d 14 != 0 || dWord d 15 != 0 ||
  ngFmt d == 3 || ngDim d == 0 || decide (1024 < ngDim d) || ngRec d != vecBytes (ngDim d) (ngFmt d) / 64 + 2 ||
  (List.range 12).any (fun st =>
    if ngHas d st then
      ngCount d st == 0 || ngBase d st / 2 ^ 36 != st || ngBase d st % 64 != 0 ||
        decide (2 ^ 36 < ngBase d st % 2 ^ 36 + ngCount d st * ngRec d * 64)
    else dWord d (2 + st) != 0)

/-- A valid node identifier (R395). -/
def nodeOk (d : BitVec 1024) (n : BitVec 32) : Bool :=
  ngHas d (fld n 31 27) && decide (fld n 26 0 < ngCount d (fld n 31 27))

/-- Where a record lies, and its ADJ block. -/
def recordAt (d : BitVec 1024) (n : BitVec 32) : Nat := ngBase d (fld n 31 27) + fld n 26 0 * ngRec d * 64
def vlenOf (d : BitVec 1024) : Nat := vecBytes (ngDim d) (ngFmt d)
def adjAt (d : BitVec 1024) (n : BitVec 32) : Nat := recordAt d n + vlenOf d

/-- The descriptor a query uses. -/
def descOf (s : State) (g : Nat) : BitVec 1024 :=
  match tget s.un.nngraphs g with
  | some x => x.desc
  | none => 0

/-! ### The packet (R397) -/

def hWord (h : BitVec 512) (i : Nat) : W64 := BitVec.ofNat 64 (h.toNat >>> (64 * i))
def hMetric (h : BitVec 512) : Bool := fld (hWord h 0) 8 8 == 1
def hFmt (h : BitVec 512) : Nat := fld (hWord h 0) 13 12
def hGraph (h : BitVec 512) : Nat := fld (hWord h 0) 37 32
def hPrio (h : BitVec 512) : Nat := fld (hWord h 0) 45 40
def hEntry (h : BitVec 512) : BitVec 32 := BitVec.ofNat 32 (hWord h 1).toNat
def hK (h : BitVec 512) : Nat := fld (hWord h 1) 37 32
def hEf (h : BitVec 512) : Nat := fld (hWord h 1) 46 40
def hBudget (h : BitVec 512) : Nat := fld (hWord h 2) 31 0
def hRes (h : BitVec 512) : W64 := hWord h 3
def hFlag (h : BitVec 512) : W64 := hWord h 4
def hFval (h : BitVec 512) : Nat := fld (hWord h 5) 31 0

def headerWrong (s : State) (ctx : Nat) (h : BitVec 512) : Bool :=
  (hWord h 0 &&& ~~~0x3F3F0000310F#64) != 0 || (hWord h 1 &&& ~~~0x7F3FFFFFFFFF#64) != 0 || hWord h 2 >>> 32 != 0 ||
  hWord h 5 >>> 32 != 0 || hWord h 6 != 0 || hWord h 7 != 0 || fld (hWord h 0) 3 0 != 1 || hFmt h == 3 ||
  (match tget s.un.nngraphs (hGraph h) with
    | none => true
    | some g => g.ctx != ctx || !nodeOk g.desc (hEntry h)) ||
  hK h == 0 || decide (32 < hK h) || decide (hEf h < hK h) || decide (64 < hEf h) || hBudget h == 0 ||
  (hRes h != 0 && (!inWindow (hRes h) || (hRes h).toNat % 8 != 0 || !rangeFits (hRes h) (8 * hK h))) ||
  (hFlag h != 0 && flagBad (hFlag h))

/-! ### Distance and order (R399, R400) -/

/-- Element `i` of a vector of lines. -/
def vecElem (l : List W512) (fmt i : Nat) : FV :=
  let per := 64 / elBytes fmt
  dec (elTy fmt) (elem (l.getD (i / per) 0) (8 * elBytes fmt) (i % per)) 0

def f32 (r : FR) : FV := dec .f32 (roundR .f32 r .rne).1 0

/-- One lane over the chunks from `c` on. -/
def laneGo (ip : Bool) (q x : List W512) (qf xf dim lane : Nat) : Nat → Nat → FV → FV
  | 0, _, a => a
  | n + 1, c, a =>
    let i := 16 * c + lane
    let qv := if i < dim then vecElem q qf i else FV.zero false
    let xv := if i < dim then vecElem x xf i else FV.zero false
    let b := if ip then f32 (fFma qv xv a .rne)
      else
        let e := f32 (fAdd qv xv.negate .rne)
        f32 (fFma e e a .rne)
    laneGo ip q x qf xf dim lane n (c + 1) b

/-- The distance of a query vector and a record's vector, in FP32. -/
def distOf (ip : Bool) (q x : List W512) (qf xf dim : Nat) : BitVec 32 :=
  let lanes := (List.range 16).map (fun l => laneGo ip q x qf xf dim l ((dim + 15) / 16) 0 (FV.zero false))
  let sum := (treeGo (fun a b => f32 (fAdd a b .rne)) 4 lanes).headD (FV.zero false)
  BitVec.ofNat 32 (rnd .f32 (if ip then sum.negate else sum) .rne).1

def entFv (d : BitVec 32) : FV := dec .f32 d.toNat 0

/-- Distances in order; -0 equals +0 (R400). -/
def distLt (a b : BitVec 32) : Bool := fLt (entFv a) (entFv b) && !fEq (entFv a) (entFv b)

/-- Entries in order of distance, then identifier (R400). -/
def entLt (e f : QEnt) : Bool :=
  distLt e.d f.d || (fEq (entFv e.d) (entFv f.d) && decide (e.id.toNat < f.id.toNat))

def entInsert (e : QEnt) : List QEnt → List QEnt
  | [] => [e]
  | f :: r => if entLt e f then e :: f :: r else f :: entInsert e r

/-- offer(n, d) (R401); a NaN is counted and not offered (R400). -/
def offerNode (q : Query) (n d : BitVec 32) : Query :=
  if (entFv d).isNaN then { q with nans := q.nans + 1 }
  else
    let e : QEnt := ⟨d, n⟩
    let fits := decide (q.found.length < hK q.hdr) || (match q.found.getLast? with
      | some l => entLt e l
      | none => true)
    if fits then
      { q with found := (entInsert e q.found).take (hK q.hdr), cand := (entInsert e q.cand).take (hEf q.hdr) }
    else q

/-! ### Reads beneath the caches (R396, R404, R407) -/

/-- A line as the stack holds it, whatever L2 holds of it, or none when it is poisoned there. -/
def attarLine (s : State) (line kid : Nat) : State × Option W512 :=
  let t := checkLine s line
  if poisonBeneath t line || stackDead t (line * 64) then (t, none) else (t, some (hbmLine t line (some kid)))

def attarLines (kid : Nat) : Nat → State → Nat → State × Option (List W512)
  | 0, s, _ => (s, some [])
  | n + 1, s, line =>
    let p := attarLine s line kid
    let r := attarLines kid n p.1 (line + 1)
    (r.1, match p.2, r.2 with
      | some w, some l => some (w :: l)
      | _, _ => none)

/-- The pseudo-channels of a read, by superblock (06_memory R153). -/
def channelsOf (r : Nat × Nat) : List Nat :=
  (List.range ((r.1 + r.2 - 1) / 256 - r.1 / 256 + 1)).map (fun i => (r.1 / 256 + i) % 64)

def heldKey (reader p : Nat) : Nat := 64 * (reader + 1) + p

/-- A key that a table does not hold is entered. -/
def tnew (t : Tbl Nat) (k v : Nat) : Tbl Nat := if (tget t k).isSome then t else tput t k v

/-- Whether the reads of one engine or distance unit at a stack may start: not while the stack retrains or a window is
open, unless starvation has admitted each of their bursts there; reads that may not are noted with the time their wait began and
the bursts still to start (R407, R409). -/
def gateReads (s : State) (stack reader : Nat) (reads : List (Nat × Nat)) : Except State State :=
  let x := getStack s stack
  if x.st == .retraining then .error s
  else
    let all := reads.flatMap channelsOf
    let ps := all.dedup
    let shut := ps.filter (fun p => (tget x.open_ p).isSome && tget x.bursts (heldKey reader p) != some 0)
    if !shut.isEmpty then
      .error (putStack s stack { x with
        held := shut.foldl (fun h p => tnew h (heldKey reader p) (s.out.time + 1)) x.held
        bursts := shut.foldl (fun h p => tnew h (heldKey reader p) (all.count p)) x.bursts })
    else if x.held.isEmpty then .ok s
    else .ok (putStack s stack { x with
      held := ps.foldl (fun h p => tdel h (heldKey reader p)) x.held
      bursts := ps.foldl (fun h p => tdel h (heldKey reader p)) x.bursts })

/-- ARB_WINDOW_CLOSE (R407): WINDOW ns have passed since the last ordinary read at a pseudo-channel. -/
def windowClose (s : State) (stack p : Nat) : State :=
  let x := getStack s stack
  match tget x.open_ p with
  | none => s
  | some t => if t + x.window ≤ s.out.time then putStack s stack { x with open_ := tdel x.open_ p } else s

/-- ATTAR_STARVATION (R407): one burst of the read that has waited longest, and at least STARVE windows since the last
admission, starts. -/
def starveAdmit (s : State) (stack p : Nat) : State :=
  let x := getStack s stack
  let since (v : Nat) : Nat := max (v - 1) (tgetD x.held p 0)
  let due := x.held.filter (fun e => e.1 % 64 == p && decide (64 ≤ e.1) && tgetD x.bursts e.1 0 != 0 &&
    decide (since e.2 + x.starve * x.window ≤ s.out.time))
  match bestBy (fun a b => decide (a.2 < b.2)) due with
  | none => s
  | some e =>
    if x.starve = 0 || (tget x.open_ p).isNone then s
    else putStack s stack { x with
      held := tput x.held p s.out.time, bursts := tput x.bursts e.1 (tgetD x.bursts e.1 0 - 1) }

/-! ### Engines and states (R398, R405) -/

/-- Engines of a stack in use by queries or frozen. -/
def enginesUsed (s : State) (stack : Nat) : Nat :=
  (s.un.queries.filter (fun p => p.1 / 64 == stack && p.2.st == .running)).length +
  (s.un.frozenAttar.filter (fun k => k / 64 == stack)).length

def engineFree (s : State) (stack : Nat) : Bool := decide (enginesUsed s stack < 8)

def effPrio (q : Query) : Nat := min 63 (q.prio + q.raised)

/-- The order in which ready queries take an engine. -/
def queryFirst (a b : Nat × Query) : Bool :=
  decide (effPrio b.2 < effPrio a.2) || (effPrio a.2 == effPrio b.2 &&
    (decide (a.2.seq < b.2.seq) || (a.2.seq == b.2.seq && decide (a.1 < b.1))))

def readyQueries (s : State) (stack : Nat) : List (Nat × Query) :=
  s.un.queries.filter (fun p => p.1 / 64 == stack && p.2.st == .ready)

/-- QUERY_SCHEDULE. -/
def querySchedule (s : State) (stack : Nat) : State :=
  if !engineFree s stack then s
  else match bestBy queryFirst (readyQueries s stack) with
    | none => s
    | some p => putQuery s p.1 { p.2 with st := .running, waited := p.2.waited + (s.out.time - p.2.readyAt) }

/-- QUERY_AGEING (R405): one level for every 65,536 ns the query has been ready. -/
def queryAgeing (s : State) (k : Nat) : State :=
  let q := getQuery s k
  if q.st == .ready && decide (effPrio q < 63) &&
      decide (65536 * (q.raised + 1) ≤ q.waited + (s.out.time - q.readyAt)) then
    putQuery s k { q with raised := q.raised + 1 }
  else s

/-! ### Answers and ends (R411, R412) -/

/-- Result entry `i`, or nothing found (R403). -/
def resultWord (q : Query) (i : Nat) : W64 :=
  match q.found[i]? with
  | some e => if i < hK q.hdr then BitVec.ofNat 64 (e.id.toNat * 2 ^ 32 + e.d.toNat) else 0xFFFFFFFF7F800000
  | none => 0xFFFFFFFF7F800000

def collectWords (q : Query) (first n : Nat) : List W64 :=
  if q.st == .cancelled then List.replicate n (BitVec.allOnes 64)
  else (List.range n).map (fun i => resultWord q (first + i))

/-- A query ends; the collection requests and the NNCANs that wait for it are answered. -/
def endQuery (s : State) (k : Nat) (st : QuerySt) : State :=
  let q := { getQuery s k with st := st, endSeq := s.nextId, cancel := false }
  let t := { putQuery s k q with nextId := s.nextId + 1 }
  let id := queryId k q
  let mine := t.un.collects.filter (fun c => c.id == id)
  let u := waitersOver (t.mapUn (fun v => { v with collects := v.collects.filter (fun c => c.id != id) })) (.cancel k)
    (if st = .cancelled then 0 else 1)
  mine.foldl (fun v c => answer v c.ctx c.core c.q c.key (collectWords q c.first c.count)) u

/-- The first cause a query meets is the one it keeps (DEDUCED, log 19). -/
def Query.fails (q : Query) (c : Nat) : Query := { q with cause := if q.cause = 0 then c else q.cause }

/-- A query commits a violation: it stops where it is, with its engine (R404; log 15). -/
def queryViolates (s : State) (k : Nat) : State :=
  let stack := k / 64
  tellViolation (s.mapUn (fun u => { u with frozenAttar := k :: u.frozenAttar })) (getQuery s k).ctx (stack / 3) 1
    (3072 + stack)

def queryFrozen (s : State) (k : Nat) : Bool := s.un.frozenAttar.contains k

/-- The cluster from whose TLB a stack's engines translate: the first of the home die. -/
def stackCluster (stack : Nat) : Nat := stack / 3 * 32

/-- QUERY_VECTOR_READ (R398, R403, R404). -/
def vectorRead (s : State) (k : Nat) : State :=
  let q := getQuery s k
  if q.st != .reading || queryFrozen s k then s
  else
    let n := vecBytes (ngDim (descOf s (hGraph q.hdr))) (hFmt q.hdr)
    match engReads s (stackCluster (k / 64)) q.ctx q.asid (leaAdd q.pkt 0x40) n with
    | .waits t => keepAsked s t
    | .got t l false =>
      putQuery t k { q with st := .ready, readyAt := s.out.time,
                            vecWords := (List.range (n / 64)).map (fun i => lineOf ((l.drop (64 * i)).take 64)) }
    | .got t _ true => putQuery t k ({ q with st := .completing }.fails 0x0F)
    | .fails c => putQuery s k ({ q with st := .completing }.fails c)
    | .violates => queryViolates s k

/-! ### The search (R401, R402) -/

/-- The neighbours of a hop, each judged in order. -/
def takeNode (d : BitVec 1024) (acc : Query × List (BitVec 32)) (n : BitVec 32) : Query × List (BitVec 32) :=
  let q := acc.1
  if !nodeOk d n then ({ q with badId := q.badId + 1 }, acc.2)
  else if q.visited.contains n.toNat then acc
  else if q.visited.length < 1024 then ({ q with visited := q.visited ++ [n.toNat] }, acc.2 ++ [n])
  else ({ q with unrec := q.unrec + 1 }, acc.2 ++ [n])

/-- The identifiers of an ADJ block, before the first 0xFFFF_FFFF. -/
def adjIds (l : List W512) : List (BitVec 32) :=
  ((List.range 32).map (fun j => BitVec.ofNat 32 (elem (l.getD (j / 16) 0) 32 (j % 16)))).takeWhile
    (fun n => n != 0xFFFFFFFF)

/-- The stack a node lies in. -/
def nodeStack (n : BitVec 32) : Nat := fld n 31 27

/-- A hop's nodes are to be measured: those of other stacks go out in batches, in ascending stack number. -/
def startHop (s : State) (k : Nat) (q : Query) (l : List (BitVec 32)) : State :=
  let far := (List.range 12).filter (fun st => st != k / 64 && l.any (fun n => nodeStack n == st))
  let q := { q with hop := l.map (fun n => (n, none)), cur := none, batch := q.batch + far.length }
  far.foldl (fun t st =>
    { t with
      un := { t.un with batches := t.un.batches ++ [⟨t.nextId, k, st, l.filter (fun n => nodeStack n == st), false⟩] }
      nextId := t.nextId + 1 }) (putQuery s k q)

/-- The distances of nodes that lie in one stack; a poisoned record answers none. -/
def measureAll (d : BitVec 1024) (q : Query) : List (BitVec 32) → State → State × List (BitVec 32 × Option (BitVec 32))
  | [], s => (s, [])
  | n :: r, s =>
    let p := attarLines (ngKey d) (vlenOf d / 64) s (recordAt d n / 64)
    let t := measureAll d q r p.1
    (t.1, (n, p.2.map (fun x => distOf (hMetric q.hdr) q.vecWords x (hFmt q.hdr) (ngFmt d) (ngDim d))) :: t.2)

/-- Measured distances join the hop; the nodes of `drop` have answered with poison. -/
def joinHop (q : Query) (ds : List (BitVec 32 × BitVec 32)) (drop : List (BitVec 32)) : Query :=
  let hop := (q.hop.filter (fun h => !drop.contains h.1)).map (fun h =>
    match ds.find? (fun e => e.1 == h.1) with
    | some e => (h.1, some e.2)
    | none => h)
  { q with hop := hop, poison := q.poison || !drop.isEmpty }

/-- The ADJ block of candidate `n` of a hop is read in its stack for query `k`; the hop's nodes follow from it (R401). -/
def adjFrom (s : State) (k reader : Nat) (n : BitVec 32) : Except State State :=
  let q := getQuery s k
  let d := descOf s (hGraph q.hdr)
  match gateReads s (nodeStack n) reader [(adjAt d n, 128)] with
  | .error t => .error t
  | .ok t =>
    let p := attarLines (ngKey d) 2 t (adjAt d n / 64)
    match p.2 with
    | none => .ok (startHop p.1 k { q with poison := true } [])
    | some l =>
      let r := (adjIds l).foldl (takeNode d) (q, [])
      .ok (startHop p.1 k r.1 r.2)

/-- DISTANCE_BATCH (R402): the distance unit of a stack serves the batch that arrived first. A batch that meets a poisoned
line answers with poison alone (DEDUCED, log 19). -/
def distanceBatch (s : State) (id : Nat) : State :=
  match s.un.batches.find? (fun b => b.id == id) with
  | none => s
  | some b =>
    if ((s.un.batches.takeWhile (fun c => c.id != id)).any (fun c => c.stack == b.stack)) then s
    else
      let q := getQuery s b.query
      let d := descOf s (hGraph q.hdr)
      let gone (u : State) : State := u.mapUn (fun v => { v with batches := v.batches.filter (fun c => c.id != id) })
      if b.adj then
        (match adjFrom s b.query (768 + id) (b.ids.headD 0) with
          | .error t => t
          | .ok t => gone t)
      else match gateReads s b.stack (768 + id) (b.ids.map (fun n => (recordAt d n, vlenOf d))) with
      | .error t => t
      | .ok t =>
        let m := measureAll d q b.ids t
        let q' := if m.2.any (fun e => e.2.isNone) then joinHop q [] b.ids
          else joinHop q (m.2.filterMap (fun e => e.2.map (fun v => (e.1, v)))) []
        gone (putQuery m.1 b.query q')

/-- A query suspends at a hop boundary; its engine is free. -/
def suspend (s : State) (k : Nat) (q : Query) : State := putQuery s k { q with st := .suspended, susp := q.susp + 1 }

/-- The search is over (R401): no candidate, none that can improve a full result list, or the budget is spent. -/
def searchOver (q : Query) : Bool :=
  match q.cand.head? with
  | none => true
  | some c =>
    (q.found.length == hK q.hdr && (match q.found.getLast? with
      | some l => distLt l.d c.d
      | none => false)) || q.exp == hBudget q.hdr

/-- The hold of R407 and R409 on the next candidate of a query. -/
def holdsBackQuery (s : State) (k : Nat) (q : Query) : Bool :=
  ctxLife s q.ctx == 2 ||
  (getStack s (k / 64)).st == .pending || (getStack s (k / 64)).st == .retraining ||
  (match q.cand.head? with
    | some c => (tget (getStack s (nodeStack c.id)).open_ (channelOf (adjAt (descOf s (hGraph q.hdr)) c.id))).isSome
    | none => false)

/-- A waiting query of higher effective priority, with no engine free (R405). -/
def outranked (s : State) (k : Nat) (q : Query) : Bool :=
  !engineFree s (k / 64) && (readyQueries s (k / 64)).any (fun p => decide (effPrio q < effPrio p.2))

/-- The search starts with the measurement of ENTRY. Then each hop boundary is judged: the holds, of which a pending cancel ends
the query, and after them the stop conditions (R401, R405, R407, R409, R412). -/
def boundary (s : State) (k : Nat) : State :=
  let q := getQuery s k
  if q.visited.isEmpty then
    startHop s k { q with visited := [(hEntry q.hdr).toNat], inHop := true } [hEntry q.hdr]
  else if q.cancel then endQuery (suspend s k q) k .cancelled
  else if holdsBackQuery s k q || outranked s k q then suspend s k q
  else if searchOver q then putQuery s k { q with st := .completing }
  else match q.cand with
    | c :: r => putQuery s k { q with cand := r, cur := some c.id, inHop := true }
    | [] => s

/-- The ADJ block of the candidate of a hop is read: in the home stack by the query's engine; in another stack, which the
engine does not read, through a request that the stack's distance unit serves in turn (01_machine R19; DEDUCED, log 19). -/
def readAdj (s : State) (k : Nat) : State :=
  match (getQuery s k).cur with
  | none => s
  | some n =>
    if nodeStack n = k / 64 then
      (match adjFrom s k k n with
        | .error t => t
        | .ok t => t)
    else if s.un.batches.any (fun b => b.query == k && b.adj) then s
    else { s with
      un := { s.un with batches := s.un.batches ++ [⟨s.nextId, k, nodeStack n, [n], true⟩] }
      nextId := s.nextId + 1 }

/-- The nodes of the home stack are measured by the query's engine. -/
def measureHome (s : State) (k : Nat) : State :=
  let q := getQuery s k
  let mine := (q.hop.filter (fun h => h.2.isNone && nodeStack h.1 == k / 64)).map (·.1)
  if mine.isEmpty then s
  else
    let d := descOf s (hGraph q.hdr)
    match gateReads s (k / 64) k (mine.map (fun n => (recordAt d n, vlenOf d))) with
    | .error t => t
    | .ok t =>
      let m := measureAll d q mine t
      putQuery m.1 k (joinHop q (m.2.filterMap (fun e => e.2.map (fun v => (e.1, v))))
        ((m.2.filter (fun e => e.2.isNone)).map (·.1)))

/-- Every measurement has answered: the hop's nodes are offered in order, and the next boundary is judged. The measurement
of ENTRY is no hop. -/
def endHop (s : State) (k : Nat) : State :=
  let q := getQuery s k
  let first := q.exp == 0 && q.found.isEmpty && q.nans == 0
  let r := q.hop.foldl (fun (x : Query) h => match h.2 with
    | some dd => offerNode x h.1 dd
    | none => x) q
  let r := { r with hop := [], inHop := false, exp := if first then q.exp else q.exp + 1 }
  if r.poison && !r.cancel then putQuery s k ({ r with st := .completing }.fails 0x0F)
  else boundary (putQuery s k r) k

/-- QUERY_HOP. -/
def queryHop (s : State) (k : Nat) : State :=
  let q := getQuery s k
  if q.st != .running || queryFrozen s k then s
  else if !q.inHop then boundary s k
  else
    let t := readAdj s k
    if (getQuery t k).cur.isSome then t
    else
      let u := measureHome t k
      let r := getQuery u k
      if r.hop.any (fun h => h.2.isNone) then u else endHop u k

/-- QUERY_RESUME (R405, R407, R409): every hold has cleared. A query that gave way to a higher one is ready again at once. -/
def queryResume (s : State) (k : Nat) : State :=
  let q := getQuery s k
  if q.st == .suspended && !holdsBackQuery s k q then putQuery s k { q with st := .ready, readyAt := s.out.time } else s

/-! ### Completion (R403, R404) -/

/-- The address of result entry `i`. -/
def resAddr (q : Query) (i : Nat) : W64 := leaAdd (hRes q.hdr) (BitVec.ofNat 64 (8 * i))

/-- The result entries written in order; a fault stops them. What memory does not answer yet is asked again. -/
def writeResults (k : Nat) : List Nat → State → Except State (State × Option Nat)
  | [], s => .ok (s, none)
  | i :: r, s =>
    let q := getQuery s k
    match engPut s (stackCluster (k / 64)) q.ctx q.asid (resAddr q i) (bytesOf (resultWord q i).toNat 8) with
    | .done t => writeResults k r t
    | .fails c => .ok (s, some c)
    | .violates => .ok (s, some 256)
    | .waits t => .error t

/-- Step 2 of a completion: the results are written, and the flag to come makes it a release (07_ordering R172). -/
def queryResults (s : State) (k : Nat) : Except State State :=
  let q := getQuery s k
  if q.released then .ok s
  else match (if hRes q.hdr = 0 then .ok (s, none) else writeResults k (List.range (hK q.hdr)) s) with
    | .error t => .error (keepAsked s t)
    | .ok (_, some 256) => .error (queryViolates s k)
    | .ok (t, c) =>
      let q := match c with | some e => q.fails e | none => q
      let far := hRes q.hdr != 0 && (match engResolve t (stackCluster (k / 64)) q.ctx q.asid (hRes q.hdr) .store with
        | .ok (_, place, _) => place.isPeer
        | _ => false)
      .ok (putQuery (if hFlag q.hdr = 0 then t else unitRelease t (k / 64 / 3)) k
        { q with released := true, peerWin := if far then some (windowNow t) else none })

/-- QUERY_COMPLETE (R403): the results, then the flag; a destination on a peer chip makes the flag wait for its time window
(07_ordering R172, R179). -/
def queryComplete (s : State) (k : Nat) : State :=
  if (getQuery s k).st != .completing || queryFrozen s k then s
  else match queryResults s k with
    | .error t => t
    | .ok t =>
      let q := getQuery t k
      let finishWith (u : State) (q : Query) : State :=
        endQuery (putQuery u k q) k (if q.cause = 0 then .done else .faulted)
      if hFlag q.hdr = 0 then finishWith t q
      else if !windowMet t q.peerWin then t
      else match engPut t (stackCluster (k / 64)) q.ctx q.asid (hFlag q.hdr) (bytesOf (hFval q.hdr) 4) with
        | .done u => finishWith u q
        | .fails e => finishWith t (q.fails e)
        | .violates => queryViolates t k
        | .waits u => keepAsked t u

/-! ### The port of KIND 3 (R410, R411) -/

/-- A query is posted: the result word is its identifier, or 0 when no slot is free. -/
def postQuery (s : State) (n qn stack : Nat) (addr : W64) (h : BitVec 512) : State × W64 :=
  match querySlot s stack with
  | none => (s, 0)
  | some k =>
    let c := getCore s n
    let x : Query := { Query.fresh with
      gen := nextGen (getQuery s k).gen 22, st := .reading, ctx := ctxNum c, asid := curAsid c, core := n, q := qn
      pkt := addr, hdr := h, prio := hPrio h, seq := s.nextId }
    ({ putQuery s k x with nextId := s.nextId + 1 }, (queryId k x).zeroExtend 64)

def refused (c : Nat) : W64 := BitVec.ofNat 64 (2 ^ 63 + c)

/-- The header of a packet that QW posts is read by the port. -/
def portHeader (s : State) (c : Core) (stack : Nat) (a : W64) : Except State (State × (Nat ⊕ BitVec 512)) :=
  if fld a 5 0 ≠ 0 then .ok (s, .inl 3)
  else match engReads s (clusterOf c.pos) (ctxNum c) (curAsid c) a 64 with
    | .waits t => .error t
    | .got t l false =>
      let h := lineOf l
      .ok (t, if headerWrong t (ctxNum c) h then .inl 4 else .inr h)
    | .got t _ true => .ok (t, .inl 0x0F)
    | .fails e => .ok (s, .inl e)
    | .violates => .ok (tellViolation s (ctxNum c) (stack / 3) 1 (3072 + stack), .inl 4)

/-- The port takes a command of core `n`, or asks memory for it and takes it later. -/
def queryPort (s : State) (n qn : Nat) (c : QCmd) : Except State State :=
  let k := getCore s n
  let ctx := ctxNum k
  let stack := (getQ k qn).unit
  let key := s.nextId
  let owed := { oweAnswer s n qn key with nextId := s.nextId + 1 }
  let post (t : State) (a : W64) (h : BitVec 512) : State :=
    let p := postQuery t n qn stack a h
    answer p.1 ctx n qn key [p.2]
  match c with
  | .word a _ _ => match portHeader owed k stack a with
    | .error t => .error t
    | .ok (t, .inl e) => .ok (answer t ctx n qn key [refused e])
    | .ok (t, .inr h) => .ok (post t a h)
  | .query a h => .ok (if headerWrong s ctx h then answer owed ctx n qn key [refused 4] else post owed a h)
  | .collect id f m =>
    match queryOf s ctx id with
    | none => .ok (answer owed ctx n qn key (List.replicate m (BitVec.allOnes 64)))
    | some j =>
      let q := getQuery s j
      if q.ended then .ok (answer owed ctx n qn key (collectWords q f m))
      else .ok (owed.mapUn (fun u => { u with collects := u.collects ++ [⟨ctx, n, qn, key, id, f, m⟩] }))
  | .copy _ _ _ _ _ => .ok s

/-! ### Instructions (R410 to R414) -/

/-- A command of NNQ or NNRES enters the FIFO. -/
def pushQuery (s : State) (qn kind : Nat) (words : List W64) (c : QCmd) : Eff :=
  postCmd s kind (BitVec.ofNat 64 qn :: words) qn c

def nnqEff (s : State) (qn : Nat) (a : W64) : Eff :=
  if (getQ s.core qn).kind ≠ 3 then trap 0x0A (BitVec.ofNat 64 qn)
  else if fld a 5 0 ≠ 0 then trap 0x03 a
  else match loadWords s a 8 with
    | .error e => .error e
    | .ok (t, l) =>
      let h := BitVec.ofNat 512 (packNat 64 (l.map (·.toNat)))
      if headerWrong t (ctxNum t.core) h then trap 0x04 a else pushQuery t qn 5 [a] (.query a h)

/-- NNQ (R410). -/
def execNnq (d : Code3) (a : Reg) (s : State) : Host.Outcome State Fault Refusal := finish s (nnqEff s d.toNat (s.x a))

def nnresEff (s : State) (qn : Nat) (xa xb : W64) : Eff :=
  if (getQ s.core qn).kind ≠ 3 then trap 0x0A (BitVec.ofNat 64 qn)
  else if fld xa 63 32 ≠ 0 then trap 0x04 xa
  else if (xb &&& ~~~0x1F1F#64) ≠ 0 ∨ fld xb 12 8 = 0 ∨ 16 < fld xb 12 8 ∨ 32 < fld xb 4 0 + fld xb 12 8 then
    trap 0x04 xb
  else pushQuery s qn 6 [xa, xb] (.collect (BitVec.ofNat 32 xa.toNat) (fld xb 4 0) (fld xb 12 8))

/-- NNRES (R411). -/
def execNnres (d : Code3) (a b : Reg) (s : State) : Host.Outcome State Fault Refusal :=
  finish s (nnresEff s d.toNat (s.x a) (s.x b))

def nncanEff (s : State) (d : Reg) (xa : W64) : Eff :=
  match s.core.wait with
  | some ⟨_, .status w⟩ => .ok (setXI s d (BitVec.ofNat 64 w) 2)
  | _ =>
  if fld xa 63 32 ≠ 0 then trap 0x04 xa
  else match queryOf s (ctxNum s.core) (BitVec.ofNat 32 xa.toNat) with
    | none => .ok (setXI s d 2 2)
    | some k =>
      let q := getQuery s k
      match q.st with
      | .cancelled => .ok (setXI s d 0 2)
      | .done => .ok (setXI s d 1 2)
      | .faulted => .ok (setXI s d 1 2)
      | .running => .error (.wait (putQuery s k { q with cancel := true }) (.cancel k))
      | .completing => .error (.wait s (.cancel k))
      | _ => .ok (setXI (endQuery s k .cancelled) d 0 2)

/-- NNCAN (R412). -/
def execNncan (d a : Reg) (s : State) : Host.Outcome State Fault Refusal := finish s (nncanEff s d (s.x a))

/-- Whether a query that has not ended uses a graph. -/
def graphUsed (s : State) (g : Nat) : Bool := s.un.queries.any (fun p => p.2.live && hGraph p.2.hdr == g)

def nnloadEff (s : State) (d : Reg) (xa xb : W64) : Eff :=
  needsMode s 1 (
    let g := xa.toNat
    if 63 < g then trap 0x04 xa
    else if (match tget s.un.nngraphs g with
        | some x => x.ctx != ctxNum s.core
        | none => false) then .ok (setXI s d 2 12)
    else if graphUsed s g then .ok (setXI s d 1 12)
    else if xb = 0 then .ok (setXI (s.mapUn (fun u => { u with nngraphs := tdel u.nngraphs g })) d 0 12)
    else if fld xb 5 0 ≠ 0 then trap 0x03 xb
    else match loadWords s xb 16 with
      | .error e => .error e
      | .ok (t, l) =>
        let desc := BitVec.ofNat 1024 (packNat 64 (l.map (·.toNat)))
        if graphBad desc then trap 0x04 xb
        else .ok (setXI (t.mapUn (fun u => { u with nngraphs := tput u.nngraphs g ⟨ctxNum t.core, desc⟩ })) d 0 12))

/-- NNLOAD (R413). -/
def execNnload (d a b : Reg) (s : State) : Host.Outcome State Fault Refusal := finish s (nnloadEff s d (s.x a) (s.x b))

def queryCode : QuerySt → Nat
  | .free => 15 | .reading => 0 | .ready => 1 | .running => 2 | .suspended => 3 | .completing => 4 | .done => 5
  | .faulted => 6 | .cancelled => 7

def queryWord (q : Query) (sel : Nat) : W64 :=
  match sel with
  | 0 => BitVec.ofNat 64 (queryCode q.st * 2 ^ 60 + q.cause % 256 * 2 ^ 52 + q.found.length % 64 * 2 ^ 46 +
      q.cand.length % 128 * 2 ^ 39 + min q.exp (2 ^ 32 - 1))
  | 1 => BitVec.ofNat 64 (min q.unrec 65535 * 2 ^ 48 + min q.susp 65535 * 2 ^ 32 + min q.batch 65535 * 2 ^ 16 +
      min q.badId 255 * 2 ^ 8 + min q.nans 255)
  | _ => BitVec.ofNat 64 q.visited.length

/-- The L2-hit latency toward the die that homes the stack of an identifier (06_memory R149). DESIGN CHOICE: no hops are
counted, for R414 names a die and no slice. -/
def statLatency (s : State) (id : W64) : Nat := if fld id 31 28 / 3 = dieOf s.core.pos then 36 else 100

def nnstatEff (s : State) (d : Reg) (xa xb : W64) : Eff :=
  if fld xa 63 32 ≠ 0 then trap 0x04 xa
  else if 2 < xb.toNat then trap 0x04 xb
  else match queryOf s (ctxNum s.core) (BitVec.ofNat 32 xa.toNat) with
    | none => .ok (setXI s d (if xb = 0 then BitVec.ofNat 64 (15 * 2 ^ 60) else 0) (statLatency s xa))
    | some k => .ok (setXI s d (queryWord (getQuery s k) xb.toNat) (statLatency s xa))

/-- NNSTAT (R414). -/
def execNnstat (d a b : Reg) (s : State) : Host.Outcome State Fault Refusal := finish s (nnstatEff s d (s.x a) (s.x b))

/-! ### Events -/

/-- QUERY_VECTOR_READ. -/
def execQueryVectorRead (s : State) : Host.Outcome State Fault Refusal := .next (vectorRead s s.arg.a)
/-- QUERY_SCHEDULE (R405). -/
def execQuerySchedule (s : State) : Host.Outcome State Fault Refusal := .next (querySchedule s s.arg.a)
/-- DISTANCE_BATCH (R402). -/
def execDistanceBatch (s : State) : Host.Outcome State Fault Refusal := .next (distanceBatch s s.arg.a)
/-- QUERY_HOP (R401). -/
def execQueryHop (s : State) : Host.Outcome State Fault Refusal := .next (queryHop s s.arg.a)
/-- QUERY_RESUME (R398). -/
def execQueryResume (s : State) : Host.Outcome State Fault Refusal := .next (queryResume s s.arg.a)
/-- QUERY_COMPLETE (R403). -/
def execQueryComplete (s : State) : Host.Outcome State Fault Refusal := .next (queryComplete s s.arg.a)
/-- QUERY_AGEING (R405). -/
def execQueryAgeing (s : State) : Host.Outcome State Fault Refusal := .next (queryAgeing s s.arg.a)
/-- ARB_WINDOW_CLOSE (R407). -/
def execArbWindowClose (s : State) : Host.Outcome State Fault Refusal := .next (windowClose s s.arg.a s.arg.b)
/-- ATTAR_STARVATION (R407). -/
def execAttarStarvation (s : State) : Host.Outcome State Fault Refusal := .next (starveAdmit s s.arg.a s.arg.b)

end Sys2Proof.Machine
end

