-- ==== Sys2Proof/Machine/Context.lean ====
section
/-! DEFINITION. Contexts: CTXSW, the save, the restore, allocation, teardown and the slice (09_context R227 to R229, R238 to
R246, R252; 10_queue R265, R270; 12_group R302; 14_tile R341; 16_copy R363; 25_life R445). -/
namespace Sys2Proof.Machine

/-! ### The image of a core (R240, R270) -/

def wordBytes (l : List W64) : List Byte := l.flatMap (fun w => bytesOf w.toNat 8)

/-- TAGTAB (10_queue R270). -/
def tagBytes (l : List (BitVec 16 × BitVec 32)) : List Byte :=
  wordBytes ((List.range 64).map (fun i => match l[i]? with
    | some t => BitVec.ofNat 64 (2 ^ 63 + t.1.toNat * 2 ^ 32 + t.2.toNat)
    | none => 0))

/-- STRM of one register (16_copy R363). -/
def streamBytes (x : Option Stream) : List Byte :=
  match x with
  | none => List.replicate 64 0
  | some x => wordBytes [x.base, BitVec.ofNat 64 (x.s1.toNat + x.c1.toNat * 2 ^ 32 + x.c2.toNat * 2 ^ 48),
      BitVec.ofNat 64 (x.s2.toNat + x.s3.toNat * 2 ^ 32), BitVec.ofNat 64 (x.c3.toNat + b2n x.dir * 2 ^ 16),
      BitVec.ofNat 64 (x.i1 + x.i2 * 2 ^ 16 + x.i3 * 2 ^ 32 + b2n x.exh * 2 ^ 62 + 2 ^ 63), 0, 0, 0]

/-- A stream in its saved position; nothing is fetched (16_copy R363). -/
def streamBack (l : List Byte) : Option Stream :=
  let w (i : Nat) : W64 := wordOf ((l.drop (8 * i)).take 8)
  if fld (w 4) 63 63 = 0 then none
  else (streamOf ((List.range 4).map w)).map (fun x =>
    let i1 := fld (w 4) 15 0
    let i2 := fld (w 4) 31 16
    let i3 := fld (w 4) 47 32
    { x with i1 := i1, i2 := i2, i3 := i3, exh := fld (w 4) 62 62 == 1
             count := i1 + x.c1.toNat * (i2 + x.c2.toNat * i3) })

/-- The regions of the image but HDR, LMEM and FRAMES, for the core in focus: offset and bytes. -/
def imageRegions (s : State) : List (Nat × List Byte) :=
  let c := s.core
  let qs := List.range 8
  [(0x40, wordBytes ((List.range 7).map (fun i => tgetD c.sc.glob (i + 1) 0))),
   (0x80, wordBytes ((List.range 136).map (fun i => tgetD c.sc.ring i 0))),
   (0x500, wordBytes (sregList.map (sysGet s))),
   (0x700, wordBytes (qs.map (fun q => qbindWord (getQ c q)))),
   (0x740, tagBytes c.mail.tags),
   (0x980, qs.flatMap (fun q => wordBytes ((List.range 16).map (fun i => (getQ c q).res.getD i 0)))),
   (0xD80, qs.flatMap (fun q => bytesOf (getQ c q).res.length 1)),
   (0x1000, (List.range 8).flatMap (fun r => bytesOf (tgetD c.vec.own r 0).toNat 64)),
   (0x1200, (List.range 8).flatMap (fun r => streamBytes (tget c.vec.streams (24 + r)))),
   (0x1400, bytesOf ((c.mail.insvc.map msgLine).getD 0) 64),
   (0x1800, c.mail.cpyq.flatMap (fun e => bytesOf (e.2.toNat + e.1.toNat * 2 ^ 32) 8))]

/-- HDR: SEQ, per-core state, pc, STATUS, window position and UIN depth, the measured cycles, HFLAGS and PEND0B (R240; the
places inside bytes 4 and 24 to 31 are the model's, log 20). -/
def headerBytes (c : Core) (seq code hflags : Nat) : List Byte :=
  bytesOf (seq + code * 2 ^ 32 + c.pc.toNat * 2 ^ 64 + c.sys.status.toNat * 2 ^ 128 + c.sc.base % 256 * 2 ^ 192 +
    c.sc.res % 256 * 2 ^ 200 + c.sc.spilled % 65536 * 2 ^ 208 + c.ev.uinDepth % 2 ^ 32 * 2 ^ 224 +
    c.ev.saveCycles.getD 0 % 2 ^ 32 * 2 ^ 256 + c.ev.restoreCycles.getD 0 % 2 ^ 32 * 2 ^ 288 + hflags * 2 ^ 320 +
    (c.ev.pend0B.headD 0).toNat * 2 ^ 384) 64

/-! ### Local memory and its image, line by line, with its poison -/

/-- A line of the context that was poisoned stays so. -/
def poisonAt (s : State) (cl ctx va : Nat) : State :=
  match devResolve s cl ctx (ctxAsid s ctx) (BitVec.ofNat 64 va) .store with
  | .ok (t, _, key) => poisonLine t (lineKeyOf key)
  | .error _ => s

def localOut (cl ctx n area : Nat) : Nat → State → Except State State
  | 0, s => .ok s
  | k + 1, s =>
    let key := localKey n (64 * k)
    let va := area + 0x2000 + 64 * k
    match devSet s cl ctx va (mread s.mem key 64) with
    | .error t => .error t
    | .ok t => localOut cl ctx n area k (if isPoisoned s (lineKeyOf key) then poisonAt t cl ctx va else t)

def localIn (cl ctx n area : Nat) : Nat → State → Except State State
  | 0, s => .ok s
  | k + 1, s =>
    let key := localKey n (64 * k)
    match devRead s cl ctx (ctxAsid s ctx) (BitVec.ofNat 64 (area + 0x2000 + 64 * k)) 64 with
    | .got u l bad =>
      let v := rawWrite u (cellsAt key l)
      localIn cl ctx n area k (if bad then poisonLine v (lineKeyOf key) else v)
    | .waits t => .error (keepAsked s t)
    | .fails _ => localIn cl ctx n area k s
    | .violates => localIn cl ctx n area k s

/-! ### The save (R241, R244, R245, R252) -/

/-- The window goes back `n` times, as far as there is one to go back to. -/
def windowsOut : Nat → State → State
  | 0, s => s
  | n + 1, s => windowsOut n (if s.core.sc.res = 1 ∧ s.core.sc.spilled = 0 then s else windowOut s)

/-- The core in focus as it stood at the last monitor entry, with its window from before it, however deep the monitor has called
since (R252). -/
def beforeEntry (s : State) : State :=
  let link := s.core.sys.monlink
  let t := windowsOut (callDepth s.core.sc - s.core.ev.monDepth) s
  let st := setFld (setBit (setBit t.core.sys.status 11 (fld link 2 2 == 1)) 15 false) 1 0 (fld link 1 0)
  let u := t.mapCore (fun c => { c with pc := c.sys.monpc, sys := { c.sys with status := st } })
  if fld link 3 3 = 1 then
    (u.mapCore (fun c => { c with former := .idle })).mapSc Scalars.noWindow
  else u.mapCore (fun c => { c with former := .running })

/-- The messages of a core's queue in memory, oldest first, taken out of it; a queue whose pages are absent keeps them. -/
def drainQueue (ctx n : Nat) : Nat → State → Except State (State × List Msg)
  | 0, s => .ok (s, [])
  | k + 1, s => match queueTake s ctx n 0 with
    | .error (.waits t) => .error (keepAsked s t)
    | .error (.absent _) => .ok (s, [])
    | .error (.broke t) => .ok (t, [])
    | .error (.done t) => .ok (t, [])
    | .ok (m, t) => match drainQueue ctx n k t with
      | .error u => .error u
      | .ok (u, l) => .ok (u, m :: l)

/-- A message that leaves its core in a save: one the core has accepted, or the packet of one parked at its port. -/
inductive Leaving
  | mine (m : Msg)
  | parked (p : Packet) (m : Msg) (att : Option Att)

def Leaving.age : Leaving → Nat
  | .mine m => m.age
  | .parked _ m _ => m.age

def leavingOf (p : Packet) : Option Leaving :=
  match p.body with
  | .msg _ m att => some (.parked p m att)
  | _ => none

/-- The packet of a message that finds no room in the queue: it waits at the core's interface, ahead of what comes later. -/
def leavingPacket (s : State) (ctx n : Nat) : Leaving → Packet
  | .parked p _ _ => p
  | .mine m =>
    let die := dieOf (getCore s n).pos
    { id := s.nextId, src := .home die (96 + n), ctx := ctx, asid := ctxAsid s ctx, die := die, stamp := (getDie s die).vc
      sent := s.cycle, window := 0, addr := msgAddr n, body := .msg n { m with age := max m.age 1, far := false } (some .held)
      st := .flying, counted := false, park := none }

/-- One message goes to the queue; what had not been accepted before is accepted by it. None where there is no room. -/
def appendOne (ctx n : Nat) (s : State) : Leaving → Append
  | .mine m => queueAppend s ctx n m
  | .parked p m att => match landRow s p n att with
    | .error (.waits t) => .waits t
    | .error (.absent va) => .absent (BitVec.ofNat 64 va)
    | .ok t => match queueAppend t ctx n { m with attaching := reads att || m.attaching } with
      | .done u => .done (msgTaken { u with net := u.net ++ [p] } p n m att)
      | r => r

/-- Messages appended to the queue in order; the first that finds no room, and all behind it, wait at the interface in that
order (07_ordering R195; 10_queue R264). -/
def appendAll (ctx n : Nat) : List Leaving → List Packet → State → State
  | [], back, s => { s with net := back ++ s.net }
  | x :: r, back, s =>
    let wait (t : State) : State := appendAll ctx n r (back ++ [leavingPacket t ctx n x]) { t with nextId := t.nextId + 1 }
    if back.isEmpty then
      (match appendOne ctx n s x with
        | .done t => appendAll ctx n r back t
        | .absent _ => wait s
        | .waits t => wait (keepAsked s t)
        | .broke _ => wait ((match x with
          | .mine m => queueAppend s ctx n m
          | .parked _ m _ => queueAppend s ctx n m).left s))
    else wait s

/-- The inbox, its overflow and the packets parked at the port for the context go to the message buffer oldest first, then the
items of the deque from its top (R241; 11_kernel R290). -/
def messagesOut (ctx n : Nat) (s : State) : Except State State := do
  let (t, old) ← drainQueue ctx n (tgetD s.un.overflow (queueKey ctx n) []).length s
  let l := tgetD t.mu.parked n []
  let rest := l.filter (fun p => p.ctx != ctx || (leavingOf p).isNone)
  let msgs := sortBy (fun a b => decide (Leaving.age a ≤ Leaving.age b))
    ((t.core.mail.inbox ++ old).map .mine ++ (l.filter (fun p => p.ctx == ctx)).filterMap leavingOf)
  let top := t.core.mail.deque.reverse
  let first := t.core.mail.arrivals + 1
  let items := (List.range top.length).filterMap (fun i =>
    (top[i]?).map (fun x => Leaving.mine { itemMsg x with age := first + i }))
  let t := t.mapMail (fun m => { m with inbox := [], deque := [], arrivals := m.arrivals + top.length })
  let t := t.mapMu (fun m => { m with
    parked := tputD [] m.parked n rest
    portStop := m.portStop.filter (fun x => x.1 != n || 64 ≤ rest.length) })
  .ok (appendAll ctx n (msgs ++ items) [] t)

/-- The frames of the core in focus are saved and freed; its claims leave the pool (05_vector R118). -/
def framesOut (ctx n : Nat) (alt : Bool) (s : State) : Except State State := do
  let q := quadOf s.core.pos
  let cl := clusterOf s.core.pos
  let p := Pool.withdraw (getPool s q) n
  let t := putPool s q { p with
    claims := p.claims.filter (fun c => c.1 != n), reloads := p.reloads.filter (fun r => r != .slots n) }
  let t ← if alt = t.core.altArea then .ok t
    else (match vaGet cl ctx (saveArea t ctx n t.core.altArea + 0x12000) 0x20620 t with
      | .error u => .error u
      | .ok (u, l) => vaPut cl ctx (saveArea t ctx n alt + 0x12000) l u)
  let t ← evictCore (t.mapCore (fun c => { c with altArea := alt })) q n
  let u := t.mapVec (fun v => [1, 2, 3].foldl (fun v k => if v.slot k = .unmapped then v else v.setSlot k .evicted) v)
  .ok (putPool u q { getPool u q with used := (getPool u q).used.filter (fun f => f.2.1 != n) })

/-- The accumulator of a handle goes to HND and its slot is free; HFLAGS so far (14_tile R341). -/
def handleOut (ctx n : Nat) (acc : State × Nat) (h : Nat × Nat) : Except State (State × Nat) := do
  let cl := clusterOf acc.1.core.pos
  let x := getAcc acc.1 cl h.2
  let a := (descWord acc.1 ctx 0x30).toNat + 0x1040000 + 0x4000 * (n - ctxFirst acc.1 ctx) + 0x1000 * h.1
  let t ← vaPut cl ctx a (accBytes x) acc.1
  .ok (putAcc t cl h.2 Acc.fresh, acc.2 + x.flags.toNat * 2 ^ (5 * h.1) + 2 ^ (24 + h.1))

/-- The accumulators of all handles of the core in focus; the record of the handles stays with what the device keeps. -/
def handlesOut (ctx n : Nat) (s : State) : Except State (State × Nat) := s.core.handles.foldlM (handleOut ctx n) (s, 0)

/-- Whether another core of the context is resident in the cluster. -/
def othersHere (s : State) (cl ctx n : Nat) : Bool :=
  s.others.any (fun p => p.1 != n && !noCtx p.2 && curCtx p.2 == ctx && clusterOf p.2.pos == cl)

/-- The core in focus with no context: ASID 0, NOCTX 1, PRIO.CEIL 0, idle (R229, R252). What belongs to the context has
left it; the registers the switch does not name stand as they were (log 21). DESIGN CHOICE: R252 names only ASID, NOCTX and
PRIO.CEIL; the model leaves STATUS in monitor mode with MBANK 0 and MONINT as MONLINK saved it, and empties the return stack
of R81, which dispatch and trap entry keep. -/
def bareCore (s : State) : State :=
  let c := s.core
  let mail := { Mail.reset with arrivals := c.mail.arrivals }
  let st := setFld (setBit (setBit c.sys.status 11 (fld c.sys.monlink 2 2 == 1)) 15 false) 1 0 2
  { s with core := { c with
      run := .idle, former := .idle, wait := none, pend := [], locks := [], divUntil := 0, fbuf := none, rreg := none, freq := none
      sc := { c.sc.noWindow with rstack := [], spillBusy := false }
      vec := { c.vec with s1 := .unmapped, s2 := .unmapped, s3 := .unmapped, streams := [] }
      mail := mail
      ev := { c.ev with p81 := false, pend0B := [], point := none, ferr := none, doneBelow := 0, uinDepth := 0, sliceRem := 0, reloadOwed := []
                        sliceLen := 0, idleSince := s.cycle, saveCycles := none, restoreCycles := none }
      sys := { c.sys with asid := 0x10000, prio := 0, status := st }
      marks := [], tagged := 0, peerWindow := none, handles := [], collCount := [], collOpen := []
      task := { c.task with mov := false, sdest := [] }
      job := none, replyClock := none, altArea := false, seq := 0 } }

/-- What follows a save, or the lack of one: the restore of the named context, or an idle core (R252). -/
def switchOn (s : State) (j : SwJob) : State :=
  let t := bareCore s
  match j.load with
  | none => t
  | some _ => t.mapCore (fun c => { c with run := .switching, job := some { j with saving := false, began := s.cycle } })

/-- What a save waits for before it writes: its stores, its command FIFOs and its handles' MMAs (R182, R241, R269, R341). -/
def saveReady (s : State) (j : SwJob) : Bool :=
  let c := s.core
  j.saving && (unackedOut s c.num).isEmpty && c.mail.q.all (fun q => q.2.cmd.isEmpty) &&
    c.handles.all (fun h => mmasOf s (clusterOf c.pos) h.2 == 0)

/-- The image of the core in focus is written, HDR last, and its context leaves the core (R241). -/
def saveImage (j : SwJob) (s : State) : Except State State := do
  let n := s.core.num
  let ctx := curCtx s.core
  let cl := clusterOf s.core.pos
  let area := saveArea s ctx n j.alt
  let took := s.cycle - j.began
  let t := (beforeEntry (landAll s)).mapEv (fun e => { e with saveCycles := some took })
  let t := t.mapSc (fun c => { c with spillBusy := false })
  let t ← (imageRegions t).foldlM (fun u r => vaPut cl ctx (area + r.1) r.2 u) t
  let t ← framesOut ctx n j.alt t
  let (t, hflags) ← handlesOut ctx n t
  let t ← if othersHere t cl ctx n then .ok t else pauseTasks cl ctx t
  let t ← localOut cl ctx n area 1024 t
  let t ← messagesOut ctx n t
  let code := if t.core.former = .idle then 6 else 5
  let t ← vaPut cl ctx area (headerBytes t.core (t.core.seq + 1).toNat code hflags) t
  let t := t.mapUn (fun u => { u with
    kept := tput u.kept (queueKey ctx n) { t.core with
      mail := { t.core.mail with q := [] }, job := none, task := { t.core.task with mov := false, sdest := [] } }
    awayQ := tput u.awayQ (queueKey ctx n) (t.core.mail.q.map (fun q => (q.1, { q.2 with res := [] }))) })
  let t := t.mapMu (fun m => { m with away := tput m.away (queueKey ctx n) (b2n j.alt) })
  .ok (if j.deadline ≠ 0 ∧ j.deadline.toNat < took then sendNotice t n (mkNotice 4 ctx took 0) else t)

/-- SAVE_COMPLETE (R241): core a. -/
def saveComplete (s : State) (n : Nat) : State :=
  onCore s n (fun t => match t.core.run, t.core.job with
    | .switching, some j =>
      if saveReady t j then
        (match saveImage j t with
          | .ok u => switchOn u j
          | .error u => keepAsked t u)
      else t
    | _, _ => t)

def execSaveComplete (s : State) : Host.Outcome State Fault Refusal := .next (saveComplete s s.arg.a)

/-! ### The restore (R243) -/

/-- The slices of a context that starts or resumes: LEN from the descriptor, REM the larger of LEN and FLOOR (R239). -/
def sliceStart (s : State) (ctx : Nat) : State :=
  let len := fld (descWord s ctx 0x10) 31 0
  let floor := sliceFloor s.core
  s.mapEv (fun e => { e with
    sliceLen := BitVec.ofNat 32 len
    sliceRem := if len = 0 then 0 else BitVec.ofNat 32 (max len floor)
    clampCount := if len ≠ 0 ∧ len < floor then e.clampCount + 1 else e.clampCount })

/-- ASID, context and CEIL of a loaded context (R229). -/
def loadIds (s : State) (ctx : Nat) : State :=
  s.mapSys (fun r => { r with
    asid := BitVec.ofNat 64 (ctxAsid s ctx + ctx * 256), prio := prioWord (fld r.prio 5 0) (ctxCeil s ctx) })

/-- The core in focus with a context that has no image there: the reset state of R76, with the monitor's registers and
notices of the core (R228). -/
def freshTask (s : State) (ctx : Nat) : State :=
  let c := s.core
  let r := c.sys
  let t := { s with core := { Core.reset c.num with
    pos := c.pos, cycleBase := c.cycleBase, tlb := c.tlb, dly := c.dly
    mail := { Mail.reset with arrivals := c.mail.arrivals }
    ev := { Events.reset with notices := c.ev.notices, p80 := c.ev.p80, p83 := c.ev.p83, idleSince := s.cycle
                              clampCount := c.ev.clampCount }
    sys := { SysRegs.reset with
      monpc := r.monpc, monwhy := r.monwhy, moninfo := r.moninfo, monaddr := r.monaddr, monentry := r.monentry
      monkeep := r.monkeep, monlink := r.monlink } } }
  loadIds t ctx

/-- A saved register of SREG goes back; STATUS, the queue bindings and CPYVEC.PEND come from elsewhere, and so does PRIO.CEIL, whose
saved value is not used (R229). -/
def sregBack (s : State) (l : List Byte) : State :=
  sregList.foldl (fun t n =>
    if n = 0 ∨ (0x60 ≤ n ∧ n ≤ 0x67) then t
    else if n = 0x13 then
      t.mapSys (fun r => { r with prio := prioWord (fld (wordOf ((l.drop (sregOff n - 0x500)).take 8)) 5 0) 63 })
    else sysPut t n (wordOf ((l.drop (sregOff n - 0x500)).take 8))) s

/-- A saved queue register: its binding and results, with the answers still owed (10_queue R269, R270). -/
def queueBack (bind : W64) (res : List W64) (kept : QReg) : QReg :=
  let ok := validUnit (fld bind 3 0) (fld bind 31 16)
  QReg.flush { kept with
    kind := if ok then fld bind 3 0 else 0, unit := if ok then fld bind 31 16 else 0, cmd := [], res := res }

/-- What stands in the image of the core in focus, read from an area. -/
structure Image where
  seq : Nat
  hdr : Nat
  area : Nat
  alt : Bool
  deriving DecidableEq, Repr

/-- The image with the higher SEQ (R243). -/
def imageOf (s : State) (ctx n : Nat) : Except State (State × Image) := do
  let cl := clusterOf (getCore s n).pos
  let image (alt : Bool) (l : List Byte) : Image :=
    { seq := ofBytes l % 2 ^ 32, hdr := ofBytes l, area := saveArea s ctx n alt, alt := alt }
  let (t, x) ← vaGet cl ctx (saveArea s ctx n false) 64 s
  let (t, y) ← vaGet cl ctx (saveArea s ctx n true) 64 t
  let a := image false x
  let b := image true y
  .ok (t, if a.seq < b.seq then b else a)

/-- The registers, queues, tags and streams of the image, with what the device has kept beside it (R240, R243). -/
def loadRegs (ctx : Nat) (im : Image) (k : Core) (s : State) : Except State State := do
  let c := s.core
  let n := c.num
  let cl := clusterOf c.pos
  let (s, all) ← vaGet cl ctx im.area 0x1A00 s
  let get (off len : Nat) : List Byte := (all.drop off).take len
  let words (off len : Nat) : List W64 :=
    let l := get off (8 * len)
    (List.range len).map (fun i => wordOf ((l.drop (8 * i)).take 8))
  let tbl (f : Nat → Nat) (l : List W64) : Tbl W64 :=
    (List.range l.length).foldl (fun t i => tputD 0 t (f i) (l.getD i 0)) []
  let bind := words 0x700 8
  let res := words 0x980 128
  let cnt := get 0xD80 8
  let qs := tgetD s.un.awayQ (queueKey ctx n) []
  let q (i : Nat) : QReg := queueBack (bind.getD i 0) ((res.drop (16 * i)).take (min 16 (cnt.getD i 0).toNat))
    (tgetD qs i QReg.fresh)
  let sreg := get 0x500 (8 * sregList.length)
  let pend := fld (wordOf ((sreg.drop (sregOff 0x71 - 0x500)).take 8)) 47 40
  let cpyq := (words 0x1800 (min 64 pend)).map (fun w => (BitVec.ofNat 32 (fld w 63 32), BitVec.ofNat 32 (fld w 31 0)))
  let p0B := BitVec.ofNat 64 (im.hdr / 2 ^ 384)
  let vec := [1, 2, 3].foldl (fun v i => if k.vec.slot i = .unmapped then v else v.setSlot i .evicted) k.vec
  let own := get 0x1000 512
  let strm := get 0x1200 512
  let t := sregBack { s with core := { k with
    pos := c.pos, cycleBase := c.cycleBase, tlb := c.tlb, dly := c.dly, fbuf := none, rreg := none, freq := none
    pend := [], locks := [], divUntil := 0, wait := none, job := none
    pc := BitVec.ofNat 64 (im.hdr / 2 ^ 64)
    sc := { k.sc with
      glob := tbl (· + 1) (words 0x40 7), ring := tbl id (words 0x80 136), base := im.hdr / 2 ^ 192 % 256 % 136
      res := im.hdr / 2 ^ 200 % 256, spilled := im.hdr / 2 ^ 208 % 65536, rstack := [] }
    vec := { vec with
      own := (List.range 8).foldl (fun t r => tputD 0 t r (lineOf ((own.drop (64 * r)).take 64))) []
      streams := (List.range 8).foldl (fun t r => match streamBack ((strm.drop (64 * r)).take 64) with
        | some x => tput t (24 + r) x
        | none => t) [] }
    mail := { k.mail with
      arrivals := c.mail.arrivals, cpyq := cpyq
      insvc := k.mail.insvc.map (msgFrom (ofBytes (get 0x1400 64)))
      tags := (words 0x740 64).filterMap (fun w =>
        if fld w 63 63 = 1 then some (BitVec.ofNat 16 (fld w 47 32), BitVec.ofNat 32 (fld w 31 0)) else none)
      q := (List.range 8).foldl (fun t i => tput t i (q i)) [] }
    ev := { k.ev with
      notices := c.ev.notices, p80 := c.ev.p80, p83 := c.ev.p83, haltSince := c.ev.haltSince, haltedAt := c.ev.haltedAt
      clampCount := c.ev.clampCount, uinDepth := im.hdr / 2 ^ 224 % 2 ^ 32
      saveCycles := if im.hdr / 2 ^ 256 % 2 ^ 32 = 0 then none else some (im.hdr / 2 ^ 256 % 2 ^ 32)
      pend0B := if p0B = 0 then k.ev.pend0B.drop 1 else p0B :: k.ev.pend0B.drop 1 }
    sys := { k.sys with
      status := 2, monpc := c.sys.monpc, monwhy := c.sys.monwhy, moninfo := c.sys.moninfo, monaddr := c.sys.monaddr
      monentry := c.sys.monentry, monkeep := c.sys.monkeep, monlink := c.sys.monlink }
    altArea := im.alt, seq := BitVec.ofNat 32 im.seq, handles := [] } } sreg
  .ok (loadIds (t.mapSys (fun r => { r with status := BitVec.ofNat 64 (im.hdr / 2 ^ 128) &&& 0xCE73 })) ctx)

/-- The handles that HFLAGS marks as reserved (R240, R341). -/
def savedHandles (im : Image) : List Nat := (List.range 4).filter (fun h => im.hdr / 2 ^ (344 + h) % 2 == 1)

/-- Saved handles take free slots again and reload from HND; the restore waits while too few are free (R341). -/
def handlesIn (ctx n : Nat) (im : Image) : List Nat → State → Except State State
  | [], s => .ok s
  | h :: r, s =>
    let cl := clusterOf s.core.pos
    match reserveSlot s cl with
    | none => .error s
    | some slot =>
      let a := (descWord s ctx 0x30).toNat + 0x1040000 + 0x4000 * (n - ctxFirst s ctx) + 0x1000 * h
      match vaGet cl ctx a 4096 (takeHandle s h slot) with
      | .error t => .error t
      | .ok (t, l) => handlesIn ctx n im r (putAcc t cl slot { getAcc t cl slot with
          words := accWords l, flags := BitVec.ofNat 5 (im.hdr / 2 ^ (320 + 5 * h)) })

/-- The restore of the second member of a checked pair: the two compare again, and their counts of completed instructions
start together (12_group R301, R302). -/
def pairAgain (s : State) : State :=
  match partnerOf s s.core.num with
  | none => s
  | some (g, m) =>
    let zero (c : Core) : Core := { c with retired := 0 }
    modCore ({ s with un := { s.un with pairs := tdel s.un.pairs g } }.mapCore zero) m zero

/-- The core in focus goes on in the context it has loaded: inside its handler, or idle (04_core R76; R228, R243). -/
def resume (s : State) (ctx : Nat) (idle : Bool) (began : Nat) : State :=
  let t := sliceStart (s.mapEv (fun e => { e with restoreCycles := some (s.cycle - began) })) ctx
  let t := resumeTasks (clusterOf t.core.pos) ctx t
  let go (run : Run) (t : State) : State := pairAgain (t.mapCore (fun c => { c with
    run := run, former := .running, issue := { c.issue with npc := c.pc }, ev := { c.ev with idleSince := t.cycle } }))
  if idle then seek (go .idle t) else refill 32 (go .running t)

/-- The restore of a context on the core in focus (R243), or what it has asked for while it waits. -/
def restoreImage (ctx began : Nat) (s : State) : Except State State :=
  let n := s.core.num
  let cl := clusterOf s.core.pos
  match tget s.un.kept (queueKey ctx n) with
  | none => do
    let t ← localIn cl ctx n (saveArea s ctx n false) 1024 s
    .ok (resume (freshTask t ctx) ctx true began)
  | some k => do
    let (s, im) ← imageOf s ctx n
    let t ← loadRegs ctx im k s
    let t ← handlesIn ctx n im (savedHandles im) t
    let t ← localIn cl ctx n im.area 1024 t
    let t := t.mapUn (fun u => { u with kept := tdel u.kept (queueKey ctx n), awayQ := tdel u.awayQ (queueKey ctx n) })
    let t := t.mapMu (fun m => { m with away := tdel m.away (queueKey ctx n) })
    let t := if (evictedSlots t.core.vec).isEmpty then t else placeReload t n
    .ok (resume t ctx (k.former == .idle) began)

/-- RESTORE_COMPLETE (R243): core a. A context that has been frozen or freed meanwhile is not loaded (R228). -/
def restoreComplete (s : State) (n : Nat) : State :=
  onCore s n (fun t => match t.core.run, t.core.job with
    | .switching, some j =>
      if j.saving then t
      else (match j.load with
        | none => bareCore t
        | some ctx =>
          if ctxLife t ctx ≠ 1 ∨ !inRange t ctx n then bareCore t
          else orAsked t (restoreImage ctx j.began t))
    | _, _ => t)

def execRestoreComplete (s : State) : Host.Outcome State Fault Refusal := .next (restoreComplete s s.arg.a)

/-! ### CTXSW (R252; 12_group R302) -/

/-- A save of a member of a live checked pair: the unreleased entries of both are discarded and both messages return to
their inboxes (12_group R302). -/
def splitPair (s : State) : State :=
  match partnerOf s s.core.num with
  | none => s
  | some (g, m) =>
    onCore (requeue { s with un := { s.un with pairs := tdel s.un.pairs g } }) m requeue

def ctxswBad (s : State) (xa : W64) : Bool :=
  xa != BitVec.allOnes 64 &&
    (decide (255 < xa.toNat) || ctxLife s xa.toNat != 1 || !inRange s xa.toNat s.core.num ||
      (!noCtx s.core && curCtx s.core == xa.toNat))

/-- The core leaves the monitor for a switch: it saves first when a context is resident (R252). -/
def startSwitch (s : State) (xa xb : W64) : State :=
  let load := if xa = BitVec.allOnes 64 then none else some xa.toNat
  let j : SwJob := { saving := !noCtx s.core, load := load, deadline := xb, began := s.cycle, alt := false }
  let t := emptyFetch (landAll s)
  let t := t.mapCore (fun c => { c with retired := c.retired + 1, issue := { c.issue with mark := .done } })
  if noCtx s.core then switchOn t j
  else (splitPair t).mapCore (fun c => { c with run := .switching, wait := none, job := some j })

/-- CTXSW (R252). -/
def ctxswEff (s : State) (xa xb : W64) : Eff :=
  needsMode s 2 (if ctxswBad s xa then trap 0x04 xa else .error (.over (startSwitch s xa xb)))

def execCtxsw (a b : Reg) (s : State) : Host.Outcome State Fault Refusal := finish s (ctxswEff s (s.x a) (s.x b))

/-! ### The slice (R239) -/

/-- Whether REM counts on a core: a context is resident, in task or system mode, and the core is not halted, switching or
swapping. -/
def sliceRuns (c : Core) : Bool :=
  !noCtx c && !inMonitor c && c.ev.sliceLen != 0 && c.ev.sliceRem != 0 && (match c.run with
    | .idle => true
    | .running => true
    | .waiting => true
    | _ => false)

/-- REM after `k` more cycles; at 0 interrupt 0x80 is pending. -/
def sliceTick (c : Core) (k : Nat) : Core :=
  if !sliceRuns c then c
  else if c.ev.sliceRem.toNat ≤ k then { c with ev := { c.ev with sliceRem := 0, p80 := true } }
  else { c with ev := { c.ev with sliceRem := c.ev.sliceRem - BitVec.ofNat 32 k } }

/-- SLICE_EXPIRY (R239): the last cycle of the slice of core a. -/
def execSliceExpiry (s : State) : Host.Outcome State Fault Refusal :=
  .next (if (getCore s s.arg.a).ev.sliceRem = 1 then modCore s s.arg.a (fun c => sliceTick c 1) else s)

/-! ### Allocation and teardown (R228, R445) -/

/-- CONTEXT_ALLOCATE (R228): the monitor writes the LIFE word of context a with LIFE 1. -/
def execContextAllocate (s : State) : Host.Outcome State Fault Refusal :=
  .next (if fld s.arg.w 1 0 = 1 then
      physWrite s (descAddr s s.arg.a) (bytesOf s.arg.w.toNat 8)
    else s)

/-- The logical cores on which a context is resident. -/
def residents (s : State) (ctx : Nat) : List Nat :=
  let here (c : Core) : Bool := !noCtx c && curCtx c == ctx
  (if here s.core then [s.core.num] else []) ++ (s.others.filter (fun p => here p.2)).map (·.1)

/-- A core whose context is torn down: back to idle with its state as reset release leaves it, but a monitor handler that
runs on it goes on with no context (04_core R76; R445; log 21). -/
def coreTorn (s : State) (n : Nat) : State :=
  onCore s n (fun t =>
    let c := t.core
    if inMonitor c && (c.run == .running || c.run == .waiting) then
      t.mapCore (fun c => { c with
        sys := { c.sys with asid := (c.sys.asid &&& 0xFF) ||| 0x10000 }
        vec := { c.vec with s1 := .unmapped, s2 := .unmapped, s3 := .unmapped, streams := [] }
        mail := { Mail.reset with arrivals := c.mail.arrivals }, handles := [] })
    else
      { t with core := { Core.reset c.num with
        pos := c.pos, cycleBase := c.cycleBase, mail := { Mail.reset with arrivals := c.mail.arrivals }
        ev := { Events.reset with notices := c.ev.notices, idleSince := t.cycle } } })

/-- A taker of a core that is not torn down whose matched offer has ended waits again, in the order the waits began. -/
def Pool.waitsAgain (since : Nat → Nat) (p : Pool) (t : Nat × Nat) : Pool :=
  { p with takers := insertBy (fun a b => decide (since a.1 ≤ since b.1)) t p.takers }

/-- Frames, offers, claims and reloads of a context (05_vector R111): an offer of another context that a taker of this one had
matched stands again, and a taker of another context whose matched offer ends waits again. `since` is when a core's wait
began. -/
def poolTorn (since : Nat → Nat) (ctx : Nat) (ns : List Nat) (p0 : Pool) : Pool :=
  let p := ns.foldl Pool.withdraw { p0 with offers := p0.offers.filter (fun o => o.ctx != ctx) }
  let left := p.reloads.filterMap (fun r => match r with
    | .offer c k o => if o.ctx = ctx then some (c, k) else none
    | .slots _ => none)
  left.foldl (Pool.waitsAgain since) { p with
    used := p.used.filter (fun f => !ns.contains f.2.1)
    offers := p.offers.filter (fun o => o.ctx != ctx)
    claims := p.claims.filter (fun c => !ns.contains c.1)
    reloads := p.reloads.filter (fun r => match r with
      | .slots c => !ns.contains c
      | .offer _ _ o => o.ctx != ctx) }

/-- Tile records end without completing, accumulators are free, engines drop what was the context's (14_tile R328,
R338). -/
def tilesTorn (seq ctx : Nat) (u : Units) : Units :=
  let gone (cl slot : Nat) : Bool := match tget u.accs (accKey cl slot) with
    | some a => a.ctx == ctx && a.st != .free
    | none => false
  { u with
    accs := u.accs.filter (fun a => a.2.ctx != ctx)
    paused := u.paused.filter (fun a => a.2.ctx != ctx)
    recs := u.recs.map (fun r => if r.2.ctx == ctx && r.2.live then (r.1, { r.2 with
      st := .ended, placed := [], endSeq := seq }) else r)
    engines := u.engines.map (fun e =>
      let cl := e.1 / 8
      let hit (o : Option Nat) : Bool := match o with | some k => gone cl k | none => false
      let mine := hit e.2.run || hit e.2.input || e.2.mmas.any (fun j => gone cl j.slot)
      (e.1, { run := if hit e.2.run then none else e.2.run, input := if hit e.2.input then none else e.2.input
              mmas := e.2.mmas.filter (fun j => !gone cl j.slot), frozen := e.2.frozen && !mine })) }

/-- Everything else the units hold for a context (R228 and the chapters it names); what ends now is in the order of endings at
`seq`. -/
def unitsTorn (seq now ctx : Nat) (u : Units) : Units :=
  let mineX (e : Nat) : Bool := match tget u.experts e with | some x => x.ctx == ctx && x.st != .free | none => false
  let mineQ (k : Nat) : Bool := match tget u.queries k with | some q => q.ctx == ctx | none => false
  let mineG (g : Nat) : Bool := match tget u.groups g with | some x => x.ctx == ctx | none => false
  { tilesTorn seq ctx u with
    groups := u.groups.filter (fun g => g.2.ctx != ctx)
    pairs := u.pairs.filter (fun p => !mineG p.1)
    barriers := u.barriers.filter (fun b => b.2.ctx != ctx)
    layers := u.layers.filter (fun l => l.1 / 1024 != ctx)
    kernels := u.kernels.map (fun k =>
      if k.2.ctx == ctx && k.2.st != .free && k.2.st != .complete then
        (k.1, { k.2 with st := .complete, status := 1, live := 0, ended := now })
      else k)
    doorbells := u.doorbells.filter (fun b => b.ctx != ctx)
    taken := tdel u.taken ctx
    joins := u.joins.filter (fun j => j.ctx != ctx)
    dues := u.dues.filter (fun d => d.ctx != ctx)
    xfers := u.xfers.map (fun x => if x.2.ctx == ctx then (x.1, { Xfer.fresh with
      gen := x.2.gen, endSeq := if x.2.over then x.2.endSeq else seq }) else x)
    experts := u.experts.filter (fun e => e.2.ctx != ctx || e.2.st == .free)
    copies := u.copies.filter (fun e => !mineX (e.1 / 4))
    resvs := u.resvs.filter (fun r => r.ctx != ctx)
    queries := u.queries.map (fun q => if q.2.ctx == ctx then (q.1, { Query.fresh with
      gen := q.2.gen, endSeq := if q.2.live then seq else q.2.endSeq }) else q)
    batches := u.batches.filter (fun b => !mineQ b.query)
    frozenAttar := u.frozenAttar.filter (fun k => !mineQ k)
    collects := u.collects.filter (fun c => c.ctx != ctx)
    nngraphs := u.nngraphs.filter (fun g => g.2.ctx != ctx)
    overflow := u.overflow.filter (fun q => q.1 / nCores != ctx)
    awayQ := u.awayQ.filter (fun q => q.1 / nCores != ctx)
    kept := u.kept.filter (fun q => q.1 / nCores != ctx) }

/-- Messages of the context on their way or parked are discarded (R228). -/
def packetsTorn (ctx : Nat) (s : State) : State :=
  let isMsg (p : Packet) : Bool := match p.body with
    | .msg _ _ _ => true
    | .attach _ _ _ _ _ _ => true
    | .sub _ _ _ _ => true
    | .row _ _ _ _ => true
    | .ask _ _ => true
    | _ => false
  let parked := s.mu.parked.map (fun p => (p.1, p.2.filter (fun q => q.ctx != ctx)))
  { s with
    net := s.net.filter (fun p => !(p.ctx == ctx && isMsg p))
    mu := { s.mu with
      parked := parked.filter (fun p => !p.2.isEmpty)
      portStop := s.mu.portStop.filter (fun x => decide (64 ≤ (tgetD parked x.1 []).length))
      away := s.mu.away.filter (fun a => a.1 / nCores != ctx) } }

/-- The offers of a context whose frames have been written to their giver's image. -/
def evictedOffers (s : State) (ctx : Nat) : List Offer :=
  s.un.pools.flatMap (fun p => p.2.allOffers.filter (fun o => o.ctx == ctx && o.frame.isNone))

/-- What a context that is torn down leaves, once the images of its offers are free (R228, R445). -/
def tearDown (ctx : Nat) (s : State) : State :=
  let w := descWord s ctx 0
  let ns := residents s ctx
  let graphs := (s.un.graphs.filter (fun g => g.2.ctx == ctx)).map (·.1)
  let xs := (s.un.xfers.filter (fun x => x.2.ctx == ctx)).map (·.1)
  let t := physWrite s (descAddr s ctx) (bytesOf (setFld w 1 0 0).toNat 8)
  let t := graphs.foldl (fun t g => endGraph t g 5 0) t
  let halt (n : Node) : Node := if n.st = .running then { n with st := .done } else n
  let t := t.mapUn (fun u => { u with graphs := u.graphs.map (fun g =>
    if g.2.ctx == ctx then (g.1, { g.2 with nodes := g.2.nodes.map (fun n => (n.1, halt n.2)) }) else g) })
  let t := packetsTorn ctx t
  let t := t.mapMu (fun m => { m with
    excl := m.excl.filter (fun o => !xs.contains o.owner), watches := m.watches.filter (fun p => !ns.contains p.1) })
  let t := t.mapUn (fun u => { unitsTorn t.nextId t.cycle ctx u with
    pools := u.pools.map (fun p => (p.1, poolTorn (fun n => ((getCore t n).wait.map (·.since)).getD 0) ctx ns p.2)) })
  let t := t.mapOut (fun o => { o with colls := o.colls.filter (fun c => c.ctx != ctx) })
  ns.foldl coreTorn { t with nextId := t.nextId + 1 }

/-- LIFE of a context becomes 0: its evicted offers end, as soon as their images can be written, and it is torn down (05_vector
R115; R228, R445). -/
def contextTeardown (s : State) (ctx : Nat) : State :=
  match (evictedOffers s ctx).foldlM endImage s with
  | .ok t => tearDown ctx t
  | .error t => keepAsked s t

/-- CONTEXT_TEARDOWN (R228): context a. -/
def execContextTeardown (s : State) : Host.Outcome State Fault Refusal := .next (contextTeardown s s.arg.a)

end Sys2Proof.Machine
end

