-- ==== Sys2Proof/WellFormed.lean ====
section
/-! DEFINITION. The operand limits of the entries (03_encoding R55, R64, R95 to R104, R123 to R142, 09_context R225,
R249): a term of Instr that meets them stands for an instruction the encoding can hold. -/
namespace Sys2Proof

def ETy.toNat : ETy → Nat
  | .f32 => 0 | .f16 => 1 | .bf16 => 2 | .e4m3 => 3 | .e5m2 => 4 | .e2m1 => 5 | .i8 => 6 | .i16 => 7 | .i32 => 8
  | .i64 => 9 | .n8 => 10 | .n16 => 11 | .n32 => 12 | .n64 => 13

def Sz.toNat : Sz → Nat | .b => 0 | .h => 1 | .w => 2 | .d => 3
def Wd.toNat : Wd → Nat | .w => 2 | .d => 3
def Sz3.toNat : Sz3 → Nat | .b => 0 | .h => 1 | .w => 2
def Scope.toNat : Scope → Nat | .core => 0 | .quad => 1 | .cluster => 2 | .die => 3 | .device => 4 | .system => 5
def MCls.toNat : MCls → Nat | .req => 0 | .rep => 1 | .sys => 3
def Cond.toNat : Cond → Nat | .eq => 0 | .ne => 1 | .lt => 2 | .le => 3
def RKind.toNat : RKind → Nat | .sum => 0 | .min => 1 | .max => 2
def SxF.toNat : SxF → Nat | .sx3 => 0 | .sx5 => 1 | .sx8 => 2

/-- The type classes of 05_vector R123: F, I and N. -/
def ETy.isF : ETy → Bool | .f32 | .f16 | .bf16 => true | _ => false
def ETy.isI : ETy → Bool | .i8 | .i16 | .i32 | .i64 => true | _ => false
def ETy.isN : ETy → Bool | .n8 | .n16 | .n32 | .n64 => true | _ => false
def ETy.isFIN (t : ETy) : Bool := t.isF || t.isI || t.isN
def ETy.isFI (t : ETy) : Bool := t.isF || t.isI
def ETy.isIN (t : ETy) : Bool := t.isI || t.isN
/-- The types of VDOT (R126). -/
def ETy.isDot : ETy → Bool | .f16 | .bf16 | .e4m3 | .e5m2 | .e2m1 | .i16 | .n16 | .i8 | .n8 => true | _ => false
/-- Every type code 0 to 13. -/
def ETy.isAny : ETy → Bool := fun _ => true
/-- Codes 0 to 4 and 6 to 13 (R132, R134). -/
def ETy.isPerm : ETy → Bool | .e2m1 => false | _ => true
/-- The types of MMA (14_tile R342). -/
def ETy.isMma : ETy → Bool | .f16 | .bf16 | .e4m3 | .e5m2 | .e2m1 | .i8 => true | _ => false

/-- The system register numbers the table of 09_context R225 lists. -/
def sysRegListed (n : Nat) : Bool :=
  decide (n ≤ 0x006) || (decide (0x010 ≤ n) && decide (n ≤ 0x013)) || n == 0x020 || n == 0x021
  || (decide (0x030 ≤ n) && decide (n ≤ 0x032)) || (decide (0x040 ≤ n) && decide (n ≤ 0x042)) || n == 0x050
  || n == 0x051 || (decide (0x060 ≤ n) && decide (n ≤ 0x067)) || n == 0x070 || n == 0x071 || n == 0x080
  || n == 0x081 || n == 0x090 || n == 0x0A0 || (decide (0x0B0 ≤ n) && decide (n ≤ 0x0B2))
  || (decide (0x0C0 ≤ n) && decide (n ≤ 0x0CF)) || (decide (0x101 ≤ n) && decide (n ≤ 0x108))

/-- The bits of the immediate an instruction may hold: 10 for each IMM word that has room beside the other words the
instruction needs (03_encoding R49, R52), and the field of the base word. -/
def immRoom (pages regs masks w : Nat) : Nat := 10 * (4 - pages - regs - masks) + w

/-- 1 when a register number needs the REG word (R47). -/
def needReg (d a : Reg) : Nat := if d < 8 ∧ a < 8 then 0 else 1
/-- 1 when the mask needs the MOD word (R51). -/
def needMod (m : Msk) : Nat := if m.m = 0 ∧ m.ag = false then 0 else 1

/-- A signed value of `bits` bits. -/
def fitsS (bits : Nat) (v : W64) : Bool := decide (-(2 ^ (bits - 1)) ≤ v.toInt) && decide (v.toInt < 2 ^ (bits - 1))

def Msk.ok (m : Msk) : Bool := !(m.ag && m.m == 0)

/-- The operand limits of each entry. An event has no encoding and no operand limits. -/
def WellFormed : Instr → Bool
  | .addShort _ _ _ => true
  | .subShort _ _ _ => true
  | .andShort _ _ _ => true
  | .orShort _ _ _ => true
  | .xorShort _ _ _ => true
  | .addiShort d a imm => fitsS (immRoom 0 (needReg d a) 0 5) imm
  | .shliShort _ _ imm => decide (imm ≤ 63)
  | .shriShort _ _ imm => decide (imm ≤ 63)
  | .ldiShort d imm => fitsS (immRoom 0 (needReg d 0) 0 8) imm
  | .movShort _ _ => true
  | .sltShort _ _ _ => true
  | .mulShort _ _ _ => true
  | .ldDShort d a imm => fitsS (immRoom 0 (needReg d a) 0 5) imm
  | .ldWShort d a imm => fitsS (immRoom 0 (needReg d a) 0 5) imm
  | .stDShort d a imm => fitsS (immRoom 0 (needReg d a) 0 5) imm
  | .stWShort d a imm => fitsS (immRoom 0 (needReg d a) 0 5) imm
  | .leaShort d a imm => fitsS (immRoom 0 (needReg d a) 0 5) imm
  | .brShort imm => fitsS (immRoom 0 (needReg 0 0) 0 11) imm
  | .beqShort d a imm => fitsS (immRoom 0 (needReg d a) 0 5) imm
  | .bneShort d a imm => fitsS (immRoom 0 (needReg d a) 0 5) imm
  | .bzShort d imm => fitsS (immRoom 0 (needReg d 0) 0 8) imm
  | .bnzShort d imm => fitsS (immRoom 0 (needReg d 0) 0 8) imm
  | .callShort imm => fitsS (immRoom 0 (needReg 0 0) 0 11) imm
  | .retShort => true
  | .vaddF32Short _ _ _ m => m.ok
  | .vmulF32Short _ _ _ m => m.ok
  | .vfmaF32Short _ _ _ m => m.ok
  | .vldF32Short d a imm m => m.ok && fitsS (immRoom 0 (needReg d a) (needMod m) 5) imm
  | .vstF32Short d a imm m => m.ok && fitsS (immRoom 0 (needReg d a) (needMod m) 5) imm
  | .sendReqShort _ _ _ => true
  | .doneShort => true
  | .add _ _ _ => true
  | .sub _ _ _ => true
  | .and _ _ _ => true
  | .or _ _ _ => true
  | .xor _ _ _ => true
  | .shl _ _ _ => true
  | .shr _ _ _ => true
  | .sar _ _ _ => true
  | .mul _ _ _ => true
  | .mulh _ _ _ => true
  | .mulhn _ _ _ => true
  | .div _ _ _ => true
  | .divn _ _ _ => true
  | .rem _ _ _ => true
  | .remn _ _ _ => true
  | .min _ _ _ => true
  | .max _ _ _ => true
  | .minn _ _ _ => true
  | .maxn _ _ _ => true
  | .slt _ _ _ => true
  | .sltn _ _ _ => true
  | .seq _ _ _ => true
  | .sne _ _ _ => true
  | .caddr _ _ _ => true
  | .csplit _ _ => true
  | .clz _ _ => true
  | .ctz _ _ => true
  | .popc _ _ => true
  | .brev _ _ => true
  | .sext _ _ _ => true
  | .zext _ _ _ => true
  | .mov _ _ => true
  | .addi d a imm => fitsS (immRoom 1 (needReg d a) 0 5) imm
  | .andi d a imm => fitsS (immRoom 1 (needReg d a) 0 5) imm
  | .ori d a imm => fitsS (immRoom 1 (needReg d a) 0 5) imm
  | .xori d a imm => fitsS (immRoom 1 (needReg d a) 0 5) imm
  | .shli _ _ imm => decide (imm ≤ 63)
  | .shri _ _ imm => decide (imm ≤ 63)
  | .sari _ _ imm => decide (imm ≤ 63)
  | .lea d a imm => fitsS (immRoom 1 (needReg d a) 0 5) imm
  | .ldi d imm => fitsS (immRoom 1 (needReg d 0) 0 8) imm
  | .ldih d imm => fitsS (immRoom 1 (needReg d 0) 0 8) imm && decide (-(2 ^ 31) ≤ imm.toInt) && decide (imm.toInt < 2 ^ 32)
  | .br imm => fitsS (immRoom 1 (needReg 0 0) 0 11) imm
  | .call imm => fitsS (immRoom 1 (needReg 0 0) 0 11) imm
  | .beq d a imm => fitsS (immRoom 1 (needReg d a) 0 5) imm
  | .bne d a imm => fitsS (immRoom 1 (needReg d a) 0 5) imm
  | .blt d a imm => fitsS (immRoom 1 (needReg d a) 0 5) imm
  | .bge d a imm => fitsS (immRoom 1 (needReg d a) 0 5) imm
  | .bltn d a imm => fitsS (immRoom 1 (needReg d a) 0 5) imm
  | .bgen d a imm => fitsS (immRoom 1 (needReg d a) 0 5) imm
  | .bz d imm => fitsS (immRoom 1 (needReg d 0) 0 8) imm
  | .bnz d imm => fitsS (immRoom 1 (needReg d 0) 0 8) imm
  | .jmpr _ => true
  | .callr _ => true
  | .ret => true
  | .nop => true
  | .align imm => decide (1 ≤ imm) && decide (imm ≤ 65535)
  | .dly imm => decide (1 ≤ imm) && decide (imm ≤ 255)
  | .srr _ imm => sysRegListed imm.toNat
  | .srw _ imm => sysRegListed imm.toNat
  | .srset _ imm => sysRegListed imm.toNat
  | .srclr _ imm => sysRegListed imm.toNat
  | .tret => true
  | .wfi => true
  | .halt => true
  | .ctxsw _ _ => true
  | .trap imm => decide (imm ≤ 255)
  | .brk imm => decide (imm ≤ 255)
  | .ld _ d a imm => fitsS (immRoom 1 (needReg d a) 0 5) imm
  | .st _ d a imm => fitsS (immRoom 1 (needReg d a) 0 5) imm
  | .ldx _ _ _ _ => true
  | .stx _ _ _ _ => true
  | .ldf _ _ _ => true
  | .ldfTagged _ _ b => !(b == 0)
  | .stf _ _ _ _ => true
  | .pref d a imm => decide (d ≤ 2) && fitsS (immRoom 1 (needReg 0 a) 0 5) imm
  | .ifence => true
  | .discard _ _ => true
  | .fence _ => true
  | .fenceAcq _ => true
  | .fenceRel _ => true
  | .ldaq _ _ _ _ => true
  | .strl _ _ _ _ => true
  | .atomAdd _ _ _ _ => true
  | .atomAnd _ _ _ _ => true
  | .atomOr _ _ _ _ => true
  | .atomXor _ _ _ _ => true
  | .atomMin _ _ _ _ => true
  | .atomMax _ _ _ _ => true
  | .atomMinn _ _ _ _ => true
  | .atomMaxn _ _ _ _ => true
  | .atomSwap _ _ _ _ => true
  | .cas _ _ _ _ => true
  | .binc _ _ _ _ => true
  | .waita _ _ _ _ => true
  | .tlbinv _ _ => true
  | .pgq _ _ _ => true
  | .pgpin _ _ _ => true
  | .vadd t _ _ _ m => t.isFIN && m.ok
  | .vsub t _ _ _ m => t.isFIN && m.ok
  | .vmul t _ _ _ m => t.isFIN && m.ok
  | .vdiv t _ _ _ m => t.isF && m.ok
  | .vfma t _ _ _ m => t.isF && m.ok
  | .vfms t _ _ _ m => t.isF && m.ok
  | .vfnma t _ _ _ m => t.isF && m.ok
  | .vmin t _ _ _ m => t.isFIN && m.ok
  | .vmax t _ _ _ m => t.isFIN && m.ok
  | .vabs t _ _ m => t.isFI && m.ok
  | .vneg t _ _ m => t.isFI && m.ok
  | .vrcp t _ _ m => t.isF && m.ok
  | .vrsq t _ _ m => t.isF && m.ok
  | .vexp2 t _ _ m => t.isF && m.ok
  | .vlog2 t _ _ m => t.isF && m.ok
  | .vand t _ _ _ m => t.isIN && m.ok
  | .vor t _ _ _ m => t.isIN && m.ok
  | .vxor t _ _ _ m => t.isIN && m.ok
  | .vnot t _ _ m => t.isIN && m.ok
  | .vshl t _ _ _ m => t.isIN && m.ok
  | .vshr t _ _ _ m => t.isIN && m.ok
  | .vsar t _ _ _ m => t.isIN && m.ok
  | .vdot t _ _ _ m => t.isDot && m.ok
  | .vsel _ _ _ _ m => !(m.m == 0) && !m.ag
  | .vcmp _ t _ _ _ m => t.isFIN && m.ok
  | .vred _ t _ _ m => t.isFIN && m.ok
  | .vscan _ t _ _ m => t.isFIN && m.ok
  | .vcvt _ _ _ _ m => m.ok
  | .vperm t _ _ _ m => t.isPerm && m.ok
  | .vbcast _ _ _ m => m.ok
  | .vins _ _ _ _ => true
  | .vext _ _ _ _ => true
  | .vld _ d a imm m => m.ok && fitsS (immRoom 1 (needReg d a) (needMod m) 5) imm
  | .vst _ d a imm m => m.ok && fitsS (immRoom 1 (needReg d a) (needMod m) 5) imm
  | .vlds t _ _ _ m => t.isPerm && m.ok
  | .vsts t _ _ _ m => t.isPerm && m.ok
  | .vldx t _ _ _ m => t.isPerm && m.ok
  | .vstx t _ _ _ m => t.isPerm && m.ok
  | .vsxpack _ t _ _ => t.isF
  | .vsxunpack _ t _ _ => t.isF
  | .mand _ _ _ => true
  | .mor _ _ _ => true
  | .mnot _ _ => true
  | .mpopc _ _ => true
  | .mfirst _ _ => true
  | .mset _ _ => true
  | .vclaim d => !(d == 0)
  | .vyield d => !(d == 0)
  | .vgive _ b => !(b == 0) && decide (b ≤ 3)
  | .vtake _ b => !(b == 0) && decide (b ≤ 3)
  | .vframes _ => true
  | .mma t _ a b => t.isMma && a.extractLsb' 0 3 == 0#3 && b.extractLsb' 0 3 == 0#3 && !(a == b)
  | .mtsub _ _ => true
  | .mgang _ _ _ => true
  | .mdrainHandle _ _ _ => true
  | .mdrainTicket _ _ _ => true
  | .mclrReserve _ _ => true
  | .mclrRelease _ _ => true
  | .mclrClear _ _ => true
  | .mclrTicket _ _ => true
  | .mscl _ _ _ => true
  | .mstat _ _ _ => true
  | .mwait _ _ => true
  | .send _ _ _ _ => true
  | .sendb _ _ _ => true
  | .mcast _ _ _ _ => true
  | .done => true
  | .inbq _ _ => true
  | .bind _ _ _ => true
  | .unbind _ _ => true
  | .qtry _ _ => true
  | .qw _ _ => true
  | .qr _ _ => true
  | .fork _ _ _ => true
  | .join _ _ => true
  | .joinCont _ _ b => !(b == 0)
  | .klaunch _ _ => true
  | .kwait _ _ => true
  | .yield _ _ => true
  | .gmake _ _ _ => true
  | .gdrop _ => true
  | .ginfo _ _ _ => true
  | .pair _ _ => true
  | .unpair => true
  | .bcfg _ _ _ => true
  | .barr _ _ _ => true
  | .bwait _ _ _ => true
  | .barw _ _ _ => true
  | .bqry _ _ _ => true
  | .bleave _ _ => true
  | .cpy _ _ => true
  | .cpyf _ _ => true
  | .gath _ _ => true
  | .scat _ _ => true
  | .strm d _ => decide (24 ≤ d)
  | .strmx _ a => decide (24 ≤ a)
  | .cpyst _ _ _ => true
  | .exroute _ _ _ => true
  | .exback _ _ _ => true
  | .exgrow _ _ => true
  | .exretire _ _ _ => true
  | .exjoin _ _ _ => true
  | .exupd _ _ _ => true
  | .exstat _ _ _ => true
  | .hsift _ _ _ => true
  | .nnq _ _ => true
  | .nnres _ _ _ => true
  | .nncan _ _ => true
  | .nnload _ _ _ => true
  | .nnstat _ _ _ => true
  | .reside _ => true
  | .unreside _ => true
  | .swapq _ _ => true
  | .aredSum _ _ _ => true
  | .aredMax _ _ _ => true
  | .aredMin _ _ _ => true
  | .agath _ _ _ => true
  | .interruptEntry => true
  | .sliceExpiry => true
  | .fetchBlockArrival => true
  | .alignRelease => true
  | .waitComplete => true
  | .claimServed => true
  | .poolStall => true
  | .frameImageAck => true
  | .reloadServed => true
  | .vtakeTimeout => true
  | .loadReply => true
  | .remoteAccessAtHome => true
  | .atomicAtHome => true
  | .storeAck => true
  | .waitaWake => true
  | .waitaPoll => true
  | .waitaTimeout => true
  | .ratioChangeRequest => true
  | .stackRetrainStart => true
  | .forcedRetrain => true
  | .stackRetrainComplete => true
  | .rowExchange => true
  | .rowExchangeComplete => true
  | .refreshIntervalEnd => true
  | .clockBeat => true
  | .beatArrival => true
  | .crossDieWriteApply => true
  | .rdcSweep => true
  | .hostMemWrite => true
  | .hostMemRead => true
  | .hostCacheSnoop => true
  | .hostDoorbell => true
  | .pageWalkComplete => true
  | .keyWrite => true
  | .contextAllocate => true
  | .contextTeardown => true
  | .saveComplete => true
  | .restoreComplete => true
  | .messageArrival => true
  | .attachmentComplete => true
  | .mcastCopy => true
  | .qbindWrite => true
  | .portResult => true
  | .graphAdmission => true
  | .nodeStart => true
  | .kernelRunning => true
  | .nodeComplete => true
  | .waitNodeSatisfied => true
  | .waitNodeTimeout => true
  | .graphEnd => true
  | .weightSwitchCopy => true
  | .weightSwitchCommit => true
  | .dequeSteal => true
  | .joinContinuation => true
  | .barrierTimeout => true
  | .mmaApply => true
  | .sharePlacement => true
  | .shareAgeing => true
  | .tileChunk => true
  | .drainComplete => true
  | .shapeDecrementAtHome => true
  | .tileFaultTrap => true
  | .copyBlockRead => true
  | .copyPieceStart => true
  | .copyComplete => true
  | .completionQueueAppend => true
  | .gatherRowAtOwner => true
  | .streamStripFetch => true
  | .excfgInstall => true
  | .excfgRemove => true
  | .directoryCopyUpdate => true
  | .reservationAtPort => true
  | .expertRowPulled => true
  | .accordEvaluation => true
  | .replicaFillComplete => true
  | .handoverStart => true
  | .handoverComplete => true
  | .queryVectorRead => true
  | .querySchedule => true
  | .distanceBatch => true
  | .queryHop => true
  | .queryResume => true
  | .queryComplete => true
  | .queryAgeing => true
  | .arbWindowClose => true
  | .attarStarvation => true
  | .swapInstant => true
  | .swapSubround => true
  | .swapExchangeComplete => true
  | .forwardingEnd => true
  | .linkTrainingComplete => true
  | .linkLaneLoss => true
  | .linkErrorThreshold => true
  | .linkRetrainComplete => true
  | .linkFlitArrival => true
  | .lctlEnWrite => true
  | .lctlQrel => true
  | .lctlRetrain => true
  | .twinWrite => true
  | .dstatWfaultClear => true
  | .ptpSync => true
  | .collectiveContribution => true
  | .collectiveResult => true
  | .collectiveTimeout => true
  | .powerOnReset => true
  | .coldStart => true
  | .warmStart => true
  | .drydownReplan => true
  | .debugHaltRequest => true
  | .debugResume => true
  | .debugStep => true
  | .debugClrdly => true
  | .debugDataWrite => true
  | .logControlWrite => true
  | .replayStall => true
  | .delukIdentity => true
  | .delukStatus => true
  | .delukNotices => true
  | .delukDebug => true
  | .delukFirmware => true
  | .delukPower => true
  | .delukReset => true
  | .registerWrite => true
  | .spillBufferWrite => true
  | .backInvalidateResponse => true

end Sys2Proof
end

