-- ==== Sys2Proof/Decode.lean ====
section
/-! DEFINITION. From words to instructions and back (03_encoding R45 to R69). The decoder is total on any list of words
and rejects by name; the encoder writes the shortest chain, in the order of R72. -/
namespace Sys2Proof

/-! ### The code tables of R64 -/

def ETy.ofCode : Nat → Option ETy
  | 0 => some .f32 | 1 => some .f16 | 2 => some .bf16 | 3 => some .e4m3 | 4 => some .e5m2 | 5 => some .e2m1
  | 6 => some .i8 | 7 => some .i16 | 8 => some .i32 | 9 => some .i64
  | 10 => some .n8 | 11 => some .n16 | 12 => some .n32 | 13 => some .n64
  | _ => none

def Sz.ofCode : Nat → Option Sz
  | 0 => some .b | 1 => some .h | 2 => some .w | 3 => some .d | _ => none

/-- ATOM, CAS, BINC and WAITA take .w and .d only (R67). -/
def Wd.ofCode : Nat → Option Wd
  | 2 => some .w | 3 => some .d | _ => none

def Sz3.ofCode : Nat → Option Sz3
  | 0 => some .b | 1 => some .h | 2 => some .w | _ => none

def Scope.ofCode : Nat → Option Scope
  | 0 => some .core | 1 => some .quad | 2 => some .cluster | 3 => some .die | 4 => some .device | 5 => some .system
  | _ => none

/-- Class code 2 and codes 4 to 15 are illegal (10_queue R271). -/
def MCls.ofCode : Nat → Option MCls
  | 0 => some .req | 1 => some .rep | 3 => some .sys | _ => none

def Cond.ofCode : Nat → Option Cond
  | 0 => some .eq | 1 => some .ne | 2 => some .lt | 3 => some .le | _ => none

def RKind.ofCode : Nat → Option RKind
  | 0 => some .sum | 1 => some .min | 2 => some .max | _ => none

def SxF.ofCode : Nat → Option SxF
  | 0 => some .sx3 | 1 => some .sx5 | 2 => some .sx8 | _ => none

/-! ### The chain (R48 to R53) -/

/-- A chain read whole: the fields its words give the base word (R46 to R51). -/
structure Form where
  page : Nat
  op : Nat
  fx : Nat
  f2 : BitVec 2
  d : Code3
  a : Code3
  b : Code3
  dh : BitVec 2
  ah : BitVec 2
  bh : BitVec 2
  immN : Nat
  immV : Nat
  mask : Code3
  ag : Bool
  stall : Code3
  deriving DecidableEq, Repr

/-- Why a chain is not an instruction, in the order of the table of R55. -/
inductive Bad
  | kind11 | badPage | regLow | modLow | agNoMask | repeated | fifth
  | unassigned | function | reserved | untaken | immRange
  | truncated
  deriving DecidableEq, Repr

/-- What the words read so far have given. -/
structure Chain where
  imms : Nat
  immV : Nat
  reg : Option (BitVec 2 × BitVec 2 × BitVec 2)
  pg : Option (Nat × Nat)
  mod : Option (Code3 × Bool × Code3)
  deriving DecidableEq, Repr

def Chain.start : Chain := { imms := 0, immV := 0, reg := none, pg := none, mod := none }

/-- Words already in the chain (R53). -/
def Chain.count (c : Chain) : Nat :=
  c.imms + (if c.reg.isSome then 1 else 0) + (if c.pg.isSome then 1 else 0) + (if c.mod.isSome then 1 else 0)

/-- The major opcode of a word, bits 15:11 (R45). -/
def opOf (w : W16) : Nat := (w.extractLsb' 11 5).toNat

/-- True of a word that is not a base word: major opcode 31 (R45). -/
def isChainWord (w : W16) : Bool := opOf w == 31

/-- The fields of a base word at the end of a chain. -/
def Chain.form (c : Chain) (w : W16) : Form :=
  let r := c.reg.getD (0, 0, 0)
  let p := c.pg.getD (0, 0)
  let m := c.mod.getD (0, false, 0)
  { page := p.1, op := opOf w, fx := p.2, f2 := w.extractLsb' 0 2, d := w.extractLsb' 8 3, a := w.extractLsb' 5 3,
    b := w.extractLsb' 2 3, dh := r.1, ah := r.2.1, bh := r.2.2, immN := c.imms, immV := c.immV, mask := m.1,
    ag := m.2.1, stall := m.2.2 }

/-- One more word that is not a base word (R48, R51, R52; R55 names what makes it illegal). -/
def Chain.push (c : Chain) (w : W16) : Except Bad Chain :=
  if c.count ≥ 4 then .error .fifth
  else if w.getLsbD 10 then .ok { c with imms := c.imms + 1, immV := c.immV * 1024 + (w.extractLsb' 0 10).toNat }
  else match (w.extractLsb' 8 2).toNat with
    | 0 =>
      if w.extractLsb' 0 2 ≠ 0 then .error .regLow
      else if c.reg.isSome then .error .repeated
      else .ok { c with reg := some (w.extractLsb' 6 2, w.extractLsb' 4 2, w.extractLsb' 2 2) }
    | 1 =>
      let p := (w.extractLsb' 4 4).toNat
      if p = 0 ∨ 12 < p then .error .badPage
      else if c.pg.isSome then .error .repeated
      else .ok { c with pg := some (p, (w.extractLsb' 0 4).toNat) }
    | 2 =>
      if w.getLsbD 0 then .error .modLow
      else if w.getLsbD 4 ∧ w.extractLsb' 5 3 = 0 then .error .agNoMask
      else if c.mod.isSome then .error .repeated
      else .ok { c with mod := some (w.extractLsb' 5 3, w.getLsbD 4, w.extractLsb' 1 3) }
    | _ => .error .kind11

/-! ### From the fields to the instruction (R47, R49 to R51, R63 to R69) -/

def Form.rd (f : Form) : Reg := f.dh ++ f.d
def Form.ra (f : Form) : Reg := f.ah ++ f.a
def Form.rb (f : Form) : Reg := f.bh ++ f.b
def Form.msk (f : Form) : Msk := ⟨f.mask, f.ag⟩
/-- The function number of an RRR instruction (R50). -/
def Form.F (f : Form) : Nat := f.fx * 4 + f.f2.toNat

/-- What a 3-bit field of the base word holds (R47). -/
inductive FieldKind
  | reg | zero | code
  deriving DecidableEq, Repr

def FieldKind.check (k : FieldKind) (hi : BitVec 2) (lo : Code3) : Option Bad :=
  match k with
  | .reg => none
  | .zero => if lo ≠ 0 then some .reserved else if hi ≠ 0 then some .untaken else none
  | .code => if hi ≠ 0 then some .untaken else none

/-- The checks of R55 that involve the base word, then the instruction. -/
def Form.take (f : Form) (dk ak bk : FieldKind) (mask imm : Bool) (i : Instr) : Except Bad Instr :=
  if ¬ imm ∧ f.immN ≠ 0 then .error .untaken
  else if ¬ mask ∧ (f.mask ≠ 0 ∨ f.ag) then .error .untaken
  else match dk.check f.dh f.d with
    | some e => .error e
    | none => match ak.check f.ah f.a with
      | some e => .error e
      | none => match bk.check f.bh f.b with
        | some e => .error e
        | none => .ok i

/-- The lowest `w` bits of the immediate, from the base word's field (R46). -/
def Form.immLow (f : Form) (w : Nat) : Nat :=
  (f.d ++ f.a ++ f.b ++ f.f2 : BitVec 11).toNat % 2 ^ w

/-- The bits of the immediate as a number (R49). -/
def Form.immRaw (f : Form) (w : Nat) : Nat := f.immV * 2 ^ w + f.immLow w

/-- The immediate sign-extended from its top bit (R49). -/
def Form.immInt (f : Form) (w : Nat) : Int :=
  let bits := 10 * f.immN + w
  if f.immRaw w < 2 ^ (bits - 1) then (f.immRaw w : Int) else (f.immRaw w : Int) - 2 ^ bits

/-- Any value the chain forms. -/
def Form.immS (f : Form) (w : Nat) (k : W64 → Except Bad Instr) : Except Bad Instr :=
  k (BitVec.ofInt 64 (f.immInt w))

/-- A sign-extended immediate within bounds (LDIH, 04_core R96). -/
def Form.immR (f : Form) (w : Nat) (lo hi : Int) (k : W64 → Except Bad Instr) : Except Bad Instr :=
  if lo ≤ f.immInt w ∧ f.immInt w ≤ hi then k (BitVec.ofInt 64 (f.immInt w)) else .error .immRange

/-- A zero-extended immediate within bounds. -/
def Form.immU (f : Form) (w lo hi : Nat) (k : W64 → Except Bad Instr) : Except Bad Instr :=
  if lo ≤ f.immRaw w ∧ f.immRaw w ≤ hi then k (BitVec.ofNat 64 (f.immRaw w)) else .error .immRange

/-- A system register number of the table of 09_context R225. -/
def Form.immReg (f : Form) (w : Nat) (k : W64 → Except Bad Instr) : Except Bad Instr :=
  if sysRegListed (f.immRaw w) then k (BitVec.ofNat 64 (f.immRaw w)) else .error .immRange

/-- A code of 8 bits with no IMM word (TRAP and BRK, 09_context R249). -/
def Form.immNo (f : Form) (w : Nat) (k : W64 → Except Bad Instr) : Except Bad Instr :=
  if f.immN ≠ 0 then .error .untaken else k (BitVec.ofNat 64 (f.immRaw w))

/-- A code that the tables of R64 list, or the illegal-function answer. -/
def with3 {α : Type} (o : Option α) (k : α → Except Bad Instr) : Except Bad Instr :=
  match o with
  | some x => k x
  | none => .error .function

/-- An element type in fx that the entry accepts (R64). -/
def Form.typed (f : Form) (ok : ETy → Bool) (k : ETy → Except Bad Instr) : Except Bad Instr :=
  match ETy.ofCode f.fx with
  | some t => if ok t then k t else .error .function
  | none => .error .function

/-- The opcode map (R65 to R69). -/
def ofForm (f : Form) : Except Bad Instr :=
  match f.page, f.op with
  | 0, 0 =>
    if f.fx = 0 ∧ f.f2 = 0 then f.take .reg .reg .reg false false (.addShort f.rd f.ra f.rb)
    else .error .function
  | 0, 1 =>
    if f.fx = 0 ∧ f.f2 = 0 then f.take .reg .reg .reg false false (.subShort f.rd f.ra f.rb)
    else .error .function
  | 0, 2 =>
    if f.fx = 0 ∧ f.f2 = 0 then f.take .reg .reg .reg false false (.andShort f.rd f.ra f.rb)
    else .error .function
  | 0, 3 =>
    if f.fx = 0 ∧ f.f2 = 0 then f.take .reg .reg .reg false false (.orShort f.rd f.ra f.rb)
    else .error .function
  | 0, 4 =>
    if f.fx = 0 ∧ f.f2 = 0 then f.take .reg .reg .reg false false (.xorShort f.rd f.ra f.rb)
    else .error .function
  | 0, 5 =>
    if f.fx = 0 then f.immS 5 fun v => f.take .reg .reg .code false true (.addiShort f.rd f.ra v)
    else .error .function
  | 0, 6 =>
    if f.fx = 0 then f.immU 5 0 63 fun v => f.take .reg .reg .code false true (.shliShort f.rd f.ra v)
    else .error .function
  | 0, 7 =>
    if f.fx = 0 then f.immU 5 0 63 fun v => f.take .reg .reg .code false true (.shriShort f.rd f.ra v)
    else .error .function
  | 0, 8 =>
    if f.fx = 0 then f.immS 8 fun v => f.take .reg .code .code false true (.ldiShort f.rd v)
    else .error .function
  | 0, 9 =>
    if f.fx = 0 ∧ f.f2 = 0 then f.take .reg .reg .zero false false (.movShort f.rd f.ra)
    else .error .function
  | 0, 10 =>
    if f.fx = 0 ∧ f.f2 = 0 then f.take .reg .reg .reg false false (.sltShort f.rd f.ra f.rb)
    else .error .function
  | 0, 11 =>
    if f.fx = 0 ∧ f.f2 = 0 then f.take .reg .reg .reg false false (.mulShort f.rd f.ra f.rb)
    else .error .function
  | 0, 12 =>
    if f.fx = 0 then f.immS 5 fun v => f.take .reg .reg .code false true (.ldDShort f.rd f.ra v)
    else .error .function
  | 0, 13 =>
    if f.fx = 0 then f.immS 5 fun v => f.take .reg .reg .code false true (.ldWShort f.rd f.ra v)
    else .error .function
  | 0, 14 =>
    if f.fx = 0 then f.immS 5 fun v => f.take .reg .reg .code false true (.stDShort f.rd f.ra v)
    else .error .function
  | 0, 15 =>
    if f.fx = 0 then f.immS 5 fun v => f.take .reg .reg .code false true (.stWShort f.rd f.ra v)
    else .error .function
  | 0, 16 =>
    if f.fx = 0 then f.immS 5 fun v => f.take .reg .reg .code false true (.leaShort f.rd f.ra v)
    else .error .function
  | 0, 17 =>
    if f.fx = 0 then f.immS 11 fun v => f.take .code .code .code false true (.brShort v)
    else .error .function
  | 0, 18 =>
    if f.fx = 0 then f.immS 5 fun v => f.take .reg .reg .code false true (.beqShort f.rd f.ra v)
    else .error .function
  | 0, 19 =>
    if f.fx = 0 then f.immS 5 fun v => f.take .reg .reg .code false true (.bneShort f.rd f.ra v)
    else .error .function
  | 0, 20 =>
    if f.fx = 0 then f.immS 8 fun v => f.take .reg .code .code false true (.bzShort f.rd v)
    else .error .function
  | 0, 21 =>
    if f.fx = 0 then f.immS 8 fun v => f.take .reg .code .code false true (.bnzShort f.rd v)
    else .error .function
  | 0, 22 =>
    if f.fx = 0 then f.immS 11 fun v => f.take .code .code .code false true (.callShort v)
    else .error .function
  | 0, 23 =>
    if f.fx = 0 ∧ f.f2 = 0 then f.take .zero .zero .zero false false (.retShort)
    else .error .function
  | 0, 24 =>
    if f.fx = 0 ∧ f.f2 = 0 then f.take .reg .reg .reg true false (.vaddF32Short f.rd f.ra f.rb f.msk)
    else .error .function
  | 0, 25 =>
    if f.fx = 0 ∧ f.f2 = 0 then f.take .reg .reg .reg true false (.vmulF32Short f.rd f.ra f.rb f.msk)
    else .error .function
  | 0, 26 =>
    if f.fx = 0 ∧ f.f2 = 0 then f.take .reg .reg .reg true false (.vfmaF32Short f.rd f.ra f.rb f.msk)
    else .error .function
  | 0, 27 =>
    if f.fx = 0 then f.immS 5 fun v => f.take .reg .reg .code true true (.vldF32Short f.rd f.ra v f.msk)
    else .error .function
  | 0, 28 =>
    if f.fx = 0 then f.immS 5 fun v => f.take .reg .reg .code true true (.vstF32Short f.rd f.ra v f.msk)
    else .error .function
  | 0, 29 =>
    if f.fx = 0 ∧ f.f2 = 0 then f.take .reg .reg .reg false false (.sendReqShort f.rd f.ra f.rb)
    else .error .function
  | 0, 30 =>
    if f.fx = 0 ∧ f.f2 = 0 then f.take .zero .zero .zero false false (.doneShort)
    else .error .function
  | 1, 0 =>
    if f.F = 0 then f.take .reg .reg .reg false false (.add f.rd f.ra f.rb)
    else if f.F = 1 then f.take .reg .reg .reg false false (.sub f.rd f.ra f.rb)
    else if f.F = 2 then f.take .reg .reg .reg false false (.and f.rd f.ra f.rb)
    else if f.F = 3 then f.take .reg .reg .reg false false (.or f.rd f.ra f.rb)
    else if f.F = 4 then f.take .reg .reg .reg false false (.xor f.rd f.ra f.rb)
    else if f.F = 5 then f.take .reg .reg .reg false false (.shl f.rd f.ra f.rb)
    else if f.F = 6 then f.take .reg .reg .reg false false (.shr f.rd f.ra f.rb)
    else if f.F = 7 then f.take .reg .reg .reg false false (.sar f.rd f.ra f.rb)
    else if f.F = 8 then f.take .reg .reg .reg false false (.mul f.rd f.ra f.rb)
    else if f.F = 9 then f.take .reg .reg .reg false false (.mulh f.rd f.ra f.rb)
    else if f.F = 10 then f.take .reg .reg .reg false false (.mulhn f.rd f.ra f.rb)
    else if f.F = 11 then f.take .reg .reg .reg false false (.div f.rd f.ra f.rb)
    else if f.F = 12 then f.take .reg .reg .reg false false (.divn f.rd f.ra f.rb)
    else if f.F = 13 then f.take .reg .reg .reg false false (.rem f.rd f.ra f.rb)
    else if f.F = 14 then f.take .reg .reg .reg false false (.remn f.rd f.ra f.rb)
    else if f.F = 15 then f.take .reg .reg .reg false false (.min f.rd f.ra f.rb)
    else if f.F = 16 then f.take .reg .reg .reg false false (.max f.rd f.ra f.rb)
    else if f.F = 17 then f.take .reg .reg .reg false false (.minn f.rd f.ra f.rb)
    else if f.F = 18 then f.take .reg .reg .reg false false (.maxn f.rd f.ra f.rb)
    else if f.F = 19 then f.take .reg .reg .reg false false (.slt f.rd f.ra f.rb)
    else if f.F = 20 then f.take .reg .reg .reg false false (.sltn f.rd f.ra f.rb)
    else if f.F = 21 then f.take .reg .reg .reg false false (.seq f.rd f.ra f.rb)
    else if f.F = 22 then f.take .reg .reg .reg false false (.sne f.rd f.ra f.rb)
    else if f.F = 23 then f.take .reg .reg .reg false false (.caddr f.rd f.ra f.rb)
    else if f.F = 24 then f.take .reg .reg .zero false false (.csplit f.rd f.ra)
    else .error .function
  | 1, 1 =>
    if f.F = 0 then f.take .reg .reg .zero false false (.clz f.rd f.ra)
    else if f.F = 1 then f.take .reg .reg .zero false false (.ctz f.rd f.ra)
    else if f.F = 2 then f.take .reg .reg .zero false false (.popc f.rd f.ra)
    else if f.F = 3 then f.take .reg .reg .zero false false (.brev f.rd f.ra)
    else if f.F = 4 then with3 (Sz3.ofCode f.b.toNat) fun s => f.take .reg .reg .code false false (.sext s f.rd f.ra)
    else if f.F = 5 then with3 (Sz3.ofCode f.b.toNat) fun s => f.take .reg .reg .code false false (.zext s f.rd f.ra)
    else if f.F = 6 then f.take .reg .reg .zero false false (.mov f.rd f.ra)
    else .error .function
  | 1, 2 =>
    if f.fx = 0 then f.immS 5 fun v => f.take .reg .reg .code false true (.addi f.rd f.ra v)
    else if f.fx = 1 then f.immS 5 fun v => f.take .reg .reg .code false true (.andi f.rd f.ra v)
    else if f.fx = 2 then f.immS 5 fun v => f.take .reg .reg .code false true (.ori f.rd f.ra v)
    else if f.fx = 3 then f.immS 5 fun v => f.take .reg .reg .code false true (.xori f.rd f.ra v)
    else if f.fx = 4 then f.immU 5 0 63 fun v => f.take .reg .reg .code false true (.shli f.rd f.ra v)
    else if f.fx = 5 then f.immU 5 0 63 fun v => f.take .reg .reg .code false true (.shri f.rd f.ra v)
    else if f.fx = 6 then f.immU 5 0 63 fun v => f.take .reg .reg .code false true (.sari f.rd f.ra v)
    else if f.fx = 7 then f.immS 5 fun v => f.take .reg .reg .code false true (.lea f.rd f.ra v)
    else .error .function
  | 1, 3 =>
    if f.fx = 0 then f.immS 8 fun v => f.take .reg .code .code false true (.ldi f.rd v)
    else if f.fx = 1 then f.immR 8 (-(2 ^ 31)) (2 ^ 32 - 1) fun v => f.take .reg .code .code false true (.ldih f.rd v)
    else .error .function
  | 2, 0 =>
    if f.fx = 0 then f.immS 11 fun v => f.take .code .code .code false true (.br v)
    else if f.fx = 1 then f.immS 11 fun v => f.take .code .code .code false true (.call v)
    else .error .function
  | 2, 1 =>
    if f.fx = 0 then f.immS 5 fun v => f.take .reg .reg .code false true (.beq f.rd f.ra v)
    else if f.fx = 1 then f.immS 5 fun v => f.take .reg .reg .code false true (.bne f.rd f.ra v)
    else if f.fx = 2 then f.immS 5 fun v => f.take .reg .reg .code false true (.blt f.rd f.ra v)
    else if f.fx = 3 then f.immS 5 fun v => f.take .reg .reg .code false true (.bge f.rd f.ra v)
    else if f.fx = 4 then f.immS 5 fun v => f.take .reg .reg .code false true (.bltn f.rd f.ra v)
    else if f.fx = 5 then f.immS 5 fun v => f.take .reg .reg .code false true (.bgen f.rd f.ra v)
    else .error .function
  | 2, 2 =>
    if f.fx = 0 then f.immS 8 fun v => f.take .reg .code .code false true (.bz f.rd v)
    else if f.fx = 1 then f.immS 8 fun v => f.take .reg .code .code false true (.bnz f.rd v)
    else .error .function
  | 2, 3 =>
    if f.F = 0 then f.take .zero .reg .zero false false (.jmpr f.ra)
    else if f.F = 1 then f.take .zero .reg .zero false false (.callr f.ra)
    else if f.F = 2 then f.take .zero .zero .zero false false (.ret)
    else if f.F = 3 then f.take .zero .zero .zero false false (.nop)
    else .error .function
  | 2, 4 =>
    if f.fx = 0 then f.immU 8 1 65535 fun v => f.take .zero .code .code false true (.align v)
    else if f.fx = 1 then f.immU 8 1 255 fun v => f.take .zero .code .code false true (.dly v)
    else .error .function
  | 2, 5 =>
    if f.fx = 0 then f.immReg 8 fun v => f.take .reg .code .code false true (.srr f.rd v)
    else if f.fx = 1 then f.immReg 8 fun v => f.take .reg .code .code false true (.srw f.rd v)
    else if f.fx = 2 then f.immReg 8 fun v => f.take .reg .code .code false true (.srset f.rd v)
    else if f.fx = 3 then f.immReg 8 fun v => f.take .reg .code .code false true (.srclr f.rd v)
    else .error .function
  | 2, 6 =>
    if f.F = 0 then f.take .zero .zero .zero false false (.tret)
    else if f.F = 1 then f.take .zero .zero .zero false false (.wfi)
    else if f.F = 2 then f.take .zero .zero .zero false false (.halt)
    else if f.F = 3 then f.take .zero .reg .reg false false (.ctxsw f.ra f.rb)
    else .error .function
  | 2, 7 =>
    if f.fx = 0 then f.immNo 8 fun v => f.take .zero .code .code false true (.trap v)
    else if f.fx = 1 then f.immNo 8 fun v => f.take .zero .code .code false true (.brk v)
    else .error .function
  | 3, 0 =>
    with3 (Sz.ofCode f.fx) fun s => f.immS 5 fun v => f.take .reg .reg .code false true (.ld s f.rd f.ra v)
  | 3, 1 =>
    with3 (Sz.ofCode f.fx) fun s => f.immS 5 fun v => f.take .reg .reg .code false true (.st s f.rd f.ra v)
  | 3, 2 =>
    if f.fx = 0 then with3 (Sz.ofCode f.f2.toNat) fun s => f.take .reg .reg .reg false false (.ldx s f.rd f.ra f.rb)
    else .error .function
  | 3, 3 =>
    if f.fx = 0 then with3 (Sz.ofCode f.f2.toNat) fun s => f.take .reg .reg .reg false false (.stx s f.rd f.ra f.rb)
    else .error .function
  | 3, 4 =>
    if f.fx = 0 ∧ f.rb = 0 then with3 (Sz.ofCode f.f2.toNat) fun s => f.take .reg .reg .zero false false (.ldf s f.rd f.ra)
    else if f.fx = 0 ∧ f.rb ≠ 0 then with3 (Sz.ofCode f.f2.toNat) fun s => f.take .zero .reg .reg false false (.ldfTagged s f.ra f.rb)
    else if f.fx = 1 then with3 (Sz.ofCode f.f2.toNat) fun s => f.take .reg .reg .reg false false (.stf s f.rd f.ra f.rb)
    else .error .function
  | 3, 5 =>
    if f.fx = 0 then if 2 < f.d then .error .function else f.immS 5 fun v => f.take .code .reg .code false true (.pref f.d f.ra v)
    else .error .function
  | 3, 6 =>
    if f.F = 0 then f.take .zero .zero .zero false false (.ifence)
    else if f.F = 1 then f.take .zero .reg .reg false false (.discard f.ra f.rb)
    else .error .function
  | 3, 7 =>
    if f.F / 8 = 0 then with3 (Scope.ofCode (f.F % 8)) fun c => f.take .zero .zero .zero false false (.fence c)
    else if f.F / 8 = 1 then with3 (Scope.ofCode (f.F % 8)) fun c => f.take .zero .zero .zero false false (.fenceAcq c)
    else if f.F / 8 = 2 then with3 (Scope.ofCode (f.F % 8)) fun c => f.take .zero .zero .zero false false (.fenceRel c)
    else .error .function
  | 3, 8 =>
    with3 (Scope.ofCode f.fx) fun c => with3 (Sz.ofCode f.f2.toNat) fun s => f.take .reg .reg .zero false false (.ldaq c s f.rd f.ra)
  | 3, 9 =>
    with3 (Scope.ofCode f.fx) fun c => with3 (Sz.ofCode f.f2.toNat) fun s => f.take .reg .reg .zero false false (.strl c s f.rd f.ra)
  | 3, 10 =>
    if f.fx = 0 then with3 (Wd.ofCode f.f2.toNat) fun s => f.take .reg .reg .reg false false (.atomAdd s f.rd f.ra f.rb)
    else if f.fx = 1 then with3 (Wd.ofCode f.f2.toNat) fun s => f.take .reg .reg .reg false false (.atomAnd s f.rd f.ra f.rb)
    else if f.fx = 2 then with3 (Wd.ofCode f.f2.toNat) fun s => f.take .reg .reg .reg false false (.atomOr s f.rd f.ra f.rb)
    else if f.fx = 3 then with3 (Wd.ofCode f.f2.toNat) fun s => f.take .reg .reg .reg false false (.atomXor s f.rd f.ra f.rb)
    else if f.fx = 4 then with3 (Wd.ofCode f.f2.toNat) fun s => f.take .reg .reg .reg false false (.atomMin s f.rd f.ra f.rb)
    else if f.fx = 5 then with3 (Wd.ofCode f.f2.toNat) fun s => f.take .reg .reg .reg false false (.atomMax s f.rd f.ra f.rb)
    else if f.fx = 6 then with3 (Wd.ofCode f.f2.toNat) fun s => f.take .reg .reg .reg false false (.atomMinn s f.rd f.ra f.rb)
    else if f.fx = 7 then with3 (Wd.ofCode f.f2.toNat) fun s => f.take .reg .reg .reg false false (.atomMaxn s f.rd f.ra f.rb)
    else if f.fx = 8 then with3 (Wd.ofCode f.f2.toNat) fun s => f.take .reg .reg .reg false false (.atomSwap s f.rd f.ra f.rb)
    else .error .function
  | 3, 11 =>
    if f.fx = 0 then with3 (Wd.ofCode f.f2.toNat) fun s => f.take .reg .reg .reg false false (.cas s f.rd f.ra f.rb)
    else .error .function
  | 3, 12 =>
    if f.fx = 0 then with3 (Wd.ofCode f.f2.toNat) fun s => f.take .reg .reg .reg false false (.binc s f.rd f.ra f.rb)
    else .error .function
  | 3, 13 =>
    if f.fx = 0 then with3 (Wd.ofCode f.f2.toNat) fun s => f.take .reg .reg .reg false false (.waita s f.rd f.ra f.rb)
    else .error .function
  | 3, 14 =>
    if f.F = 0 then f.take .zero .reg .reg false false (.tlbinv f.ra f.rb)
    else if f.F = 1 then f.take .reg .reg .reg false false (.pgq f.rd f.ra f.rb)
    else if f.F = 2 then f.take .reg .reg .reg false false (.pgpin f.rd f.ra f.rb)
    else .error .function
  | 4, 0 =>
    if f.f2 = 0 then f.typed ETy.isFIN fun t => f.take .reg .reg .reg true false (.vadd t f.rd f.ra f.rb f.msk)
    else if f.f2 = 1 then f.typed ETy.isFIN fun t => f.take .reg .reg .reg true false (.vsub t f.rd f.ra f.rb f.msk)
    else if f.f2 = 2 then f.typed ETy.isFIN fun t => f.take .reg .reg .reg true false (.vmul t f.rd f.ra f.rb f.msk)
    else if f.f2 = 3 then f.typed ETy.isF fun t => f.take .reg .reg .reg true false (.vdiv t f.rd f.ra f.rb f.msk)
    else .error .function
  | 4, 1 =>
    if f.f2 = 0 then f.typed ETy.isF fun t => f.take .reg .reg .reg true false (.vfma t f.rd f.ra f.rb f.msk)
    else if f.f2 = 1 then f.typed ETy.isF fun t => f.take .reg .reg .reg true false (.vfms t f.rd f.ra f.rb f.msk)
    else if f.f2 = 2 then f.typed ETy.isF fun t => f.take .reg .reg .reg true false (.vfnma t f.rd f.ra f.rb f.msk)
    else .error .function
  | 4, 2 =>
    if f.f2 = 0 then f.typed ETy.isFIN fun t => f.take .reg .reg .reg true false (.vmin t f.rd f.ra f.rb f.msk)
    else if f.f2 = 1 then f.typed ETy.isFIN fun t => f.take .reg .reg .reg true false (.vmax t f.rd f.ra f.rb f.msk)
    else if f.f2 = 2 then f.typed ETy.isFI fun t => f.take .reg .reg .zero true false (.vabs t f.rd f.ra f.msk)
    else if f.f2 = 3 then f.typed ETy.isFI fun t => f.take .reg .reg .zero true false (.vneg t f.rd f.ra f.msk)
    else .error .function
  | 4, 3 =>
    if f.f2 = 0 then f.typed ETy.isF fun t => f.take .reg .reg .zero true false (.vrcp t f.rd f.ra f.msk)
    else if f.f2 = 1 then f.typed ETy.isF fun t => f.take .reg .reg .zero true false (.vrsq t f.rd f.ra f.msk)
    else if f.f2 = 2 then f.typed ETy.isF fun t => f.take .reg .reg .zero true false (.vexp2 t f.rd f.ra f.msk)
    else if f.f2 = 3 then f.typed ETy.isF fun t => f.take .reg .reg .zero true false (.vlog2 t f.rd f.ra f.msk)
    else .error .function
  | 4, 4 =>
    if f.f2 = 0 then f.typed ETy.isIN fun t => f.take .reg .reg .reg true false (.vand t f.rd f.ra f.rb f.msk)
    else if f.f2 = 1 then f.typed ETy.isIN fun t => f.take .reg .reg .reg true false (.vor t f.rd f.ra f.rb f.msk)
    else if f.f2 = 2 then f.typed ETy.isIN fun t => f.take .reg .reg .reg true false (.vxor t f.rd f.ra f.rb f.msk)
    else if f.f2 = 3 then f.typed ETy.isIN fun t => f.take .reg .reg .zero true false (.vnot t f.rd f.ra f.msk)
    else .error .function
  | 4, 5 =>
    if f.f2 = 0 then f.typed ETy.isIN fun t => f.take .reg .reg .reg true false (.vshl t f.rd f.ra f.rb f.msk)
    else if f.f2 = 1 then f.typed ETy.isIN fun t => f.take .reg .reg .reg true false (.vshr t f.rd f.ra f.rb f.msk)
    else if f.f2 = 2 then f.typed ETy.isIN fun t => f.take .reg .reg .reg true false (.vsar t f.rd f.ra f.rb f.msk)
    else .error .function
  | 4, 6 =>
    if f.f2 = 0 then f.typed ETy.isDot fun t => f.take .reg .reg .reg true false (.vdot t f.rd f.ra f.rb f.msk)
    else if f.f2 = 1 then f.typed ETy.isAny fun t => if f.mask = 0 ∨ f.ag then .error .untaken else f.take .reg .reg .reg true false (.vsel t f.rd f.ra f.rb f.msk)
    else .error .function
  | 4, 7 =>
    with3 (Cond.ofCode f.f2.toNat) fun c => f.typed ETy.isFIN fun t => f.take .reg .reg .reg true false (.vcmp c t f.rd f.ra f.rb f.msk)
  | 4, 8 =>
    with3 (RKind.ofCode f.f2.toNat) fun k => f.typed ETy.isFIN fun t => f.take .reg .reg .zero true false (.vred k t f.rd f.ra f.msk)
  | 4, 9 =>
    with3 (RKind.ofCode f.f2.toNat) fun k => f.typed ETy.isFIN fun t => f.take .reg .reg .zero true false (.vscan k t f.rd f.ra f.msk)
  | 5, 0 =>
    if f.f2.toNat < 2 then f.typed ETy.isAny fun t => with3 (ETy.ofCode ((f.f2.toNat % 2) * 8 + f.b.toNat)) fun ts => f.take .reg .reg .code true false (.vcvt t ts f.rd f.ra f.msk)
    else .error .function
  | 5, 1 =>
    if f.f2 = 0 then f.typed ETy.isPerm fun t => f.take .reg .reg .reg true false (.vperm t f.rd f.ra f.rb f.msk)
    else if f.f2 = 1 then f.typed ETy.isAny fun t => f.take .reg .reg .zero true false (.vbcast t f.rd f.ra f.msk)
    else if f.f2 = 2 then f.typed ETy.isAny fun t => f.take .reg .reg .reg false false (.vins t f.rd f.ra f.rb)
    else if f.f2 = 3 then f.typed ETy.isAny fun t => f.take .reg .reg .reg false false (.vext t f.rd f.ra f.rb)
    else .error .function
  | 5, 2 =>
    f.typed ETy.isAny fun t => f.immS 5 fun v => f.take .reg .reg .code true true (.vld t f.rd f.ra v f.msk)
  | 5, 3 =>
    f.typed ETy.isAny fun t => f.immS 5 fun v => f.take .reg .reg .code true true (.vst t f.rd f.ra v f.msk)
  | 5, 4 =>
    if f.f2 = 0 then f.typed ETy.isPerm fun t => f.take .reg .reg .reg true false (.vlds t f.rd f.ra f.rb f.msk)
    else if f.f2 = 1 then f.typed ETy.isPerm fun t => f.take .reg .reg .reg true false (.vsts t f.rd f.ra f.rb f.msk)
    else if f.f2 = 2 then f.typed ETy.isPerm fun t => f.take .reg .reg .reg true false (.vldx t f.rd f.ra f.rb f.msk)
    else if f.f2 = 3 then f.typed ETy.isPerm fun t => f.take .reg .reg .reg true false (.vstx t f.rd f.ra f.rb f.msk)
    else .error .function
  | 5, 5 =>
    with3 (SxF.ofCode f.f2.toNat) fun x => f.typed ETy.isF fun t => f.take .reg .reg .zero false false (.vsxpack x t f.rd f.ra)
  | 5, 6 =>
    with3 (SxF.ofCode f.f2.toNat) fun x => f.typed ETy.isF fun t => f.take .reg .reg .zero false false (.vsxunpack x t f.rd f.ra)
  | 5, 7 =>
    if f.F = 0 then f.take .reg .reg .reg false false (.mand f.rd f.ra f.rb)
    else if f.F = 1 then f.take .reg .reg .reg false false (.mor f.rd f.ra f.rb)
    else if f.F = 2 then f.take .reg .reg .zero false false (.mnot f.rd f.ra)
    else if f.F = 3 then f.take .reg .reg .zero false false (.mpopc f.rd f.ra)
    else .error .function
  | 5, 8 =>
    if f.F = 0 then f.take .reg .reg .zero false false (.mfirst f.rd f.ra)
    else if f.F = 1 then f.take .reg .reg .zero false false (.mset f.rd f.ra)
    else .error .function
  | 8, 4 =>
    if f.F = 0 then if f.d = 0 then .error .function else f.take .code .zero .zero false false (.vclaim f.d)
    else if f.F = 1 then if f.d = 0 then .error .function else f.take .code .zero .zero false false (.vyield f.d)
    else if f.F = 2 then if f.b = 0 ∨ 3 < f.b then .error .function else f.take .zero .reg .code false false (.vgive f.ra f.b)
    else if f.F = 3 then if f.b = 0 ∨ 3 < f.b then .error .function else f.take .reg .zero .code false false (.vtake f.rd f.b)
    else .error .function
  | 8, 5 =>
    if f.F = 0 then f.take .reg .zero .zero false false (.vframes f.rd)
    else .error .function
  | 6, 0 =>
    if f.f2 = 0 then f.typed ETy.isMma fun t => if f.a ≠ 0 ∨ f.b ≠ 0 then .error .reserved else if f.ah = f.bh then .error .function else f.take .reg .reg .reg false false (.mma t f.rd f.ra f.rb)
    else .error .function
  | 6, 1 =>
    if f.F = 0 then f.take .reg .reg .zero false false (.mtsub f.rd f.ra)
    else if f.F = 1 then f.take .reg .reg .reg false false (.mgang f.rd f.ra f.rb)
    else if f.F = 2 then f.take .reg .reg .reg false false (.mdrainHandle f.rd f.ra f.rb)
    else if f.F = 3 then f.take .reg .reg .zero false false (.mclrReserve f.rd f.ra)
    else .error .function
  | 6, 2 =>
    if f.F = 0 then f.take .code .reg .reg false false (.mscl f.d f.ra f.rb)
    else if f.F = 1 then f.take .reg .reg .reg false false (.mstat f.rd f.ra f.rb)
    else if f.F = 2 then f.take .reg .reg .zero false false (.mwait f.rd f.ra)
    else .error .function
  | 7, 0 =>
    if f.f2 = 0 then with3 (MCls.ofCode f.fx) fun c => f.take .reg .reg .reg false false (.send c f.rd f.ra f.rb)
    else if f.fx = 0 ∧ f.f2 = 1 then f.take .reg .reg .reg false false (.sendb f.rd f.ra f.rb)
    else if f.f2 = 2 then with3 (MCls.ofCode f.fx) fun c => f.take .reg .reg .reg false false (.mcast c f.rd f.ra f.rb)
    else if f.fx = 0 ∧ f.f2 = 3 then f.take .zero .zero .zero false false (.done)
    else .error .function
  | 7, 1 =>
    if f.F = 0 then f.take .reg .reg .zero false false (.inbq f.rd f.ra)
    else if f.F = 1 then f.take .reg .reg .reg false false (.bind f.rd f.ra f.rb)
    else if f.F = 2 then f.take .reg .reg .zero false false (.unbind f.rd f.ra)
    else if f.F = 3 then f.take .reg .code .zero false false (.qtry f.rd f.a)
    else .error .function
  | 7, 2 =>
    if f.F = 0 then f.take .code .reg .zero false false (.qw f.d f.ra)
    else if f.F = 1 then f.take .reg .code .zero false false (.qr f.rd f.a)
    else .error .function
  | 7, 3 =>
    if f.F = 0 then f.take .reg .reg .reg false false (.fork f.rd f.ra f.rb)
    else if f.F = 1 ∧ f.rb = 0 then f.take .reg .reg .zero false false (.join f.rd f.ra)
    else if f.F = 1 ∧ f.rb ≠ 0 then f.take .reg .reg .reg false false (.joinCont f.rd f.ra f.rb)
    else if f.F = 2 then f.take .reg .reg .zero false false (.klaunch f.rd f.ra)
    else if f.F = 3 then f.take .reg .reg .zero false false (.kwait f.rd f.ra)
    else .error .function
  | 7, 4 =>
    if f.F = 0 then f.take .zero .reg .reg false false (.yield f.ra f.rb)
    else .error .function
  | 8, 0 =>
    if f.F = 0 then f.take .reg .reg .reg false false (.gmake f.rd f.ra f.rb)
    else if f.F = 1 then f.take .zero .reg .zero false false (.gdrop f.ra)
    else if f.F = 2 then f.take .reg .reg .reg false false (.ginfo f.rd f.ra f.rb)
    else if f.F = 3 then f.take .reg .reg .zero false false (.pair f.rd f.ra)
    else .error .function
  | 8, 1 =>
    if f.F = 0 then f.take .zero .zero .zero false false (.unpair)
    else .error .function
  | 8, 2 =>
    if f.F = 0 then f.take .reg .reg .reg false false (.bcfg f.rd f.ra f.rb)
    else if f.F = 1 then f.take .reg .reg .reg false false (.barr f.rd f.ra f.rb)
    else if f.F = 2 then f.take .reg .reg .reg false false (.bwait f.rd f.ra f.rb)
    else if f.F = 3 then f.take .reg .reg .reg false false (.barw f.rd f.ra f.rb)
    else .error .function
  | 8, 3 =>
    if f.F = 0 then f.take .reg .reg .reg false false (.bqry f.rd f.ra f.rb)
    else if f.F = 1 then f.take .reg .reg .zero false false (.bleave f.rd f.ra)
    else .error .function
  | 9, 0 =>
    if f.F = 0 then f.take .code .reg .zero false false (.cpy f.d f.ra)
    else if f.F = 1 then f.take .code .reg .zero false false (.cpyf f.d f.ra)
    else if f.F = 2 then f.take .code .reg .zero false false (.gath f.d f.ra)
    else if f.F = 3 then f.take .code .reg .zero false false (.scat f.d f.ra)
    else .error .function
  | 9, 1 =>
    if f.F = 0 then if f.rd < 24 then .error .function else f.take .reg .reg .zero false false (.strm f.rd f.ra)
    else if f.F = 1 then if f.ra < 24 then .error .function else f.take .reg .reg .zero false false (.strmx f.rd f.ra)
    else if f.F = 2 then f.take .reg .reg .reg false false (.cpyst f.rd f.ra f.rb)
    else .error .function
  | 10, 0 =>
    if f.F = 0 then f.take .reg .reg .reg false false (.exroute f.rd f.ra f.rb)
    else if f.F = 1 then f.take .reg .reg .reg false false (.exback f.rd f.ra f.rb)
    else if f.F = 2 then f.take .reg .reg .zero false false (.exgrow f.rd f.ra)
    else if f.F = 3 then f.take .reg .reg .reg false false (.exretire f.rd f.ra f.rb)
    else .error .function
  | 10, 1 =>
    if f.F = 0 then f.take .reg .reg .reg false false (.exjoin f.rd f.ra f.rb)
    else if f.F = 1 then f.take .reg .reg .reg false false (.exupd f.rd f.ra f.rb)
    else if f.F = 2 then f.take .reg .reg .reg false false (.exstat f.rd f.ra f.rb)
    else if f.F = 3 then f.take .reg .reg .reg false false (.hsift f.rd f.ra f.rb)
    else .error .function
  | 11, 0 =>
    if f.F = 0 then f.take .code .reg .zero false false (.nnq f.d f.ra)
    else if f.F = 1 then f.take .code .reg .reg false false (.nnres f.d f.ra f.rb)
    else if f.F = 2 then f.take .reg .reg .zero false false (.nncan f.rd f.ra)
    else if f.F = 3 then f.take .reg .reg .reg false false (.nnload f.rd f.ra f.rb)
    else .error .function
  | 11, 1 =>
    if f.F = 0 then f.take .reg .reg .reg false false (.nnstat f.rd f.ra f.rb)
    else .error .function
  | 12, 0 =>
    if f.F = 0 then f.take .reg .zero .zero false false (.reside f.rd)
    else if f.F = 1 then f.take .reg .zero .zero false false (.unreside f.rd)
    else if f.F = 2 then f.take .reg .reg .zero false false (.swapq f.rd f.ra)
    else .error .function
  | 12, 1 =>
    if f.fx = 0 ∧ f.f2 = 0 then f.take .reg .reg .reg false false (.aredSum f.rd f.ra f.rb)
    else if f.fx = 1 ∧ f.f2 = 0 then f.take .reg .reg .reg false false (.aredMax f.rd f.ra f.rb)
    else if f.fx = 2 ∧ f.f2 = 0 then f.take .reg .reg .reg false false (.aredMin f.rd f.ra f.rb)
    else if f.fx = 0 ∧ f.f2 = 1 then f.take .reg .reg .reg false false (.agath f.rd f.ra f.rb)
    else .error .function
  | _, _ => .error .unassigned

/-! ### The decoder -/

/-- A decoded instruction: its length in bytes, its stall count, its base word and the number of words before that. -/
structure Decoded where
  instr : Instr
  len : Nat
  stall : Nat
  word : W16
  idx : Nat
  deriving DecidableEq, Repr

/-- An illegal chain: why, the word it is charged to and the number of words before that word (R53). -/
structure Illegal where
  why : Bad
  word : W16
  idx : Nat
  deriving DecidableEq, Repr

/-- One word of the chain: the chain goes on, or it has ended. -/
inductive ChainStep
  | more (c : Chain)
  | ended (d : Decoded)
  | bad (e : Illegal)
  deriving DecidableEq, Repr

def Chain.next (c : Chain) (w : W16) : ChainStep :=
  if isChainWord w then
    match c.push w with
    | .ok c' => .more c'
    | .error e => .bad ⟨e, w, c.count⟩
  else
    match ofForm (c.form w) with
    | .ok i => .ended ⟨i, 2 * (c.count + 1), (c.form w).stall.toNat, w, c.count⟩
    | .error e => .bad ⟨e, w, c.count⟩

/-- Decode a list of words, in address order (R53). -/
def decodeFrom (c : Chain) : List W16 → Except Illegal Decoded
  | [] => .error ⟨.truncated, 0, c.count⟩
  | w :: ws => match c.next w with
    | .more c' => decodeFrom c' ws
    | .ended d => .ok d
    | .bad e => .error e

/-- Decode the words of one instruction. -/
def decode (ws : List W16) : Except Illegal Decoded := decodeFrom Chain.start ws

/-- The instruction the words hold, if they hold one. -/
def decodeInstr (ws : List W16) : Option Instr :=
  match decode ws with
  | .ok d => some d.instr
  | .error _ => none

/-- The words of a row of the opcode table, in address order. A row of two words that holds a PAGE word and a base word is
told apart by major opcode 31, which only a word in front of the base word has (R45). -/
def tableWords (nbits w : Nat) : List W16 :=
  let lo := BitVec.ofNat 16 w
  let hi := BitVec.ofNat 16 (w / 65536)
  if nbits ≤ 16 then [lo] ++ (if isChainWord lo then [hi] else [])
  else if isChainWord hi then [hi, lo]
  else [lo, hi]

/-- The instruction the decoder reads from a word numbered as the opcode table numbers it. -/
def decodeTableWord (nbits w : Nat) : Option Instr := decodeInstr (tableWords nbits w)

/-! ### The encoder (R45 to R51, R72) -/

/-- A code or queue number in the low three bits of a register field (R47). -/
def code5 (c : Code3) : Reg := 0#2 ++ c

/-- An RRR instruction. -/
def Form.r3 (page op fx f2 : Nat) (d a b : Reg) (m : Msk) : Form :=
  { page, op, fx, f2 := BitVec.ofNat 2 f2, d := d.extractLsb' 0 3, a := a.extractLsb' 0 3, b := b.extractLsb' 0 3,
    dh := d.extractLsb' 3 2, ah := a.extractLsb' 3 2, bh := b.extractLsb' 3 2, immN := 0, immV := 0, mask := m.m,
    ag := m.ag, stall := 0 }

/-- True when a value of `10n + w` bits, signed or unsigned, holds the immediate. -/
def immFits (signed : Bool) (bits : Nat) (v : W64) : Bool :=
  if signed then decide (-(2 ^ (bits - 1)) ≤ v.toInt) && decide (v.toInt < 2 ^ (bits - 1))
  else decide (v.toNat < 2 ^ bits)

/-- The fewest IMM words that hold the immediate (R72). -/
def immWords (signed : Bool) (w : Nat) (v : W64) : Nat :=
  if immFits signed w v then 0
  else if immFits signed (10 + w) v then 1
  else if immFits signed (20 + w) v then 2
  else if immFits signed (30 + w) v then 3
  else 4

/-- An instruction with an immediate field of `w` bits: RRI with 5, RI with 8, J with 11 (R46). -/
def Form.ri (page op fx w : Nat) (d a : Reg) (m : Msk) (signed : Bool) (v : W64) : Form :=
  let n := immWords signed w v
  let raw := v.toNat % 2 ^ (10 * n + w)
  let low : BitVec 11 := BitVec.ofNat 11 (raw % 2 ^ w)
  let dd := if w = 11 then low.extractLsb' 8 3 else d.extractLsb' 0 3
  let aa := if w = 5 then a.extractLsb' 0 3 else low.extractLsb' 5 3
  { page, op, fx, f2 := low.extractLsb' 0 2, d := dd, a := aa, b := low.extractLsb' 2 3,
    dh := if w = 11 then 0 else d.extractLsb' 3 2, ah := if w = 5 then a.extractLsb' 3 2 else 0, bh := 0, immN := n,
    immV := raw / 2 ^ w, mask := m.m, ag := m.ag, stall := 0 }

/-- The fields of an instruction; none for an event, which has no encoding. -/
def formOf : Instr → Option Form
  | .addShort d a b => some <| Form.r3 0 0 0 0 d a b Msk.none
  | .subShort d a b => some <| Form.r3 0 1 0 0 d a b Msk.none
  | .andShort d a b => some <| Form.r3 0 2 0 0 d a b Msk.none
  | .orShort d a b => some <| Form.r3 0 3 0 0 d a b Msk.none
  | .xorShort d a b => some <| Form.r3 0 4 0 0 d a b Msk.none
  | .addiShort d a imm => some <| Form.ri 0 5 0 5 d a Msk.none true imm
  | .shliShort d a imm => some <| Form.ri 0 6 0 5 d a Msk.none false imm
  | .shriShort d a imm => some <| Form.ri 0 7 0 5 d a Msk.none false imm
  | .ldiShort d imm => some <| Form.ri 0 8 0 8 d 0 Msk.none true imm
  | .movShort d a => some <| Form.r3 0 9 0 0 d a 0 Msk.none
  | .sltShort d a b => some <| Form.r3 0 10 0 0 d a b Msk.none
  | .mulShort d a b => some <| Form.r3 0 11 0 0 d a b Msk.none
  | .ldDShort d a imm => some <| Form.ri 0 12 0 5 d a Msk.none true imm
  | .ldWShort d a imm => some <| Form.ri 0 13 0 5 d a Msk.none true imm
  | .stDShort d a imm => some <| Form.ri 0 14 0 5 d a Msk.none true imm
  | .stWShort d a imm => some <| Form.ri 0 15 0 5 d a Msk.none true imm
  | .leaShort d a imm => some <| Form.ri 0 16 0 5 d a Msk.none true imm
  | .brShort imm => some <| Form.ri 0 17 0 11 0 0 Msk.none true imm
  | .beqShort d a imm => some <| Form.ri 0 18 0 5 d a Msk.none true imm
  | .bneShort d a imm => some <| Form.ri 0 19 0 5 d a Msk.none true imm
  | .bzShort d imm => some <| Form.ri 0 20 0 8 d 0 Msk.none true imm
  | .bnzShort d imm => some <| Form.ri 0 21 0 8 d 0 Msk.none true imm
  | .callShort imm => some <| Form.ri 0 22 0 11 0 0 Msk.none true imm
  | .retShort => some <| Form.r3 0 23 0 0 0 0 0 Msk.none
  | .vaddF32Short d a b m => some <| Form.r3 0 24 0 0 d a b m
  | .vmulF32Short d a b m => some <| Form.r3 0 25 0 0 d a b m
  | .vfmaF32Short d a b m => some <| Form.r3 0 26 0 0 d a b m
  | .vldF32Short d a imm m => some <| Form.ri 0 27 0 5 d a m true imm
  | .vstF32Short d a imm m => some <| Form.ri 0 28 0 5 d a m true imm
  | .sendReqShort d a b => some <| Form.r3 0 29 0 0 d a b Msk.none
  | .doneShort => some <| Form.r3 0 30 0 0 0 0 0 Msk.none
  | .add d a b => some <| Form.r3 1 0 0 0 d a b Msk.none
  | .sub d a b => some <| Form.r3 1 0 0 1 d a b Msk.none
  | .and d a b => some <| Form.r3 1 0 0 2 d a b Msk.none
  | .or d a b => some <| Form.r3 1 0 0 3 d a b Msk.none
  | .xor d a b => some <| Form.r3 1 0 1 0 d a b Msk.none
  | .shl d a b => some <| Form.r3 1 0 1 1 d a b Msk.none
  | .shr d a b => some <| Form.r3 1 0 1 2 d a b Msk.none
  | .sar d a b => some <| Form.r3 1 0 1 3 d a b Msk.none
  | .mul d a b => some <| Form.r3 1 0 2 0 d a b Msk.none
  | .mulh d a b => some <| Form.r3 1 0 2 1 d a b Msk.none
  | .mulhn d a b => some <| Form.r3 1 0 2 2 d a b Msk.none
  | .div d a b => some <| Form.r3 1 0 2 3 d a b Msk.none
  | .divn d a b => some <| Form.r3 1 0 3 0 d a b Msk.none
  | .rem d a b => some <| Form.r3 1 0 3 1 d a b Msk.none
  | .remn d a b => some <| Form.r3 1 0 3 2 d a b Msk.none
  | .min d a b => some <| Form.r3 1 0 3 3 d a b Msk.none
  | .max d a b => some <| Form.r3 1 0 4 0 d a b Msk.none
  | .minn d a b => some <| Form.r3 1 0 4 1 d a b Msk.none
  | .maxn d a b => some <| Form.r3 1 0 4 2 d a b Msk.none
  | .slt d a b => some <| Form.r3 1 0 4 3 d a b Msk.none
  | .sltn d a b => some <| Form.r3 1 0 5 0 d a b Msk.none
  | .seq d a b => some <| Form.r3 1 0 5 1 d a b Msk.none
  | .sne d a b => some <| Form.r3 1 0 5 2 d a b Msk.none
  | .caddr d a b => some <| Form.r3 1 0 5 3 d a b Msk.none
  | .csplit d a => some <| Form.r3 1 0 6 0 d a 0 Msk.none
  | .clz d a => some <| Form.r3 1 1 0 0 d a 0 Msk.none
  | .ctz d a => some <| Form.r3 1 1 0 1 d a 0 Msk.none
  | .popc d a => some <| Form.r3 1 1 0 2 d a 0 Msk.none
  | .brev d a => some <| Form.r3 1 1 0 3 d a 0 Msk.none
  | .sext s d a => some <| Form.r3 1 1 1 0 d a (code5 (BitVec.ofNat 3 s.toNat)) Msk.none
  | .zext s d a => some <| Form.r3 1 1 1 1 d a (code5 (BitVec.ofNat 3 s.toNat)) Msk.none
  | .mov d a => some <| Form.r3 1 1 1 2 d a 0 Msk.none
  | .addi d a imm => some <| Form.ri 1 2 0 5 d a Msk.none true imm
  | .andi d a imm => some <| Form.ri 1 2 1 5 d a Msk.none true imm
  | .ori d a imm => some <| Form.ri 1 2 2 5 d a Msk.none true imm
  | .xori d a imm => some <| Form.ri 1 2 3 5 d a Msk.none true imm
  | .shli d a imm => some <| Form.ri 1 2 4 5 d a Msk.none false imm
  | .shri d a imm => some <| Form.ri 1 2 5 5 d a Msk.none false imm
  | .sari d a imm => some <| Form.ri 1 2 6 5 d a Msk.none false imm
  | .lea d a imm => some <| Form.ri 1 2 7 5 d a Msk.none true imm
  | .ldi d imm => some <| Form.ri 1 3 0 8 d 0 Msk.none true imm
  | .ldih d imm => some <| Form.ri 1 3 1 8 d 0 Msk.none true imm
  | .br imm => some <| Form.ri 2 0 0 11 0 0 Msk.none true imm
  | .call imm => some <| Form.ri 2 0 1 11 0 0 Msk.none true imm
  | .beq d a imm => some <| Form.ri 2 1 0 5 d a Msk.none true imm
  | .bne d a imm => some <| Form.ri 2 1 1 5 d a Msk.none true imm
  | .blt d a imm => some <| Form.ri 2 1 2 5 d a Msk.none true imm
  | .bge d a imm => some <| Form.ri 2 1 3 5 d a Msk.none true imm
  | .bltn d a imm => some <| Form.ri 2 1 4 5 d a Msk.none true imm
  | .bgen d a imm => some <| Form.ri 2 1 5 5 d a Msk.none true imm
  | .bz d imm => some <| Form.ri 2 2 0 8 d 0 Msk.none true imm
  | .bnz d imm => some <| Form.ri 2 2 1 8 d 0 Msk.none true imm
  | .jmpr a => some <| Form.r3 2 3 0 0 0 a 0 Msk.none
  | .callr a => some <| Form.r3 2 3 0 1 0 a 0 Msk.none
  | .ret => some <| Form.r3 2 3 0 2 0 0 0 Msk.none
  | .nop => some <| Form.r3 2 3 0 3 0 0 0 Msk.none
  | .align imm => some <| Form.ri 2 4 0 8 0 0 Msk.none false imm
  | .dly imm => some <| Form.ri 2 4 1 8 0 0 Msk.none false imm
  | .srr d imm => some <| Form.ri 2 5 0 8 d 0 Msk.none false imm
  | .srw d imm => some <| Form.ri 2 5 1 8 d 0 Msk.none false imm
  | .srset d imm => some <| Form.ri 2 5 2 8 d 0 Msk.none false imm
  | .srclr d imm => some <| Form.ri 2 5 3 8 d 0 Msk.none false imm
  | .tret => some <| Form.r3 2 6 0 0 0 0 0 Msk.none
  | .wfi => some <| Form.r3 2 6 0 1 0 0 0 Msk.none
  | .halt => some <| Form.r3 2 6 0 2 0 0 0 Msk.none
  | .ctxsw a b => some <| Form.r3 2 6 0 3 0 a b Msk.none
  | .trap imm => some <| Form.ri 2 7 0 8 0 0 Msk.none false imm
  | .brk imm => some <| Form.ri 2 7 1 8 0 0 Msk.none false imm
  | .ld s d a imm => some <| Form.ri 3 0 s.toNat 5 d a Msk.none true imm
  | .st s d a imm => some <| Form.ri 3 1 s.toNat 5 d a Msk.none true imm
  | .ldx s d a b => some <| Form.r3 3 2 0 s.toNat d a b Msk.none
  | .stx s d a b => some <| Form.r3 3 3 0 s.toNat d a b Msk.none
  | .ldf s d a => some <| Form.r3 3 4 0 s.toNat d a 0 Msk.none
  | .ldfTagged s a b => some <| Form.r3 3 4 0 s.toNat 0 a b Msk.none
  | .stf s d a b => some <| Form.r3 3 4 1 s.toNat d a b Msk.none
  | .pref d a imm => some <| Form.ri 3 5 0 5 (code5 d) a Msk.none true imm
  | .ifence => some <| Form.r3 3 6 0 0 0 0 0 Msk.none
  | .discard a b => some <| Form.r3 3 6 0 1 0 a b Msk.none
  | .fence c => some <| Form.r3 3 7 ((0 * 8 + c.toNat) / 4) ((0 * 8 + c.toNat) % 4) 0 0 0 Msk.none
  | .fenceAcq c => some <| Form.r3 3 7 ((1 * 8 + c.toNat) / 4) ((1 * 8 + c.toNat) % 4) 0 0 0 Msk.none
  | .fenceRel c => some <| Form.r3 3 7 ((2 * 8 + c.toNat) / 4) ((2 * 8 + c.toNat) % 4) 0 0 0 Msk.none
  | .ldaq c s d a => some <| Form.r3 3 8 c.toNat s.toNat d a 0 Msk.none
  | .strl c s d a => some <| Form.r3 3 9 c.toNat s.toNat d a 0 Msk.none
  | .atomAdd s d a b => some <| Form.r3 3 10 0 s.toNat d a b Msk.none
  | .atomAnd s d a b => some <| Form.r3 3 10 1 s.toNat d a b Msk.none
  | .atomOr s d a b => some <| Form.r3 3 10 2 s.toNat d a b Msk.none
  | .atomXor s d a b => some <| Form.r3 3 10 3 s.toNat d a b Msk.none
  | .atomMin s d a b => some <| Form.r3 3 10 4 s.toNat d a b Msk.none
  | .atomMax s d a b => some <| Form.r3 3 10 5 s.toNat d a b Msk.none
  | .atomMinn s d a b => some <| Form.r3 3 10 6 s.toNat d a b Msk.none
  | .atomMaxn s d a b => some <| Form.r3 3 10 7 s.toNat d a b Msk.none
  | .atomSwap s d a b => some <| Form.r3 3 10 8 s.toNat d a b Msk.none
  | .cas s d a b => some <| Form.r3 3 11 0 s.toNat d a b Msk.none
  | .binc s d a b => some <| Form.r3 3 12 0 s.toNat d a b Msk.none
  | .waita s d a b => some <| Form.r3 3 13 0 s.toNat d a b Msk.none
  | .tlbinv a b => some <| Form.r3 3 14 0 0 0 a b Msk.none
  | .pgq d a b => some <| Form.r3 3 14 0 1 d a b Msk.none
  | .pgpin d a b => some <| Form.r3 3 14 0 2 d a b Msk.none
  | .vadd t d a b m => some <| Form.r3 4 0 t.toNat 0 d a b m
  | .vsub t d a b m => some <| Form.r3 4 0 t.toNat 1 d a b m
  | .vmul t d a b m => some <| Form.r3 4 0 t.toNat 2 d a b m
  | .vdiv t d a b m => some <| Form.r3 4 0 t.toNat 3 d a b m
  | .vfma t d a b m => some <| Form.r3 4 1 t.toNat 0 d a b m
  | .vfms t d a b m => some <| Form.r3 4 1 t.toNat 1 d a b m
  | .vfnma t d a b m => some <| Form.r3 4 1 t.toNat 2 d a b m
  | .vmin t d a b m => some <| Form.r3 4 2 t.toNat 0 d a b m
  | .vmax t d a b m => some <| Form.r3 4 2 t.toNat 1 d a b m
  | .vabs t d a m => some <| Form.r3 4 2 t.toNat 2 d a 0 m
  | .vneg t d a m => some <| Form.r3 4 2 t.toNat 3 d a 0 m
  | .vrcp t d a m => some <| Form.r3 4 3 t.toNat 0 d a 0 m
  | .vrsq t d a m => some <| Form.r3 4 3 t.toNat 1 d a 0 m
  | .vexp2 t d a m => some <| Form.r3 4 3 t.toNat 2 d a 0 m
  | .vlog2 t d a m => some <| Form.r3 4 3 t.toNat 3 d a 0 m
  | .vand t d a b m => some <| Form.r3 4 4 t.toNat 0 d a b m
  | .vor t d a b m => some <| Form.r3 4 4 t.toNat 1 d a b m
  | .vxor t d a b m => some <| Form.r3 4 4 t.toNat 2 d a b m
  | .vnot t d a m => some <| Form.r3 4 4 t.toNat 3 d a 0 m
  | .vshl t d a b m => some <| Form.r3 4 5 t.toNat 0 d a b m
  | .vshr t d a b m => some <| Form.r3 4 5 t.toNat 1 d a b m
  | .vsar t d a b m => some <| Form.r3 4 5 t.toNat 2 d a b m
  | .vdot t d a b m => some <| Form.r3 4 6 t.toNat 0 d a b m
  | .vsel t d a b m => some <| Form.r3 4 6 t.toNat 1 d a b m
  | .vcmp c t d a b m => some <| Form.r3 4 7 t.toNat c.toNat d a b m
  | .vred k t d a m => some <| Form.r3 4 8 t.toNat k.toNat d a 0 m
  | .vscan k t d a m => some <| Form.r3 4 9 t.toNat k.toNat d a 0 m
  | .vcvt t ts d a m => some <| Form.r3 5 0 t.toNat (ts.toNat / 8) d a (code5 (BitVec.ofNat 3 (ts.toNat % 8))) m
  | .vperm t d a b m => some <| Form.r3 5 1 t.toNat 0 d a b m
  | .vbcast t d a m => some <| Form.r3 5 1 t.toNat 1 d a 0 m
  | .vins t d a b => some <| Form.r3 5 1 t.toNat 2 d a b Msk.none
  | .vext t d a b => some <| Form.r3 5 1 t.toNat 3 d a b Msk.none
  | .vld t d a imm m => some <| Form.ri 5 2 t.toNat 5 d a m true imm
  | .vst t d a imm m => some <| Form.ri 5 3 t.toNat 5 d a m true imm
  | .vlds t d a b m => some <| Form.r3 5 4 t.toNat 0 d a b m
  | .vsts t d a b m => some <| Form.r3 5 4 t.toNat 1 d a b m
  | .vldx t d a b m => some <| Form.r3 5 4 t.toNat 2 d a b m
  | .vstx t d a b m => some <| Form.r3 5 4 t.toNat 3 d a b m
  | .vsxpack x t d a => some <| Form.r3 5 5 t.toNat x.toNat d a 0 Msk.none
  | .vsxunpack x t d a => some <| Form.r3 5 6 t.toNat x.toNat d a 0 Msk.none
  | .mand d a b => some <| Form.r3 5 7 0 0 d a b Msk.none
  | .mor d a b => some <| Form.r3 5 7 0 1 d a b Msk.none
  | .mnot d a => some <| Form.r3 5 7 0 2 d a 0 Msk.none
  | .mpopc d a => some <| Form.r3 5 7 0 3 d a 0 Msk.none
  | .mfirst d a => some <| Form.r3 5 8 0 0 d a 0 Msk.none
  | .mset d a => some <| Form.r3 5 8 0 1 d a 0 Msk.none
  | .vclaim d => some <| Form.r3 8 4 0 0 (code5 d) 0 0 Msk.none
  | .vyield d => some <| Form.r3 8 4 0 1 (code5 d) 0 0 Msk.none
  | .vgive a b => some <| Form.r3 8 4 0 2 0 a (code5 b) Msk.none
  | .vtake d b => some <| Form.r3 8 4 0 3 d 0 (code5 b) Msk.none
  | .vframes d => some <| Form.r3 8 5 0 0 d 0 0 Msk.none
  | .mma t d a b => some <| Form.r3 6 0 t.toNat 0 d a b Msk.none
  | .mtsub d a => some <| Form.r3 6 1 0 0 d a 0 Msk.none
  | .mgang d a b => some <| Form.r3 6 1 0 1 d a b Msk.none
  | .mdrainHandle d a b => some <| Form.r3 6 1 0 2 d a b Msk.none
  | .mdrainTicket d a b => some <| Form.r3 6 1 0 2 d a b Msk.none
  | .mclrReserve d a => some <| Form.r3 6 1 0 3 d a 0 Msk.none
  | .mclrRelease d a => some <| Form.r3 6 1 0 3 d a 0 Msk.none
  | .mclrClear d a => some <| Form.r3 6 1 0 3 d a 0 Msk.none
  | .mclrTicket d a => some <| Form.r3 6 1 0 3 d a 0 Msk.none
  | .mscl d a b => some <| Form.r3 6 2 0 0 (code5 d) a b Msk.none
  | .mstat d a b => some <| Form.r3 6 2 0 1 d a b Msk.none
  | .mwait d a => some <| Form.r3 6 2 0 2 d a 0 Msk.none
  | .send c d a b => some <| Form.r3 7 0 c.toNat 0 d a b Msk.none
  | .sendb d a b => some <| Form.r3 7 0 0 1 d a b Msk.none
  | .mcast c d a b => some <| Form.r3 7 0 c.toNat 2 d a b Msk.none
  | .done => some <| Form.r3 7 0 0 3 0 0 0 Msk.none
  | .inbq d a => some <| Form.r3 7 1 0 0 d a 0 Msk.none
  | .bind d a b => some <| Form.r3 7 1 0 1 d a b Msk.none
  | .unbind d a => some <| Form.r3 7 1 0 2 d a 0 Msk.none
  | .qtry d a => some <| Form.r3 7 1 0 3 d (code5 a) 0 Msk.none
  | .qw d a => some <| Form.r3 7 2 0 0 (code5 d) a 0 Msk.none
  | .qr d a => some <| Form.r3 7 2 0 1 d (code5 a) 0 Msk.none
  | .fork d a b => some <| Form.r3 7 3 0 0 d a b Msk.none
  | .join d a => some <| Form.r3 7 3 0 1 d a 0 Msk.none
  | .joinCont d a b => some <| Form.r3 7 3 0 1 d a b Msk.none
  | .klaunch d a => some <| Form.r3 7 3 0 2 d a 0 Msk.none
  | .kwait d a => some <| Form.r3 7 3 0 3 d a 0 Msk.none
  | .yield a b => some <| Form.r3 7 4 0 0 0 a b Msk.none
  | .gmake d a b => some <| Form.r3 8 0 0 0 d a b Msk.none
  | .gdrop a => some <| Form.r3 8 0 0 1 0 a 0 Msk.none
  | .ginfo d a b => some <| Form.r3 8 0 0 2 d a b Msk.none
  | .pair d a => some <| Form.r3 8 0 0 3 d a 0 Msk.none
  | .unpair => some <| Form.r3 8 1 0 0 0 0 0 Msk.none
  | .bcfg d a b => some <| Form.r3 8 2 0 0 d a b Msk.none
  | .barr d a b => some <| Form.r3 8 2 0 1 d a b Msk.none
  | .bwait d a b => some <| Form.r3 8 2 0 2 d a b Msk.none
  | .barw d a b => some <| Form.r3 8 2 0 3 d a b Msk.none
  | .bqry d a b => some <| Form.r3 8 3 0 0 d a b Msk.none
  | .bleave d a => some <| Form.r3 8 3 0 1 d a 0 Msk.none
  | .cpy d a => some <| Form.r3 9 0 0 0 (code5 d) a 0 Msk.none
  | .cpyf d a => some <| Form.r3 9 0 0 1 (code5 d) a 0 Msk.none
  | .gath d a => some <| Form.r3 9 0 0 2 (code5 d) a 0 Msk.none
  | .scat d a => some <| Form.r3 9 0 0 3 (code5 d) a 0 Msk.none
  | .strm d a => some <| Form.r3 9 1 0 0 d a 0 Msk.none
  | .strmx d a => some <| Form.r3 9 1 0 1 d a 0 Msk.none
  | .cpyst d a b => some <| Form.r3 9 1 0 2 d a b Msk.none
  | .exroute d a b => some <| Form.r3 10 0 0 0 d a b Msk.none
  | .exback d a b => some <| Form.r3 10 0 0 1 d a b Msk.none
  | .exgrow d a => some <| Form.r3 10 0 0 2 d a 0 Msk.none
  | .exretire d a b => some <| Form.r3 10 0 0 3 d a b Msk.none
  | .exjoin d a b => some <| Form.r3 10 1 0 0 d a b Msk.none
  | .exupd d a b => some <| Form.r3 10 1 0 1 d a b Msk.none
  | .exstat d a b => some <| Form.r3 10 1 0 2 d a b Msk.none
  | .hsift d a b => some <| Form.r3 10 1 0 3 d a b Msk.none
  | .nnq d a => some <| Form.r3 11 0 0 0 (code5 d) a 0 Msk.none
  | .nnres d a b => some <| Form.r3 11 0 0 1 (code5 d) a b Msk.none
  | .nncan d a => some <| Form.r3 11 0 0 2 d a 0 Msk.none
  | .nnload d a b => some <| Form.r3 11 0 0 3 d a b Msk.none
  | .nnstat d a b => some <| Form.r3 11 1 0 0 d a b Msk.none
  | .reside d => some <| Form.r3 12 0 0 0 d 0 0 Msk.none
  | .unreside d => some <| Form.r3 12 0 0 1 d 0 0 Msk.none
  | .swapq d a => some <| Form.r3 12 0 0 2 d a 0 Msk.none
  | .aredSum d a b => some <| Form.r3 12 1 0 0 d a b Msk.none
  | .aredMax d a b => some <| Form.r3 12 1 1 0 d a b Msk.none
  | .aredMin d a b => some <| Form.r3 12 1 2 0 d a b Msk.none
  | .agath d a b => some <| Form.r3 12 1 0 1 d a b Msk.none
  | .interruptEntry => none
  | .sliceExpiry => none
  | .fetchBlockArrival => none
  | .alignRelease => none
  | .waitComplete => none
  | .claimServed => none
  | .poolStall => none
  | .frameImageAck => none
  | .reloadServed => none
  | .vtakeTimeout => none
  | .loadReply => none
  | .remoteAccessAtHome => none
  | .atomicAtHome => none
  | .storeAck => none
  | .waitaWake => none
  | .waitaPoll => none
  | .waitaTimeout => none
  | .ratioChangeRequest => none
  | .stackRetrainStart => none
  | .forcedRetrain => none
  | .stackRetrainComplete => none
  | .rowExchange => none
  | .rowExchangeComplete => none
  | .refreshIntervalEnd => none
  | .clockBeat => none
  | .beatArrival => none
  | .crossDieWriteApply => none
  | .rdcSweep => none
  | .hostMemWrite => none
  | .hostMemRead => none
  | .hostCacheSnoop => none
  | .hostDoorbell => none
  | .pageWalkComplete => none
  | .keyWrite => none
  | .contextAllocate => none
  | .contextTeardown => none
  | .saveComplete => none
  | .restoreComplete => none
  | .messageArrival => none
  | .attachmentComplete => none
  | .mcastCopy => none
  | .qbindWrite => none
  | .portResult => none
  | .graphAdmission => none
  | .nodeStart => none
  | .kernelRunning => none
  | .nodeComplete => none
  | .waitNodeSatisfied => none
  | .waitNodeTimeout => none
  | .graphEnd => none
  | .weightSwitchCopy => none
  | .weightSwitchCommit => none
  | .dequeSteal => none
  | .joinContinuation => none
  | .barrierTimeout => none
  | .mmaApply => none
  | .sharePlacement => none
  | .shareAgeing => none
  | .tileChunk => none
  | .drainComplete => none
  | .shapeDecrementAtHome => none
  | .tileFaultTrap => none
  | .copyBlockRead => none
  | .copyPieceStart => none
  | .copyComplete => none
  | .completionQueueAppend => none
  | .gatherRowAtOwner => none
  | .streamStripFetch => none
  | .excfgInstall => none
  | .excfgRemove => none
  | .directoryCopyUpdate => none
  | .reservationAtPort => none
  | .expertRowPulled => none
  | .accordEvaluation => none
  | .replicaFillComplete => none
  | .handoverStart => none
  | .handoverComplete => none
  | .queryVectorRead => none
  | .querySchedule => none
  | .distanceBatch => none
  | .queryHop => none
  | .queryResume => none
  | .queryComplete => none
  | .queryAgeing => none
  | .arbWindowClose => none
  | .attarStarvation => none
  | .swapInstant => none
  | .swapSubround => none
  | .swapExchangeComplete => none
  | .forwardingEnd => none
  | .linkTrainingComplete => none
  | .linkLaneLoss => none
  | .linkErrorThreshold => none
  | .linkRetrainComplete => none
  | .linkFlitArrival => none
  | .lctlEnWrite => none
  | .lctlQrel => none
  | .lctlRetrain => none
  | .twinWrite => none
  | .dstatWfaultClear => none
  | .ptpSync => none
  | .collectiveContribution => none
  | .collectiveResult => none
  | .collectiveTimeout => none
  | .powerOnReset => none
  | .coldStart => none
  | .warmStart => none
  | .drydownReplan => none
  | .debugHaltRequest => none
  | .debugResume => none
  | .debugStep => none
  | .debugClrdly => none
  | .debugDataWrite => none
  | .logControlWrite => none
  | .replayStall => none
  | .delukIdentity => none
  | .delukStatus => none
  | .delukNotices => none
  | .delukDebug => none
  | .delukFirmware => none
  | .delukPower => none
  | .delukReset => none
  | .registerWrite => none
  | .spillBufferWrite => none
  | .backInvalidateResponse => none

/-- The IMM words, most significant first (R49). -/
def immChain : Nat → Nat → List W16
  | 0, _ => []
  | n + 1, v => immChain n (v / 1024) ++ [(0b111111#6 ++ BitVec.ofNat 10 v : W16)]

/-- The words of a chain in the order IMM, REG, PAGE, MOD, base word (R72). -/
def Form.words (f : Form) : List W16 :=
  immChain f.immN f.immV
  ++ (if f.dh = 0 ∧ f.ah = 0 ∧ f.bh = 0 then [] else [(0b11111000#8 ++ f.dh ++ f.ah ++ f.bh ++ 0#2 : W16)])
  ++ (if f.page = 0 then [] else [(0b11111001#8 ++ BitVec.ofNat 4 f.page ++ BitVec.ofNat 4 f.fx : W16)])
  ++ (if f.mask = 0 ∧ ¬ f.ag ∧ f.stall = 0 then []
      else [(0b11111010#8 ++ f.mask ++ BitVec.ofBool f.ag ++ f.stall ++ 0#1 : W16)])
  ++ [(BitVec.ofNat 5 f.op ++ f.d ++ f.a ++ f.b ++ f.f2 : W16)]

/-- The words of an instruction with a stall count; none for an event, or when the chain would need a fifth word in
front of the base word. -/
def encodeStall (i : Instr) (stall : Code3) : Option (List W16) :=
  match formOf i with
  | none => none
  | some f =>
    let ws := { f with stall := stall }.words
    if ws.length ≤ 5 then some ws else none

/-- The words of an instruction without a stall count. -/
def encode (i : Instr) : Option (List W16) := encodeStall i 0

end Sys2Proof
end

