-- ==== Sys2Proof/Machine/Upkeep.lean ====
section
/-! DEFINITION. Events of the frame pools, of streams and of the HBM stacks (05_vector R110 to R119; 06_memory R155, R156;
16_copy R362; 09_context R245). -/
namespace Sys2Proof.Machine

/-! ### Frames (05_vector R112 to R119) -/

/-- CLAIM_SERVED (R112): quad a. -/
def execClaimServed (s : State) : Host.Outcome State Fault Refusal := .next (serveClaim s s.arg.a)

/-- POOL_STALL (R114): quad a. -/
def execPoolStall (s : State) : Host.Outcome State Fault Refusal := .next (poolStall s s.arg.a)

/-- FRAME_IMAGE_ACK (R114): quad a. -/
def execFrameImageAck (s : State) : Host.Outcome State Fault Refusal := .next (imageAck s s.arg.a)

/-- RELOAD_SERVED (R116): quad a. -/
def execReloadServed (s : State) : Host.Outcome State Fault Refusal := .next (serveReload s s.arg.a)

/-- A VTAKE of the core in focus has waited FRAMEWAIT.LIMIT cycles without an offer. -/
def takeOver (s : State) : Bool :=
  match s.core.wait with
  | some ⟨since, .take⟩ =>
    (getPool s (quadOf s.core.pos)).takers.any (fun w => w.1 == s.core.num) &&
      frameLimit s != 0 && decide (since + frameLimit s ≤ s.cycle)
  | _ => false

/-- The slot a waiting VTAKE names. -/
def takeSlot (s : State) : Nat :=
  (((getPool s (quadOf s.core.pos)).takers.find? (fun w => w.1 == s.core.num)).map (·.2)).getD 0

/-- VTAKE_TIMEOUT (R119): the VTAKE of core a traps with cause 0x07, once the copies of an MCAST have left it (04_core R89). -/
def execVtakeTimeout (s : State) : Host.Outcome State Fault Refusal :=
  .next (onCore s s.arg.a (fun t =>
    if takeOver t && !copiesWait t then takeSync (stopTaking t) 0x07 (BitVec.ofNat 64 (takeSlot t)) else t))

/-! ### Streams (16_copy R362) -/

/-- STREAM_STRIP_FETCH (R362): register b of core a. -/
def execStreamStripFetch (s : State) : Host.Outcome State Fault Refusal :=
  .next (onCore s s.arg.a (fun t => prefetchStrip t (BitVec.ofNat 5 s.arg.b)))

/-! ### Stacks (06_memory R155, R156) -/

/-- RATIO_CHANGE_REQUEST (R155): SKCTL.NEWRATIO of stack a is written with b. -/
def execRatioChangeRequest (s : State) : Host.Outcome State Fault Refusal := .next (setNewRatio s s.arg.a (s.arg.b % 4))

/-- The stack that holds a save area of a context's core. -/
def areaStack (s : State) (ctx n : Nat) (alt : Bool) : Option Nat :=
  let va := saveArea s ctx n alt
  match ctlbNow s (clusterOf (getCore s n).pos) (ctxAsid s ctx) va with
  | (_, .hit e) => some (stackOf (leafPlace e va).2)
  | (_, .absent) => none
  | (_, .waits) => none

/-- Whether a core's save streams to a stack. -/
def streamsTo (s : State) (stack : Nat) (c : Core) : Bool :=
  match c.run, c.job with
  | .switching, some j => j.saving && areaStack s (curCtx c) c.num j.alt == some stack
  | _, _ => false

def hasDeadline (c : Core) : Bool :=
  match c.job with
  | some j => j.deadline != 0
  | none => false

/-- The cores whose saves stream to a stack. -/
def savesTo (s : State) (stack : Nat) : List Core := (s.core :: s.others.map (·.2)).filter (streamsTo s stack)

/-- STACK_RETRAIN_START (R155): a pending stack a retrains once no save with a deadline streams to it. -/
def execStackRetrainStart (s : State) : Host.Outcome State Fault Refusal :=
  .next (let x := getStack s s.arg.a
    if x.st = .pending ∧ !(savesTo s s.arg.a).any hasDeadline then putStack s s.arg.a { x with st := .retraining, tries := 0 }
    else s)

/-- A save is redirected to the other area, unless that lies in the same stack: then it waits (09_context R245). -/
def redirect (stack : Nat) (s : State) (n : Nat) : State :=
  modCore s n (fun c => { c with job := c.job.map (fun j =>
    if areaStack s (curCtx c) n true == some stack then j else { j with alt := true }) })

/-- A stack is forced into retraining; saves streaming to it restart in the alternate areas (R155). -/
def forceRetrain (s : State) (n : Nat) : State :=
  let x := getStack s n
  if x.st = .up ∨ x.st = .pending then
    ((savesTo s n).map (·.num)).foldl (redirect n) (putStack s n { x with st := .retraining, tries := 0 })
  else s

/-- FORCED_RETRAIN (R155): errors or heat force stack a. -/
def execForcedRetrain (s : State) : Host.Outcome State Fault Refusal := .next (forceRetrain s s.arg.a)

/-- STACK_RETRAIN_COMPLETE (R155): a training attempt of stack a ends, well when f; the third failure in a row fails the
stack and the monitor is told. -/
def execStackRetrainComplete (s : State) : Host.Outcome State Fault Refusal :=
  .next (let n := s.arg.a
    let x := getStack s n
    if x.st ≠ .retraining then s
    else if s.arg.f then
      putStack s n { x with
        st := .up, ratio := if x.requested then x.newRatio else x.ratio, requested := false, tries := 0
        retrains := x.retrains + 1 }
    else if x.tries < 2 then putStack s n { x with tries := x.tries + 1 }
    else
      sendNotice (putStack s n { x with st := .failed }) (noticeCore s (n / 3)) (mkNotice 3 0 n 0))

/-- The row that stands at a row's place in its bank. -/
def rowAt (x : Stack) (bank row : Nat) : Nat := tgetD x.perm (rowKey bank row) row

/-- ROW_EXCHANGE (R156): row c of bank b of stack a has reached 4,096 activations and is exchanged with a row of its bank that
the manual leaves to chance; the bank is busy. Its count begins again (log 22). -/
def execRowExchange (s : State) : Host.Outcome State Fault Refusal :=
  .next (let n := s.arg.a
    let x := getStack s n
    let k := rowKey s.arg.b s.arg.c
    if tgetD x.acts k 0 < 4096 ∨ (tget x.busy s.arg.b).isSome then s
    else
      let other := (Config.bankRow (Config.freeNat s.fresh)).2
      let perm := tput (tput x.perm k (rowAt x s.arg.b other)) (rowKey s.arg.b other) (rowAt x s.arg.b s.arg.c)
      putStack { s with fresh := s.fresh + 1 } n { x with
        acts := tdel x.acts k, perm := perm, busy := tput x.busy s.arg.b s.cycle, rowSwaps := x.rowSwaps + 1 })

/-- ROW_EXCHANGE_COMPLETE (R156): bank b of stack a is free after 1,536 cycles. -/
def execRowExchangeComplete (s : State) : Host.Outcome State Fault Refusal :=
  .next (let x := getStack s s.arg.a
    match tget x.busy s.arg.b with
    | some t0 => if t0 + 1536 ≤ s.cycle then putStack s s.arg.a { x with busy := tdel x.busy s.arg.b } else s
    | none => s)

/-- REFRESH_INTERVAL_END (R156): after 32 ms the counts of stack a begin again. -/
def execRefreshIntervalEnd (s : State) : Host.Outcome State Fault Refusal :=
  .next (let x := getStack s s.arg.a
    if x.interval + 32000000 ≤ s.out.time then putStack s s.arg.a { x with acts := [], interval := s.out.time } else s)

end Sys2Proof.Machine
end

