-- ==== Sys2Proof/Machine/Life.lean ====
section
/-! DEFINITION. Reset, starts, margins, debug requests, logs, Deluk and plain register writes (25_life R439 to R442, R446,
R447, R449 to R452; 04_core R76; 09_context R225). -/
namespace Sys2Proof.Machine

/-! ### Reset and starts (R439 to R441; 04_core R76) -/

/-- Every core in the reset state: stopped, its fetch buffers empty (R76). -/
def stoppedCores : Tbl Core := (List.range nCores).map (fun n => (n, { Core.reset n with run := .reset }))

/-- Every changed line of L2 goes back to memory, encrypted under its key (06_memory R150; 08_page R212). -/
def l2Flush (s : State) : State :=
  let t := s.mu.l2.foldl (fun t p => writeBack t p.1 p.2) s
  { t with mu := { t.mu with l2 := [] } }

/-- The device stops: what the cores and units were doing is lost. Memories, link training and the records that outlive a
reset stand, and L2 has been written back, so that nothing kept is held in the clear (R440; log 23). -/
def deviceReset (s0 : State) : State :=
  let s := l2Flush s0
  { State.reset with
    core := { Core.reset 0 with run := .reset }
    others := stoppedCores.drop 1
    mem := s.mem
    mu := { MemUnits.reset with
      poison := s.mu.poison, lineKey := s.mu.lineKey, checkDiff := s.mu.checkDiff, peerKid := s.mu.peerKid
      ctxtab := s.mu.ctxtab
      hbm := s.mu.hbm.map (fun p => (p.1, { p.2 with open_ := [], held := [], bursts := [], busy := [] })) }
    out := { Outside.reset with
      links := s.out.links.map (fun l => (l.1, { l.2 with sent := [] }))
      boot := s.out.boot, deluk := s.out.deluk, delukSent := s.out.delukSent, hostOut := s.out.hostOut
      linkOut := s.out.linkOut, time := s.out.time, eighths := s.out.eighths, slew := s.out.slew, slewNs := s.out.slewNs }
    cycle := s.cycle, nextId := s.nextId, fresh := s.fresh, arg := s.arg, agenda := s.agenda }

/-- POWER_ON_RESET (R76). -/
def execPowerOnReset (s : State) : Host.Outcome State Fault Refusal := .next (deviceReset s)

/-- The cores that fuses or a test have disabled leave the reset state as disabled, every other one idle (R439). -/
def releaseCores (s : State) (disabled : List Nat) : State :=
  let put (n : Nat) : Core := { Core.reset n with run := if disabled.contains n then .disabled else .idle }
  let rest := disabled.filter (fun n => n != s.core.num && decide (n < nCores))
  { s with
    core := put s.core.num, others := rest.foldl (fun t n => tput t n (put n)) []
    out := { s.out with boot := { s.out.boot with released := s.cycle } } }

/-- The duration of a start is not given (log 4). -/
def startTime (s : State) : Nat × State := (Config.startMs s.fresh, { s with fresh := s.fresh + 1 })

/-- Deluk reports that a start has failed; no core is released (R439). -/
def startFails (s : State) : State :=
  s.mapOut (fun o => { o with
    boot := { o.boot with failed := true, request := none }, deluk := o.deluk ++ [.startFailed] })

/-- The numbers below `n` whose bits of a mask are set. -/
def maskBits (mask n : Nat) : List Nat := if mask = 0 then [] else (List.range n).filter (fun i => mask >>> i % 2 = 1)

/-- The 24 links and the host port, each as a start leaves it. -/
def startLinks (s : State) (f : Nat → Link → Link) : Tbl Link := (List.range 25).map (fun i => (i, f i (getLink s i)))

/-- A cold start whose image verifies: the memories of the chip cleared, everything trained, the enabled cores released (R439,
R441). A core that fails its test joins the disabled ones, and a stack that does not train has failed. The margins are those of
Drydown. -/
def coldStart (s : State) (cores untrained margins : Nat) : State :=
  let b := s.out.boot
  let disabled := b.disabled ++ (maskBits cores nCores).filter (fun n => !b.disabled.contains n)
  let ms := startTime s
  let outside (a : Nat) : Bool := decide (2 ^ 64 ≤ a)
  releaseCores { State.reset with
    cycle := s.cycle, nextId := s.nextId, fresh := ms.2.fresh, arg := s.arg, agenda := s.agenda
    mem := s.mem.filter (fun c => outside c.1)
    mu := { MemUnits.reset with
      poison := s.mu.poison.filter (fun p => outside (64 * p.1)), peerKid := s.mu.peerKid
      hbm := (maskBits untrained 12).map (fun n => (n, { Stack.fresh with st := .failed })) }
    out := { Outside.reset with
      links := startLinks s (fun _ l => { Link.fresh with st := if l.en then .training else .down, en := l.en })
      deluk := s.out.deluk, delukSent := s.out.delukSent, hostOut := s.out.hostOut, linkOut := s.out.linkOut
      boot := { b with
        kind := 1, kept := false, full := true, disabledCount := disabled.length, disabled := disabled
        ms := ms.1, keep := false, digest := b.image, failed := false, plans := 0, drift := false, ichk := 0
        guard := margins % 2 ^ 32, used := margins / 2 ^ 32, planned := 0, request := none } } } disabled

/-! ### Margins (R442) -/

/-- The margins are planned again: guard band `g` and used `u` in mV. A band that leaves less than 10 mV is told to the monitor. -/
def replan (s : State) (g u : Nat) (drift : Bool) : State :=
  let t := s.mapOut (fun o => { o with boot := { o.boot with
    guard := g, used := u, plans := o.boot.plans + 1, drift := drift, planned := o.time } })
  if g - u < 10 then sendNotice t (noticeCore t 0) (mkNotice 8 0 (g - u) 0) else t

/-- DRYDOWN_REPLAN (R442): guard band a and used b in mV; f forces stack c to retrain. -/
def execDrydownReplan (s : State) : Host.Outcome State Fault Refusal :=
  .next (let t := replan s s.arg.a s.arg.b s.arg.f
    if s.arg.f then forceRetrain t s.arg.c else t)

/-! ### Warm starts (R440) -/

/-- A stack that retrains at a warm start. -/
def warmStacks (t : Tbl Stack) (mask : Nat) : Tbl Stack :=
  (List.range 12).foldl (fun u n =>
    let x := tgetD t n Stack.fresh
    if mask >>> n % 2 = 1 ∧ x.st ≠ .failed then tput u n { x with st := .up, retrains := x.retrains + 1, tries := 0 }
    else u) t

/-- A link at a warm start: one that has drifted retrains, and one that is down with EN 1 trains (R440; 23_link R427). -/
def warmLink (mask i : Nat) (x : Link) : Link :=
  if x.st = .down ∧ x.en then { x with st := .training, tries := 0 }
  else if mask >>> i % 2 = 1 ∧ (x.st = .up ∨ x.st = .degraded) then { x with st := .retraining, lanes := 0, tries := 0 }
  else x

/-- A warm start whose image verifies with a digest: HBM is kept when KEEP was 1 and the digest is that of the image that ran,
otherwise cleared; keys, roots and the descriptors of the contexts are cleared always, and the margins are planned again (R439,
R440, R442). -/
def warmStart (s : State) (digest drifted links margins : Nat) : State :=
  let b := s.out.boot
  let kept := b.keep && digest == b.digest
  let ms := startTime s
  let hbm := warmStacks (if kept then s.mu.hbm else s.mu.hbm.map (fun p => (p.1, { p.2 with perm := [] }))) drifted
  let tab := ctxTab s
  let gone (a : Nat) : Bool :=
    decide (a < hbmEnd) && (!kept || (s.mu.ctxtab != 0 && decide (tab ≤ a) && decide (a < tab + 16384)))
  replan (releaseCores { ms.2 with
    mem := s.mem.filter (fun c => !gone c.1)
    mu := { MemUnits.reset with
      poison := s.mu.poison.filter (fun p => !gone (64 * p.1))
      lineKey := s.mu.lineKey.filter (fun p => !gone (64 * p.1))
      checkDiff := s.mu.checkDiff.filter (fun p => !gone (64 * p.1))
      peerKid := s.mu.peerKid
      hbm := hbm }
    out := { s.out with
      links := startLinks s (warmLink links)
      boot := { b with
        kind := 2, kept := kept, full := false, disabledCount := b.disabled.length, ms := ms.1, keep := false
        digest := digest, failed := false, request := none } } } b.disabled)
    (margins % 2 ^ 32) (margins / 2 ^ 32) (decide (drifted % 2 ^ 12 ≠ 0))

/-- COLD_START (R439): from the reset state; f says whether the image verifies. -/
def execColdStart (s : State) : Host.Outcome State Fault Refusal :=
  .next (if s.core.run ≠ .reset then s else if s.arg.f then coldStart s s.arg.b s.arg.c s.arg.w.toNat else startFails s)

/-- WARM_START (R440): from the reset state; the image's digest is a. -/
def execWarmStart (s : State) : Host.Outcome State Fault Refusal :=
  .next (if s.core.run ≠ .reset then s else if s.arg.f then warmStart s s.arg.a s.arg.b s.arg.c s.arg.w.toNat else startFails s)

/-! ### Debug requests (R234, R446, R447, R451) -/

/-- DEBUG_HALT_REQUEST (R446): position a. -/
def execDebugHaltRequest (s : State) : Host.Outcome State Fault Refusal := .next (dbgHalt s s.arg.a)

/-- DEBUG_RESUME (R234): position a. -/
def execDebugResume (s : State) : Host.Outcome State Fault Refusal := .next (dbgResume s s.arg.a)

/-- DEBUG_STEP (R447): position a. -/
def execDebugStep (s : State) : Host.Outcome State Fault Refusal := .next (dbgStep s s.arg.a)

/-- DEBUG_CLRDLY (R451): position a. -/
def execDebugClrdly (s : State) : Host.Outcome State Fault Refusal := .next (dbgClrDly s s.arg.a)

/-- DEBUG_DATA_WRITE (R446): position a, value w. -/
def execDebugDataWrite (s : State) : Host.Outcome State Fault Refusal := .next (dbgDataWrite s s.arg.a s.arg.w)

/-! ### Logs (R449, R450) -/

/-- LOG_CONTROL_WRITE (R449): word 3 of LOG(a). -/
def execLogControlWrite (s : State) : Host.Outcome State Fault Refusal := .next (logPut s (s.arg.a % 4) 3 s.arg.w)

/-- Whether a unit of a log has a choice to make and fewer candidates stand than the logged rank asks for (R450). -/
def replayWaits (s : State) (k unit : Nat) : Bool :=
  let lacks (n : Nat) : Bool := lacksRank s k unit n
  match k with
  | 0 => let c := getCore s unit
    (c.run == .idle || c.mail.insvc.isNone) && lacks (candidates c.mail).length
  | 1 => let t := focus s unit
    t.core.run == .idle && t.core.mail.deque.isEmpty && lacks (victims t).length
  | 2 => lacks ((readyRecs s unit).filter (fun p => (slotFor s unit p.2).isSome)).length
  | _ => (routerWants s unit).any lacks

/-- The die that holds a unit of a log: a core's, a cluster's or a router's number. -/
def unitDie (s : State) (k unit : Nat) : Nat :=
  match k with
  | 2 => unit / 32
  | 3 => unit
  | _ => dieOf (getCore s unit).pos

/-- REPLAY_STALL (R450): unit b of LOG(a) is found waiting; after 2^24 cycles STALL is set and the monitor is told. -/
def execReplayStall (s : State) : Host.Outcome State Fault Refusal :=
  .next (let k := s.arg.a % 4
    let unit := s.arg.b
    let x := getLog s k
    if x.mode ≠ 2 then s
    else if !replayWaits s k unit then putLog s k { x with waitSince := tdel x.waitSince unit }
    else match tget x.waitSince unit with
      | none => putLog s k { x with waitSince := tput x.waitSince unit s.cycle }
      | some t0 =>
        if x.stall ∨ s.cycle < t0 + 2 ^ 24 then s
        else
          let t := putLog s k { x with stall := true }
          sendNotice t (noticeCore t (unitDie s k unit % 4)) (mkNotice 7 0 unit 0))

/-! ### Deluk (R452) -/

def delukPut (s : State) (x : DelukOut) : State := s.mapOut (fun o => { o with deluk := o.deluk ++ [x] })

/-- DELUK_IDENTITY (R452): the certificate and the quote with its signature. -/
def execDelukIdentity (s : State) : Host.Outcome State Fault Refusal :=
  .next (let boot := bootstatWord s.out.boot
    delukPut { s with fresh := s.fresh + 1 }
      (.identity Config.certificate s.out.boot.digest boot (Config.quoteSign s.fresh s.out.boot.digest boot)))

/-- DELUK_STATUS (R452). -/
def execDelukStatus (s : State) : Host.Outcome State Fault Refusal :=
  .next (delukPut { s with fresh := s.fresh + 1 } (.status (
    [bootstatWord s.out.boot, drystatWord s.out.boot] ++ (List.range 25).map (fun i => lstatWord (getLink s i)) ++
    (List.range 12).map (fun n => skctlWord (getStack s n)) ++ [ptpstatWord s.out, Config.powerDraw s.fresh])))

/-- DELUK_NOTICES (R452): what has arisen since the last time is handed over. -/
def execDelukNotices (s : State) : Host.Outcome State Fault Refusal :=
  .next (s.mapOut (fun o => { o with delukSent := o.deluk.length }))

/-- DELUK_DEBUG (R452): the register at offset b of the debug window of position a; f writes w. -/
def execDelukDebug (s : State) : Host.Outcome State Fault Refusal :=
  .next (if s.arg.f then dbgWrite s s.arg.a s.arg.b s.arg.w else delukPut s (.data (dbgRead s s.arg.a s.arg.b)))

/-- DELUK_FIRMWARE (R452): image a is stored for the next cold start. -/
def execDelukFirmware (s : State) : Host.Outcome State Fault Refusal :=
  .next (s.mapOut (fun o => { o with boot := { o.boot with image := s.arg.a } }))

/-- DELUK_POWER (R452): a cap of 1,000 to 3,300 W, which new margins meet: guard band b and used c. -/
def execDelukPower (s : State) : Host.Outcome State Fault Refusal :=
  .next (if 1000 ≤ s.arg.a ∧ s.arg.a ≤ 3300 then
      replan (s.mapOut (fun o => { o with boot := { o.boot with power := s.arg.a } })) s.arg.b s.arg.c false
    else s)

/-- DELUK_RESET (R452): a warm start is requested when f, a cold one otherwise. -/
def execDelukReset (s : State) : Host.Outcome State Fault Refusal :=
  .next (s.mapOut (fun o => { o with boot := { o.boot with request := some s.arg.f } }))

/-! ### Registers with no behaviour of their own (R225) -/

/-- REGISTER_WRITE (R225; 20_query R406, 22_resident R419): b bytes of w at offset a of the aperture. -/
def execRegisterWrite (s : State) : Host.Outcome State Fault Refusal :=
  .next (apStore s s.arg.a (bytesOf s.arg.w.toNat s.arg.b))

end Sys2Proof.Machine
end

