-- ==== Sys2Proof/Machine/Port.lean ====
section
/-! DEFINITION. The ports of the engines behind the queue registers (10_queue R268, R269; 14_tile R343; 16_copy R351;
17_expert R381; 20_query R410, R411; 23_link R436). -/
namespace Sys2Proof.Machine

/-- The command words at the head of a queue register's FIFO leave it. -/
def tookCmd (s : State) (n q k : Nat) : State :=
  modCore s n (fun c => setQ c q { getQ c q with cmd := (getQ c q).cmd.drop k })

/-- Whether a task-mode word may name a record: the page's U bit binds it as it binds MTSUB (08_page R215). -/
def taskMay (s : State) (cl asid mode : Nat) (a : W64) : Bool :=
  mode != 0 || fld a 63 62 != 0 || (match ctlbNow s cl asid a.toNat with
    | (_, .hit e) => permits e .load true
    | (_, .absent) => true
    | (_, .waits) => true)

/-- The record at an address as MTSUB of core `n` reads it: it waits for the core's own stores to it (07_ordering R176), and the
mode of the word counts (14_tile R343). -/
def taskRead (s : State) (n : Nat) (mode : Nat) (a : W64) : EngRead :=
  let c := getCore s n
  let cl := clusterOf c.pos
  match engResolve s cl (ctxNum c) (curAsid c) a .load with
  | .ok (t, place, key) =>
    if place != .aperture && overlapsOwn (focus t n) key 128 then .waits s
    else if taskMay t cl (curAsid c) mode a then engReads s cl (ctxNum c) (curAsid c) a 128
    else .fails 4
  | .error _ => engReads s cl (ctxNum c) (curAsid c) a 128

/-- The cluster task queue takes a record's address as MTSUB does: the ticket, 0 for a full table, or bit 63 with a cause
(14_tile R343); while the port waits it leaves what it has asked of memory. -/
def taskPort (s : State) (n q : Nat) (mode : Nat) (a : W64) : Except State State :=
  let c := getCore s n
  let cl := clusterOf c.pos
  let key := s.nextId
  let t := { oweAnswer (tookCmd s n q 1) n q key with nextId := key + 1 }
  let ends (u : State) (w : W64) : State := answer u (ctxNum c) n q key [w]
  let bad (cause : Nat) : W64 := BitVec.ofNat 64 (2 ^ 63 + cause)
  if a.toNat % 128 ≠ 0 then .ok (ends t (bad 3))
  else if shapeOut s cl a then .error s
  else match taskRead t n mode a with
    | .waits u => .error u
    | .fails k => .ok (ends t (bad k))
    | .violates => .ok (onCore t n freezeCore)
    | .got u _ true => .ok (ends u (bad 15))
    | .got u l false =>
      let words := BitVec.ofNat 1024 (ofBytes l)
      if recordBad words false then .ok (ends u (bad 4))
      else
        let r := submit u cl n (ctxNum c) (curAsid c) a words []
        .ok (ends r.1 r.2)

/-- The mode a command word was pushed in. -/
def QCmd.mode : QCmd → Nat
  | .word _ _ m => m
  | .copy _ _ _ _ m => m
  | .query _ _ => 2
  | .collect _ _ _ => 2

/-- A queue register of a core: results that are due move into its FIFO; while the oldest is held for want of room its port
takes nothing; otherwise the port takes the next command (R269). What it cannot take now stays, with what it has asked of
memory. -/
def portStep (s : State) (n q : Nat) : Except State State :=
  let x := getQ (getCore s n) q
  let orStay (r : Option State) : Except State State := match r with | some t => .ok t | none => .error s
  if x.flush ≠ x then .ok (modCore s n (fun c => setQ c q (getQ c q).flush))
  else if x.owed.head?.any (fun p => !p.2.isEmpty) then .error s
  else match x.kind, x.cmd with
    | 1, c :: _ => .ok (copyPort (tookCmd s n q 1) n q c)
    | 2, c :: _ => taskPort s n q c.mode c.asWord
    | 3, c :: _ => queryPort (tookCmd s n q 1) n q c
    | 4, a :: b :: _ => match routePort (tookCmd s n q 2) n q a.asWord b.asWord with
      | some t => .ok t
      | none => match exName s (dieOf (getCore s n).pos) (ctxNum (getCore s n)) a.asWord with
        | .here e => .ok (routerLacks s (dieOf (getCore s n).pos) e [])
        | _ => .error s
    | 5, _ => orStay (collPort s n q)
    | _, _ => .error s

/-- PORT_RESULT (R269): queue register b of core a. -/
def execPortResult (s : State) : Host.Outcome State Fault Refusal := .next (orAsked s (portStep s s.arg.a s.arg.b))

end Sys2Proof.Machine
end

