-- ==== Sys2Proof/Machine/Issue.lean ====
section
/-! DEFINITION. From the program counter to the instruction and from its effect to the next boundary: fetching and decoding,
the checks before an instruction, streams, breakpoints, interrupts and the passing of time (03_encoding R53, R59 to R62;
04_core R79 to R82; 05_vector R107, R116; 09_context R231, R239; 12_group R299; 16_copy R362, R363; 25_life R447). -/
namespace Sys2Proof.Machine

/-! ### Fetching (04_core R79, R80; 03_encoding R53) -/

/-- The block an address lies in. -/
def blockBase (a : W64) : W64 := a &&& ~~~ 31#64

/-- The word at an address of a block. -/
def Block.wordAt (b : Block) (a : W64) : W16 := BitVec.ofNat 16 (b.data.toNat >>> (8 * (a.toNat % 32)))

/-- The block that holds an address, read from its place: own local memory or virtual space (R79). -/
def fetchBlock (s : State) (a : W64) : Except Stop (State × Block) :=
  let base := blockBase a
  match fld a 63 62 with
  | 2 =>
    if fld a 61 37 ≠ s.core.num ∨ fld a 36 16 ≠ 0 then trap 0x04 a
    else
      let key := localKey s.core.num (fld base 15 0)
      if isPoisoned s (lineKeyOf key) then trap 0x0F a
      else .ok (s, ⟨base, BitVec.ofNat 256 (ofBytes (mread s.mem key 32))⟩)
  | 0 =>
    (match resolve s a .fetch with
      | .error e => .error e
      | .ok (t, place, key) =>
        if place = .aperture then
          (if apDenied t key then trap 0x04 a else .ok (t, ⟨base, BitVec.ofNat 256 (ofBytes (apLoad t (key / 32 * 32) 32))⟩))
        else match readCode t (clusterOf s.core.pos) place (lineKeyOf key) with
          | .ok (u, data) => .ok (u, ⟨base, BitVec.ofNat 256 (data.toNat >>> (8 * (key / 32 % 2 * 32)))⟩)
          | .error .waits => waitPlain t
          | .error (.poison _ u) => .error (.trapKeep u 0x0F a))
  | _ => trap 0x04 a

/-- The block of an address: buffered, moved in from the return register, or fetched (R80). -/
def blockAt (s : State) (a : W64) : Except Stop (State × Block) :=
  let base := blockBase a
  let holds (o : Option Block) : Option Block := o.filter (fun b => b.addr == base)
  match holds s.core.fbuf, holds s.core.rreg with
  | some b, _ => .ok (s, b)
  | none, some b => .ok (s.mapCore (fun c => { c with fbuf := some b, rreg := none }), b)
  | none, none => match fetchBlock s a with
    | .error e => .error e
    | .ok (t, b) => .ok (t.mapCore (fun c => { c with
        fbuf := some b, freq := if c.freq = some base then none else c.freq }), b)

/-- The words of a chain are fetched and decoded one after another (03_encoding R53). -/
def readChain : Nat → Chain → State → W64 → Except Stop (State × Decoded)
  | 0, c, _, _ => trap 0x01 (BitVec.ofNat 64 (c.count * 65536))
  | n + 1, c, s, a =>
    match blockAt s a with
    | .error e => .error e
    | .ok (t, b) => match c.next (b.wordAt a) with
      | .more d => readChain n d t (a + 2)
      | .ended d => .ok (t, d)
      | .bad e => trap 0x01 (BitVec.ofNat 64 (e.idx * 65536 + e.word.toNat))

/-- The next sequential block is asked for when the instruction's first word lies in the second half of the buffered block
(R80). -/
def askAhead (s : State) (pc : W64) : State :=
  let next := blockBase pc + 32
  match s.core.fbuf with
  | some b =>
    if b.addr = blockBase pc ∧ fld pc 4 4 = 1 ∧ s.core.rreg.all (fun r => r.addr != next) then
      s.mapCore (fun c => { c with freq := some next })
    else s
  | none => s

/-- A block asked for arrives in the return register; one that cannot be fetched is dropped (R80). -/
def blockArrives (s : State) : State :=
  match s.core.freq with
  | none => s
  | some a =>
    let t := s.mapCore (fun c => { c with freq := none })
    match fetchBlock t a with
    | .ok (u, b) => u.mapCore (fun c => { c with rreg := some b })
    | .error (.wait u _) => keepAsked s u
    | .error _ => t

/-- FETCH_BLOCK_ARRIVAL (R80): core a. -/
def execFetchBlockArrival (s : State) : Host.Outcome State Fault Refusal := .next (onCore s s.arg.a blockArrives)

/-- The issue latch of a decoded instruction at the program counter. -/
def latch (s : State) (d : Decoded) : State :=
  s.mapCore (fun c => { c with issue := {
    npc := c.pc + BitVec.ofNat 64 d.len, word := d.word, idx := d.idx, busy := 1 + d.stall, mark := .none
    instr := some d.instr, watch := none, stall := d.stall } })

/-- The issue latch of an instruction that waits and is issued again: its stall count stands (03_encoding R60). -/
def relatch (s : State) : State :=
  s.mapCore (fun c => { c with issue := { c.issue with busy := 1 + c.issue.stall, mark := .none } })

/-- The issue latch while no instruction stands in it. -/
def unlatched (s : State) : State :=
  s.mapCore (fun c => { c with issue := { c.issue with npc := c.pc, busy := 1, mark := .none, instr := none, watch := none, stall := 0 } })

/-! ### Checks before the instruction (R56, R61; 05_vector R107, R116) -/

/-- The lowest mode that may execute an instruction that is privileged as a whole (R56). -/
def lowestMode : Instr → Nat
  | .tret => 1
  | .tlbinv _ _ => 1
  | .pgq _ _ _ => 1
  | .pgpin _ _ _ => 1
  | .nnload _ _ _ => 1
  | .halt => 2
  | .ctxsw _ _ => 2
  | _ => 0

/-- Before these every pending result lands, so nothing is read early (R62). -/
def landsFirst : Instr → Bool
  | .call _ => true
  | .callShort _ => true
  | .callr _ => true
  | .ret => true
  | .retShort => true
  | .tret => true
  | .done => true
  | .doneShort => true
  | .srr _ n => landsFor n.toNat
  | .srw _ n => landsFor n.toNat
  | .srset _ n => landsFor n.toNat
  | .srclr _ n => landsFor n.toNat
  | _ => false

/-- TVAL of the stall-count trap: a register read or written before an earlier result for it has landed (R61); none when
checking is off or there is none. Of several the first is named, sources before destinations, x before v (log 24). -/
def hazard (s : State) (i : Instr) : Option W64 :=
  if !schk s || landsFirst i || s.core.pend.isEmpty then none
  else
    let u := uses i
    let due (q : Pend) : Bool := s.core.pend.any (fun p => q.same p && decide (s.cycle < p.lands))
    let hx (r : Reg) : Bool := r != 0 && due (.x r 0 0)
    let hv (r : Reg) : Bool := due (.v r 0 0)
    match (u.xr ++ u.xw).find? hx, (u.vr ++ u.vw).find? hv with
    | some r, _ => some (BitVec.ofNat 64 r.toNat)
    | none, some r => some (BitVec.ofNat 64 (256 + r.toNat))
    | none, none => none

/-- The cycle before which an interlock lets an instruction issue not: that of the last interlocked result for a register it
reads or writes (R59). -/
def interlock (s : State) (i : Instr) : Nat :=
  if s.core.locks.isEmpty then 0
  else
    let u := uses i
    lockedUntil s ((u.xr ++ u.xw).map (xPlace s.core.sc) ++ (u.vr ++ u.vw).map vPlace)

/-- The instructions the divider serves, one at a time (04_core R93). -/
def divides : Instr → Bool
  | .div _ _ _ => true
  | .divn _ _ _ => true
  | .rem _ _ _ => true
  | .remn _ _ _ => true
  | _ => false

/-- A source of a waiting instruction read before the result landed keeps its previous value for it (R61). -/
def readEarly (i : Instr) (p : Pend) : Bool :=
  !landsFirst i && (match p with
    | .x r _ _ => (uses i).xr.contains r
    | .v r _ _ => (uses i).vr.contains r)

/-- The results that land before the core's next issue. -/
def landNow (s : State) : State :=
  let t := match (if s.core.wait.isSome then s.core.issue.instr else none) with
    | some i => landBut s (readEarly i)
    | none => landDue s
  if t.core.locks.isEmpty then t
  else t.mapCore (fun c => { c with locks := c.locks.filter (fun l => decide (s.cycle < l.2)) })

/-- An instruction that waited has completed: results that landed for its destinations while it waited are older than its
own (R61). -/
def landOlder (base s : State) (i : Instr) : State :=
  if base.core.wait.isNone || s.core.pend.isEmpty then s
  else
    let old (p : Pend) : Bool := decide (p.lands ≤ s.cycle) && (match p with
      | .x r _ _ => (uses i).xw.contains r
      | .v r _ _ => (uses i).vw.contains r)
    s.mapCore (fun c => { c with pend := c.pend.filter (fun p => !old p) })

/-- Whether an instruction uses a register in an evicted slot (05_vector R107). -/
def usesEvicted (s : State) (i : Instr) : Bool :=
  let u := uses i
  (u.vr ++ u.vw).any (fun r => s.core.vec.slot (slotOf r) == .evicted)

/-- Whether the core owes the reload of its evicted slots before its next instruction (05_vector R116). -/
def owesReload (s : State) : Bool :=
  (s.core.wait.map (·.what)) == some .reload && s.core.issue.instr.isNone && !(evictedSlots s.core.vec).isEmpty

/-! ### Streams around the instruction (16_copy R362, R363) -/

/-- An MMA takes the strips of its operands itself, eight for a register in stream mode (14_tile R333). -/
def takesStrips : Instr → Bool
  | .mma _ _ _ _ => true
  | _ => false

/-- The streams of an instruction: it first ends the read streams of its destinations, then takes a strip for each source in
stream mode. -/
def streamsIn (s : State) (i : Instr) : Eff :=
  if s.core.vec.streams.isEmpty then .ok s
  else
    let u := uses i
    let ends (t : State) (r : Reg) : State := match getStream t r with
      | some x => if x.dir then t else endStream t r
      | none => t
    (if takesStrips i then [] else u.vr.dedup).foldlM popStrip (u.vw.foldl ends s)

/-- The value a destination of the instruction has been given: the one that has not landed, or the register's. -/
def givenV (s : State) (r : Reg) : W512 :=
  (s.core.pend.foldl (fun (acc : Option W512) p => match p with
    | .v q w _ => if q = r then some w else acc
    | .x _ _ _ => acc) none).getD (s.v r)

/-- Writes to registers in write-stream mode store their strips. -/
def streamsOut (s : State) (i : Instr) : Eff :=
  if s.core.vec.streams.isEmpty then .ok s
  else ((uses i).vw.dedup).foldlM (fun t r => pushStrip t r (givenV t r)) s

/-- What a stop leaves when the instruction is to have no effect. -/
def stopAt (base : State) (e : Stop) : State :=
  match e with
  | .trap c v => takeSync base c v
  | .trapKeep t c v => takeSync { base with mu := t.mu, out := { base.out with boot := t.out.boot } } c v
  | .wait t w => blockOn (keepAsked base t) w
  | .freeze => freezeCore base
  | .over t => t

/-- The strips an instruction has taken stand again when it has not completed (R362). -/
def unpop (base before after : State) : State :=
  if before.core.vec.streams = base.core.vec.streams then after
  else { after with
    core := { after.core with vec := { after.core.vec with own := base.core.vec.own, streams := base.core.vec.streams } }
    un := { after.un with frames := base.un.frames } }

/-! ### Before and after exec -/

/-- What the issue stage finds: the turn is over in a state, or an instruction runs, with the state a stop falls back to. -/
inductive Prep
  | ends (s : State)
  | runs (base s : State) (i : Instr)

/-- The cycles until an interlock lets the instruction issue pass with no other effect (R59, R60). -/
def heldBack (s : State) (until_ : Nat) : State :=
  s.mapCore (fun c => { c with issue := { c.issue with busy := until_ - s.cycle + s.core.issue.stall, mark := .blocked } })

/-- The checks of a latched instruction: privilege, interlocks, the divider, the stall counts, evicted slots, streams. DESIGN
CHOICE: the stall-count trap is raised before any other trap of the instruction's execution; R61 says only that it comes
before any effect. A division that finds the divider busy has not issued: it reads its sources when it does (04_core R93). -/
def stage (s : State) (i : Instr) : Prep :=
  if modeOf s.core < lowestMode i then .runs s s i
  else if s.cycle < interlock s i then .ends (heldBack s (interlock s i))
  else if divides i && decide (s.cycle < s.core.divUntil) then .ends (blockOn (unlatched s) .plain)
  else match hazard s i with
    | some v => .ends (takeSync s 0x06 v)
    | none =>
      let t := if usesEvicted s i then placeReload s s.core.num else s
      if usesEvicted t i then .ends (blockOn t .reload)
      else match streamsIn t i with
        | .error e => .ends (stopAt t e)
        | .ok u => .runs t u i

/-- A trap that would be taken while copies of an MCAST have not left the core: nothing is issued yet (04_core R89). -/
def copiesFirst (base s : State) : State :=
  if s.core.issue.mark = .trapped ∧ copiesWait base then heldBack base (base.cycle + 1) else s

/-- The instruction at the program counter, fetched and decoded, or the one that waits; the next one issues once the stall
count of an instruction that was completed from outside has passed (03_encoding R60). -/
def prepareAny (s0 : State) : Prep :=
  let s := landNow s0
  let s := if owesReload s then placeReload s s.core.num else s
  if owesReload s then .ends (blockOn (unlatched s) .reload)
  else match (if s.core.wait.isSome then s.core.issue.instr else none) with
    | some i => stage (relatch s) i
    | none =>
      let t := unlatched (blockArrives (s.mapCore (fun c => { c with wait := none, run := .running })))
      if t.cycle < lockedUntil t [issuePlace] then .ends (heldBack t (lockedUntil t [issuePlace]))
      else if fld t.core.pc 0 0 = 1 then .ends (takeSync t 0x03 t.core.pc)
      else match readChain 8 Chain.start t t.core.pc with
        | .error e => .ends (stopAt t e)
        | .ok (u, d) => stage (askAhead (latch u d) u.core.pc) d.instr

/-- What the issue stage finds; an entry waits for the copies of an MCAST (04_core R89). -/
def prepare (s : State) : Prep :=
  match prepareAny s with
  | .ends t => .ends (copiesFirst s t)
  | .runs b u i => .runs b u i

/-- Slots evicted while an instruction waited are reloaded before the next one issues, and so after the return of a handler
that interrupted the wait for them (05_vector R116). -/
def reloadAfter (base s : State) : State :=
  let back := s.core.ev.reloadOwed.contains 3
  let t := if back then s.mapEv (fun e => { e with reloadOwed := e.reloadOwed.filter (fun l => l != 3) }) else s
  if (back || base.core.wait.isSome) && t.core.run == .running then oweReload t t.core.num else t

/-! ### Time (09_context R239; 23_link R430) -/

/-- `d` ns pass in TIME: what is left of its last correction changes one ns in 10,000, which is 100 ppm, so TIME never runs
backward (R430; DESIGN CHOICE, log 38: the manual gives the bound of the slew and not its rate). -/
def slewTime (o : Outside) (d : Nat) : Outside :=
  if o.slew = 0 then { o with time := o.time + d, slewNs := 0 }
  else
    let a := o.slewNs + d
    let c := min (a / 10000) o.slew.natAbs
    { o with
      time := if 0 < o.slew then o.time + d + c else o.time + d - c
      slew := if 0 < o.slew then o.slew - c else o.slew + c
      slewNs := a % 10000 }

/-- `k` cycles pass: CYCLE, TIME at 1.6 cycles to the ns, and the slices of resident contexts; the flits that miss their time
window by it tell so (R432). -/
def passTime (s : State) (k : Nat) : State :=
  let e := s.out.eighths + 5 * k
  lateWrites { s with
    cycle := s.cycle + k
    core := sliceTick s.core k
    others := s.others.map (fun p => (p.1, sliceTick p.2 k))
    out := { slewTime s.out (e / 8) with eighths := e % 8 } }

/-- The end of a core's turn, with the stall count only of an instruction that is over (03_encoding R60): waiting ALIGNs of
its quad are judged when it has stopped running (04_core R103), the stall clock of its quad is set (05_vector R114), and the
cycles it took pass. -/
def closeTurn (s : State) : State :=
  let t := if s.core.run = .running then s else releaseAligns s (quadOf s.core.pos)
  let t := poolClock t (quadOf t.core.pos)
  let busy := if t.core.issue.mark = .blocked then t.core.issue.busy - t.core.issue.stall else t.core.issue.busy
  passTime t (max 1 busy)

/-- What follows exec for the instruction that `prepare` gave: `base` is the state before its strips were taken, `before` the
one exec ran in, `after` the one it answered. -/
def afterExec (base before after : State) (i : Instr) : State :=
  match after.core.issue.mark with
  | .done =>
    (match streamsOut (landOlder base after i) i with
      | .error e => closeTurn (stopAt base e)
      | .ok t =>
        let p := pairPast t
        if p.core.issue.mark = .trapped then closeTurn (stepOver p)
        else
          let u := reloadAfter base (stepOver (matchPoints p base.core.pc))
          closeTurn (u.mapCore (fun c => { c with issue := { c.issue with instr := none } })))
  | .trapped => closeTurn (copiesFirst base (stepOver (unpop base before after)))
  | _ => closeTurn (unpop base before after)

/-! ### Interrupts at a boundary (09_context R231; 12_group R299) -/

/-- The interrupt the core in focus takes at this boundary. The members of a live checked pair take one at the same count of
completed instructions. -/
def boundaryInt (s : State) : State × Option (BitVec 8) :=
  let n := s.core.num
  match partnerOf s n with
  | none => (s, nextInt s)
  | some (g, m) =>
    let p := getPair s g
    match p.intAt with
    | some (c, k, owes) =>
      if owes.contains n ∧ s.core.retired = k then
        let rest := owes.filter (fun j => j != n)
        (putPair s g { p with intAt := if rest.isEmpty then none else some (c, k, rest) }, some c)
      else (s, none)
    | none => match nextInt s with
      | none => (s, none)
      | some c =>
        let k := max s.core.retired (getCore s m).retired
        if s.core.retired = k then (putPair s g { p with intAt := some (c, k, [m]) }, some c)
        else (putPair s g { p with intAt := some (c, k, [n, m]) }, none)

/-- INTERRUPT_ENTRY (R231): core a takes interrupt b, when that is the first of its pending interrupts that can be taken, and a
member of a checked pair when its boundary has come (12_group R299). -/
def execInterruptEntry (s : State) : Host.Outcome State Fault Refusal :=
  .next (onCore s s.arg.a (fun t =>
    let cause := BitVec.ofNat 8 s.arg.b
    let runs : Bool := match t.core.standing with
      | .running => true
      | .waiting => onInt t != .hold
      | .idle => true
      | _ => false
    let r := boundaryInt t
    if runs && t.core.ev.point.isNone && r.2 == some cause && entryReady r.1 cause then takeInterrupt r.1 cause else t))

end Sys2Proof.Machine
end

