-- ==== Sys2Proof/Machine/Page.lean ====
section
/-! DEFINITION. TLBINV, PGQ and PGPIN (08_page R218 to R223). -/
namespace Sys2Proof.Machine

/-! ### Parked packets (R220) -/

/-- How a retried packet ends: accepted, at the interface again where it waits, or faulting again. -/
inductive Retry
  | gone (s : State)
  | again (s : State)
  | stays (va : Option W64)

/-- The address of the absent page in which some of what a parked access touches lies now. -/
def absentNow (s : State) (p : Packet) : Option Nat :=
  let at_ (place : Place) (cells : List Host.Cell) : Option Nat := match servedCells s p.ctx place cells with
    | .error va => some va
    | .ok _ => none
  match p.body with
  | .farLoad place key n _ => at_ place (cellsAt key (List.replicate n 0))
  | .attach dest _ _ _ off bytes => at_ (.loc dest) (cellsAt (localKey dest off) (List.replicate bytes 0))
  | b => b.place.bind (fun place => at_ place b.cells)

/-- One parked packet tried again at the core it is for: a message is accepted, a read is asked for again by its unit, and any
other access goes to its home. -/
def retryOne (s : State) (p : Packet) : Retry :=
  match p.body with
  | .msg dest m att =>
    match landRow s p dest att with
    | .error (.waits _) => .again s
    | .error (.absent va) => .stays (some (BitVec.ofNat 64 va))
    | .ok t => match acceptMsg t p.ctx dest { m with attaching := reads att || m.attaching } with
      | .done u => .gone (msgTaken { u with net := u.net ++ [p] } p dest m att)
      | .waits u => .again (keepAsked s u)
      | .broke _ => .again ((acceptMsg s p.ctx dest { m with attaching := reads att || m.attaching }).left s)
      | .absent a => .stays (some a)
  | .probe dest => match p.park with
    | some va => (match ctlbNow s (clusterOf (getCore s dest).pos) (ctxAsid s p.ctx) va.toNat with
      | (t, .hit _) => .gone t
      | _ => .stays none)
    | none => .gone s
  | _ => match absentNow s p with
    | some va => .stays (some (BitVec.ofNat 64 va))
    | none => .again s

/-- A retried packet that faults keeps its place, with the address that faults now; one that had parked behind another tells of it
(R220). -/
def faultsAgain (s : State) (n : Nat) (p : Packet) (va : Option W64) : State :=
  match p.park, va with
  | none, some a => sendNotice s n (mkNotice 5 (p.ctx % 256) a.toNat a)
  | _, _ => s

/-- The parked packets of one core, in order: one whose address is covered is retried, and so is what has parked behind it, the
later packets of its sender; what faults again keeps its place, and what only waits goes back to the interface. `srcs` are the
senders retried so far. -/
def retryGo (covers : W64 → Bool) (n : Nat) : State → List Packet → List Packet → List Src → List Packet →
    State × List Packet × List Packet
  | s, kept, back, _, [] => (s, kept, back)
  | s, kept, back, srcs, p :: r =>
    if kept.any (fun q => q.sender == p.sender) || !(p.park.any covers || srcs.contains p.sender) then
      retryGo covers n s (kept ++ [p]) back srcs r
    else if back.any (fun q => q.sender == p.sender) then retryGo covers n s kept (back ++ [p]) srcs r
    else match retryOne s p with
      | .gone t => retryGo covers n t kept back (p.sender :: srcs) r
      | .again t => retryGo covers n t kept (back ++ [{ p with park := none }]) (p.sender :: srcs) r
      | .stays va =>
        retryGo covers n (faultsAgain s n p va) (kept ++ [{ p with park := va.or p.park }]) back (p.sender :: srcs) r

/-- The parked packets of a core are retried for a condition on their addresses; a queue with room again lets its stopped ports
go on. -/
def retryPort (s : State) (n : Nat) (covers : W64 → Bool) : State :=
  let l := tgetD s.mu.parked n []
  if l.any (fun p => p.park.any covers) then
    let r := retryGo covers n { s with mu := { s.mu with parked := tdel s.mu.parked n } } [] [] [] l
    let t := { r.1 with net := r.2.2 ++ r.1.net }
    let t := if r.2.1.isEmpty then t else t.mapMu (fun m => { m with parked := tput m.parked n r.2.1 })
    if r.2.1.length < 64 then t.mapMu (fun m => { m with portStop := m.portStop.filter (fun x => x.1 != n) }) else t
  else s

/-! ### TLBINV (R221) -/

/-- The control word of TLBINV. -/
structure InvCtl where
  kind : Nat
  scope : Nat
  wb : Bool
  lo : Nat
  hi : Nat
  asid : Nat
  deriving DecidableEq, Repr

/-- The words of TLBINV read. DESIGN CHOICE (log 55): bits 63:52 of x[a] are not looked at; R221 says of x[a] only that it is
a virtual address, rounded down. -/
def invOf (va w : W64) : InvCtl :=
  let lo := fld va 51 19 * 2 ^ 19
  { kind := fld w 63 62, scope := fld w 61 59, wb := fld w 58 58 == 1, lo := lo, hi := lo + (fld w 31 8 + 1) * 2 ^ 19
    asid := fld w 7 0 }

/-- Whether an entry is removed. -/
def InvCtl.hits (c : InvCtl) (e : TlbEnt) : Bool :=
  let glob := entBit e.w0 6
  let lo := e.vpage * 2 ^ pageBits e.size
  let near := decide (lo < c.hi) && decide (c.lo < lo + 2 ^ pageBits e.size)
  match c.kind with
  | 0 => (glob || e.asid == c.asid) && near
  | 1 => !glob && e.asid == c.asid
  | 2 => !glob
  | _ => true

/-- Whether a position lies in the scope of the core in focus (07_ordering R170). -/
def inScope (own pos scope : Nat) : Bool :=
  match scope with
  | 0 => own == pos
  | 1 => quadOf own == quadOf pos
  | 2 => clusterOf own == clusterOf pos
  | 3 => dieOf own == dieOf pos
  | _ => true

/-- Whether a cluster TLB lies in the scope: from .cluster on (DEDUCED, log 8). -/
def clInScope (own cl scope : Nat) : Bool :=
  match scope with
  | 0 => false
  | 1 => false
  | 2 => clusterOf own == cl
  | 3 => dieOf own == cl / 32
  | _ => true

/-- Whether a unit translates through a TLB of the scope: a core its own or its cluster's, any other unit a cluster TLB. -/
def srcInScope (s : State) (scope : Nat) (p : Packet) : Bool :=
  let own := s.core.pos
  match p.src with
  | .core n => inScope own (getCore s n).pos scope
  | .engine cl _ => clInScope own cl scope
  | _ => clInScope own (p.die * 32) scope

/-- Whether an access of the scope that used a removed entry, or one of the range, is still in flight (R221). -/
def invPending (s : State) (c : InvCtl) (gone : List TlbEnt) (p : Packet) : Bool :=
  let covered := c.kind == 3 || c.kind == 2 || gone.any (fun e => e.serves p.asid p.addr.toNat) ||
    (p.asid == c.asid && (c.kind == 1 || (decide (c.lo ≤ p.addr.toNat) && decide (p.addr.toNat < c.hi))))
  p.st == .flying && fld p.addr 63 62 == 0 && p.body.place.isSome && covered && srcInScope s c.scope p

/-- The first line of a leaf's frame, and how many it has. -/
def frameLines (e : TlbEnt) : Nat × Nat :=
  (lineKeyOf (leafPlace e (e.vpage * 2 ^ pageBits e.size)).2, 2 ^ pageBits e.size / 64)

/-- Whether an engine's transfer holds lines of a removed leaf's frame: it has translated and not finished (R221; 06_memory
R152). -/
def invEngines (s : State) (c : InvCtl) (gone : List TlbEnt) : Bool :=
  s.mu.excl.any (fun o => clInScope s.core.pos (o.owner / 64) c.scope && gone.any (fun e =>
    decide (o.lo < (frameLines e).1 + (frameLines e).2) && decide ((frameLines e).1 < o.hi)))

/-- Lines of a leaf's frame are written back and leave every L2 and RDC. -/
def flushFrame (s : State) (e : TlbEnt) : State :=
  let key := (leafPlace e (e.vpage * 2 ^ pageBits e.size)).2
  let inside (line : Nat) : Bool := decide (key ≤ line * 64) && decide (line * 64 < key + 2 ^ pageBits e.size)
  let t := (s.mu.l2.filter (fun p => inside p.1)).foldl (fun t p => writeBack t p.1 p.2) s
  t.mapMu (fun m => { m with l2 := m.l2.filter (fun p => !inside p.1), rdc := m.rdc.filter (fun p => !inside (p.1 / 4)) })

/-- The entries of the scope that are removed. -/
def invEntries (s : State) (c : InvCtl) : List TlbEnt :=
  let own := s.core.pos
  let cores := (s.core :: s.others.map (·.2)).filter (fun k => inScope own k.pos c.scope)
  let cls := s.mu.ctlb.filter (fun p => clInScope own p.1 c.scope)
  ((cores.flatMap (·.tlb)) ++ cls.flatMap (·.2)).filter c.hits

/-- Entries, pinned ones included, leave every L1 and cluster TLB in scope, and walks under way fill none of them (R217). -/
def invRemove (s : State) (c : InvCtl) : State :=
  let own := s.core.pos
  let strip (k : Core) : Core :=
    if inScope own k.pos c.scope then { k with tlb := k.tlb.filter (fun e => !c.hits e) } else k
  let t := { s with
    core := strip s.core
    others := s.others.map (fun p => (p.1, strip p.2))
    mu := { s.mu with
      ctlb := s.mu.ctlb.map (fun p =>
        (p.1, if clInScope own p.1 c.scope then p.2.filter (fun e => !c.hits e) else p.2)) } }
  s.mu.walks.foldl (fun u p =>
    if clInScope own p.1 c.scope then (let r := rewalk u c.hits p.2; putWalks r.1 p.1 r.2) else u) t

/-- TLBINV: the release, the removals, which stand from then on, the wait for what used the entries, and the rest (R221). -/
def tlbinvEff (s : State) (va w : W64) : Eff :=
  if 4 < fld w 61 59 ∨ fld w 57 32 ≠ 0 then trap 0x04 w
  else
    let c := invOf va w
    let rel : Eff := match s.core.wait with
      | some ⟨_, .inval _⟩ => .ok s
      | _ => relNow s (scopeOf c.scope)
    match rel with
    | .error e => .error e
    | .ok t =>
      let gone := (match s.core.wait with | some ⟨_, .inval g⟩ => g | _ => []) ++ invEntries t c
      let u := invRemove t c
      if u.net.any (invPending u c gone) || invEngines u c gone then .error (.wait u (.inval gone))
      else
        let u := if c.wb then gone.foldl flushFrame u else u
        let covers (a : W64) : Bool := c.kind == 2 || c.kind == 3 || (decide (c.lo ≤ a.toNat) && decide (a.toNat < c.hi))
        .ok ((u.mu.parked.filter (fun p => inScope u.core.pos (getCore u p.1).pos c.scope)).foldl
          (fun v p => retryPort v p.1 covers) u)

/-- TLBINV (R221). -/
def execTlbinv (a b : Reg) (s : State) : Host.Outcome State Fault Refusal :=
  finish s (needsMode s 1 (tlbinvEff s (s.x a) (s.x b)))

/-! ### PGQ (R222) -/

/-- Whether a pinned entry of a cluster TLB maps an address under an ASID. -/
def pinnedAt (s : State) (cl asid va : Nat) : Bool :=
  (getCtlb s cl).any (fun e => e.pin && e.serves asid va)

/-- The walk of an address; DESIGN CHOICE: one outside virtual space is given level 1, since it reads no entry (R206, R222). -/
def walkVa (s : State) (asid : Nat) (va : W64) : WalkEnd :=
  if fld va 63 52 ≠ 0 then ⟨false, false, 1, 0, 0, 0⟩ else walk s asid va.toNat

/-- The reads of that walk at the homes of its tables (R207, R222). -/
def vaReads (s : State) (asid : Nat) (va : W64) : State :=
  if fld va 63 52 ≠ 0 then s else walkReads s asid va.toNat

def pgqWord (s : State) (asid : Nat) (va : W64) (w : WalkEnd) : W64 :=
  let pin := b2n (pinnedAt s (clusterOf s.core.pos) asid va.toNat)
  if w.ok then
    let pa := leafAddr (entOf asid va.toNat w) va.toNat
    BitVec.ofNat 64 (2 ^ 63 + w.size * 2 ^ 61 + w.level * 2 ^ 58 + pin * 2 ^ 56 + pa / 1024 * 1024 + fld w.w0 9 0)
  else BitVec.ofNat 64 (w.level * 2 ^ 58 + b2n w.mal * 2 ^ 57 + pin * 2 ^ 56)

/-- A walk of PGQ or of a pin fills the TLBs as a load's does (R222, R223). -/
def walkFills (s : State) (e : TlbEnt) : State :=
  let cl := clusterOf s.core.pos
  l1Fill (putCtlb s cl (ctlbAdd (getCtlb s cl) e)) e

def pgqEff (s : State) (d : Reg) (va ctl : W64) : Eff :=
  if fld ctl 63 9 ≠ 0 then trap 0x04 ctl
  else
    let asid := fld ctl 7 0
    let w := walkVa s asid va
    let u := vaReads s asid va
    let t := if w.ok then walkFills u (entOf asid va.toNat w) else u
    .ok (setXI t d (if w.ok && fld ctl 8 8 == 1 then w.w1 else pgqWord s asid va w) 6)

/-- PGQ (R222). -/
def execPgq (d a b : Reg) (s : State) : Host.Outcome State Fault Refusal :=
  finish s (needsMode s 1 (pgqEff s d (s.x a) (s.x b)))

/-! ### PGPIN (R223) -/

/-- A pin in one cluster TLB: 0 done, 2 no room, 3 pinned already. -/
def pinOne (l : List TlbEnt) (e : TlbEnt) : Nat × List TlbEnt :=
  let same (f : TlbEnt) : Bool :=
    f.pin && (f.asid == e.asid || entBit f.w0 6) && f.size == e.size && f.vpage == e.vpage
  if l.any same then (3, l)
  else if 512 ≤ (l.filter (·.pin)).length ∨ 4 ≤ (l.filter (fun f => f.pin && ctlbSet f == ctlbSet e)).length then (2, l)
  else
    let added := ctlbAdd l e
    (0, added.map (fun f => if f == e then { f with pin := true } else f))

/-- An unpin in one cluster TLB: 0 done, 3 not pinned. -/
def unpinOne (l : List TlbEnt) (asid va : Nat) : Nat × List TlbEnt :=
  let hit (f : TlbEnt) : Bool := f.pin && f.serves asid va
  if l.any hit then (0, l.map (fun f => if hit f then { f with pin := false } else f)) else (3, l)

/-- The status of a pin or unpin over several cluster TLBs. -/
def pinStatus (l : List Nat) : Nat := if l.contains 2 then 2 else if l.contains 3 then 3 else 0

/-- The cluster TLBs x[b] bit 62 names: the issuing cluster's, or every one of the die. -/
def pinTargets (pos : Nat) (all : Bool) : List Nat :=
  if all then (List.range 32).map (fun i => dieOf pos * 32 + i) else [clusterOf pos]

def pinAll (s : State) (f : List TlbEnt → Nat × List TlbEnt) (cls : List Nat) : List Nat × State :=
  cls.foldl (fun acc cl =>
    let r := f (getCtlb acc.2 cl)
    (r.1 :: acc.1, if r.1 = 0 then putCtlb acc.2 cl r.2 else acc.2)) ([], s)

def pgpinEff (s : State) (d : Reg) (va ctl : W64) : Eff :=
  if fld ctl 61 8 ≠ 0 then trap 0x04 ctl
  else
    let asid := fld ctl 7 0
    let cls := pinTargets s.core.pos (fld ctl 62 62 == 1)
    if fld ctl 63 63 = 1 then
      let w := walkVa s asid va
      let u := vaReads s asid va
      if !w.ok then .ok (setXI u d 1 6)
      else
        let r := pinAll (walkFills u (entOf asid va.toNat w)) (fun l => pinOne l (entOf asid va.toNat w)) cls
        .ok (setXI r.2 d (BitVec.ofNat 64 (pinStatus r.1)) 6)
    else
      let r := pinAll s (fun l => unpinOne l asid va.toNat) cls
      .ok (setXI r.2 d (BitVec.ofNat 64 (pinStatus r.1)) 6)

/-- PGPIN (R223). -/
def execPgpin (d a b : Reg) (s : State) : Host.Outcome State Fault Refusal :=
  finish s (needsMode s 1 (pgpinEff s d (s.x a) (s.x b)))

end Sys2Proof.Machine
end

