-- ==== Sys2Proof/Machine/Scalar.lean ====
section
/-! DEFINITION. Scalar arithmetic, logic, constants and addresses: page 1 and its short forms (04_core R90 to R99). -/
namespace Sys2Proof.Machine

/-- A register result of two registers (R91, R92): sources read, the result delivered after its latency. -/
def alu2 (s : State) (d a b : Reg) (lat : Nat) (f : W64 → W64 → W64) : Eff := .ok (setXL s d (f (s.x a) (s.x b)) lat)

/-- A register result of one register (R95). -/
def alu1 (s : State) (d a : Reg) (f : W64 → W64) : Eff := .ok (setXL s d (f (s.x a)) 1)

/-- 1 or 0. -/
def flagWord (b : Bool) : W64 := if b then 1 else 0

/-- A shift amount: the low 6 bits (R91). -/
def sh6 (w : W64) : Nat := w.toNat % 64

/-- Bits 127:64 of a signed product (R92). -/
def mulHigh (x y : W64) : W64 := BitVec.ofInt 64 (x.toInt * y.toInt / 2 ^ 64)

/-- Bits 127:64 of an unsigned product (R92). -/
def mulHighN (x y : W64) : W64 := BitVec.ofNat 64 (x.toNat * y.toNat / 2 ^ 64)

/-- DIV and REM on every operand value (R93): quotients truncate toward zero. -/
def divS (x y : W64) : W64 := if y = 0 then BitVec.allOnes 64 else BitVec.ofInt 64 (x.toInt.tdiv y.toInt)
def divU (x y : W64) : W64 := if y = 0 then BitVec.allOnes 64 else BitVec.ofNat 64 (x.toNat / y.toNat)
def remS (x y : W64) : W64 := if y = 0 then x else BitVec.ofInt 64 (x.toInt.tmod y.toInt)
def remU (x y : W64) : W64 := if y = 0 then x else BitVec.ofNat 64 (x.toNat % y.toNat)

/-- A quotient or remainder: interlocked (R93). -/
def divOp (s : State) (d a b : Reg) (f : W64 → W64 → W64) : Eff :=
  let lat := 4 + Config.divExtra (s.x a) (s.x b) % 33
  .ok ((setXI s d (f (s.x a) (s.x b)) lat).mapCore (fun c => { c with divUntil := s.cycle + lat }))

def leadingZeros (w : W64) : Nat := 64 - bitLen w.toNat

/-- CADDR (R98): the local-memory window address of core x[a][24:0] at offset x[b][15:0]. -/
def caddrOf (x y : W64) : W64 := BitVec.ofNat 64 (localKey (x.toNat % 2 ^ 25) (y.toNat % 2 ^ 16))

/-- CSPLIT (R99). -/
def csplitOf (x : W64) : W64 :=
  match fld x 63 62 with
  | 2 => BitVec.ofNat 64 (fld x 61 37)
  | 1 => BitVec.ofNat 64 (2 ^ 62 + fld x 61 43)
  | _ => BitVec.allOnes 64

/-- LDIH (R96): bits 63:32 replaced, bits 31:0 kept. -/
def ldihOf (x imm : W64) : W64 := (x &&& 0xFFFFFFFF#64) ||| (imm <<< 32)

/-- ADD (R91). -/
def execAdd (d a b : Reg) (s : State) : Host.Outcome State Fault Refusal :=
  finish s (alu2 s d a b 1 (fun x y => x + y))

/-- SUB (R91). -/
def execSub (d a b : Reg) (s : State) : Host.Outcome State Fault Refusal :=
  finish s (alu2 s d a b 1 (fun x y => x - y))

/-- AND (R91). -/
def execAnd (d a b : Reg) (s : State) : Host.Outcome State Fault Refusal :=
  finish s (alu2 s d a b 1 (fun x y => x &&& y))

/-- OR (R91). -/
def execOr (d a b : Reg) (s : State) : Host.Outcome State Fault Refusal :=
  finish s (alu2 s d a b 1 (fun x y => x ||| y))

/-- XOR (R91). -/
def execXor (d a b : Reg) (s : State) : Host.Outcome State Fault Refusal :=
  finish s (alu2 s d a b 1 (fun x y => x ^^^ y))

/-- SHL (R91). -/
def execShl (d a b : Reg) (s : State) : Host.Outcome State Fault Refusal :=
  finish s (alu2 s d a b 1 (fun x y => x <<< sh6 y))

/-- SHR (R91). -/
def execShr (d a b : Reg) (s : State) : Host.Outcome State Fault Refusal :=
  finish s (alu2 s d a b 1 (fun x y => x >>> sh6 y))

/-- SAR (R91). -/
def execSar (d a b : Reg) (s : State) : Host.Outcome State Fault Refusal :=
  finish s (alu2 s d a b 1 (fun x y => x.sshiftRight (sh6 y)))

/-- MUL (R92). -/
def execMul (d a b : Reg) (s : State) : Host.Outcome State Fault Refusal :=
  finish s (alu2 s d a b 3 (fun x y => x * y))

/-- MULH (R92). -/
def execMulh (d a b : Reg) (s : State) : Host.Outcome State Fault Refusal :=
  finish s (alu2 s d a b 3 mulHigh)

/-- MULHN (R92). -/
def execMulhn (d a b : Reg) (s : State) : Host.Outcome State Fault Refusal :=
  finish s (alu2 s d a b 3 mulHighN)

/-- DIV (R93). -/
def execDiv (d a b : Reg) (s : State) : Host.Outcome State Fault Refusal :=
  finish s (divOp s d a b divS)

/-- DIVN (R93). -/
def execDivn (d a b : Reg) (s : State) : Host.Outcome State Fault Refusal :=
  finish s (divOp s d a b divU)

/-- REM (R93). -/
def execRem (d a b : Reg) (s : State) : Host.Outcome State Fault Refusal :=
  finish s (divOp s d a b remS)

/-- REMN (R93). -/
def execRemn (d a b : Reg) (s : State) : Host.Outcome State Fault Refusal :=
  finish s (divOp s d a b remU)

/-- MIN (R91). -/
def execMin (d a b : Reg) (s : State) : Host.Outcome State Fault Refusal :=
  finish s (alu2 s d a b 1 (fun x y => if x.sle y then x else y))

/-- MAX (R91). -/
def execMax (d a b : Reg) (s : State) : Host.Outcome State Fault Refusal :=
  finish s (alu2 s d a b 1 (fun x y => if x.sle y then y else x))

/-- MINN (R91). -/
def execMinn (d a b : Reg) (s : State) : Host.Outcome State Fault Refusal :=
  finish s (alu2 s d a b 1 (fun x y => if x ≤ y then x else y))

/-- MAXN (R91). -/
def execMaxn (d a b : Reg) (s : State) : Host.Outcome State Fault Refusal :=
  finish s (alu2 s d a b 1 (fun x y => if x ≤ y then y else x))

/-- SLT (R91). -/
def execSlt (d a b : Reg) (s : State) : Host.Outcome State Fault Refusal :=
  finish s (alu2 s d a b 1 (fun x y => flagWord (x.slt y)))

/-- SLTN (R91). -/
def execSltn (d a b : Reg) (s : State) : Host.Outcome State Fault Refusal :=
  finish s (alu2 s d a b 1 (fun x y => flagWord (x.ult y)))

/-- SEQ (R91). -/
def execSeq (d a b : Reg) (s : State) : Host.Outcome State Fault Refusal :=
  finish s (alu2 s d a b 1 (fun x y => flagWord (x == y)))

/-- SNE (R91). -/
def execSne (d a b : Reg) (s : State) : Host.Outcome State Fault Refusal :=
  finish s (alu2 s d a b 1 (fun x y => flagWord (x != y)))

/-- CADDR (R98). -/
def execCaddr (d a b : Reg) (s : State) : Host.Outcome State Fault Refusal :=
  finish s (alu2 s d a b 1 (fun x y => caddrOf x y))

/-- CSPLIT (R99). -/
def execCsplit (d a : Reg) (s : State) : Host.Outcome State Fault Refusal :=
  finish s (alu1 s d a csplitOf)

/-- CLZ (R95). -/
def execClz (d a : Reg) (s : State) : Host.Outcome State Fault Refusal :=
  finish s (alu1 s d a (fun x => BitVec.ofNat 64 (leadingZeros x)))

/-- CTZ (R95). -/
def execCtz (d a : Reg) (s : State) : Host.Outcome State Fault Refusal :=
  finish s (alu1 s d a (fun x => BitVec.ofNat 64 (ctzNat x.toNat 64)))

/-- POPC (R95). -/
def execPopc (d a : Reg) (s : State) : Host.Outcome State Fault Refusal :=
  finish s (alu1 s d a (fun x => BitVec.ofNat 64 (popCount x.toNat 64)))

/-- BREV (R95). -/
def execBrev (d a : Reg) (s : State) : Host.Outcome State Fault Refusal :=
  finish s (alu1 s d a (fun x => BitVec.ofNat 64 (revNat x.toNat 64)))

/-- SEXT (R95). -/
def execSext (z : Sz3) (d a : Reg) (s : State) : Host.Outcome State Fault Refusal :=
  finish s (alu1 s d a (Machine.sext (sz3Bits z)))

/-- ZEXT (R95). -/
def execZext (z : Sz3) (d a : Reg) (s : State) : Host.Outcome State Fault Refusal :=
  finish s (alu1 s d a (Machine.zext (sz3Bits z)))

/-- MOV (R95). -/
def execMov (d a : Reg) (s : State) : Host.Outcome State Fault Refusal :=
  finish s (alu1 s d a (fun x => x))

/-- ADDI (R94). -/
def execAddi (d a : Reg) (imm : W64) (s : State) : Host.Outcome State Fault Refusal :=
  finish s (alu1 s d a (fun x => x + imm))

/-- ANDI (R94). -/
def execAndi (d a : Reg) (imm : W64) (s : State) : Host.Outcome State Fault Refusal :=
  finish s (alu1 s d a (fun x => x &&& imm))

/-- ORI (R94). -/
def execOri (d a : Reg) (imm : W64) (s : State) : Host.Outcome State Fault Refusal :=
  finish s (alu1 s d a (fun x => x ||| imm))

/-- XORI (R94). -/
def execXori (d a : Reg) (imm : W64) (s : State) : Host.Outcome State Fault Refusal :=
  finish s (alu1 s d a (fun x => x ^^^ imm))

/-- SHLI (R94). -/
def execShli (d a : Reg) (imm : W64) (s : State) : Host.Outcome State Fault Refusal :=
  finish s (alu1 s d a (fun x => x <<< imm.toNat))

/-- SHRI (R94). -/
def execShri (d a : Reg) (imm : W64) (s : State) : Host.Outcome State Fault Refusal :=
  finish s (alu1 s d a (fun x => x >>> imm.toNat))

/-- SARI (R94). -/
def execSari (d a : Reg) (imm : W64) (s : State) : Host.Outcome State Fault Refusal :=
  finish s (alu1 s d a (fun x => x.sshiftRight imm.toNat))

/-- LEA (R97). -/
def execLea (d a : Reg) (imm : W64) (s : State) : Host.Outcome State Fault Refusal :=
  finish s (alu1 s d a (fun x => leaAdd x imm))

/-- LDI (R96). -/
def execLdi (d : Reg) (imm : W64) (s : State) : Host.Outcome State Fault Refusal :=
  finish s (.ok (setXL s d imm 1))

/-- LDIH (R96). -/
def execLdih (d : Reg) (imm : W64) (s : State) : Host.Outcome State Fault Refusal :=
  finish s (.ok (setXL s d (ldihOf (s.x d) imm) 1))

/-- The short form of ADD (R91). -/
def execAddShort (d a b : Reg) (s : State) : Host.Outcome State Fault Refusal :=
  finish s (alu2 s d a b 1 (fun x y => x + y))

/-- The short form of SUB (R91). -/
def execSubShort (d a b : Reg) (s : State) : Host.Outcome State Fault Refusal :=
  finish s (alu2 s d a b 1 (fun x y => x - y))

/-- The short form of AND (R91). -/
def execAndShort (d a b : Reg) (s : State) : Host.Outcome State Fault Refusal :=
  finish s (alu2 s d a b 1 (fun x y => x &&& y))

/-- The short form of OR (R91). -/
def execOrShort (d a b : Reg) (s : State) : Host.Outcome State Fault Refusal :=
  finish s (alu2 s d a b 1 (fun x y => x ||| y))

/-- The short form of XOR (R91). -/
def execXorShort (d a b : Reg) (s : State) : Host.Outcome State Fault Refusal :=
  finish s (alu2 s d a b 1 (fun x y => x ^^^ y))

/-- The short form of SLT (R91). -/
def execSltShort (d a b : Reg) (s : State) : Host.Outcome State Fault Refusal :=
  finish s (alu2 s d a b 1 (fun x y => flagWord (x.slt y)))

/-- The short form of MUL (R92). -/
def execMulShort (d a b : Reg) (s : State) : Host.Outcome State Fault Refusal :=
  finish s (alu2 s d a b 3 (fun x y => x * y))

/-- The short form of ADDI (R94). -/
def execAddiShort (d a : Reg) (imm : W64) (s : State) : Host.Outcome State Fault Refusal :=
  finish s (alu1 s d a (fun x => x + imm))

/-- The short form of SHLI (R94). -/
def execShliShort (d a : Reg) (imm : W64) (s : State) : Host.Outcome State Fault Refusal :=
  finish s (alu1 s d a (fun x => x <<< imm.toNat))

/-- The short form of SHRI (R94). -/
def execShriShort (d a : Reg) (imm : W64) (s : State) : Host.Outcome State Fault Refusal :=
  finish s (alu1 s d a (fun x => x >>> imm.toNat))

/-- The short form of LDI (R96). -/
def execLdiShort (d : Reg) (imm : W64) (s : State) : Host.Outcome State Fault Refusal :=
  finish s (.ok (setXL s d imm 1))

/-- The short form of MOV (R95). -/
def execMovShort (d a : Reg) (s : State) : Host.Outcome State Fault Refusal :=
  finish s (alu1 s d a (fun x => x))

/-- The short form of LEA (R97). -/
def execLeaShort (d a : Reg) (imm : W64) (s : State) : Host.Outcome State Fault Refusal :=
  finish s (alu1 s d a (fun x => leaAdd x imm))

end Sys2Proof.Machine
end

