-- ==== Sys2Proof/Machine/Schedule.lean ====
section
/-! DEFINITION. The model's own schedule (notes/assumptions/5.md): which events of the device may happen now, which core moves
next, and where a word is placed so that the next step fetches it. The manual orders none of this beyond what the events
themselves check; the agenda of the State may choose any other order. -/
namespace Sys2Proof.Machine

/-- An event with its numbers. -/
abbrev Happening := Instr × EvArg

def hap (i : Instr) (a : Nat) (b : Nat := 0) : Happening := (i, { EvArg.zero with a := a, b := b })

/-- Whether an instruction of the table is an event: it has no encoding. -/
def isEvent (i : Instr) : Bool := (formOf i).isNone

def allCores (s : State) : List Core := s.core :: s.others.map (·.2)

/-! ### Events that stand before the device -/

/-- What a packet waits for. -/
def packetEvents (p : Packet) : List Happening :=
  match p.st with
  | .acked _ => [hap .storeAck p.id]
  | .flying => match p.body with
    | .store _ _ => [hap .remoteAccessAtHome p.id]
    | .farStore _ _ _ => [hap .remoteAccessAtHome p.id]
    | .farLoad _ _ _ _ => [hap .remoteAccessAtHome p.id]
    | .atomic _ _ _ _ _ _ => [hap .atomicAtHome p.id]
    | .msg _ _ _ => [hap .messageArrival p.id]
    | .shape _ _ _ _ => [hap .shapeDecrementAtHome p.id]
    | .beat d => [hap .beatArrival p.die d]
    | .attach _ _ _ _ _ _ => [hap .attachmentComplete p.id]
    | .ask _ _ => [hap .messageArrival p.id]
    | .told _ _ _ _ => [hap .messageArrival p.id]
    | .cmd _ _ _ => []
    | .probe _ => []
    | .sub _ _ _ _ => []
    | .row _ _ _ _ => []

/-- What a core waits for beside its instructions. -/
def coreEvents (s : State) (c : Core) : List Happening :=
  let n := c.num
  (if c.run = .switching then [hap .saveComplete n, hap .restoreComplete n] else []) ++
  (if c.run = .swapping then [hap .swapExchangeComplete n] else []) ++
  (if c.mail.mcast.isEmpty then [] else [hap .mcastCopy n]) ++
  (c.mail.q.filter (fun q => !q.2.cmd.isEmpty || !q.2.owed.isEmpty)).map (fun q => hap .portResult n q.1) ++
  (if c.sc.spillBusy then [hap .spillBufferWrite n] else []) ++
  (match c.wait.map (·.what) with
    | some .align => [hap .alignRelease n]
    | some .take => [hap .vtakeTimeout n]
    | some (.coll _ _) => [hap .collectiveTimeout n]
    | _ => []) ++
  (c.vec.streams.filter (fun r => !r.2.dir)).map (fun r => hap .streamStripFetch n r.1) ++
  (if c.run = .idle && !noCtx c && (allCores s).any (fun v => !v.mail.deque.isEmpty && v.num != n) then
    [hap .dequeSteal n] else [])

def poolEvents (q : Nat) (p : Pool) : List Happening :=
  (if p.reloads.isEmpty then [] else [hap .reloadServed q]) ++ (if p.claims.isEmpty then [] else [hap .claimServed q]) ++
  (if p.reloads.isEmpty && p.claims.isEmpty then [] else [hap .poolStall q]) ++
  (if p.writing.isEmpty then [] else [hap .frameImageAck q])

def stackEvents (n : Nat) (x : Stack) : List Happening :=
  (match x.st with
    | .pending => [hap .stackRetrainStart n]
    | .retraining => [(.stackRetrainComplete, { EvArg.zero with a := n, f := true })]
    | _ => []) ++
  (x.acts.filter (fun r => decide (4096 ≤ r.2))).map (fun r =>
    (.rowExchange, { EvArg.zero with a := n, b := r.1 / 2 ^ 32, c := r.1 % 2 ^ 32 })) ++
  x.busy.map (fun b => hap .rowExchangeComplete n b.1) ++ (if x.acts.isEmpty then [] else [hap .refreshIntervalEnd n]) ++
  x.open_.flatMap (fun p => [hap .arbWindowClose n p.1, hap .attarStarvation n p.1])

def graphEvents (g : Nat) (x : Graph) : List Happening :=
  (if x.ended.isSome then [hap .graphEnd g] else []) ++
  (x.nodes.filter (fun n => n.2.st == .running)).flatMap (fun n =>
    [hap .nodeComplete g n.1, hap .waitNodeSatisfied g n.1, hap .waitNodeTimeout g n.1, hap .weightSwitchCopy g n.1,
     hap .weightSwitchCommit g n.1])

def clusterEvents (s : State) (cl : Nat) : List Happening :=
  (List.range 8).flatMap (fun e =>
    let x := getEng s cl e
    if x.mmas.isEmpty then [] else [hap .mmaApply cl e]) ++
  ((s.un.accs.filter (fun a => a.1 / 32 == cl && a.2.st == .busy)).map (fun a => hap .tileChunk cl (a.1 % 32))) ++
  ((s.un.accs.filter (fun a => a.1 / 32 == cl && a.2.st == .draining)).map (fun a => hap .drainComplete cl (a.1 % 32))) ++
  (if (readyRecs s cl).isEmpty && (pausedHere s cl).isNone then [] else [hap .sharePlacement cl]) ++
  (readyRecs s cl).map (fun r => hap .shareAgeing cl (r.2.ticket r.1))

/-- The clusters in which tile work stands. -/
def busyClusters (s : State) : List Nat :=
  ((s.un.recs.filter (fun (r : Nat × TileRec) => r.2.live)).map (fun (r : Nat × TileRec) => r.1 / 1024) ++
    s.un.engines.map (fun (e : Nat × Engine) => e.1 / 8) ++ s.un.accs.map (fun (a : Nat × Acc) => a.1 / 32)).dedup

def xferEvents (k : Nat) (x : Xfer) : List Happening :=
  let cl := k / 64
  let slot := k % 64
  match x.st with
  | .reading => [hap .copyBlockRead cl slot]
  | .running => [hap .copyPieceStart cl slot, hap .copyComplete cl slot] ++
      (x.rows.map (fun e => (.gatherRowAtOwner, { EvArg.zero with a := cl, b := slot, c := e / 2 ^ 32 })))
  | .completing => [hap .copyComplete cl slot, hap .completionQueueAppend cl slot]
  | _ => []

def expertEvents (s : State) (e : Nat) (x : Expert) : List Happening :=
  [hap .accordEvaluation e] ++
  (List.range x.reps.length).flatMap (fun r =>
    [hap .replicaFillComplete e r, hap .handoverStart e r, hap .handoverComplete e r]) ++
  ((List.range 4).filter (fun d => tget s.un.copies (copyKey e d) != some x)).map (fun d => hap .directoryCopyUpdate e d)

def queryEvents (k : Nat) (q : Query) : List Happening :=
  match q.st with
  | .reading => [hap .queryVectorRead k]
  | .ready => [hap .querySchedule (k / 64), hap .queryAgeing k]
  | .running => [hap .queryHop k]
  | .suspended => [hap .queryResume k]
  | .completing => [hap .queryComplete k]
  | _ => []

/-- Contexts for which something stands. -/
def standing (s : State) : List Nat :=
  (((allCores s).filter (fun c => !noCtx c)).map curCtx ++ s.un.kept.map (fun k => k.1 / nCores) ++
    s.un.graphs.map (fun g => g.2.ctx) ++ s.un.groups.map (fun g => g.2.ctx) ++
    ((s.un.experts.filter (fun e => e.2.st != .free)).map (fun e => e.2.ctx)) ++
    ((s.un.recs.filter (fun r => r.2.live)).map (fun r => r.2.ctx)) ++
    ((s.un.queries.filter (fun q => !q.2.ended)).map (fun q => q.2.ctx)) ++
    ((s.un.xfers.filter (fun x => !x.2.over)).map (fun x => x.2.ctx))).dedup

/-- The margins in force, which the schedule's own starts and plans keep. -/
def marginsOf (b : Boot) : W64 := BitVec.ofNat 64 (b.guard + 2 ^ 32 * b.used)

/-- The plan of every 24 hours (25_life R442). -/
def replanEvents (s : State) : List Happening :=
  let b := s.out.boot
  if b.planned + 86400000000000 ≤ s.out.time then [(.drydownReplan, { EvArg.zero with a := b.guard, b := b.used })] else []

/-- Starts that Deluk or a reset has asked for (25_life R439, R440, R452). -/
def startEvents (s : State) : List Happening :=
  let b := s.out.boot
  if s.core.run = .reset then
    (if b.failed then []
     else match b.request with
      | some true => [(.warmStart, { EvArg.zero with a := b.digest, f := true, w := marginsOf b })]
      | _ => [(.coldStart, { EvArg.zero with f := true, w := marginsOf b })])
  else if b.request.isSome then [hap .powerOnReset 0] else []

/-- Units that replay a log and may be waiting (25_life R450). -/
def replayEvents (s : State) : List Happening :=
  s.out.logs.flatMap (fun l =>
    if l.2.mode ≠ 2 then []
    else match l.1 with
      | 2 => (busyClusters s).map (fun c => hap .replayStall 2 c)
      | 3 => (List.range 4).map (fun d => hap .replayStall 3 d)
      | k => (allCores s).map (fun c => hap .replayStall k c.num))

/-- The contributions of a collective that are on their way, and its result (23_link R434). -/
def collEvents (c : Coll) : List Happening :=
  ((c.contribs.filter (fun p => !c.arrived.contains p.1)).map (fun p => hap .collectiveContribution c.id p.1)) ++
    [hap .collectiveResult c.id]

/-- The walks a cluster's walker has begun (08_page R217). -/
def walkEvents (cl : Nat) (l : List Walk) : List Happening :=
  (l.filter (fun w => w.ent.isSome)).map (fun w =>
    (.pageWalkComplete, { EvArg.zero with a := cl, b := w.asid, w := BitVec.ofNat 64 w.va }))

/-- The events that may happen, in the order the schedule looks at them. -/
def eventsOf (s : State) : List Happening :=
  startEvents s ++ s.mu.walks.flatMap (fun p => walkEvents p.1 p.2) ++ s.net.flatMap packetEvents ++ (allCores s).flatMap (coreEvents s) ++
  s.un.pools.flatMap (fun p => poolEvents p.1 p.2) ++
  s.mu.hbm.flatMap (fun x => stackEvents x.1 x.2) ++
  ((s.mu.dies.filter (fun d => d.2.beatDue)).map (fun d => hap .clockBeat d.1)) ++
  (if s.mu.rdc.isEmpty then [] else (List.range 4).map (fun d => hap .rdcSweep d)) ++
  s.mu.snooped.map (fun l => hap .backInvalidateResponse (64 * l)) ++
  ((standing s).filter (fun c => decide (c < 256) && ctxLife s c == 0)).map (fun c => hap .contextTeardown c) ++
  ((s.un.kernels.filter (fun k => k.2.st == .waking)).map (fun k => hap .kernelRunning k.1)) ++
  (if s.un.doorbells.isEmpty then [] else (List.range 4).map (fun c => hap .graphAdmission c)) ++
  (if s.un.graphs.isEmpty then [] else (List.range 4).map (fun c => hap .nodeStart c)) ++
  s.un.graphs.flatMap (fun g => graphEvents g.1 g.2) ++
  (s.un.joins.map (fun j => hap .joinContinuation j.core)) ++
  ((s.un.barriers.filter (fun b => b.2.clock.isSome)).map (fun b => hap .barrierTimeout b.1)) ++
  (busyClusters s).flatMap (clusterEvents s) ++
  s.un.xfers.flatMap (fun x => xferEvents x.1 x.2) ++
  s.un.experts.flatMap (fun e => expertEvents s e.1 e.2) ++
  s.un.resvs.flatMap (fun r => [hap .reservationAtPort r.id, hap .expertRowPulled r.id]) ++
  s.un.queries.flatMap (fun q => queryEvents q.1 q.2) ++ s.un.batches.map (fun b => hap .distanceBatch b.id) ++
  (if s.cycle < 4194304 then [] else (List.range 4).map (fun d => hap .swapInstant d)) ++
  (s.out.subround.map (fun d => hap .swapSubround d.1)) ++
  s.out.forwards.map (fun f => hap .forwardingEnd f.num) ++
  s.out.linkIn.map (fun f => hap .linkFlitArrival f.link) ++
  s.out.colls.flatMap collEvents ++ replayEvents s ++ replanEvents s

/-- The events in their order, oldest packet first; in one cycle of eight with another event first as time passes, so that
none is passed over for ever. -/
def fairEvents (s : State) : List Happening :=
  let l := eventsOf s
  let k := if l.isEmpty || s.cycle / 2 % 4 != 0 then 0 else s.cycle / 8 % l.length
  l.drop k ++ l.take k

/-! ### Cores that can move -/

/-- Whether a core has something to do when its turn comes. -/
def canMove (s : State) (c : Core) : Bool :=
  match c.run with
  | .running => true
  | .waiting => true
  | .idle => !c.mail.inbox.isEmpty || !c.mail.deque.isEmpty || !(overflowOf s c).isEmpty || !c.ev.notices.isEmpty ||
      c.ev.p80 || c.ev.p83.isSome
  | _ => false

/-- The next core that can move, by number after the one in focus. -/
def nextCore (s : State) : Option Nat :=
  let n := s.core.num
  let l := s.others.filter (fun p => canMove s p.2)
  match l.find? (fun p => decide (n < p.1)) with
  | some p => some p.1
  | none => l.head?.map (·.1)

/-- The turn passes to the next core that can move. -/
def rotate (s : State) : State :=
  match nextCore s with
  | some n => focus s n
  | none => s

/-- A turn in which the core in focus did nothing: a cycle passes and the turn goes on. -/
def pause (s : State) : State := rotate (passTime s 1)

/-! ### What a turn begins with -/

/-- What the core in focus does with its turn. -/
inductive Turning
  /-- the turn is over in this state -/
  | took (s : State)
  /-- an instruction issues -/
  | issues (s : State)
  /-- an event first, and otherwise this state -/
  | events (s : State)
  /-- an event first, and otherwise an instruction issues -/
  | eventsFirst (s : State)

/-- What comes before an instruction: an entry, a wait for the stores an entry needs acknowledged, or nothing. -/
inductive Before
  | enters (s : State)
  | holds
  | issues (s : State)

/-- The trap of a breakpoint that has waited, an interrupt, or a pending cause 0x0B, is taken before an instruction issues
(09_context R231; 14_tile R338; 25_life R447); the entry
for a switch holds issue until the stores are acknowledged (07_ordering R182). -/
def beforeIssue (s : State) : Before :=
  let r := boundaryInt s
  match s.core.ev.point with
  | some v => if copiesWait s then .holds else .enters (stepOver (pointTrap s v))
  | none =>
  match r.2 with
  | some c => if entryReady r.1 c then .enters (takeInterrupt r.1 c) else .holds
  | none =>
    if r.1.core.ev.pend0B.isEmpty then .issues r.1
    else if copiesWait r.1 then .holds
    else
      let t := tileFaultTrap r.1
      if t = r.1 then .issues r.1 else .enters t

/-- The turn of the core in focus. -/
def turning (s : State) : Turning :=
  match s.core.standing with
  | .running =>
    (match beforeIssue s with
      | .enters t => .took (closeTurn t)
      | .holds => .events s
      | .issues t => .issues t)
  | .waiting =>
    if onInt s = .hold then (if s.cycle % 2 = 0 then .eventsFirst s else .issues s)
    else (match beforeIssue s with
      | .enters t => .took (closeTurn t)
      | .holds => .events s
      | .issues t => if s.cycle % 2 = 0 then .eventsFirst t else .issues t)
  | .idle =>
    let r := boundaryInt s
    if s.core.ev.point.isSome then (match beforeIssue s with
      | .enters t => .took (closeTurn t)
      | _ => .events s)
    else
    (match r.2 with
      | some c => if entryReady r.1 c then .took (closeTurn (takeInterrupt r.1 c)) else .events s
      | none =>
        let t := seek r.1
        if t.core.run ≠ .idle then .took (passTime t 2) else .events t)
  | _ => .events s

/-- After an instruction the device gets its turn whenever 64 cycles have passed, and so do the other cores. -/
def breathes (before after : State) : Bool := before.cycle / 64 != after.cycle / 64

/-! ### A word placed for the next step -/

/-- The instruction whose bits are `w`, stored at offset 0 of the core's own local memory, from which the core is about to
fetch (log 25). -/
def placeWord (s : State) (nbits w : Nat) : State :=
  let words := tableWords nbits w
  let bytes := words.flatMap (fun x => bytesOf x.toNat 2) ++ List.replicate (16 - 2 * words.length) 0
  let t := rawWrite s (cellsAt (localKey s.core.num 0) bytes)
  { t with
    core := { t.core with
      run := .running, pc := BitVec.ofNat 64 (localKey s.core.num 0), wait := none, fbuf := none, rreg := none
      freq := none, pend := [], locks := [], divUntil := 0, issue := Issue.reset
      ev := { t.core.ev with notices := [], p80 := false, p81 := false, p83 := none, pend0B := [], point := none }
      mail := { t.core.mail with cpyq := [] } }
    agenda := [] }

end Sys2Proof.Machine
end

