-- ==== Sys2Proof/Machine/Vector.lean ====
section
/-! DEFINITION. Vector arithmetic, dot products, compares, reductions, scans, conversions, permutes, packing and masks:
pages 4 and 5 and their short forms (05_vector R106, R109, R123 to R132, R136 to R138; 02_numbers R35 to R44). -/
namespace Sys2Proof.Machine

/-! ### Elements -/

/-- A vector result of fixed latency with its flags (R109; 02_numbers R34). -/
def vecL (s : State) (d : Reg) (lat w : Nat) (r : List Nat × Flags) : Eff := .ok (setVL (raise s r.2) d (pack w r.1) lat)

/-- An interlocked vector result with its flags. -/
def vecI (s : State) (d : Reg) (lat w : Nat) (r : List Nat × Flags) : Eff := .ok (setVI (raise s r.2) d (pack w r.1) lat)

/-- The elements a function of two sources gives, under the mask (R109). -/
def map2 (s : State) (t : ETy) (d a b : Reg) (m : Msk) (f : Nat → Nat → Nat × Flags) : List Nat × Flags :=
  let w := tyWidth t
  maskMerge s m w (s.v d) (List.zipWith f (elems (s.v a) w) (elems (s.v b) w))

/-- The elements a function of one source gives. -/
def map1 (s : State) (t : ETy) (d a : Reg) (m : Msk) (f : Nat → Nat × Flags) : List Nat × Flags :=
  let w := tyWidth t
  maskMerge s m w (s.v d) ((elems (s.v a) w).map f)

/-- A floating-point function of two codes, rounded by FRM. -/
def fp2 (t : ETy) (mode : RM) (f : FV → FV → FR) (x y : Nat) : Nat × Flags :=
  roundR t (f (dec t x 0) (dec t y 0)) mode

def fp1 (t : ETy) (mode : RM) (f : FV → FR) (x : Nat) : Nat × Flags := roundR t (f (dec t x 0)) mode

/-- An integer function modulo 2^w; no flag. -/
def int2 (t : ETy) (f : Int → Int → Int) (x y : Nat) : Nat × Flags :=
  let w := tyWidth t
  let v (c : Nat) : Int := if t.isI then sgnOf w c else (c : Int)
  ((f (v x) (v y) % 2 ^ w).toNat, 0)

def int1 (t : ETy) (f : Int → Int) (x : Nat) : Nat × Flags := int2 t (fun a _ => f a) x 0

/-- The element function of an operation that both kinds of type have. -/
def arith2 (s : State) (t : ETy) (f : FV → FV → FR) (g : Int → Int → Int) (x y : Nat) : Nat × Flags :=
  if t.isF then fp2 t (frm s) f x y else int2 t g x y

/-- |a| and -a of a floating-point value; a NaN as R124. -/
def fAbs (a : FV) : FR :=
  match a with
  | .nan q => (.nan false, if q then fNV else 0)
  | .inf _ => (.inf false, 0)
  | .fin x => (.fin { x with neg := false }, 0)

def fNeg (a : FV) : FR :=
  match a with
  | .nan q => (.nan false, if q then fNV else 0)
  | x => (x.negate, 0)

/-- The low log2(w) bits of a count (R124). -/
def vCount (t : ETy) (y : Nat) : Nat := y % tyWidth t

/-- A shift to the right with the sign shifted in; an unsigned element is never negative (DEDUCED, log 14). -/
def vSar (t : ETy) (x y : Nat) : Nat × Flags := int1 t (fun a => a / 2 ^ vCount t y) x

/-- VFMA, VFMS and VFNMA: one rounding of the exact product and sum (R125). -/
def fma3 (s : State) (t : ETy) (d a b : Reg) (m : Msk) (negP negD : Bool) : List Nat × Flags :=
  let w := tyWidth t
  let sgn (n : Bool) (v : FV) : FV := if n then v.negate else v
  let f (p : Nat × Nat) (c : Nat) : Nat × Flags :=
    roundR t (fFma (sgn negP (dec t p.1 0)) (dec t p.2 0) (sgn negD (dec t c 0)) (frm s)) (frm s)
  maskMerge s m w (s.v d)
    (List.zipWith f (List.zip (elems (s.v a) w) (elems (s.v b) w)) (elems (s.v d) w))

/-! ### Dot products (R126) -/

/-- The lanes' type: FP32, or the 32-bit integer of the source's sign. -/
def dotLane (t : ETy) : ETy :=
  if t.isI then .i32 else if t.isN then .n32 else .f32

/-- The exact sum of an addend and products, with NV for signalling NaNs, 0 x infinity and infinities that meet. -/
def dotSum (mode : RM) (c : FV) (ps : List (FV × FV)) : FR :=
  let prods := ps.map (fun p => fMul p.1 p.2)
  let sNaN := c.isSNaN || ps.any (fun p => p.1.isSNaN || p.2.isSNaN)
  let bad := prods.foldl (fun f p => f ||| p.2) (if sNaN then fNV else 0)
  let terms := c :: prods.map (·.1)
  let pos := terms.any (· == .inf false)
  let neg := terms.any (· == .inf true)
  let fl := if pos && neg then bad ||| fNV else bad
  if terms.any FV.isNaN || (pos && neg) then (.nan false, fl)
  else if pos then (.inf false, fl)
  else if neg then (.inf true, fl)
  else (terms.tail.foldl (fun x y => (fAdd x y mode).1) c, fl)

def dotElems (s : State) (t : ETy) (d a b : Reg) (m : Msk) : List Nat × Flags :=
  let w := tyWidth t
  let p := 32 / w
  let lane := dotLane t
  let one (j : Nat) : Nat × Flags :=
    let at_ (v : W512) (k : Nat) : FV := dec t (elem v w (j * p + k)) (xval s)
    let c := dec lane (elem (s.v d) 32 j) 0
    let ps := (List.range p).map (fun k => (at_ (s.v a) k, at_ (s.v b) k))
    if t.isI || t.isN then
      let int (v : FV) : Int := match v with | .fin x => x.toCommon 0 | _ => 0
      (((ps.foldl (fun (z : Int) (q : FV × FV) => z + int q.1 * int q.2) (int c)) % 2 ^ 32).toNat, 0)
    else roundR .f32 (dotSum (frm s) c ps) (frm s)
  maskMerge s m 32 (s.v d) ((List.range 16).map one)

/-! ### Compare and select (R127, R128) -/

def cmpOne (t : ETy) (c : Cond) (x y : Nat) : Bool × Flags :=
  if t.isF then fCmp c (dec t x 0) (dec t y 0)
  else
    let w := tyWidth t
    let v (k : Nat) : Int := if t.isI then sgnOf w k else (k : Int)
    (match c with
      | .eq => x == y
      | .ne => x != y
      | .lt => decide (v x < v y)
      | .le => decide (v x ≤ v y), 0)

/-- The mask a compare writes: bits n to 511 are zero. -/
def cmpMask (s : State) (t : ETy) (c : Cond) (d a b : Reg) (m : Msk) : Nat × Flags :=
  let w := tyWidth t
  let old := (s.v d).toNat
  let go (acc : Nat × Flags) (i : Nat) : Nat × Flags :=
    let r := cmpOne t c (elem (s.v a) w i) (elem (s.v b) w i)
    if mskOn s m w i then (acc.1 + b2n r.1 * 2 ^ i, acc.2 ||| r.2)
    else if m.ag then (acc.1 + b2n r.1 * 2 ^ i, acc.2)
    else (acc.1 + (old >>> i) % 2 * 2 ^ i, acc.2)
  (List.range (512 / w)).foldl go (0, 0)

def selElems (s : State) (t : ETy) (a b : Reg) (m : Msk) : List Nat :=
  let w := tyWidth t
  (List.range (512 / w)).map (fun i => if mskOn s m w i then elem (s.v a) w i else elem (s.v b) w i)

/-! ### Reductions and scans (R129, R130; 02_numbers R38, R39) -/

/-- The identity of a reduction as a code. -/
def redId (t : ETy) (k : RKind) : Nat :=
  let w := tyWidth t
  match k with
  | .sum => if t.isF then 2 ^ (w - 1) else 0
  | .min => if t.isF then (rnd t (.inf false) .rne).1 else if t.isI then 2 ^ (w - 1) - 1 else 2 ^ w - 1
  | .max => if t.isF then (rnd t (.inf true) .rne).1 else if t.isI then 2 ^ (w - 1) else 0

/-- One combination, rounding in the element type by FRM, with the flags so far. -/
def redOp (s : State) (t : ETy) (k : RKind) (x y : Nat × Flags) : Nat × Flags :=
  let r := match k with
    | .sum => arith2 s t (fun a b => fAdd a b (frm s)) (· + ·) x.1 y.1
    | .min => arith2 s t (fMinMax false) min x.1 y.1
    | .max => arith2 s t (fMinMax true) max x.1 y.1
  (r.1, x.2 ||| y.2 ||| r.2)

/-- The inputs of a reduction: a masked-off element enters as the identity. -/
def redIn (s : State) (t : ETy) (k : RKind) (a : Reg) (m : Msk) : List (Nat × Flags) :=
  let w := tyWidth t
  (List.range (512 / w)).map (fun i => (if mskOn s m w i then elem (s.v a) w i else redId t k, 0))

/-- The pairwise tree over a list whose length is a power of two. -/
def treeVal (s : State) (t : ETy) (k : RKind) (l : List (Nat × Flags)) : Nat × Flags :=
  (treeGo (redOp s t k) 7 l).headD (redId t k, 0)

/-- Element `i` of a scan from the aligned subtrees of i + 1, largest first (R39). DESIGN CHOICE: element 0 is one leaf with
no combination, so a NaN in it keeps its code and raises no flag; R39 does not say that R36 or R109 rounds a lone leaf. -/
def scanEl (s : State) (t : ETy) (k : RKind) (l : List (Nat × Flags)) (i : Nat) : Nat × Flags :=
  let parts := (List.range 8).reverse.foldl (fun (acc : Nat × List (Nat × Flags)) e =>
    if ((i + 1) >>> e) % 2 = 1 then
      (acc.1 + 2 ^ e, acc.2 ++ [treeVal s t k ((l.drop acc.1).take (2 ^ e))])
    else acc) (0, [])
  match parts.2 with
  | [] => (redId t k, 0)
  | x :: r => r.foldl (redOp s t k) x

/-! ### Conversion, permutes and packing (R131, R132, R136, R137) -/

def cvtElems (s : State) (td ts : ETy) (d a : Reg) (m : Msk) : List Nat × Flags :=
  let ws := tyWidth ts
  let wd := tyWidth td
  let n := 512 / max ws wd
  let one (i : Nat) : Nat × Flags := rnd td (dec ts (elem (s.v a) ws i) (xval s)) (frm s)
  maskMerge s m wd (s.v d) ((List.range n).map one)

/-- A value sent to a scalar register: sign-extended for I types, otherwise zero-extended (R132). -/
def extWord (t : ETy) (v : Nat) : W64 :=
  if t.isI then BitVec.ofInt 64 (sgnOf (tyWidth t) v) else BitVec.ofNat 64 v

/-- A register with element `i` replaced. -/
def insElem (v : W512) (w i x : Nat) : W512 := pack w ((elems v w).set i x)

/-- Blocks of 16 elements of a source (R136). -/
def sxBlocks (t : ETy) : Nat := 512 / tyWidth t / 16

def sxPack (s : State) (x : SxF) (t : ETy) (a : Reg) : W512 × Flags :=
  let w := tyWidth t
  let blk (k : Nat) : Nat × Flags := sxEnc x ((List.range 16).map (fun i => dec t (elem (s.v a) w (16 * k + i)) 0))
  let bs := (List.range (sxBlocks t)).map blk
  (pack (8 * sxBytes x) (bs.map (·.1)), bs.foldl (fun f p => f ||| p.2) 0)

def sxUnpack (s : State) (x : SxF) (t : ETy) (a : Reg) : List Nat × Flags :=
  let one (i : Nat) : Nat × Flags := rnd t (sxDec x (elem (s.v a) (8 * sxBytes x) (i / 16)) (i % 16)) (frm s)
  let rs := (List.range (16 * sxBlocks t)).map one
  (rs.map (·.1), rs.foldl (fun f p => f ||| p.2) 0)

/-- The low 64 bits of a mask register as a result: higher bits are zero (R138). -/
def lowMask (v : W512) : W64 := BitVec.ofNat 64 v.toNat
def maskReg (w : W64) : W512 := BitVec.ofNat 512 w.toNat

/-! ### The instructions -/

/-- VADD (R124). -/
def execVadd (t : ETy) (d a b : Reg) (m : Msk) (s : State) : Host.Outcome State Fault Refusal :=
  finish s (vecL s d 2 (tyWidth t) (map2 s t d a b m (arith2 s t (fun x y => fAdd x y (frm s)) (· + ·))))

/-- VSUB (R124). -/
def execVsub (t : ETy) (d a b : Reg) (m : Msk) (s : State) : Host.Outcome State Fault Refusal :=
  finish s (vecL s d 2 (tyWidth t) (map2 s t d a b m (arith2 s t (fun x y => fAdd x y.negate (frm s)) (· - ·))))

/-- VMUL (R124). -/
def execVmul (t : ETy) (d a b : Reg) (m : Msk) (s : State) : Host.Outcome State Fault Refusal :=
  finish s (vecL s d 4 (tyWidth t) (map2 s t d a b m (arith2 s t fMul (· * ·))))

/-- VDIV (R124). -/
def execVdiv (t : ETy) (d a b : Reg) (m : Msk) (s : State) : Host.Outcome State Fault Refusal :=
  finish s (vecI s d 14 (tyWidth t) (map2 s t d a b m (fp2 t (frm s) fDiv)))

/-- VFMA (R125). -/
def execVfma (t : ETy) (d a b : Reg) (m : Msk) (s : State) : Host.Outcome State Fault Refusal :=
  finish s (vecL s d 4 (tyWidth t) (fma3 s t d a b m false false))

/-- VFMS (R125). -/
def execVfms (t : ETy) (d a b : Reg) (m : Msk) (s : State) : Host.Outcome State Fault Refusal :=
  finish s (vecL s d 4 (tyWidth t) (fma3 s t d a b m false true))

/-- VFNMA (R125). -/
def execVfnma (t : ETy) (d a b : Reg) (m : Msk) (s : State) : Host.Outcome State Fault Refusal :=
  finish s (vecL s d 4 (tyWidth t) (fma3 s t d a b m true false))

/-- VMIN (R124). -/
def execVmin (t : ETy) (d a b : Reg) (m : Msk) (s : State) : Host.Outcome State Fault Refusal :=
  finish s (vecL s d 2 (tyWidth t) (map2 s t d a b m (arith2 s t (fMinMax false) min)))

/-- VMAX (R124). -/
def execVmax (t : ETy) (d a b : Reg) (m : Msk) (s : State) : Host.Outcome State Fault Refusal :=
  finish s (vecL s d 2 (tyWidth t) (map2 s t d a b m (arith2 s t (fMinMax true) max)))

/-- VABS (R124). -/
def execVabs (t : ETy) (d a : Reg) (m : Msk) (s : State) : Host.Outcome State Fault Refusal :=
  finish s (vecL s d 2 (tyWidth t) (map1 s t d a m (if t.isF then fp1 t (frm s) fAbs else int1 t (fun x => if x < 0 then -x else x))))

/-- VNEG (R124). -/
def execVneg (t : ETy) (d a : Reg) (m : Msk) (s : State) : Host.Outcome State Fault Refusal :=
  finish s (vecL s d 2 (tyWidth t) (map1 s t d a m (if t.isF then fp1 t (frm s) fNeg else int1 t (fun x => -x))))

/-- VRCP (R124). -/
def execVrcp (t : ETy) (d a : Reg) (m : Msk) (s : State) : Host.Outcome State Fault Refusal :=
  finish s (vecI s d 8 (tyWidth t) (map1 s t d a m (fp1 t (frm s) fRcp)))

/-- VRSQ (R124). -/
def execVrsq (t : ETy) (d a : Reg) (m : Msk) (s : State) : Host.Outcome State Fault Refusal :=
  finish s (vecI s d 8 (tyWidth t) (map1 s t d a m (fp1 t (frm s) fRsq)))

/-- VEXP2 (R124). -/
def execVexp2 (t : ETy) (d a : Reg) (m : Msk) (s : State) : Host.Outcome State Fault Refusal :=
  finish s (vecI s d 10 (tyWidth t) (map1 s t d a m (fp1 t (frm s) fExp2)))

/-- VLOG2 (R124). -/
def execVlog2 (t : ETy) (d a : Reg) (m : Msk) (s : State) : Host.Outcome State Fault Refusal :=
  finish s (vecI s d 10 (tyWidth t) (map1 s t d a m (fp1 t (frm s) fLog2)))

/-- VAND (R124). -/
def execVand (t : ETy) (d a b : Reg) (m : Msk) (s : State) : Host.Outcome State Fault Refusal :=
  finish s (vecL s d 2 (tyWidth t) (map2 s t d a b m (fun x y => (x &&& y, 0))))

/-- VOR (R124). -/
def execVor (t : ETy) (d a b : Reg) (m : Msk) (s : State) : Host.Outcome State Fault Refusal :=
  finish s (vecL s d 2 (tyWidth t) (map2 s t d a b m (fun x y => (x ||| y, 0))))

/-- VXOR (R124). -/
def execVxor (t : ETy) (d a b : Reg) (m : Msk) (s : State) : Host.Outcome State Fault Refusal :=
  finish s (vecL s d 2 (tyWidth t) (map2 s t d a b m (fun x y => (x ^^^ y, 0))))

/-- VNOT (R124). -/
def execVnot (t : ETy) (d a : Reg) (m : Msk) (s : State) : Host.Outcome State Fault Refusal :=
  finish s (vecL s d 2 (tyWidth t) (map1 s t d a m (fun x => (2 ^ tyWidth t - 1 - x, 0))))

/-- VSHL (R124). -/
def execVshl (t : ETy) (d a b : Reg) (m : Msk) (s : State) : Host.Outcome State Fault Refusal :=
  finish s (vecL s d 2 (tyWidth t) (map2 s t d a b m (fun x y => (x <<< vCount t y % 2 ^ tyWidth t, 0))))

/-- VSHR (R124). -/
def execVshr (t : ETy) (d a b : Reg) (m : Msk) (s : State) : Host.Outcome State Fault Refusal :=
  finish s (vecL s d 2 (tyWidth t) (map2 s t d a b m (fun x y => (x >>> vCount t y, 0))))

/-- VSAR (R124). -/
def execVsar (t : ETy) (d a b : Reg) (m : Msk) (s : State) : Host.Outcome State Fault Refusal :=
  finish s (vecL s d 2 (tyWidth t) (map2 s t d a b m (vSar t)))

/-- VDOT (R126). -/
def execVdot (t : ETy) (d a b : Reg) (m : Msk) (s : State) : Host.Outcome State Fault Refusal :=
  finish s (vecL s d 4 32 (dotElems s t d a b m))

/-- VSEL (R128). -/
def execVsel (t : ETy) (d a b : Reg) (m : Msk) (s : State) : Host.Outcome State Fault Refusal :=
  finish s (vecL s d 2 (tyWidth t) (selElems s t a b m, 0))

/-- VCMP (R127). -/
def execVcmp (c : Cond) (t : ETy) (d a b : Reg) (m : Msk) (s : State) : Host.Outcome State Fault Refusal :=
  finish s (let r := cmpMask s t c d a b m
    .ok (setVL (raise s r.2) d (BitVec.ofNat 512 r.1) 2))

/-- VRED (R129): element 0 takes the result and every other element is zero. -/
def execVred (k : RKind) (t : ETy) (d a : Reg) (m : Msk) (s : State) : Host.Outcome State Fault Refusal :=
  finish s (let r := treeVal s t k (redIn s t k a m)
    .ok (setVL (raise s r.2) d (BitVec.ofNat 512 r.1) 6))

/-- VSCAN (R130). -/
def execVscan (k : RKind) (t : ETy) (d a : Reg) (m : Msk) (s : State) : Host.Outcome State Fault Refusal :=
  finish s (let l := redIn s t k a m
    vecI s d 10 (tyWidth t) (maskMerge s m (tyWidth t) (s.v d) ((List.range (512 / tyWidth t)).map (scanEl s t k l))))

/-- VCVT (R131): bits above the converted elements are zero. -/
def execVcvt (t ts : ETy) (d a : Reg) (m : Msk) (s : State) : Host.Outcome State Fault Refusal :=
  finish s (vecL s d 3 (tyWidth t) (cvtElems s t ts d a m))

/-- VPERM (R132). -/
def execVperm (t : ETy) (d a b : Reg) (m : Msk) (s : State) : Host.Outcome State Fault Refusal :=
  finish s (let w := tyWidth t
    vecI s d 3 w (map1 s t d b m (fun i => (elem (s.v a) w (i % (512 / w)), 0))))

/-- VBCAST (R132). -/
def execVbcast (t : ETy) (d a : Reg) (m : Msk) (s : State) : Host.Outcome State Fault Refusal :=
  finish s (vecI s d 3 (tyWidth t) (map1 s t d d m (fun _ => ((s.x a).toNat % 2 ^ tyWidth t, 0))))

/-- VINS (R132). -/
def execVins (t : ETy) (d a b : Reg) (s : State) : Host.Outcome State Fault Refusal :=
  finish s (let w := tyWidth t
    .ok (setVI s d (insElem (s.v d) w ((s.x b).toNat % (512 / w)) ((s.x a).toNat % 2 ^ w)) 3))

/-- VEXT (R132). -/
def execVext (t : ETy) (d a b : Reg) (s : State) : Host.Outcome State Fault Refusal :=
  finish s (let w := tyWidth t
    .ok (setXI s d (extWord t (elem (s.v a) w ((s.x b).toNat % (512 / w)))) 3))

/-- VSXPACK (R136). -/
def execVsxpack (x : SxF) (t : ETy) (d a : Reg) (s : State) : Host.Outcome State Fault Refusal :=
  finish s (let r := sxPack s x t a
    .ok (setVI (raise s r.2) d r.1 4))

/-- VSXUNPACK (R137). -/
def execVsxunpack (x : SxF) (t : ETy) (d a : Reg) (s : State) : Host.Outcome State Fault Refusal :=
  finish s (vecI s d 4 (tyWidth t) (sxUnpack s x t a))

/-- MAND (R138). -/
def execMand (d a b : Reg) (s : State) : Host.Outcome State Fault Refusal :=
  finish s (.ok (setVL s d (maskReg (lowMask (s.v a) &&& lowMask (s.v b))) 2))

/-- MOR (R138). -/
def execMor (d a b : Reg) (s : State) : Host.Outcome State Fault Refusal :=
  finish s (.ok (setVL s d (maskReg (lowMask (s.v a) ||| lowMask (s.v b))) 2))

/-- MNOT (R138). -/
def execMnot (d a : Reg) (s : State) : Host.Outcome State Fault Refusal :=
  finish s (.ok (setVL s d (maskReg (~~~ lowMask (s.v a))) 2))

/-- MPOPC (R138). -/
def execMpopc (d a : Reg) (s : State) : Host.Outcome State Fault Refusal :=
  finish s (.ok (setXL s d (BitVec.ofNat 64 (popCount (lowMask (s.v a)).toNat 64)) 2))

/-- MFIRST (R138). -/
def execMfirst (d a : Reg) (s : State) : Host.Outcome State Fault Refusal :=
  finish s (.ok (setXL s d (BitVec.ofNat 64 (ctzNat (lowMask (s.v a)).toNat 64)) 2))

/-- MSET (R138). -/
def execMset (d a : Reg) (s : State) : Host.Outcome State Fault Refusal :=
  finish s (.ok (setVL s d (BitVec.ofNat 512 (2 ^ min 64 (s.x a).toNat - 1)) 2))

/-- The short form of VADD.f32 (R124). -/
def execVaddF32Short (d a b : Reg) (m : Msk) (s : State) : Host.Outcome State Fault Refusal :=
  finish s (vecL s d 2 32 (map2 s .f32 d a b m (fp2 .f32 (frm s) (fun x y => fAdd x y (frm s)))))

/-- The short form of VMUL.f32 (R124). -/
def execVmulF32Short (d a b : Reg) (m : Msk) (s : State) : Host.Outcome State Fault Refusal :=
  finish s (vecL s d 4 32 (map2 s .f32 d a b m (fp2 .f32 (frm s) fMul)))

/-- The short form of VFMA.f32 (R125). -/
def execVfmaF32Short (d a b : Reg) (m : Msk) (s : State) : Host.Outcome State Fault Refusal :=
  finish s (vecL s d 4 32 (fma3 s .f32 d a b m false false))

end Sys2Proof.Machine
end

