-- ==== Sys2Proof/Machine/Dispatch.lean ====
section
/-! DEFINITION. One arm per instruction and event of the opcode table; each calls the meaning in its family's file. -/
namespace Sys2Proof.Machine

def exec (i : Instr) (s : State) : Host.Outcome State Fault Refusal :=
  match i with
  | .addShort d a b => Sys2Proof.Machine.execAddShort d a b s
  | .subShort d a b => Sys2Proof.Machine.execSubShort d a b s
  | .andShort d a b => Sys2Proof.Machine.execAndShort d a b s
  | .orShort d a b => Sys2Proof.Machine.execOrShort d a b s
  | .xorShort d a b => Sys2Proof.Machine.execXorShort d a b s
  | .addiShort d a imm => Sys2Proof.Machine.execAddiShort d a imm s
  | .shliShort d a imm => Sys2Proof.Machine.execShliShort d a imm s
  | .shriShort d a imm => Sys2Proof.Machine.execShriShort d a imm s
  | .ldiShort d imm => Sys2Proof.Machine.execLdiShort d imm s
  | .movShort d a => Sys2Proof.Machine.execMovShort d a s
  | .sltShort d a b => Sys2Proof.Machine.execSltShort d a b s
  | .mulShort d a b => Sys2Proof.Machine.execMulShort d a b s
  | .ldDShort d a imm => Sys2Proof.Machine.execLdDShort d a imm s
  | .ldWShort d a imm => Sys2Proof.Machine.execLdWShort d a imm s
  | .stDShort d a imm => Sys2Proof.Machine.execStDShort d a imm s
  | .stWShort d a imm => Sys2Proof.Machine.execStWShort d a imm s
  | .leaShort d a imm => Sys2Proof.Machine.execLeaShort d a imm s
  | .brShort imm => Sys2Proof.Machine.execBrShort imm s
  | .beqShort d a imm => Sys2Proof.Machine.execBeqShort d a imm s
  | .bneShort d a imm => Sys2Proof.Machine.execBneShort d a imm s
  | .bzShort d imm => Sys2Proof.Machine.execBzShort d imm s
  | .bnzShort d imm => Sys2Proof.Machine.execBnzShort d imm s
  | .callShort imm => Sys2Proof.Machine.execCallShort imm s
  | .vaddF32Short d a b m => Sys2Proof.Machine.execVaddF32Short d a b m s
  | .vmulF32Short d a b m => Sys2Proof.Machine.execVmulF32Short d a b m s
  | .vfmaF32Short d a b m => Sys2Proof.Machine.execVfmaF32Short d a b m s
  | .vldF32Short d a imm m => Sys2Proof.Machine.execVldF32Short d a imm m s
  | .vstF32Short d a imm m => Sys2Proof.Machine.execVstF32Short d a imm m s
  | .sendReqShort d a b => Sys2Proof.Machine.execSendReqShort d a b s
  | .add d a b => Sys2Proof.Machine.execAdd d a b s
  | .sub d a b => Sys2Proof.Machine.execSub d a b s
  | .and d a b => Sys2Proof.Machine.execAnd d a b s
  | .or d a b => Sys2Proof.Machine.execOr d a b s
  | .xor d a b => Sys2Proof.Machine.execXor d a b s
  | .shl d a b => Sys2Proof.Machine.execShl d a b s
  | .shr d a b => Sys2Proof.Machine.execShr d a b s
  | .sar d a b => Sys2Proof.Machine.execSar d a b s
  | .mul d a b => Sys2Proof.Machine.execMul d a b s
  | .mulh d a b => Sys2Proof.Machine.execMulh d a b s
  | .mulhn d a b => Sys2Proof.Machine.execMulhn d a b s
  | .div d a b => Sys2Proof.Machine.execDiv d a b s
  | .divn d a b => Sys2Proof.Machine.execDivn d a b s
  | .rem d a b => Sys2Proof.Machine.execRem d a b s
  | .remn d a b => Sys2Proof.Machine.execRemn d a b s
  | .min d a b => Sys2Proof.Machine.execMin d a b s
  | .max d a b => Sys2Proof.Machine.execMax d a b s
  | .minn d a b => Sys2Proof.Machine.execMinn d a b s
  | .maxn d a b => Sys2Proof.Machine.execMaxn d a b s
  | .slt d a b => Sys2Proof.Machine.execSlt d a b s
  | .sltn d a b => Sys2Proof.Machine.execSltn d a b s
  | .seq d a b => Sys2Proof.Machine.execSeq d a b s
  | .sne d a b => Sys2Proof.Machine.execSne d a b s
  | .caddr d a b => Sys2Proof.Machine.execCaddr d a b s
  | .csplit d a => Sys2Proof.Machine.execCsplit d a s
  | .clz d a => Sys2Proof.Machine.execClz d a s
  | .ctz d a => Sys2Proof.Machine.execCtz d a s
  | .popc d a => Sys2Proof.Machine.execPopc d a s
  | .brev d a => Sys2Proof.Machine.execBrev d a s
  | .sext sz d a => Sys2Proof.Machine.execSext sz d a s
  | .zext sz d a => Sys2Proof.Machine.execZext sz d a s
  | .mov d a => Sys2Proof.Machine.execMov d a s
  | .addi d a imm => Sys2Proof.Machine.execAddi d a imm s
  | .andi d a imm => Sys2Proof.Machine.execAndi d a imm s
  | .ori d a imm => Sys2Proof.Machine.execOri d a imm s
  | .xori d a imm => Sys2Proof.Machine.execXori d a imm s
  | .shli d a imm => Sys2Proof.Machine.execShli d a imm s
  | .shri d a imm => Sys2Proof.Machine.execShri d a imm s
  | .sari d a imm => Sys2Proof.Machine.execSari d a imm s
  | .lea d a imm => Sys2Proof.Machine.execLea d a imm s
  | .ldi d imm => Sys2Proof.Machine.execLdi d imm s
  | .ldih d imm => Sys2Proof.Machine.execLdih d imm s
  | .br imm => Sys2Proof.Machine.execBr imm s
  | .call imm => Sys2Proof.Machine.execCall imm s
  | .beq d a imm => Sys2Proof.Machine.execBeq d a imm s
  | .bne d a imm => Sys2Proof.Machine.execBne d a imm s
  | .blt d a imm => Sys2Proof.Machine.execBlt d a imm s
  | .bge d a imm => Sys2Proof.Machine.execBge d a imm s
  | .bltn d a imm => Sys2Proof.Machine.execBltn d a imm s
  | .bgen d a imm => Sys2Proof.Machine.execBgen d a imm s
  | .bz d imm => Sys2Proof.Machine.execBz d imm s
  | .bnz d imm => Sys2Proof.Machine.execBnz d imm s
  | .jmpr a => Sys2Proof.Machine.execJmpr a s
  | .callr a => Sys2Proof.Machine.execCallr a s
  | .align imm => Sys2Proof.Machine.execAlign imm s
  | .dly imm => Sys2Proof.Machine.execDly imm s
  | .srr d imm => Sys2Proof.Machine.execSrr d imm s
  | .srw d imm => Sys2Proof.Machine.execSrw d imm s
  | .srset d imm => Sys2Proof.Machine.execSrset d imm s
  | .srclr d imm => Sys2Proof.Machine.execSrclr d imm s
  | .ctxsw a b => Sys2Proof.Machine.execCtxsw a b s
  | .trap imm => Sys2Proof.Machine.execTrap imm s
  | .brk imm => Sys2Proof.Machine.execBrk imm s
  | .ld sz d a imm => Sys2Proof.Machine.execLd sz d a imm s
  | .st sz d a imm => Sys2Proof.Machine.execSt sz d a imm s
  | .ldx sz d a b => Sys2Proof.Machine.execLdx sz d a b s
  | .stx sz d a b => Sys2Proof.Machine.execStx sz d a b s
  | .ldf sz d a => Sys2Proof.Machine.execLdf sz d a s
  | .ldfTagged sz a b => Sys2Proof.Machine.execLdfTagged sz a b s
  | .stf sz d a b => Sys2Proof.Machine.execStf sz d a b s
  | .pref d a imm => Sys2Proof.Machine.execPref d a imm s
  | .discard a b => Sys2Proof.Machine.execDiscard a b s
  | .fence c => Sys2Proof.Machine.execFence c s
  | .fenceAcq c => Sys2Proof.Machine.execFenceAcq c s
  | .fenceRel c => Sys2Proof.Machine.execFenceRel c s
  | .ldaq c sz d a => Sys2Proof.Machine.execLdaq c sz d a s
  | .strl c sz d a => Sys2Proof.Machine.execStrl c sz d a s
  | .atomAdd sz d a b => Sys2Proof.Machine.execAtomAdd sz d a b s
  | .atomAnd sz d a b => Sys2Proof.Machine.execAtomAnd sz d a b s
  | .atomOr sz d a b => Sys2Proof.Machine.execAtomOr sz d a b s
  | .atomXor sz d a b => Sys2Proof.Machine.execAtomXor sz d a b s
  | .atomMin sz d a b => Sys2Proof.Machine.execAtomMin sz d a b s
  | .atomMax sz d a b => Sys2Proof.Machine.execAtomMax sz d a b s
  | .atomMinn sz d a b => Sys2Proof.Machine.execAtomMinn sz d a b s
  | .atomMaxn sz d a b => Sys2Proof.Machine.execAtomMaxn sz d a b s
  | .atomSwap sz d a b => Sys2Proof.Machine.execAtomSwap sz d a b s
  | .cas sz d a b => Sys2Proof.Machine.execCas sz d a b s
  | .binc sz d a b => Sys2Proof.Machine.execBinc sz d a b s
  | .waita sz d a b => Sys2Proof.Machine.execWaita sz d a b s
  | .tlbinv a b => Sys2Proof.Machine.execTlbinv a b s
  | .pgq d a b => Sys2Proof.Machine.execPgq d a b s
  | .pgpin d a b => Sys2Proof.Machine.execPgpin d a b s
  | .vadd t d a b m => Sys2Proof.Machine.execVadd t d a b m s
  | .vsub t d a b m => Sys2Proof.Machine.execVsub t d a b m s
  | .vmul t d a b m => Sys2Proof.Machine.execVmul t d a b m s
  | .vdiv t d a b m => Sys2Proof.Machine.execVdiv t d a b m s
  | .vfma t d a b m => Sys2Proof.Machine.execVfma t d a b m s
  | .vfms t d a b m => Sys2Proof.Machine.execVfms t d a b m s
  | .vfnma t d a b m => Sys2Proof.Machine.execVfnma t d a b m s
  | .vmin t d a b m => Sys2Proof.Machine.execVmin t d a b m s
  | .vmax t d a b m => Sys2Proof.Machine.execVmax t d a b m s
  | .vabs t d a m => Sys2Proof.Machine.execVabs t d a m s
  | .vneg t d a m => Sys2Proof.Machine.execVneg t d a m s
  | .vrcp t d a m => Sys2Proof.Machine.execVrcp t d a m s
  | .vrsq t d a m => Sys2Proof.Machine.execVrsq t d a m s
  | .vexp2 t d a m => Sys2Proof.Machine.execVexp2 t d a m s
  | .vlog2 t d a m => Sys2Proof.Machine.execVlog2 t d a m s
  | .vand t d a b m => Sys2Proof.Machine.execVand t d a b m s
  | .vor t d a b m => Sys2Proof.Machine.execVor t d a b m s
  | .vxor t d a b m => Sys2Proof.Machine.execVxor t d a b m s
  | .vnot t d a m => Sys2Proof.Machine.execVnot t d a m s
  | .vshl t d a b m => Sys2Proof.Machine.execVshl t d a b m s
  | .vshr t d a b m => Sys2Proof.Machine.execVshr t d a b m s
  | .vsar t d a b m => Sys2Proof.Machine.execVsar t d a b m s
  | .vdot t d a b m => Sys2Proof.Machine.execVdot t d a b m s
  | .vsel t d a b m => Sys2Proof.Machine.execVsel t d a b m s
  | .vcmp c t d a b m => Sys2Proof.Machine.execVcmp c t d a b m s
  | .vred k t d a m => Sys2Proof.Machine.execVred k t d a m s
  | .vscan k t d a m => Sys2Proof.Machine.execVscan k t d a m s
  | .vcvt t ts d a m => Sys2Proof.Machine.execVcvt t ts d a m s
  | .vperm t d a b m => Sys2Proof.Machine.execVperm t d a b m s
  | .vbcast t d a m => Sys2Proof.Machine.execVbcast t d a m s
  | .vins t d a b => Sys2Proof.Machine.execVins t d a b s
  | .vext t d a b => Sys2Proof.Machine.execVext t d a b s
  | .vld t d a imm m => Sys2Proof.Machine.execVld t d a imm m s
  | .vst t d a imm m => Sys2Proof.Machine.execVst t d a imm m s
  | .vlds t d a b m => Sys2Proof.Machine.execVlds t d a b m s
  | .vsts t d a b m => Sys2Proof.Machine.execVsts t d a b m s
  | .vldx t d a b m => Sys2Proof.Machine.execVldx t d a b m s
  | .vstx t d a b m => Sys2Proof.Machine.execVstx t d a b m s
  | .vsxpack x t d a => Sys2Proof.Machine.execVsxpack x t d a s
  | .vsxunpack x t d a => Sys2Proof.Machine.execVsxunpack x t d a s
  | .mand d a b => Sys2Proof.Machine.execMand d a b s
  | .mor d a b => Sys2Proof.Machine.execMor d a b s
  | .mnot d a => Sys2Proof.Machine.execMnot d a s
  | .mpopc d a => Sys2Proof.Machine.execMpopc d a s
  | .mfirst d a => Sys2Proof.Machine.execMfirst d a s
  | .mset d a => Sys2Proof.Machine.execMset d a s
  | .vclaim d => Sys2Proof.Machine.execVclaim d s
  | .vyield d => Sys2Proof.Machine.execVyield d s
  | .vgive a b => Sys2Proof.Machine.execVgive a b s
  | .vtake d b => Sys2Proof.Machine.execVtake d b s
  | .vframes d => Sys2Proof.Machine.execVframes d s
  | .mma t d a b => Sys2Proof.Machine.execMma t d a b s
  | .mtsub d a => Sys2Proof.Machine.execMtsub d a s
  | .mgang d a b => Sys2Proof.Machine.execMgang d a b s
  | .mdrainHandle d a b => Sys2Proof.Machine.execMdrainHandle d a b s
  | .mdrainTicket d a b => Sys2Proof.Machine.execMdrainTicket d a b s
  | .mclrReserve d a => Sys2Proof.Machine.execMclrReserve d a s
  | .mclrRelease d a => Sys2Proof.Machine.execMclrRelease d a s
  | .mclrClear d a => Sys2Proof.Machine.execMclrClear d a s
  | .mclrTicket d a => Sys2Proof.Machine.execMclrTicket d a s
  | .mscl d a b => Sys2Proof.Machine.execMscl d a b s
  | .mstat d a b => Sys2Proof.Machine.execMstat d a b s
  | .mwait d a => Sys2Proof.Machine.execMwait d a s
  | .send c d a b => Sys2Proof.Machine.execSend c d a b s
  | .sendb d a b => Sys2Proof.Machine.execSendb d a b s
  | .mcast c d a b => Sys2Proof.Machine.execMcast c d a b s
  | .inbq d a => Sys2Proof.Machine.execInbq d a s
  | .bind d a b => Sys2Proof.Machine.execBind d a b s
  | .unbind d a => Sys2Proof.Machine.execUnbind d a s
  | .qtry d a => Sys2Proof.Machine.execQtry d a s
  | .qw d a => Sys2Proof.Machine.execQw d a s
  | .qr d a => Sys2Proof.Machine.execQr d a s
  | .fork d a b => Sys2Proof.Machine.execFork d a b s
  | .join d a => Sys2Proof.Machine.execJoin d a s
  | .joinCont d a b => Sys2Proof.Machine.execJoinCont d a b s
  | .klaunch d a => Sys2Proof.Machine.execKlaunch d a s
  | .kwait d a => Sys2Proof.Machine.execKwait d a s
  | .yield a b => Sys2Proof.Machine.execYield a b s
  | .gmake d a b => Sys2Proof.Machine.execGmake d a b s
  | .gdrop a => Sys2Proof.Machine.execGdrop a s
  | .ginfo d a b => Sys2Proof.Machine.execGinfo d a b s
  | .pair d a => Sys2Proof.Machine.execPair d a s
  | .bcfg d a b => Sys2Proof.Machine.execBcfg d a b s
  | .barr d a b => Sys2Proof.Machine.execBarr d a b s
  | .bwait d a b => Sys2Proof.Machine.execBwait d a b s
  | .barw d a b => Sys2Proof.Machine.execBarw d a b s
  | .bqry d a b => Sys2Proof.Machine.execBqry d a b s
  | .bleave d a => Sys2Proof.Machine.execBleave d a s
  | .cpy d a => Sys2Proof.Machine.execCpy d a s
  | .cpyf d a => Sys2Proof.Machine.execCpyf d a s
  | .gath d a => Sys2Proof.Machine.execGath d a s
  | .scat d a => Sys2Proof.Machine.execScat d a s
  | .strm d a => Sys2Proof.Machine.execStrm d a s
  | .strmx d a => Sys2Proof.Machine.execStrmx d a s
  | .cpyst d a b => Sys2Proof.Machine.execCpyst d a b s
  | .exroute d a b => Sys2Proof.Machine.execExroute d a b s
  | .exback d a b => Sys2Proof.Machine.execExback d a b s
  | .exgrow d a => Sys2Proof.Machine.execExgrow d a s
  | .exretire d a b => Sys2Proof.Machine.execExretire d a b s
  | .exjoin d a b => Sys2Proof.Machine.execExjoin d a b s
  | .exupd d a b => Sys2Proof.Machine.execExupd d a b s
  | .exstat d a b => Sys2Proof.Machine.execExstat d a b s
  | .hsift d a b => Sys2Proof.Machine.execHsift d a b s
  | .nnq d a => Sys2Proof.Machine.execNnq d a s
  | .nnres d a b => Sys2Proof.Machine.execNnres d a b s
  | .nncan d a => Sys2Proof.Machine.execNncan d a s
  | .nnload d a b => Sys2Proof.Machine.execNnload d a b s
  | .nnstat d a b => Sys2Proof.Machine.execNnstat d a b s
  | .reside d => Sys2Proof.Machine.execReside d s
  | .unreside d => Sys2Proof.Machine.execUnreside d s
  | .swapq d a => Sys2Proof.Machine.execSwapq d a s
  | .aredSum d a b => Sys2Proof.Machine.execAredSum d a b s
  | .aredMax d a b => Sys2Proof.Machine.execAredMax d a b s
  | .aredMin d a b => Sys2Proof.Machine.execAredMin d a b s
  | .agath d a b => Sys2Proof.Machine.execAgath d a b s
  | .retShort => Sys2Proof.Machine.execRetShort s
  | .doneShort => Sys2Proof.Machine.execDoneShort s
  | .ret => Sys2Proof.Machine.execRet s
  | .nop => Sys2Proof.Machine.execNop s
  | .tret => Sys2Proof.Machine.execTret s
  | .wfi => Sys2Proof.Machine.execWfi s
  | .halt => Sys2Proof.Machine.execHalt s
  | .ifence => Sys2Proof.Machine.execIfence s
  | .done => Sys2Proof.Machine.execDone s
  | .unpair => Sys2Proof.Machine.execUnpair s
  | .interruptEntry => Sys2Proof.Machine.execInterruptEntry s
  | .sliceExpiry => Sys2Proof.Machine.execSliceExpiry s
  | .fetchBlockArrival => Sys2Proof.Machine.execFetchBlockArrival s
  | .alignRelease => Sys2Proof.Machine.execAlignRelease s
  | .waitComplete => Sys2Proof.Machine.execWaitComplete s
  | .claimServed => Sys2Proof.Machine.execClaimServed s
  | .poolStall => Sys2Proof.Machine.execPoolStall s
  | .frameImageAck => Sys2Proof.Machine.execFrameImageAck s
  | .reloadServed => Sys2Proof.Machine.execReloadServed s
  | .vtakeTimeout => Sys2Proof.Machine.execVtakeTimeout s
  | .loadReply => Sys2Proof.Machine.execLoadReply s
  | .remoteAccessAtHome => Sys2Proof.Machine.execRemoteAccessAtHome s
  | .atomicAtHome => Sys2Proof.Machine.execAtomicAtHome s
  | .storeAck => Sys2Proof.Machine.execStoreAck s
  | .waitaWake => Sys2Proof.Machine.execWaitaWake s
  | .waitaPoll => Sys2Proof.Machine.execWaitaPoll s
  | .waitaTimeout => Sys2Proof.Machine.execWaitaTimeout s
  | .ratioChangeRequest => Sys2Proof.Machine.execRatioChangeRequest s
  | .stackRetrainStart => Sys2Proof.Machine.execStackRetrainStart s
  | .forcedRetrain => Sys2Proof.Machine.execForcedRetrain s
  | .stackRetrainComplete => Sys2Proof.Machine.execStackRetrainComplete s
  | .rowExchange => Sys2Proof.Machine.execRowExchange s
  | .rowExchangeComplete => Sys2Proof.Machine.execRowExchangeComplete s
  | .refreshIntervalEnd => Sys2Proof.Machine.execRefreshIntervalEnd s
  | .clockBeat => Sys2Proof.Machine.execClockBeat s
  | .beatArrival => Sys2Proof.Machine.execBeatArrival s
  | .crossDieWriteApply => Sys2Proof.Machine.execCrossDieWriteApply s
  | .rdcSweep => Sys2Proof.Machine.execRdcSweep s
  | .hostMemWrite => Sys2Proof.Machine.execHostMemWrite s
  | .hostMemRead => Sys2Proof.Machine.execHostMemRead s
  | .hostCacheSnoop => Sys2Proof.Machine.execHostCacheSnoop s
  | .hostDoorbell => Sys2Proof.Machine.execHostDoorbell s
  | .pageWalkComplete => Sys2Proof.Machine.execPageWalkComplete s
  | .keyWrite => Sys2Proof.Machine.execKeyWrite s
  | .contextAllocate => Sys2Proof.Machine.execContextAllocate s
  | .contextTeardown => Sys2Proof.Machine.execContextTeardown s
  | .saveComplete => Sys2Proof.Machine.execSaveComplete s
  | .restoreComplete => Sys2Proof.Machine.execRestoreComplete s
  | .messageArrival => Sys2Proof.Machine.execMessageArrival s
  | .attachmentComplete => Sys2Proof.Machine.execAttachmentComplete s
  | .mcastCopy => Sys2Proof.Machine.execMcastCopy s
  | .qbindWrite => Sys2Proof.Machine.execQbindWrite s
  | .portResult => Sys2Proof.Machine.execPortResult s
  | .graphAdmission => Sys2Proof.Machine.execGraphAdmission s
  | .nodeStart => Sys2Proof.Machine.execNodeStart s
  | .kernelRunning => Sys2Proof.Machine.execKernelRunning s
  | .nodeComplete => Sys2Proof.Machine.execNodeComplete s
  | .waitNodeSatisfied => Sys2Proof.Machine.execWaitNodeSatisfied s
  | .waitNodeTimeout => Sys2Proof.Machine.execWaitNodeTimeout s
  | .graphEnd => Sys2Proof.Machine.execGraphEnd s
  | .weightSwitchCopy => Sys2Proof.Machine.execWeightSwitchCopy s
  | .weightSwitchCommit => Sys2Proof.Machine.execWeightSwitchCommit s
  | .dequeSteal => Sys2Proof.Machine.execDequeSteal s
  | .joinContinuation => Sys2Proof.Machine.execJoinContinuation s
  | .barrierTimeout => Sys2Proof.Machine.execBarrierTimeout s
  | .mmaApply => Sys2Proof.Machine.execMmaApply s
  | .sharePlacement => Sys2Proof.Machine.execSharePlacement s
  | .shareAgeing => Sys2Proof.Machine.execShareAgeing s
  | .tileChunk => Sys2Proof.Machine.execTileChunk s
  | .drainComplete => Sys2Proof.Machine.execDrainComplete s
  | .shapeDecrementAtHome => Sys2Proof.Machine.execShapeDecrementAtHome s
  | .tileFaultTrap => Sys2Proof.Machine.execTileFaultTrap s
  | .copyBlockRead => Sys2Proof.Machine.execCopyBlockRead s
  | .copyPieceStart => Sys2Proof.Machine.execCopyPieceStart s
  | .copyComplete => Sys2Proof.Machine.execCopyComplete s
  | .completionQueueAppend => Sys2Proof.Machine.execCompletionQueueAppend s
  | .gatherRowAtOwner => Sys2Proof.Machine.execGatherRowAtOwner s
  | .streamStripFetch => Sys2Proof.Machine.execStreamStripFetch s
  | .excfgInstall => Sys2Proof.Machine.execExcfgInstall s
  | .excfgRemove => Sys2Proof.Machine.execExcfgRemove s
  | .directoryCopyUpdate => Sys2Proof.Machine.execDirectoryCopyUpdate s
  | .reservationAtPort => Sys2Proof.Machine.execReservationAtPort s
  | .expertRowPulled => Sys2Proof.Machine.execExpertRowPulled s
  | .accordEvaluation => Sys2Proof.Machine.execAccordEvaluation s
  | .replicaFillComplete => Sys2Proof.Machine.execReplicaFillComplete s
  | .handoverStart => Sys2Proof.Machine.execHandoverStart s
  | .handoverComplete => Sys2Proof.Machine.execHandoverComplete s
  | .queryVectorRead => Sys2Proof.Machine.execQueryVectorRead s
  | .querySchedule => Sys2Proof.Machine.execQuerySchedule s
  | .distanceBatch => Sys2Proof.Machine.execDistanceBatch s
  | .queryHop => Sys2Proof.Machine.execQueryHop s
  | .queryResume => Sys2Proof.Machine.execQueryResume s
  | .queryComplete => Sys2Proof.Machine.execQueryComplete s
  | .queryAgeing => Sys2Proof.Machine.execQueryAgeing s
  | .arbWindowClose => Sys2Proof.Machine.execArbWindowClose s
  | .attarStarvation => Sys2Proof.Machine.execAttarStarvation s
  | .swapInstant => Sys2Proof.Machine.execSwapInstant s
  | .swapSubround => Sys2Proof.Machine.execSwapSubround s
  | .swapExchangeComplete => Sys2Proof.Machine.execSwapExchangeComplete s
  | .forwardingEnd => Sys2Proof.Machine.execForwardingEnd s
  | .linkTrainingComplete => Sys2Proof.Machine.execLinkTrainingComplete s
  | .linkLaneLoss => Sys2Proof.Machine.execLinkLaneLoss s
  | .linkErrorThreshold => Sys2Proof.Machine.execLinkErrorThreshold s
  | .linkRetrainComplete => Sys2Proof.Machine.execLinkRetrainComplete s
  | .linkFlitArrival => Sys2Proof.Machine.execLinkFlitArrival s
  | .lctlEnWrite => Sys2Proof.Machine.execLctlEnWrite s
  | .lctlQrel => Sys2Proof.Machine.execLctlQrel s
  | .lctlRetrain => Sys2Proof.Machine.execLctlRetrain s
  | .twinWrite => Sys2Proof.Machine.execTwinWrite s
  | .dstatWfaultClear => Sys2Proof.Machine.execDstatWfaultClear s
  | .ptpSync => Sys2Proof.Machine.execPtpSync s
  | .collectiveContribution => Sys2Proof.Machine.execCollectiveContribution s
  | .collectiveResult => Sys2Proof.Machine.execCollectiveResult s
  | .collectiveTimeout => Sys2Proof.Machine.execCollectiveTimeout s
  | .powerOnReset => Sys2Proof.Machine.execPowerOnReset s
  | .coldStart => Sys2Proof.Machine.execColdStart s
  | .warmStart => Sys2Proof.Machine.execWarmStart s
  | .drydownReplan => Sys2Proof.Machine.execDrydownReplan s
  | .debugHaltRequest => Sys2Proof.Machine.execDebugHaltRequest s
  | .debugResume => Sys2Proof.Machine.execDebugResume s
  | .debugStep => Sys2Proof.Machine.execDebugStep s
  | .debugClrdly => Sys2Proof.Machine.execDebugClrdly s
  | .debugDataWrite => Sys2Proof.Machine.execDebugDataWrite s
  | .logControlWrite => Sys2Proof.Machine.execLogControlWrite s
  | .replayStall => Sys2Proof.Machine.execReplayStall s
  | .delukIdentity => Sys2Proof.Machine.execDelukIdentity s
  | .delukStatus => Sys2Proof.Machine.execDelukStatus s
  | .delukNotices => Sys2Proof.Machine.execDelukNotices s
  | .delukDebug => Sys2Proof.Machine.execDelukDebug s
  | .delukFirmware => Sys2Proof.Machine.execDelukFirmware s
  | .delukPower => Sys2Proof.Machine.execDelukPower s
  | .delukReset => Sys2Proof.Machine.execDelukReset s
  | .registerWrite => Sys2Proof.Machine.execRegisterWrite s
  | .spillBufferWrite => Sys2Proof.Machine.execSpillBufferWrite s
  | .backInvalidateResponse => Sys2Proof.Machine.execBackInvalidateResponse s

end Sys2Proof.Machine
end

