-- ==== Sys2Proof/Machine/Turn.lean ====
section
/-! DEFINITION. What one step does: the core in focus has its turn, or an event stands (log 5). The checks before an
instruction and what follows it are those of Issue.lean; the order in which cores and events take turns is Schedule.lean's. -/
namespace Sys2Proof.Machine

/-- An event with its numbers; the numbers stand in the State only while the event runs. -/
def runEvent (e : Happening) (s : State) : Host.Outcome State Fault Refusal :=
  match exec e.1 { s with arg := e.2 } with
  | .next t => .next { t with arg := s.arg }
  | o => o

/-- The first of the events that changes the device; none when no event does. -/
def firstEvent (s : State) : List Happening → Option (Host.Outcome State Fault Refusal)
  | [] => none
  | e :: l => match runEvent e s with
    | .next t => if t = s then firstEvent s l else some (.next t)
    | o => some o

/-- Up to `n` events, one after another, until none changes the device. -/
def settleEvents : Nat → State → Host.Outcome State Fault Refusal
  | 0, s => .next s
  | n + 1, s => match firstEvent s (fairEvents s) with
    | some (.next t) => settleEvents n t
    | some o => o
    | none => .next s

/-- The device's turn once 64 cycles have passed: eight events for every 64 cycles, if they can happen, and the next core. -/
def breathe (before s : State) : Host.Outcome State Fault Refusal :=
  match settleEvents (8 * (s.cycle / 64 - before.cycle / 64)) s with
  | .next t => .next (rotate t)
  | o => o

/-- The instruction that `prepare` gives runs; the turn passes on when the core has stopped, and the device gets its own when
64 cycles have passed. -/
def issueTurn (s : State) : Host.Outcome State Fault Refusal :=
  match prepare s with
  | .ends t => let u := closeTurn t; .next (if u.core.run = .running then u else rotate u)
  | .runs b u i => match exec i u with
    | .next v =>
      let t := afterExec b u v i
      if t.core.run ≠ .running then .next (rotate t)
      else if breathes s t then breathe s t else .next t
    | o => o

/-- A turn for an event: the first that changes the device, and a cycle passes. -/
def eventTurn (s : State) (otherwise : State → Host.Outcome State Fault Refusal) : Host.Outcome State Fault Refusal :=
  match firstEvent s (fairEvents s) with
  | some (.next t) => .next (passTime t 1)
  | some o => o
  | none => otherwise s

/-- The turn of the core in focus. -/
def turn (s : State) : Host.Outcome State Fault Refusal :=
  match turning s with
  | .took t => .next t
  | .issues t => issueTurn t
  | .events t => eventTurn t (fun u => .next (pause u))
  | .eventsFirst t => eventTurn t issueTurn

/-- What the schedule's next entry says; without one the core in focus has its turn. -/
def scheduled (s : State) : Host.Outcome State Fault Refusal :=
  match s.agenda with
  | [] => turn s
  | .pass k :: l => .next (passTime { s with agenda := l } k)
  | .run n :: l => if n < nCores then turn (focus { s with agenda := l } n) else .fault (.noSuchCore n)
  | .event i a :: l => if isEvent i then runEvent (i, a) { s with agenda := l } else .next { s with agenda := l }

end Sys2Proof.Machine
end

