-- ==== Sys2Proof/Machine/Step.lean ====
section
/-! DEFINITION. The machine's one step, and the placing of a word for it to fetch. -/
namespace Sys2Proof.Machine

/-- One step: a core's turn (one instruction, trap, interrupt or wait) or one event of the device. -/
def step (s : State) : Host.Outcome State Fault Refusal := scheduled s

/-- The state with an instruction stored where the next step fetches it. -/
def State.withFetchWord (s : State) (nbits w : Nat) : State := placeWord s nbits w

end Sys2Proof.Machine
end

