-- ==== Sys2Proof/Safety.lean ====
section
/-! DEFINITION. The words claims are stated in: what a run may not do, what an instruction leaves alone, and the conditions
on a state under which it completes. -/
namespace Sys2Proof.Machine

/-! ### Safe steps -/

/-- The step answers a next state: no fault and no refusal. -/
def StepSafe (s : State) : Prop := ∃ t, step s = .next t

/-- The next entry of the model's schedule names a core the chip holds (log 5). -/
def AgendaOk (s : State) : Prop := ∀ n l, s.agenda = .run n :: l → n < nCores

/-! ### What stays as it was -/

/-- Every scalar register but those listed is unchanged. -/
def KeepsX (s t : State) (ds : List Reg) : Prop := ∀ r, r ∉ ds → t.x r = s.x r

/-- Every vector register but those listed is unchanged. -/
def KeepsV (s t : State) (ds : List Reg) : Prop := ∀ r, r ∉ ds → t.v r = s.v r

/-- Every byte of memory is unchanged. -/
def KeepsBytes (s t : State) : Prop := ∀ a, mget t.mem a = mget s.mem a

/-- Every byte of memory outside the `n` bytes from key `k` is unchanged. -/
def KeepsBytesBut (s t : State) (k n : Nat) : Prop := ∀ a, a < k ∨ k + n ≤ a → mget t.mem a = mget s.mem a

/-- The window registers of a core: position in the ring, resident and spilled windows, WSP and WLIMIT. -/
def KeepsWindow (s t : State) : Prop :=
  t.core.sc.base = s.core.sc.base ∧ t.core.sc.res = s.core.sc.res ∧ t.core.sc.spilled = s.core.sc.spilled ∧
  t.core.sc.wsp = s.core.sc.wsp ∧ t.core.sc.wlimit = s.core.sc.wlimit

/-- Messages and queues, notices and slices, translations, release marks, handles and collectives, and the resident task of
the core. -/
def KeepsUnitsOfCore (s t : State) : Prop :=
  t.core.num = s.core.num ∧ t.core.pos = s.core.pos ∧ t.core.mail = s.core.mail ∧ t.core.ev = s.core.ev ∧
  t.core.tlb = s.core.tlb ∧ t.core.marks = s.core.marks ∧ t.core.tagged = s.core.tagged ∧
  t.core.handles = s.core.handles ∧ t.core.collCount = s.core.collCount ∧ t.core.collOpen = s.core.collOpen ∧
  t.core.task = s.core.task ∧ t.core.dly = s.core.dly

/-- Every other core, packets on their way, the memory units, the engines and what stands outside the cores. -/
def KeepsDevice (s t : State) : Prop :=
  t.others = s.others ∧ t.net = s.net ∧ t.mu = s.mu ∧ t.un = s.un ∧ t.out = s.out ∧ t.cycle = s.cycle

/-- The frame of an instruction that writes scalar registers `ds` and nothing else. -/
structure KeepsAllBut (s t : State) (ds : List Reg) : Prop where
  scalars : KeepsX s t ds
  vectors : KeepsV s t []
  system : t.core.sys = s.core.sys
  window : KeepsWindow s t
  units : KeepsUnitsOfCore s t
  bytes : KeepsBytes s t
  device : KeepsDevice s t

/-! ### Conditions on a state -/

/-- No result of fixed latency is on its way to a scalar register. -/
def NoPendX (s : State) (r : Reg) : Prop := ∀ p ∈ s.core.pend, p.same (.x r 0 0) = false

/-- No result of fixed latency is on its way to a vector register. -/
def NoPendV (s : State) (r : Reg) : Prop := ∀ p ∈ s.core.pend, p.same (.v r 0 0) = false

/-- The core is a member of no live checked pair (12_group R298). -/
def Unpaired (s : State) : Prop := partnerOf s s.core.num = none

/-- The window counts of a core stay in the ranges of 04_core R85 and R88. -/
structure WindowOk (c : Scalars) : Prop where
  base : c.base < 136
  resident : 1 ≤ c.res ∧ c.res ≤ 8
  pointer : c.wsp.toNat ≤ 0x10000 ∧ c.wsp.toNat % 128 = 0

/-- An entry or a call fits: it spills nothing, or its spill stays at or above WLIMIT.LIMIT (R85, 09_context R231). -/
def SpillFits (c : Scalars) : Prop := c.res = 8 → limitOf c + 128 ≤ c.wsp.toNat

/-- What opening a window does to the scalar registers (04_core R84, R85): the globals stand, the outs become the ins, x16
to x31 are zero; one more window is resident, or the oldest of eight is stored below WSP. `back` is what x31 was given. -/
structure WindowOpened (s t : State) : Prop where
  globals : ∀ r : Reg, r.toNat < 8 → t.x r = s.x r
  ins : ∀ r : Reg, 8 ≤ r.toNat → r.toNat < 16 → t.x r = s.x (r + 16)
  upper : ∀ r : Reg, 16 ≤ r.toNat → t.x r = 0
  resident : t.core.sc.res = if s.core.sc.res = 8 then 8 else s.core.sc.res + 1
  spilled : t.core.sc.spilled = if s.core.sc.res = 8 then s.core.sc.spilled + 1 else s.core.sc.spilled
  pointer : t.core.sc.wsp.toNat = if s.core.sc.res = 8 then s.core.sc.wsp.toNat - 128 else s.core.sc.wsp.toNat
  limit : t.core.sc.wlimit = s.core.sc.wlimit

/-- The 128 bytes below WSP hold x8 to x23 of the oldest of eight windows: seven windows back in the ring (R85). -/
def OldestStored (s t : State) : Prop :=
  ∀ k, k < 16 → wordOf (mread t.mem (localKey s.core.num (s.core.sc.wsp.toNat - 128 + 8 * k)) 8) =
    tgetD s.core.sc.ring ((s.core.sc.base + 24 + k) % 136) 0

/-- The debug window of the core records no branches (25_life R448). -/
def NoTrace (s : State) : Prop := (getDbg s s.core.pos).trcEn = false

/-- The value of scalar register `r` in the cycle `n`, when the results due by then have landed (03_encoding R60). -/
def xAt (s : State) (n : Nat) (r : Reg) : W64 := (landDue { s with cycle := n }).x r

/-- The value of vector register `r` in the cycle `n`. -/
def vAt (s : State) (n : Nat) (r : Reg) : W512 := (landDue { s with cycle := n }).v r

/-! ### Accesses of the own local memory (06_memory R144, R157, R158) -/

/-- The key of the byte that an address in the window of the own local memory names (R144). -/
def ownKey (s : State) (ea : W64) : Nat := localKey s.core.num (ea.toNat % 2 ^ 16)

/-- An aligned access of `n` bytes at an address in the window of the own local memory (R144, R157), with no watchpoint set
(25_life R447). -/
structure OwnAccess (s : State) (ea : W64) (n : Nat) : Prop where
  window : ea.toNat / 2 ^ 62 = 2
  number : ea.toNat / 2 ^ 37 % 2 ^ 25 = s.core.num
  upper : ea.toNat / 2 ^ 16 % 2 ^ 21 = 0
  aligned : ea.toNat % n = 0
  unwatched : (getDbg s s.core.pos).wpc = []

/-- The bytes of an access can be read now: their line is not poisoned, no write of another die that the home has received waits
for it (07_ordering R177), no store of the core to them is on its way (R176), and the context's state on this core is not listed as
saved elsewhere (09_context R242). -/
structure OwnReadable (s : State) (ea : W64) (n : Nat) : Prop where
  clean : isPoisoned s (lineKeyOf (ownKey s ea)) = false
  heard : lateWrite s (dieOf s.core.pos) (lineKeyOf (ownKey s ea)) = false
  settled : overlapsOwn s (ownKey s ea) n = false
  here : tget s.mu.away (ctxNum s.core * 8192 + s.core.num) = none

/-- Bytes of the own local memory can be written now: no access of the core that is still on its way writes their locations (R158,
R176), and no write of another die that the home has received waits for their line (07_ordering R177). -/
structure OwnWritable (s : State) (ea : W64) (n : Nat) : Prop where
  ahead : ownAhead s (ownKey s ea) n = false
  heard : lateWrite s (dieOf s.core.pos) (lineKeyOf (ownKey s ea)) = false

/-- Nothing of the core is on its way: no result, no store, no release that still holds later stores, no failed store. -/
structure Settled (s : State) : Prop where
  results : s.core.pend = []
  stores : unacked s s.core.num = []
  marks : s.core.marks = []
  peer : s.core.peerWindow = none
  failed : s.core.ev.ferr = none
  awake : s.core.wait = none
  unpaired : Unpaired s

/-- A core that may send one more access: no release holds it, fewer than 256 stores and 64 tagged loads are on their way
(R158, R161), no MCAST of its own is unfinished. -/
structure CanSend (s : State) : Prop where
  marks : s.core.marks = []
  room : (unacked s s.core.num).length < 256
  tagged : s.core.tagged < 64
  mcast : s.core.mail.mcast = []
  unpaired : Unpaired s
  number : s.core.num < nCores

/-- What an access leaves alone: every scalar register but `ds`, vector and system registers, windows, the core's units, every
byte but `n` from key `k`, other cores, packets, what stands outside, and the engines, which only mark JOINs whose counter
has come to zero (11_kernel R292). -/
structure AccessFrame (s t : State) (ds : List Reg) (k n : Nat) : Prop where
  scalars : KeepsX s t ds
  vectors : KeepsV s t []
  system : t.core.sys = s.core.sys
  window : KeepsWindow s t
  units : KeepsUnitsOfCore s t
  bytes : KeepsBytesBut s t k n
  elsewhere : t.others = s.others ∧ t.net = s.net ∧ (∃ j, t.un = { s.un with joins := j }) ∧ t.out = s.out ∧
    t.cycle = s.cycle

/-! ### Vector registers (05_vector R106, R107) -/

/-- A vector register that keeps what is written to it: of slot 0, or of a mapped slot (R107). -/
def Holds (s : State) (r : Reg) : Prop := slotOf r = 0 ∨ ∃ f, s.core.vec.slot (slotOf r) = .mapped f

/-- Registers of two slots that are mapped to one frame: no step gives a frame to two slots, but a State can hold this. -/
def SameFrame (s : State) (q r : Reg) : Prop :=
  slotOf q ≠ slotOf r ∧ q.toNat % 8 = r.toNat % 8 ∧
    ∃ f, s.core.vec.slot (slotOf q) = .mapped f ∧ s.core.vec.slot (slotOf r) = .mapped f

/-- No result of fixed latency is on its way to a vector register or to another one in the same frame. -/
def QuietV (s : State) (r : Reg) : Prop := ∀ q, q = r ∨ SameFrame s q r → NoPendV s q

/-- In the cycle `n` the vector register `d` holds elements `f i` of `w` bits, or reads as zero when it keeps nothing
(R106, R107). -/
def GivesV (s t : State) (n : Nat) (d : Reg) (w : Nat) (f : Nat → Nat) : Prop :=
  (Holds s d → ∀ i, i < 512 / w → elem (vAt t n d) w i = f i) ∧ (¬ Holds s d → vAt t n d = 0)

/-- The element of a result under a mask (R57, R58, R109): the new one where it is on or the mode is agnostic, otherwise the
old one. -/
def underMask (s : State) (m : Msk) (w : Nat) (d : Reg) (f : Nat → Nat) (i : Nat) : Nat :=
  if mskOn s m w i || m.ag then f i else elem (s.v d) w i

/-- The frame of a vector instruction: scalar registers but `xs`, every vector register but those `ds` and what shares a frame
with them, every system register but FFLAGS, which loses no flag, windows, units, memory and device. -/
structure VectorFrame (s t : State) (xs ds : List Reg) : Prop where
  scalars : KeepsX s t xs
  vectors : ∀ r, (∀ d ∈ ds, r ≠ d ∧ ¬ SameFrame s r d) → t.v r = s.v r
  system : ∃ w, t.core.sys = { s.core.sys with fflags := s.core.sys.fflags ||| w }
  window : KeepsWindow s t
  units : KeepsUnitsOfCore s t
  bytes : KeepsBytes s t
  device : t.others = s.others ∧ t.net = s.net ∧ t.mu = s.mu ∧ t.out = s.out ∧ t.cycle = s.cycle ∧
    ∃ f, t.un = { s.un with frames := f }

end Sys2Proof.Machine
end

