-- ==== Sys2Proof/Certificates/Slice0/Obligations.lean ====
section
/-! DEFINITION. What is claimed of the machine, in the words of the spec's rules. -/
namespace Sys2Proof.Machine

/-! ### Scalar arithmetic (04_core R90 to R99) -/

/-- The first bit that is one among 64, or 64. -/
def firstOne (bit : Nat → Bool) : Nat := ((List.range 64).find? bit).getD 64

/-- LEA's sum: within the 16-bit offset of a local memory, the 22-bit offset of a scratchpad, or over all 64 bits (R97). -/
def addWithinWindow (t imm : W64) : W64 :=
  let n := t.toNat
  let sum := n + imm.toNat
  if n / 2 ^ 62 = 2 then BitVec.ofNat 64 (n / 2 ^ 16 * 2 ^ 16 + sum % 2 ^ 16)
  else if n / 2 ^ 62 = 1 then BitVec.ofNat 64 (n / 2 ^ 22 * 2 ^ 22 + sum % 2 ^ 22)
  else BitVec.ofNat 64 sum

/-- The result of a scalar instruction of one cycle as R91 and R94 to R99 state it: destination and value. -/
def scalarOneCycle (s : State) : Instr → Option (Reg × W64)
  | .add d a b => some (d, BitVec.ofNat 64 ((s.x a).toNat + (s.x b).toNat))
  | .addShort d a b => some (d, BitVec.ofNat 64 ((s.x a).toNat + (s.x b).toNat))
  | .sub d a b => some (d, BitVec.ofInt 64 ((s.x a).toInt - (s.x b).toInt))
  | .subShort d a b => some (d, BitVec.ofInt 64 ((s.x a).toInt - (s.x b).toInt))
  | .and d a b => some (d, s.x a &&& s.x b)
  | .andShort d a b => some (d, s.x a &&& s.x b)
  | .or d a b => some (d, s.x a ||| s.x b)
  | .orShort d a b => some (d, s.x a ||| s.x b)
  | .xor d a b => some (d, s.x a ^^^ s.x b)
  | .xorShort d a b => some (d, s.x a ^^^ s.x b)
  | .shl d a b => some (d, BitVec.ofNat 64 ((s.x a).toNat * 2 ^ ((s.x b).toNat % 64)))
  | .shr d a b => some (d, BitVec.ofNat 64 ((s.x a).toNat / 2 ^ ((s.x b).toNat % 64)))
  | .sar d a b => some (d, BitVec.ofInt 64 ((s.x a).toInt / 2 ^ ((s.x b).toNat % 64)))
  | .min d a b => some (d, if (s.x a).toInt ≤ (s.x b).toInt then s.x a else s.x b)
  | .max d a b => some (d, if (s.x a).toInt ≤ (s.x b).toInt then s.x b else s.x a)
  | .minn d a b => some (d, if (s.x a).toNat ≤ (s.x b).toNat then s.x a else s.x b)
  | .maxn d a b => some (d, if (s.x a).toNat ≤ (s.x b).toNat then s.x b else s.x a)
  | .slt d a b => some (d, if (s.x a).toInt < (s.x b).toInt then 1 else 0)
  | .sltShort d a b => some (d, if (s.x a).toInt < (s.x b).toInt then 1 else 0)
  | .sltn d a b => some (d, if (s.x a).toNat < (s.x b).toNat then 1 else 0)
  | .seq d a b => some (d, if s.x a = s.x b then 1 else 0)
  | .sne d a b => some (d, if s.x a = s.x b then 0 else 1)
  | .caddr d a b => some (d, BitVec.ofNat 64 (2 ^ 63 + (s.x a).toNat % 2 ^ 25 * 2 ^ 37 + (s.x b).toNat % 2 ^ 16))
  | .csplit d a => some (d,
      if (s.x a).toNat / 2 ^ 62 = 2 then BitVec.ofNat 64 ((s.x a).toNat / 2 ^ 37 % 2 ^ 25)
      else if (s.x a).toNat / 2 ^ 62 = 1 then BitVec.ofNat 64 (2 ^ 62 + (s.x a).toNat / 2 ^ 43 % 2 ^ 19)
      else BitVec.allOnes 64)
  | .clz d a => some (d, BitVec.ofNat 64 (firstOne (fun i => (s.x a).getMsbD i)))
  | .ctz d a => some (d, BitVec.ofNat 64 (firstOne (fun i => (s.x a).getLsbD i)))
  | .popc d a => some (d, BitVec.ofNat 64 ((List.range 64).countP (fun i => (s.x a).getLsbD i)))
  | .brev d a => some (d, (s.x a).reverse)
  | .sext .b d a => some (d, ((s.x a).extractLsb' 0 8).signExtend 64)
  | .sext .h d a => some (d, ((s.x a).extractLsb' 0 16).signExtend 64)
  | .sext .w d a => some (d, ((s.x a).extractLsb' 0 32).signExtend 64)
  | .zext .b d a => some (d, ((s.x a).extractLsb' 0 8).zeroExtend 64)
  | .zext .h d a => some (d, ((s.x a).extractLsb' 0 16).zeroExtend 64)
  | .zext .w d a => some (d, ((s.x a).extractLsb' 0 32).zeroExtend 64)
  | .mov d a => some (d, s.x a)
  | .movShort d a => some (d, s.x a)
  | .addi d a imm => some (d, BitVec.ofNat 64 ((s.x a).toNat + imm.toNat))
  | .addiShort d a imm => some (d, BitVec.ofNat 64 ((s.x a).toNat + imm.toNat))
  | .andi d a imm => some (d, s.x a &&& imm)
  | .ori d a imm => some (d, s.x a ||| imm)
  | .xori d a imm => some (d, s.x a ^^^ imm)
  | .shli d a imm => some (d, BitVec.ofNat 64 ((s.x a).toNat * 2 ^ imm.toNat))
  | .shliShort d a imm => some (d, BitVec.ofNat 64 ((s.x a).toNat * 2 ^ imm.toNat))
  | .shri d a imm => some (d, BitVec.ofNat 64 ((s.x a).toNat / 2 ^ imm.toNat))
  | .shriShort d a imm => some (d, BitVec.ofNat 64 ((s.x a).toNat / 2 ^ imm.toNat))
  | .sari d a imm => some (d, BitVec.ofInt 64 ((s.x a).toInt / 2 ^ imm.toNat))
  | .lea d a imm => some (d, addWithinWindow (s.x a) imm)
  | .leaShort d a imm => some (d, addWithinWindow (s.x a) imm)
  | .ldi d imm => some (d, imm)
  | .ldiShort d imm => some (d, imm)
  | .ldih d imm => some (d, BitVec.ofNat 64 (imm.toNat % 2 ^ 32 * 2 ^ 32 + (s.x d).toNat % 2 ^ 32))
  | _ => none

/-- The result of a multiplication as R92 states it. -/
def product (s : State) : Instr → Option (Reg × W64)
  | .mul d a b => some (d, BitVec.ofNat 64 ((s.x a).toNat * (s.x b).toNat))
  | .mulShort d a b => some (d, BitVec.ofNat 64 ((s.x a).toNat * (s.x b).toNat))
  | .mulh d a b => some (d, BitVec.ofInt 64 ((s.x a).toInt * (s.x b).toInt / 2 ^ 64))
  | .mulhn d a b => some (d, BitVec.ofNat 64 ((s.x a).toNat * (s.x b).toNat / 2 ^ 64))
  | _ => none

/-- The result of a division as R93 states it, its three cases in the rule's order. -/
def quotient (s : State) : Instr → Option (Reg × W64)
  | .div d a b => some (d,
      if s.x b = 0 then 0xFFFFFFFFFFFFFFFF#64
      else if s.x a = 0x8000000000000000#64 ∧ s.x b = 0xFFFFFFFFFFFFFFFF#64 then 0x8000000000000000#64
      else BitVec.ofInt 64 ((s.x a).toInt.tdiv (s.x b).toInt))
  | .divn d a b => some (d,
      if s.x b = 0 then 0xFFFFFFFFFFFFFFFF#64 else BitVec.ofNat 64 ((s.x a).toNat / (s.x b).toNat))
  | .rem d a b => some (d,
      if s.x b = 0 then s.x a
      else if s.x a = 0x8000000000000000#64 ∧ s.x b = 0xFFFFFFFFFFFFFFFF#64 then 0
      else BitVec.ofInt 64 ((s.x a).toInt - (s.x a).toInt.tdiv (s.x b).toInt * (s.x b).toInt))
  | .remn d a b => some (d,
      if s.x b = 0 then s.x a
      else BitVec.ofNat 64 ((s.x a).toNat - (s.x a).toNat / (s.x b).toNat * (s.x b).toNat))
  | _ => none

/-! ### Branches and jumps (04_core R100, R101) -/

/-- Whether a conditional branch is taken, and its offset in halfwords (R100). -/
def takenBranch (s : State) : Instr → Option (Bool × W64)
  | .beq d a imm => some (decide (s.x d = s.x a), imm)
  | .beqShort d a imm => some (decide (s.x d = s.x a), imm)
  | .bne d a imm => some (decide (s.x d ≠ s.x a), imm)
  | .bneShort d a imm => some (decide (s.x d ≠ s.x a), imm)
  | .blt d a imm => some (decide ((s.x d).toInt < (s.x a).toInt), imm)
  | .bge d a imm => some (decide ((s.x a).toInt ≤ (s.x d).toInt), imm)
  | .bltn d a imm => some (decide ((s.x d).toNat < (s.x a).toNat), imm)
  | .bgen d a imm => some (decide ((s.x a).toNat ≤ (s.x d).toNat), imm)
  | .bz d imm => some (decide (s.x d = 0), imm)
  | .bzShort d imm => some (decide (s.x d = 0), imm)
  | .bnz d imm => some (decide (s.x d ≠ 0), imm)
  | .bnzShort d imm => some (decide (s.x d ≠ 0), imm)
  | .br imm => some (true, imm)
  | .brShort imm => some (true, imm)
  | _ => none

/-- What a branch leaves alone: every register, and, where no branch is recorded (25_life R448), every byte of memory and
the rest of the device. -/
structure BranchFrame (s t : State) : Prop where
  scalars : KeepsX s t []
  vectors : KeepsV s t []
  system : t.core.sys = s.core.sys
  window : KeepsWindow s t
  units : KeepsUnitsOfCore s t
  others : t.others = s.others ∧ t.net = s.net ∧ t.un = s.un ∧ t.cycle = s.cycle
  untraced : NoTrace s → KeepsBytes s t ∧ KeepsDevice s t

/-! ### Calls (04_core R84, R85, R102) -/

/-- The target of a call (R102). -/
def callTarget (s : State) : Instr → Option W64
  | .call imm => some (s.core.pc + 2 * imm)
  | .callShort imm => some (s.core.pc + 2 * imm)
  | .callr a => some ((landAll s).x a)
  | _ => none

/-! ### System registers (09_context R225, R226, R247) -/

/-- The registers that are plain words, with the bits a write stores (R225 and the chapters it names). -/
def plainReg : Nat → Option W64
  | 0x001 => some (BitVec.allOnes 64)
  | 0x002 => some 0xFF
  | 0x003 => some (BitVec.allOnes 64)
  | 0x004 => some (BitVec.allOnes 64)
  | 0x005 => some (BitVec.allOnes 64)
  | 0x030 => some 0x1F
  | 0x031 => some 0x3
  | 0x032 => some 0xFF
  | 0x051 => some 0xFFFFFFFF
  | 0x090 => some 0xFFFFFFFF
  | 0x101 => some (BitVec.allOnes 64)
  | 0x102 => some 0x1FF
  | 0x104 => some (BitVec.allOnes 64)
  | 0x105 => some (BitVec.allOnes 64)
  | 0x107 => some 0xF
  | _ => none

/-- What SRW, SRSET and SRCLR form from the old value and a register (R247). -/
def formedWord (s : State) (n : Nat) : Instr → Option W64
  | .srw d _ => some (s.x d)
  | .srset d _ => some (sysGet s n ||| s.x d)
  | .srclr d _ => some (sysGet s n &&& ~~~ s.x d)
  | _ => none

/-- The state an access to a system register acts in: every result has landed before one of FFLAGS, FRM and FP4X (R62). -/
def atSysAccess (s : State) (n : Nat) : State := if n ∈ [0x30, 0x31, 0x32] then landAll s else s

/-- An old word with the bits of a mask taken from another. -/
def mixed (old new mask : W64) : W64 := (old &&& ~~~ mask) ||| (new &&& mask)

/-- An offset in units of 128 bytes as a write stores it: at most 0x10000, which is 512 units (R88). -/
def storedUnits (k : Nat) : Nat := min k 512

/-- What a register reads as after a permitted write of the word `w` (R88, R225, R226, R227, R229, R238, R268; 16_copy R356; 22_resident
R418); none of a register that has no writable field. What MONINFO stores is the model's choice (log 55). -/
def writtenWord (s : State) (n : Nat) (w : W64) : Option W64 :=
  match n with
  | 0x000 => some (mixed s.core.sys.status w 0xCE30)
  | 0x006 => some (if modeOf s.core = 1 ∧ 2 ≤ w.toNat % 4 then mixed (s.core.sys.slink &&& 0x3) w 0xC else w &&& 0xF)
  | 0x012 => some (mixed s.core.sys.asid w 0xFFFF)
  | 0x013 =>
    let ceil := if modeOf s.core = 2 then w.toNat / 2 ^ 8 % 2 ^ 6 else s.core.sys.prio.toNat / 2 ^ 8 % 2 ^ 6
    some (BitVec.ofNat 64 (min (w.toNat % 2 ^ 6) ceil + ceil * 2 ^ 8))
  | 0x040 => some (BitVec.ofNat 64 (storedUnits (w.toNat / 2 ^ 7 % 2 ^ 10) * 2 ^ 7))
  | 0x041 => some (BitVec.ofNat 64 (storedUnits (w.toNat / 2 ^ 7 % 2 ^ 10) * 2 ^ 7 + storedUnits (w.toNat / 2 ^ 39 % 2 ^ 10) * 2 ^ 39))
  | 0x070 => some (sysGet s n)
  | 0x071 => some (BitVec.ofNat 64 (s.core.mail.cpyq.length * 2 ^ 40 + w.toNat % 2 ^ 32))
  | 0x080 => some (BitVec.ofNat 64 (s.core.ev.sliceRem.toNat * 2 ^ 32 + w.toNat % 2 ^ 32))
  | 0x081 => some (mixed (sysGet s n) w 0xFFFFFFFF)
  | 0x103 => some (if s.core.sys.monwhy.toNat % 2 ^ 8 = 0x84 then s.core.sys.moninfo else w)
  | 0x106 => some (w &&& 0xFFFFFFFFFC000#64)
  | k =>
    if 0x060 ≤ k ∧ k ≤ 0x067 then
      let kind := w.toNat % 2 ^ 4
      let unit := w.toNat / 2 ^ 16 % 2 ^ 16
      some (if kind = 0 ∨ (kind ∈ [1, 2, 4] ∧ unit = 0) ∨ (kind = 3 ∧ unit < 12) ∨ (kind = 5 ∧ unit < 4096) then
        BitVec.ofNat 64 (unit * 2 ^ 16 + kind) else sysGet s k)
    else if 0x0C0 ≤ k ∧ k ≤ 0x0C7 then some (w &&& 0x81FFFFFFFFFFFFFF#64)
    else if 0x0C8 ≤ k ∧ k ≤ 0x0CF then some (sysGet s k)
    else (plainReg k).map (w &&& ·)

/-- What a write of system register `n` leaves alone beside the other system registers: scalar and vector registers, the windows but
WSP and WLIMIT, the units of the core but what the register shows of them, memory and the rest of the device. -/
structure SysFrame (s t : State) (n : Nat) : Prop where
  scalars : KeepsX s t []
  vectors : KeepsV s t []
  window : n ≠ 0x040 → n ≠ 0x041 → KeepsWindow s t
  queues : ∀ k, n ≠ 0x060 + k → getQ t.core k = getQ s.core k
  mail : ¬ (0x060 ≤ n ∧ n ≤ 0x067) → t.core.mail = s.core.mail
  events : n ≠ 0x080 → n ≠ 0x081 → t.core.ev = s.core.ev
  task : ¬ (0x0C0 ≤ n ∧ n ≤ 0x0C7) → t.core.task = s.core.task
  core : t.core.num = s.core.num ∧ t.core.pos = s.core.pos ∧ t.core.tlb = s.core.tlb ∧ t.core.marks = s.core.marks ∧
    t.core.handles = s.core.handles
  memory : n ≠ 0x106 → t.mu = s.mu
  bytes : KeepsBytes s t
  device : t.others = s.others ∧ t.net = s.net ∧ t.un = s.un ∧ t.out = s.out ∧ t.cycle = s.cycle

/-- The register number of a system-register instruction. -/
def sysNumber : Instr → Option Nat
  | .srr _ imm => some imm.toNat
  | .srw _ imm => some imm.toNat
  | .srset _ imm => some imm.toNat
  | .srclr _ imm => some imm.toNat
  | _ => none

/-! ### Exceptions (09_context R230 to R232, R248) -/

/-- STATUS of an entry into the system bank: MODE system, SBANK set, SYSINT clear, every other bit kept (R231). -/
def statusInSystem (w : W64) : W64 := (w &&& ~~~ 0x4403#64) ||| 0x4001#64

/-- STATUS of an entry into the monitor bank: MODE monitor, MBANK set, MONINT clear, every other bit kept (R231). -/
def statusInMonitor (w : W64) : W64 := (w &&& ~~~ 0x8803#64) ||| 0x8002#64

/-- Where a handler stands: BASE, or BASE + 32 x cause with bits 12:1 of BASE taken as zero (R231, R232). -/
def handlerAt (vec : W64) (cause : Nat) : W64 :=
  if vec.toNat % 2 = 1 then BitVec.ofNat 64 (vec.toNat / 2 ^ 13 * 2 ^ 13 + 32 * cause)
  else vec

/-- What an entry into the system bank leaves (R231). -/
structure InSystem (s t : State) (cause : Nat) (value epc : W64) : Prop where
  epc : t.core.sys.epc = epc
  code : t.core.sys.cause.toNat = cause
  value : t.core.sys.tval = value
  link : t.core.sys.slink.toNat = s.core.sys.status.toNat % 4 + 4 * (s.core.sys.status.toNat / 2 ^ 10 % 2)
  status : t.core.sys.status = statusInSystem s.core.sys.status
  pc : t.core.pc = handlerAt s.core.sys.tvec cause
  runs : t.core.run = .running ∧ t.core.wait = none
  fetch : t.core.fbuf = none ∧ t.core.rreg = none
  monitor : t.core.sys.monpc = s.core.sys.monpc ∧ t.core.sys.monwhy = s.core.sys.monwhy ∧
    t.core.sys.moninfo = s.core.sys.moninfo ∧ t.core.sys.monlink = s.core.sys.monlink
  window : WindowOpened (landAll s) t

/-- What an entry into the monitor bank leaves (R231). -/
structure InMonitor (s t : State) (cause : Nat) (dbl : Bool) (value epc : W64) : Prop where
  epc : t.core.sys.monpc = epc
  code : t.core.sys.monwhy.toNat = cause + 256 * (if dbl then 1 else 0)
  value : t.core.sys.moninfo = value
  link : t.core.sys.monlink.toNat = s.core.sys.status.toNat % 4 + 4 * (s.core.sys.status.toNat / 2 ^ 11 % 2)
  status : t.core.sys.status = statusInMonitor s.core.sys.status
  pc : t.core.pc = handlerAt s.core.sys.monentry cause
  runs : t.core.run = .running ∧ t.core.wait = none
  fetch : t.core.fbuf = none ∧ t.core.rreg = none
  system : t.core.sys.epc = s.core.sys.epc ∧ t.core.sys.cause = s.core.sys.cause ∧
    t.core.sys.tval = s.core.sys.tval ∧ t.core.sys.slink = s.core.sys.slink
  window : WindowOpened (landAll s) t

/-- A state in which an instruction is at the point of completing or trapping by itself: it does not wait, its core is not idle
and in no checked pair, and its window counts are in range. -/
structure Plain (s : State) : Prop where
  awake : s.core.wait = none
  busy : s.core.run ≠ .idle
  unpaired : Unpaired s
  window : WindowOk s.core.sc

/-- What a TRET returns by: the link register and the saved pc of the bank of its mode, and the bits of STATUS that hold the gate and
the bank (R226, R248). -/
def ReturnsFrom (s : State) (link epc : W64) (gate bank : Nat) : Prop :=
  (modeOf s.core = 1 ∧ link = s.core.sys.slink ∧ epc = s.core.sys.epc ∧ gate = 10 ∧ bank = 14) ∨
  (modeOf s.core = 2 ∧ link = s.core.sys.monlink ∧ epc = s.core.sys.monpc ∧ gate = 11 ∧ bank = 15)

/-- There is a window to move back to: a resident one, or one stored at WSP of which no line is poisoned (R85, R86). -/
def WindowBelow (s : State) : Prop :=
  1 < s.core.sc.res ∨ (s.core.sc.res = 1 ∧ 0 < s.core.sc.spilled ∧ s.core.sc.wsp.toNat < 0x10000 ∧
    ∀ k, k < 128 → isPoisoned s (lineKeyOf (localKey s.core.num (s.core.sc.wsp.toNat + k))) = false)

/-- The window has moved back (R84, R85): the ins are the caller's outs; the caller's ins and locals are those it left in the ring, or
with one resident window those stored at WSP, which rises by 128. -/
structure WindowClosed (s t : State) : Prop where
  outs : ∀ r : Reg, 24 ≤ r.toNat → t.x r = (landAll s).x (r - 16)
  resident : t.core.sc.res = if 1 < s.core.sc.res then s.core.sc.res - 1 else 1
  spilled : t.core.sc.spilled = if 1 < s.core.sc.res then s.core.sc.spilled else s.core.sc.spilled - 1
  pointer : t.core.sc.wsp.toNat = if 1 < s.core.sc.res then s.core.sc.wsp.toNat else s.core.sc.wsp.toNat + 128
  inner : ∀ r : Reg, 8 ≤ r.toNat → r.toNat < 24 → t.x r =
    if 1 < s.core.sc.res then tgetD (landAll s).core.sc.ring ((s.core.sc.base + 120 + (r.toNat - 8)) % 136) 0
    else wordOf (mread s.mem (localKey s.core.num (s.core.sc.wsp.toNat + 8 * (r.toNat - 8))) 8)

/-- The instructions that raise a cause with a code, and the cause (R249). -/
def softwareTrap : Instr → Option (Nat × W64)
  | .trap imm => some (0x0E, imm)
  | .brk imm => some (0x0D, imm)
  | _ => none

/-- Instructions that are privileged as a whole, with the lowest mode that may execute them (03_encoding R56). -/
def privilegedIn : Instr → Option Nat
  | .tret => some 1
  | .tlbinv _ _ => some 1
  | .pgq _ _ _ => some 1
  | .pgpin _ _ _ => some 1
  | .nnload _ _ _ => some 1
  | .halt => some 2
  | .ctxsw _ _ => some 2
  | _ => none

/-! ### Loads, stores and atomics (06_memory R157 to R166; 07_ordering R203 to R205) -/

/-- The loads with a fixed latency in the own local memory: destination, address and bytes (R160). -/
def plainLoad (s : State) : Instr → Option (Reg × W64 × Nat)
  | .ld z d a imm => some (d, leaAdd (s.x a) imm, szBytes z)
  | .ldx z d a b => some (d, leaAdd (s.x a) (s.x b), szBytes z)
  | .ldDShort d a imm => some (d, leaAdd (s.x a) imm, 8)
  | .ldWShort d a imm => some (d, leaAdd (s.x a) imm, 4)
  | _ => none

/-- The interlocked loads: destination, address and bytes (R161, R204). -/
def heldLoad (s : State) : Instr → Option (Reg × W64 × Nat)
  | .ldf z d a => some (d, s.x a, szBytes z)
  | .ldaq _ z d a => some (d, s.x a, szBytes z)
  | _ => none

/-- The scalar stores: address, bytes and value (R160). -/
def plainStore (s : State) : Instr → Option (W64 × Nat × W64)
  | .st z d a imm => some (leaAdd (s.x a) imm, szBytes z, s.x d)
  | .stx z d a b => some (leaAdd (s.x a) (s.x b), szBytes z, s.x d)
  | .stDShort d a imm => some (leaAdd (s.x a) imm, 8, s.x d)
  | .stWShort d a imm => some (leaAdd (s.x a) imm, 4, s.x d)
  | _ => none

/-- The atomics: operation, destination (which holds CAS's expected value), address, bytes and operand (R163 to R165). -/
def atomicOf (s : State) : Instr → Option (AOp × Reg × W64 × Nat × W64)
  | .atomAdd z d a b => some (.add, d, s.x a, wdBytes z, s.x b)
  | .atomAnd z d a b => some (.and, d, s.x a, wdBytes z, s.x b)
  | .atomOr z d a b => some (.or, d, s.x a, wdBytes z, s.x b)
  | .atomXor z d a b => some (.xor, d, s.x a, wdBytes z, s.x b)
  | .atomMin z d a b => some (.min, d, s.x a, wdBytes z, s.x b)
  | .atomMax z d a b => some (.max, d, s.x a, wdBytes z, s.x b)
  | .atomMinn z d a b => some (.minn, d, s.x a, wdBytes z, s.x b)
  | .atomMaxn z d a b => some (.maxn, d, s.x a, wdBytes z, s.x b)
  | .atomSwap z d a b => some (.swap, d, s.x a, wdBytes z, s.x b)
  | .cas z d a b => some (.cas, d, s.x a, wdBytes z, s.x b)
  | .binc z d a b => some (.binc, d, s.x a, wdBytes z, s.x b)
  | _ => none

/-- The word an atomic stores, of an old word, CAS's expected value and the operand, all taken to the word's width
(R163 to R165). -/
def atomicWord {w : Nat} (op : AOp) (old expect arg : BitVec w) : BitVec w :=
  match op with
  | .add => old + arg
  | .and => old &&& arg
  | .or => old ||| arg
  | .xor => old ^^^ arg
  | .min => if old.toInt ≤ arg.toInt then old else arg
  | .max => if old.toInt ≤ arg.toInt then arg else old
  | .minn => if old.toNat ≤ arg.toNat then old else arg
  | .maxn => if old.toNat ≤ arg.toNat then arg else old
  | .swap => arg
  | .cas => if old = expect then arg else old
  | .binc => if old.toNat < arg.toNat then old + 1 else old

/-- What leaves for the network from an access whose address lies in the own local memory: far accesses and posted atomics
(R161, R162). -/
def sentAccess (s : State) : Instr → Option (W64 × Nat × Body)
  | .stf z d a b =>
    let cells := cellsAt (ownKey s (s.x a)) (bytesOf (s.x d).toNat (szBytes z))
    some (s.x a, szBytes z, if b = 0 then .store (.loc s.core.num) cells
      else .farStore (.loc s.core.num) cells ((s.x b).extractLsb' 0 16))
  | .ldfTagged z a b =>
    some (s.x a, szBytes z, .farLoad (.loc s.core.num) (ownKey s (s.x a)) (szBytes z) ((s.x b).extractLsb' 0 16))
  | i => match atomicOf s i with
    | some (op, d, ea, n, arg) =>
      if d = 0 then some (ea, n, .atomic (.loc s.core.num) (ownKey s ea) n op 0 arg) else none
    | none => none

/-- Every scalar access: address and bytes (R157). -/
def scalarAccess (s : State) (i : Instr) : Option (W64 × Nat) :=
  match plainLoad s i, heldLoad s i, plainStore s i, atomicOf s i, i with
  | some l, _, _, _, _ => some (l.2.1, l.2.2)
  | _, some l, _, _, _ => some (l.2.1, l.2.2)
  | _, _, some l, _, _ => some (l.1, l.2.1)
  | _, _, _, some l, _ => some (l.2.2.1, l.2.2.2.1)
  | _, _, _, _, .stf z _ a _ => some (s.x a, szBytes z)
  | _, _, _, _, .ldfTagged z a _ => some (s.x a, szBytes z)
  | _, _, _, _, .waita z _ a _ => some (s.x a, wdBytes z)
  | _, _, _, _, .strl _ z _ a => some (s.x a, szBytes z)
  | _, _, _, _, _ => none

/-- The state in which the flit of a blocking far load is counted toward the core itself while its task is movable (R161; 22_resident
R418). -/
def countedFar (s : State) : Instr → State
  | .ldf _ _ _ => countFlits s s.core.num 1
  | _ => s

/-- The release counter of the die of the core in focus (07_ordering R177). -/
def releaseCount (s : State) : BitVec 32 := (getDie s (dieOf s.core.pos)).vc.get (dieOf s.core.pos)

/-! ### Vector arithmetic (05_vector R106 to R109, R123 to R138) -/

/-- An element as a number: signed under an I type (R106, R124). -/
def laneInt (t : ETy) (k : Nat) : Int := if t.isI then (BitVec.ofNat (tyWidth t) k).toInt else (k : Int)

/-- A number modulo 2^w (R109). -/
def wrapTo (w : Nat) (z : Int) : Nat := (z % 2 ^ w).toNat

/-- Element functions of the integer and bitwise instructions of R124: type, destination, mask and f(i). VSAR of an unsigned
type shifts in zeros (the model's reading: log 14). -/
def integerLane (s : State) : Instr → Option (ETy × Reg × Msk × (Nat → Nat))
  | .vadd t d a b m => some (t, d, m, fun i => wrapTo (tyWidth t) (laneInt t (elem (s.v a) (tyWidth t) i) + laneInt t (elem (s.v b) (tyWidth t) i)))
  | .vsub t d a b m => some (t, d, m, fun i => wrapTo (tyWidth t) (laneInt t (elem (s.v a) (tyWidth t) i) - laneInt t (elem (s.v b) (tyWidth t) i)))
  | .vmul t d a b m => some (t, d, m, fun i => wrapTo (tyWidth t) (laneInt t (elem (s.v a) (tyWidth t) i) * laneInt t (elem (s.v b) (tyWidth t) i)))
  | .vmin t d a b m => some (t, d, m, fun i =>
      if laneInt t (elem (s.v a) (tyWidth t) i) ≤ laneInt t (elem (s.v b) (tyWidth t) i) then elem (s.v a) (tyWidth t) i
      else elem (s.v b) (tyWidth t) i)
  | .vmax t d a b m => some (t, d, m, fun i =>
      if laneInt t (elem (s.v a) (tyWidth t) i) ≤ laneInt t (elem (s.v b) (tyWidth t) i) then elem (s.v b) (tyWidth t) i
      else elem (s.v a) (tyWidth t) i)
  | .vabs t d a m => if t.isI then some (t, d, m, fun i => wrapTo (tyWidth t) (laneInt t (elem (s.v a) (tyWidth t) i)).natAbs) else none
  | .vneg t d a m => if t.isI then some (t, d, m, fun i => wrapTo (tyWidth t) (- laneInt t (elem (s.v a) (tyWidth t) i))) else none
  | .vand t d a b m => some (t, d, m, fun i => elem (s.v a) (tyWidth t) i &&& elem (s.v b) (tyWidth t) i)
  | .vor t d a b m => some (t, d, m, fun i => elem (s.v a) (tyWidth t) i ||| elem (s.v b) (tyWidth t) i)
  | .vxor t d a b m => some (t, d, m, fun i => elem (s.v a) (tyWidth t) i ^^^ elem (s.v b) (tyWidth t) i)
  | .vnot t d a m => some (t, d, m, fun i => 2 ^ tyWidth t - 1 - elem (s.v a) (tyWidth t) i)
  | .vshl t d a b m => some (t, d, m, fun i => elem (s.v a) (tyWidth t) i * 2 ^ (elem (s.v b) (tyWidth t) i % tyWidth t) % 2 ^ tyWidth t)
  | .vshr t d a b m => some (t, d, m, fun i => elem (s.v a) (tyWidth t) i / 2 ^ (elem (s.v b) (tyWidth t) i % tyWidth t))
  | .vsar t d a b m => some (t, d, m, fun i => wrapTo (tyWidth t) (laneInt t (elem (s.v a) (tyWidth t) i) / 2 ^ (elem (s.v b) (tyWidth t) i % tyWidth t)))
  | _ => none

/-- A condition of VCMP on two elements of an integer type (R127). -/
def integerCond (c : Cond) (x y : Int) : Bool :=
  match c with
  | .eq => decide (x = y)
  | .ne => decide (x ≠ y)
  | .lt => decide (x < y)
  | .le => decide (x ≤ y)

/-- The mask instructions that write a vector register, with the 64 bits they write (R138). -/
def maskResult (s : State) : Instr → Option (Reg × W64)
  | .mand d a b => some (d, (s.v a).setWidth 64 &&& (s.v b).setWidth 64)
  | .mor d a b => some (d, (s.v a).setWidth 64 ||| (s.v b).setWidth 64)
  | .mnot d a => some (d, ~~~ (s.v a).setWidth 64)
  | .mset d a => some (d, BitVec.ofNat 64 (2 ^ (min 64 (s.x a).toNat) - 1))
  | _ => none

/-- The mask instructions that write a scalar register (R138). -/
def maskCount (s : State) : Instr → Option (Reg × W64)
  | .mpopc d a => some (d, BitVec.ofNat 64 ((List.range 64).countP (fun i => (s.v a).getLsbD i)))
  | .mfirst d a => some (d, BitVec.ofNat 64 (firstOne (fun i => (s.v a).getLsbD i)))
  | _ => none

/-- Element functions of VPERM, VBCAST and VINS: type, destination, mask and f(i) (R132). -/
def moveLane (s : State) : Instr → Option (ETy × Reg × Msk × (Nat → Nat))
  | .vperm t d a b m => some (t, d, m, fun i => elem (s.v a) (tyWidth t) (elem (s.v b) (tyWidth t) i % (512 / tyWidth t)))
  | .vbcast t d a m => some (t, d, m, fun _ => (s.x a).toNat % 2 ^ tyWidth t)
  | .vins t d a b => some (t, d, Msk.none, fun i =>
      if i = (s.x b).toNat % (512 / tyWidth t) then (s.x a).toNat % 2 ^ tyWidth t else elem (s.v d) (tyWidth t) i)
  | _ => none

/-- A NaN code of a floating-point type (R25, R26). -/
def nanCode (t : ETy) (k : Nat) : Bool :=
  match t with
  | .f32 => decide (k / 2 ^ 23 % 2 ^ 8 = 255) && decide (k % 2 ^ 23 ≠ 0)
  | .f16 => decide (k / 2 ^ 10 % 2 ^ 5 = 31) && decide (k % 2 ^ 10 ≠ 0)
  | .bf16 => decide (k / 2 ^ 7 % 2 ^ 8 = 255) && decide (k % 2 ^ 7 ≠ 0)
  | .e5m2 => decide (k / 2 ^ 2 % 2 ^ 5 = 31) && decide (k % 2 ^ 2 ≠ 0)
  | .e4m3 => decide (k % 2 ^ 7 = 127)
  | _ => false

/-- The canonical NaN of a floating-point type (R25). -/
def canonicalNaN : ETy → Nat
  | .f32 => 0x7FC00000
  | .f16 => 0x7E00
  | .bf16 => 0x7FC0
  | .e5m2 => 0x7E
  | .e4m3 => 0x7F
  | _ => 0

/-- Floating-point operations that return a NaN for any NaN operand (R36, R124, R125): type, destination, mask and the
operands. -/
def floatOperands : Instr → Option (ETy × Reg × Msk × List Reg)
  | .vadd t d a b m => some (t, d, m, [a, b])
  | .vsub t d a b m => some (t, d, m, [a, b])
  | .vmul t d a b m => some (t, d, m, [a, b])
  | .vdiv t d a b m => some (t, d, m, [a, b])
  | .vfma t d a b m => some (t, d, m, [a, b, d])
  | .vfms t d a b m => some (t, d, m, [a, b, d])
  | .vfnma t d a b m => some (t, d, m, [a, b, d])
  | .vabs t d a m => some (t, d, m, [a])
  | .vneg t d a m => some (t, d, m, [a])
  | .vrcp t d a m => some (t, d, m, [a])
  | .vrsq t d a m => some (t, d, m, [a])
  | .vexp2 t d a m => some (t, d, m, [a])
  | .vlog2 t d a m => some (t, d, m, [a])
  | .vaddF32Short d a b m => some (.f32, d, m, [a, b])
  | .vmulF32Short d a b m => some (.f32, d, m, [a, b])
  | .vfmaF32Short d a b m => some (.f32, d, m, [a, b, d])
  | _ => none

/-- The exact sum of two finite values: a sum of exact zero is +0, or -0 under RDN, and zeros of one sign keep it (R125). -/
def exactSum (mode : RM) (x y : Dy) : Dy :=
  let e := min x.e y.e
  let scaled (z : Dy) : Int := (if z.neg then -1 else 1) * ((z.m * 2 ^ (z.e - e).toNat : Nat) : Int)
  let v := scaled x + scaled y
  if v ≠ 0 then ⟨decide (v < 0), v.natAbs, e⟩
  else ⟨if x.m = 0 ∧ y.m = 0 ∧ x.neg = y.neg then x.neg else mode == .rdn, 0, 0⟩

/-- A sum with its invalid-operation flag: a NaN operand, and infinities of unlike sign, give the canonical NaN; NV is set for a
signalling NaN and for the infinities (R36). -/
def exactAdd (mode : RM) : FV → FV → FV × Flags
  | .nan p, .nan q => (.nan false, if p = true ∨ q = true then fNV else 0)
  | .nan p, .inf _ => (.nan false, if p then fNV else 0)
  | .nan p, .fin _ => (.nan false, if p then fNV else 0)
  | .inf _, .nan q => (.nan false, if q then fNV else 0)
  | .fin _, .nan q => (.nan false, if q then fNV else 0)
  | .inf p, .inf q => if p = q then (.inf p, 0) else (.nan false, fNV)
  | .inf p, .fin _ => (.inf p, 0)
  | .fin _, .inf q => (.inf q, 0)
  | .fin x, .fin y => (.fin (exactSum mode x y), 0)

/-- A product with its invalid-operation flag: 0 times infinity gives the canonical NaN with NV (R36). -/
def exactMul : FV → FV → FV × Flags
  | .nan p, .nan q => (.nan false, if p = true ∨ q = true then fNV else 0)
  | .nan p, .inf _ => (.nan false, if p then fNV else 0)
  | .nan p, .fin _ => (.nan false, if p then fNV else 0)
  | .inf _, .nan q => (.nan false, if q then fNV else 0)
  | .fin _, .nan q => (.nan false, if q then fNV else 0)
  | .inf p, .inf q => (.inf (p != q), 0)
  | .inf p, .fin y => if y.m = 0 then (.nan false, fNV) else (.inf (p != y.neg), 0)
  | .fin x, .inf q => if x.m = 0 then (.nan false, fNV) else (.inf (x.neg != q), 0)
  | .fin x, .fin y => (.fin ⟨x.neg != y.neg, x.m * y.m, x.e + y.e⟩, 0)

/-- A value with its sign turned. -/
def turned : FV → FV
  | .fin x => .fin ⟨!x.neg, x.m, x.e⟩
  | .inf p => .inf (!p)
  | .nan q => .nan q

/-- An exact value rounded once into a type, with every flag (R35). -/
def roundedTo (ty : ETy) (mode : RM) (r : FV × Flags) : Nat × Flags :=
  ((rnd ty r.1 mode).1, r.2 ||| (rnd ty r.1 mode).2)

/-- The value element `k` of a vector register denotes (R25, R26). -/
def laneValue (s : State) (ty : ETy) (r : Reg) (k : Nat) : FV := dec ty (elem (s.v r) (tyWidth ty) k) 0

/-- A product and an addend added exactly (R125). -/
def exactFused (mode : RM) (x y z : FV) : FV × Flags :=
  ((exactAdd mode (exactMul x y).1 z).1, (exactMul x y).2 ||| (exactAdd mode (exactMul x y).1 z).2)

/-- The floating-point sums and products of R124 and R125: type, destination, mask, latency and element function, each element
rounded once by FRM with its flags. -/
def floatLane (s : State) : Instr → Option (ETy × Reg × Msk × Nat × (Nat → Nat × Flags))
  | .vadd t d a b m => some (t, d, m, 2, fun k => roundedTo t (frm s) (exactAdd (frm s) (laneValue s t a k) (laneValue s t b k)))
  | .vsub t d a b m => some (t, d, m, 2, fun k =>
      roundedTo t (frm s) (exactAdd (frm s) (laneValue s t a k) (turned (laneValue s t b k))))
  | .vmul t d a b m => some (t, d, m, 4, fun k => roundedTo t (frm s) (exactMul (laneValue s t a k) (laneValue s t b k)))
  | .vfma t d a b m => some (t, d, m, 4, fun k =>
      roundedTo t (frm s) (exactFused (frm s) (laneValue s t a k) (laneValue s t b k) (laneValue s t d k)))
  | .vfms t d a b m => some (t, d, m, 4, fun k =>
      roundedTo t (frm s) (exactFused (frm s) (laneValue s t a k) (laneValue s t b k) (turned (laneValue s t d k))))
  | .vfnma t d a b m => some (t, d, m, 4, fun k =>
      roundedTo t (frm s) (exactFused (frm s) (turned (laneValue s t a k)) (laneValue s t b k) (laneValue s t d k)))
  | .vaddF32Short d a b m => some (.f32, d, m, 2, fun k =>
      roundedTo .f32 (frm s) (exactAdd (frm s) (laneValue s .f32 a k) (laneValue s .f32 b k)))
  | .vmulF32Short d a b m => some (.f32, d, m, 4, fun k =>
      roundedTo .f32 (frm s) (exactMul (laneValue s .f32 a k) (laneValue s .f32 b k)))
  | .vfmaF32Short d a b m => some (.f32, d, m, 4, fun k =>
      roundedTo .f32 (frm s) (exactFused (frm s) (laneValue s .f32 a k) (laneValue s .f32 b k) (laneValue s .f32 d k)))
  | _ => none

/-- The flags of the on elements together (R34). -/
def onFlags (s : State) (m : Msk) (w n : Nat) (f : Nat → Nat × Flags) : Flags :=
  (List.range n).foldl (fun acc k => if mskOn s m w k then acc ||| (f k).2 else acc) 0

/-- One combination of a floating-point sum: rounded by FRM, with the flags of both operands and its own (R38). -/
def sumStep (ty : ETy) (mode : RM) (x y : Nat × Flags) : Nat × Flags :=
  let r := roundedTo ty mode (exactAdd mode (dec ty x.1 0) (dec ty y.1 0))
  (r.1, x.2 ||| y.2 ||| r.2)

/-- The aligned tree of 2^h leaves from lane `i`, the lower lane first (R38). -/
def laneTree (op : Nat × Flags → Nat × Flags → Nat × Flags) (leaf : Nat → Nat) : Nat → Nat → Nat × Flags
  | 0, i => (leaf i, 0)
  | h + 1, i => op (laneTree op leaf h i) (laneTree op leaf h (i + 2 ^ h))

/-- The trees of the lanes from `i` on, largest first, combined after `acc`: 2^h and smaller sizes where `len` has their bit (R39). -/
def laneTrees (op : Nat × Flags → Nat × Flags → Nat × Flags) (leaf : Nat → Nat) (len : Nat) :
    Nat → Nat → Option (Nat × Flags) → Option (Nat × Flags)
  | 0, _, acc => acc
  | h + 1, i, acc =>
    if len / 2 ^ h % 2 = 1 then
      laneTrees op leaf len h (i + 2 ^ h) (match acc with
        | none => some (laneTree op leaf h i)
        | some x => some (op x (laneTree op leaf h i)))
    else laneTrees op leaf len h i acc

/-- The leaves of a floating-point sum: a masked-off element enters as -0 (R38). -/
def sumLeaf (s : State) (ty : ETy) (a : Reg) (m : Msk) (k : Nat) : Nat :=
  if mskOn s m (tyWidth ty) k then elem (s.v a) (tyWidth ty) k else 2 ^ (tyWidth ty - 1)

/-- The levels of the tree: 4 or 5 for 32- and 16-bit elements (R38). -/
def treeLevels (ty : ETy) : Nat := if tyWidth ty = 32 then 4 else 5

/-- Every vector instruction between registers: its destination, and the scalar registers it writes. -/
def vectorResult : Instr → Option (List Reg × List Reg)
  | .vadd _ d _ _ _ => some ([d], [])
  | .vsub _ d _ _ _ => some ([d], [])
  | .vmul _ d _ _ _ => some ([d], [])
  | .vdiv _ d _ _ _ => some ([d], [])
  | .vfma _ d _ _ _ => some ([d], [])
  | .vfms _ d _ _ _ => some ([d], [])
  | .vfnma _ d _ _ _ => some ([d], [])
  | .vmin _ d _ _ _ => some ([d], [])
  | .vmax _ d _ _ _ => some ([d], [])
  | .vabs _ d _ _ => some ([d], [])
  | .vneg _ d _ _ => some ([d], [])
  | .vrcp _ d _ _ => some ([d], [])
  | .vrsq _ d _ _ => some ([d], [])
  | .vexp2 _ d _ _ => some ([d], [])
  | .vlog2 _ d _ _ => some ([d], [])
  | .vdot _ d _ _ _ => some ([d], [])
  | .vsel _ d _ _ _ => some ([d], [])
  | .vcmp _ _ d _ _ _ => some ([d], [])
  | .vred _ _ d _ _ => some ([d], [])
  | .vscan _ _ d _ _ => some ([d], [])
  | .vcvt _ _ d _ _ => some ([d], [])
  | .vsxpack _ _ d _ => some ([d], [])
  | .vsxunpack _ _ d _ => some ([d], [])
  | .vaddF32Short d _ _ _ => some ([d], [])
  | .vmulF32Short d _ _ _ => some ([d], [])
  | .vfmaF32Short d _ _ _ => some ([d], [])
  | _ => none

/-! ### Vector loads and stores (05_vector R133, R134) -/

/-- Vector loads: type, destination, mask, and the address of each unit; VLD counts 64-byte units (R133, R134). -/
def vectorLoad (s : State) : Instr → Option (ETy × Reg × Msk × (Nat → W64))
  | .vld t d a imm m => some (t, d, m, unitAt (leaAdd (s.x a) (imm * 64)) t)
  | .vldF32Short d a imm m => some (.f32, d, m, unitAt (leaAdd (s.x a) (imm * 64)) .f32)
  | .vlds t d a b m => some (t, d, m, strideAt (s.x a) (s.x b))
  | .vldx t d a b m => some (t, d, m, indexAt (s.x a) (s.v b) t)
  | _ => none

/-- Vector stores: type, source, mask, and the address of each unit. -/
def vectorStore (s : State) : Instr → Option (ETy × Reg × Msk × (Nat → W64))
  | .vst t d a imm m => some (t, d, m, unitAt (leaAdd (s.x a) (imm * 64)) t)
  | .vstF32Short d a imm m => some (.f32, d, m, unitAt (leaAdd (s.x a) (imm * 64)) .f32)
  | .vsts t d a b m => some (t, d, m, strideAt (s.x a) (s.x b))
  | .vstx t d a b m => some (t, d, m, indexAt (s.x a) (s.v b) t)
  | _ => none

/-- Unit `i` of an access is masked on. -/
def UnitOn (s : State) (t : ETy) (m : Msk) (i : Nat) : Prop := i < 64 / unitBytes t ∧ mskOn s m 8 i = true

/-! ### The units of a core (10_queue to 14_tile, 16_copy, 17_expert, 20_query, 22_resident, 23_link) -/

/-- What an instruction of a unit leaves alone in its core: scalar registers but `ds`, vector registers, every system
register, the windows; and every byte of memory. -/
structure UnitFrame (s t : State) (ds : List Reg) : Prop where
  scalars : KeepsX s t ds
  vectors : KeepsV s t []
  system : t.core.sys = s.core.sys
  window : KeepsWindow s t
  bytes : KeepsBytes s t

/-- What TLBINV, PGQ and PGPIN leave alone in their core, while the memory is as the reads of their walk leave it: what L2 writes back to
make room stands beneath it (06_memory R150; 08_page R207). -/
structure WalkFrame (s u t : State) (ds : List Reg) : Prop where
  scalars : KeepsX s t ds
  vectors : KeepsV s t []
  system : t.core.sys = s.core.sys
  window : KeepsWindow s t
  bytes : t.mem = u.mem

/-- A value delivered to a scalar register; x0 keeps zero (04_core R83). -/
def Gives (t : State) (d : Reg) (w : W64) : Prop := t.x d = if d = 0 then 0 else w

/-- The address `i` words of `k` bytes further, inside the window of its address (R97). -/
def stepAddr (ea : W64) (k i : Nat) : W64 := leaAdd ea (BitVec.ofNat 64 (k * i))

/-- A structure of `n` words of `k` bytes in the own local memory that can be read now. -/
def OwnBlock (s : State) (ea : W64) (k n : Nat) : Prop :=
  ∀ i, i < n → OwnAccess s (stepAddr ea k i) k ∧ OwnReadable s (stepAddr ea k i) k

/-- Word `i` of such a structure. -/
def blockWord (s : State) (ea : W64) (k i : Nat) : Nat := ofBytes (mread s.mem (ownKey s (stepAddr ea k i)) k)

/-- A core at the point of issuing a unit instruction: no wait, no result on its way, no release that holds it, no pair. -/
structure Ready (s : State) : Prop where
  awake : s.core.wait = none
  results : s.core.pend = []
  marks : s.core.marks = []
  unpaired : Unpaired s

/-- A HANDLER operand that a message of a class may carry (10_queue R254, R271). -/
def HandlerOk (w : W64) (cls : Nat) : Prop :=
  w.toNat < 2 ^ 32 ∧ (w.toNat / 2 ^ 31 = 1 → w.toNat / 2 ^ 16 % 2 ^ 15 = 0) ∧ (w.toNat = 0 → cls = 1) ∧ w.toNat % 2 = 0

/-- The core may send to a receiver (10_queue R271): it is the monitor's, or both lie in its context. -/
def MayReach (s : State) (n : Nat) : Prop :=
  n < nCores ∧ (modeOf s.core = 2 ∨ (noCtx s.core = false ∧ inRange s (curCtx s.core) n = true))

/-- The messages SEND and SENDB send: class, payload, the two operands and the attachment (10_queue R271, R272). -/
def sending (s : State) : Instr → Option (Nat × W512 × W64 × W64 × Option Att)
  | .send c d a b => some (mclsCode c, s.v d, s.x a, s.x b, none)
  | .sendReqShort d a b => some (0, s.v d, s.x a, s.x b, none)
  | .sendb d a b => some (2, s.v d, s.x a, s.x b, some (.read ((s.v d).setWidth 64) (elem (s.v d) 16 4)))
  | _ => none

/-- The 16 header bytes R253 gives a message of this core, as a number. -/
def headerOf (s : State) (cls alen tag handler : Nat) : Nat :=
  handler + s.core.num * 2 ^ 32 + tag * 2 ^ 64 + cls * 2 ^ 80 + alen * 2 ^ 88 + s.out.time % 2 ^ 32 * 2 ^ 96

/-- The conditions of the operand of SEND, SENDB and MCAST beside the receiver: reserved bits, mode and attachment. -/
def SendOk (s : State) (cls : Nat) (xa xb : W64) : Prop :=
  HandlerOk xb cls ∧ (cls = 3 → modeOf s.core ≠ 0) ∧ xa.toNat / 2 ^ 56 = 0 ∧ (cls ≠ 2 → xa.toNat / 2 ^ 48 = 0)

/-- An attachment R272 allows, in the own local memory. -/
def AttachOk (s : State) (xa : W64) (from_ : W64) (off : Nat) : Prop :=
  let lines := xa.toNat / 2 ^ 48 % 2 ^ 8 + 1
  from_.toNat % 64 = 0 ∧ off % 64 = 0 ∧ off + lines * 64 ≤ 0x10000 ∧ ∀ i, i < lines → OwnAccess s (stepAddr from_ 64 i) 64

/-- The message with header `h` and payload `w`. -/
def IsMessage (m : Msg) (h : Nat) (w : W512) : Prop := msgHeader m = h ∧ m.payload = BitVec.ofNat 384 w.toNat

/-- A core that DONE may end a handler on: not the monitor, no bank and no user handler in use, nothing owed. -/
structure CanEnd (s : State) : Prop where
  ready : Ready s
  mode : modeOf s.core ≠ 2
  bank : s.core.sys.status.toNat / 2 ^ 14 % 2 = 0
  user : s.core.sys.status.toNat / 2 ^ 6 % 2 = 0
  spill : s.core.sc.spillBusy = false
  failed : s.core.ev.ferr = none
  untraced : NoTrace s
  debts : ∀ m, s.core.mail.insvc = some m → m.origin = .plain
  queue : overflowOf s s.core = []
  replay : (getLog s 0).mode = 0

/-- The identifier of a barrier and the scope of the cores that may use it: a cluster barrier of the core's own cluster or a
device barrier of this chip (13_barrier R308, R309). -/
def BarName (s : State) (xa : W64) (c : Scope) : Prop :=
  (xa.toNat < 0x2000 ∧ xa.toNat / 64 = clusterOf s.core.pos ∧ c = .cluster) ∨
  (0x8000 ≤ xa.toNat ∧ xa.toNat < 0x10000 ∧ xa.toNat / 1024 % 32 = 0 ∧ c = .device)

/-- The limit of a barrier's gathering phase has not passed, or the barrier is broken already (13_barrier R316). -/
def InTime (s : State) (id : Nat) : Prop :=
  ∀ c, (getBar s id).clock = some c →
    (getBar s id).tlim = 0 ∨ (getBar s id).broken = true ∨ s.cycle < c + (getBar s id).tlim

/-- A barrier that the core's context has configured and that is whole. -/
structure BarOk (s : State) (id : Nat) : Prop where
  early : InTime s id
  live : (getBar s id).count ≠ 0
  mine : (getBar s id).ctx = ctxNum s.core
  whole : (getBar s id).broken = false

/-- The barrier does not hold an arrival of this core for its layer (13_barrier R318). -/
def NotHeld (s : State) (id : Nat) : Prop :=
  ∀ batch, serviceBatch s s.core = some batch → heldBy s (getBar s id) batch = false

/-- What an arrival leaves of a barrier of which fewer than COUNT arrivals are carried (13_barrier R312, R313). -/
def Arrived (b c : Barrier) : Prop :=
  c.count = b.count ∧
    (b.arr + 1 = b.count → c.phase = b.phase + 1 ∧ c.arr = b.carried ∧ c.carried = 0) ∧
    (b.arr + 1 ≠ b.count → c.phase = b.phase ∧ c.arr = b.arr + 1 ∧ c.carried = b.carried)

/-- The members a GMAKE block names (12_group R303). -/
def namedCores (s : State) (xa xb : W64) : List Nat :=
  (List.range (xa.toNat / 2 ^ 8 % 2 ^ 9)).map (blockWord s xb 4)

/-- The operands and the block of GMAKE keep the limits of R296 and R303. -/
structure GroupOk (s : State) (xa xb : W64) : Prop where
  kind : xa.toNat % 2 ^ 4 ≤ 2
  reserved : xa.toNat / 2 ^ 4 % 2 ^ 4 = 0 ∧ xa.toNat / 2 ^ 17 = 0
  count : (if xa.toNat % 2 ^ 4 = 1 then 1 else 2) ≤ xa.toNat / 2 ^ 8 % 2 ^ 9 ∧
    xa.toNat / 2 ^ 8 % 2 ^ 9 ≤ if xa.toNat % 2 ^ 4 = 0 then 8 else if xa.toNat % 2 ^ 4 = 1 then 256 else 64
  block : OwnBlock s xb 4 (xa.toNat / 2 ^ 8 % 2 ^ 9)
  context : noCtx s.core = false
  distinct : (namedCores s xa xb).Nodup
  inside : ∀ n ∈ namedCores s xa xb, inRange s (curCtx s.core) n = true
  placed : xa.toNat % 2 ^ 4 ≠ 1 → ∀ n ∈ namedCores s xa xb, n < nCores
  cluster : xa.toNat % 2 ^ 4 = 0 → ∀ n ∈ namedCores s xa xb, ∀ m ∈ namedCores s xa xb,
    clusterOf (getCore s n).pos = clusterOf (getCore s m).pos
  die : xa.toNat % 2 ^ 4 = 2 → ∀ n ∈ namedCores s xa xb, stealGroup s (ctxNum s.core) n = none ∧ ∀ m ∈ namedCores s xa xb,
    dieOf (getCore s n).pos = dieOf (getCore s m).pos

/-- Every group but one is as it was. -/
def OtherGroups (s t : State) (g : Nat) : Prop := ∀ h, h ≠ g → tget t.un.groups h = tget s.un.groups h

/-! ### Matrix engines (14_tile) -/

/-- The cluster of the core in focus. -/
def myCluster (s : State) : Nat := clusterOf s.core.pos

/-- The 128 bytes of a record at an address, as a number (14_tile R327). -/
def recordIn (s : State) (ea : W64) : BitVec 1024 :=
  recOfWords ((List.range 16).map (fun k => BitVec.ofNat 64 (blockWord s ea 8 k)))

/-- MTSUB and MGANG: destination, address of the record, whether it is a gang, and its members (14_tile R343). -/
def submitting (s : State) : Instr → Option (Reg × W64 × Bool × List Nat)
  | .mtsub d a => some (d, s.x a, false, [])
  | .mgang d a b =>
    if (s.x b).toNat < 2 ^ 12 then
      match tget s.un.groups (s.x b).toNat with
      | some g => if g.live ∧ g.kind = 0 ∧ g.ctx = ctxNum s.core then some (d, s.x a, true, g.members) else none
      | none => none
    else none
  | _ => none

/-- An operand of a tile instruction that names a share of a ticket (14_tile R342). -/
def NamesTicket (w : W64) : Prop := w.toNat / 2 ^ 63 = 1 ∧ w.toNat / 2 ^ 35 % 2 ^ 28 = 0

/-- No record of the cluster of the core has the ticket. -/
def NoTicket (s : State) (w : W64) : Prop := recOf s (myCluster s) (w.toNat % 2 ^ 32) = none

/-- The record, its entry and the slot that serve a share. -/
def Serves (s : State) (w : W64) (i slot : Nat) (r : TileRec) : Prop :=
  recOf s (myCluster s) (w.toNat % 2 ^ 32) = some (i, r) ∧
    slotOfShare s (myCluster s) (w.toNat % 2 ^ 32) (w.toNat / 2 ^ 32 % 2 ^ 3) = some slot

/-- A drain target of the handle form that lies in the own local memory, with rows that do not overlap (R329, R344). -/
structure OwnTarget (s : State) (tgt : BitVec 128) : Prop where
  good : targetBad tgt (dFmt tgt == 4) 32 = false
  absolute : dRel tgt = false
  core : dCore tgt = s.core.num
  chip : s.core.num < nCores ∧ s.core.run ≠ .disabled
  context : inRange s (ctxNum s.core) s.core.num = true ∨ ctxNum s.core = 256
  here : tget s.mu.away (ctxNum s.core * 8192 + s.core.num) = none
  pitch : drainRowBytes (dFmt tgt) ≤ dPitch tgt

/-- The key of the first byte of row `k` of a drain. -/
def drainKey (s : State) (tgt : BitVec 128) (k : Nat) : Nat := localKey s.core.num (dOff tgt + k * dPitch tgt)

/-! ### Copies and kernels (11_kernel, 16_copy) -/

/-- The instructions that post a copy: queue register, register of the block's address, kind and whether a release goes
before (16_copy R364). -/
def posting : Instr → Option (Code3 × Reg × Nat × Bool)
  | .cpy q a => some (q, a, 0, false)
  | .cpyf q a => some (q, a, 0, true)
  | .gath q a => some (q, a, 1, false)
  | .scat q a => some (q, a, 2, false)
  | _ => none

/-- A block of six words (16_copy R350). -/
def copyBlock (s : State) (ea : W64) : BitVec 384 := BitVec.ofNat 384 (packNat 64 ((List.range 6).map (blockWord s ea 8)))

/-- The operand of FORK and YIELD (11_kernel R291, R293): reserved bits, handler, and the counter's alignment. -/
structure ForkOk (xb : W64) : Prop where
  reserved : xb.toNat / 2 ^ 48 % 2 ^ 15 = 0
  handler : xb.toNat % 2 ^ 32 ≠ 0 ∧ xb.toNat % 2 = 0 ∧ (xb.toNat / 2 ^ 31 % 2 = 1 → xb.toNat / 2 ^ 16 % 2 ^ 15 = 0)
  aligned : xb.toNat / 2 ^ 63 = 1 → xb.toNat / 2 ^ 32 % 2 ^ 3 = 0

/-- The key of the counter of a FORK or JOIN: an offset of the own local memory. -/
def counterKey (s : State) (off : Nat) : Nat := localKey s.core.num off

/-- The counter at an offset of the own local memory can be read now. -/
def CounterReadable (s : State) (off : Nat) : Prop := OwnReadable s (BitVec.ofNat 64 (localKey s.core.num off)) 8

/-- The item FORK and YIELD put into the deque (11_kernel R289). -/
def IsItem (s : State) (i : Item) (v : W512) (xb : W64) (h : BitVec 32) : Prop :=
  i.handler = xb.setWidth 32 ∧ i.payload = BitVec.ofNat 384 v.toNat ∧ i.forker.toNat = s.core.num % 2 ^ 32 ∧
    i.time.toNat = s.out.time % 2 ^ 32 ∧ i.kernel = h ∧
    i.counter = if xb.toNat / 2 ^ 63 = 1 then some (counterKey s (xb.toNat / 2 ^ 32 % 2 ^ 16)) else none

/-- The kernel node of 64 bytes at an address (11_kernel R280, R281). -/
def nodeAt (s : State) (ea : W64) : Node := nodeOf ((List.range 8).map (fun k => BitVec.ofNat 64 (blockWord s ea 8 k)))

/-! ### Experts, queries, placement and collectives (17_expert, 20_query, 22_resident, 23_link) -/

/-- A name of an entry of this chip that the copy of the core's die shows to its context (17_expert R368, R369). -/
structure OwnName (s : State) (name : Nat) : Prop where
  small : name < 2 ^ 16
  context : ctxNum s.core ≠ 256
  mine : (getCopy s name (dieOf s.core.pos)).ctx = ctxNum s.core
  used : (getCopy s name (dieOf s.core.pos)).st ≠ .free

/-- A name that stands for nothing: of this chip, and free or another context's in the copy of the core's die. -/
def NoName (s : State) (name : Nat) : Prop :=
  name < 2 ^ 16 ∧ ((getCopy s name (dieOf s.core.pos)).st = .free ∨ (getCopy s name (dieOf s.core.pos)).ctx ≠ ctxNum s.core)

/-- The expert instructions that a peer chip's directory may answer, with their destination (17_expert R369). -/
def askingExpert : Instr → Option Reg
  | .exroute d _ _ => some d
  | .exback d _ _ => some d
  | .exgrow d _ => some d
  | .exretire d _ _ => some d
  | .exjoin d _ _ => some d
  | .exupd d _ _ => some d
  | .exstat d _ _ => some d
  | _ => none

/-- The lines of a range that starts on a line, in the own local memory. -/
def OwnLines (s : State) (ea : W64) (n : Nat) : Prop := ∀ i, i < n → OwnAccess s (stepAddr ea 64 i) 64

/-- The entries of a heap of HSIFT (17_expert R388). -/
def heapOf (s : State) (ea : W64) (n : Nat) : List Nat := (List.range n).map (fun i => blockWord s ea 8 (1 + i))

/-- The header of a query packet at an address (20_query R396). -/
def packetAt (s : State) (ea : W64) : BitVec 512 := BitVec.ofNat 512 (packNat 64 ((List.range 8).map (blockWord s ea 8)))

/-- The collectives on a register: destination, group operand, source and kind (23_link R434, R435). -/
def collective : Instr → Option (Reg × Reg × Reg × Nat)
  | .aredSum d a b => some (d, a, b, 0)
  | .aredMax d a b => some (d, a, b, 1)
  | .aredMin d a b => some (d, a, b, 2)
  | .agath d a b => some (d, a, b, 3)
  | _ => none

/-- The live group of kind 1 that a collective names holds the core. -/
structure CollGroup (s : State) (g : Group) (xb : W64) : Prop where
  named : tget s.un.groups (xb.toNat % 2 ^ 12) = some g
  live : g.live = true ∧ g.kind = 1 ∧ g.ctx = ctxNum s.core
  member : s.core.num ∈ g.members
  chip : ∀ n ∈ g.members, n < nCores

/-- Whether TLBINV's words remove an entry (08_page R221): KIND 0 a range of an ASID with the global entries, 1 an ASID, 2
every ASID, 3 everything. -/
def invalidated (va w : W64) (e : TlbEnt) : Bool :=
  let glob := decide (e.w0.toNat / 2 ^ 6 % 2 = 1)
  let asid := decide (e.asid = w.toNat % 2 ^ 8)
  let lo := va.toNat % 2 ^ 52 / 2 ^ 19 * 2 ^ 19
  let hi := lo + (w.toNat / 2 ^ 8 % 2 ^ 24 + 1) * 2 ^ 19
  let first := e.vpage * 2 ^ (19 + 6 * e.size)
  match w.toNat / 2 ^ 62 with
  | 0 => (glob || asid) && decide (first < hi) && decide (lo < first + 2 ^ (19 + 6 * e.size))
  | 1 => !glob && asid
  | 2 => !glob
  | _ => true

/-! ### Events (R5) -/

/-- The core an event names, held under its number. -/
def Named (s : State) (n : Nat) : Prop := s.arg.a = n ∧ (getCore s n).num = n

/-- Every core, packet and unit but core `n` is as it was, and every byte of memory. -/
structure OnlyCore (s t : State) (n : Nat) : Prop where
  cores : ∀ m, m ≠ n → getCore t m = getCore s m
  rest : t.mem = s.mem ∧ t.net = s.net ∧ t.mu = s.mu ∧ t.un = s.un ∧ t.out = s.out ∧ t.cycle = s.cycle

/-- Every core is as it was. -/
def CoresKept (s t : State) : Prop := t.core = s.core ∧ t.others = s.others

/-- The local memory of core `n` as the engines of a context reach it: a present core of the context's range, whose state is
on the core. -/
structure Reached (s : State) (ctx n : Nat) : Prop where
  core : n < nCores ∧ (getCore s n).run ≠ .disabled
  context : inRange s ctx n = true ∨ ctx = 256
  here : ctx = 256 ∨ awayOf s ctx n = none

/-- The address of an offset of the local memory of core `n` (06_memory R144). -/
def localAddr (n off : Nat) : W64 := BitVec.ofNat 64 (2 ^ 63 + n * 2 ^ 37 + off)

/-- The home of core `n`'s local memory may apply a packet: it has come from its own die, or the home has heard what the packet's
die knew (07_ordering R177). -/
def HomeHears (s : State) (p : Packet) (n : Nat) : Prop :=
  dieOf (getCore s n).pos = p.die ∨ heardAll s (dieOf (getCore s n).pos) p.die p.stamp = true

/-- No write of another die that the home of core `n`'s local memory has received waits to be applied there (07_ordering R177). -/
def NoneLate (s : State) (n : Nat) : Prop :=
  ∀ off, off < 2 ^ 16 → lateWrite s (dieOf (getCore s n).pos) (lineKeyOf (localKey n off)) = false

/-- A write of a unit of die `d` reaches the local memory of core `n` at once: on its own die, or at a home that has heard what
the die's clock knows, with nothing of the die under way, and behind no write that waits there (07_ordering R177). -/
def WritesAtOnce (s : State) (d n : Nat) : Prop :=
  NoneLate s n ∧ (dieOf (getCore s n).pos = d ∨
    (heardAll s (dieOf (getCore s n).pos) d (getDie s d).vc = true ∧ ∀ q ∈ s.net, q.die ≠ d))

/-- Bytes of a local memory of which no line is poisoned. -/
def Whole (s : State) (n off k : Nat) : Prop := ∀ i, i < k → isPoisoned s (lineKeyOf (localKey n (off + i))) = false

/-- Bytes of a local memory that can be read at their home now. -/
def Clean (s : State) (n off k : Nat) : Prop := Whole s n off k ∧ NoneLate s n

/-- The inbox of core `n` takes a message of a class of context `ctx` at once: the context is resident, nothing queues before
it, and the limits of R258 admit it. -/
structure TakesMessage (s : State) (ctx n cls : Nat) : Prop where
  number : n < nCores ∧ (getCore s n).num = n
  runs : (getCore s n).run ≠ .disabled ∧ (getCore s n).run ≠ .switching
  resident : ctx = 256 ∨ (noCtx (getCore s n) = false ∧ curCtx (getCore s n) = ctx)
  queue : overflowOf s (getCore s n) = []
  room : (getCore s n).mail.inbox.length < 32
  requests : cls = 1 ∨ cls = 3 ∨ ((getCore s n).mail.inbox.filter (fun m => m.cls == 0 || m.cls == 2)).length < 24
  alone : membersFor s ctx n = [n] ∧ membersFor s (ctxNum (getCore s n)) n = [n] ∧ partnerOf s n = none

/-- No message that reached core `n` before one of age `age` still waits at its interface; 0 is the age of one that has only now
arrived (10_queue R259, R264). -/
def FirstToArrive (s : State) (n age : Nat) : Prop :=
  ∀ q ∈ s.net, ∀ m att, q.body = .msg n m att → m.age = 0 ∨ (age ≠ 0 ∧ age ≤ m.age)

/-- Core `n` has taken a message with a handler, a class and a payload into its inbox, beside those it held. -/
structure Took (s t : State) (n : Nat) (handler : BitVec 32) (cls : Nat) (payload : BitVec 384) : Prop where
  taken : ∃ m ∈ (getCore t n).mail.inbox, m.handler = handler ∧ m.cls = cls ∧ m.payload = payload ∧ m.attaching = false
  count : (getCore t n).mail.inbox.length = (getCore s n).mail.inbox.length + 1
  before : ∀ m ∈ (getCore s n).mail.inbox, m ∈ (getCore t n).mail.inbox

/-- No core saves or loads a context. -/
def NoneSwitches (s : State) : Prop := s.core.run ≠ .switching ∧ ∀ p ∈ s.others, p.2.run ≠ .switching

/-- A packet of a core stands applied, its acknowledgement on the way. -/
def Applied (t : State) (p : Packet) : Prop := ∃ err, { p with st := .acked err } ∈ t.net

/-- The word of a context's descriptor that holds LIFE can be written now: its stack has not failed, and nothing makes the
write wait at the home. -/
def LifeWritable (s : State) (ctx : Nat) : Prop :=
  stackStOf s (descAddr s ctx) ≠ .failed ∧ ownWaits s (lineKeyOf (descAddr s ctx)) = false

/-- What a halted core does when it goes on: what it did before, but one whose slots have been evicted waits for their reload
(05_vector R116). -/
def resumesAs (c : Core) : Run := if c.former = .running ∧ evictedSlots c.vec ≠ [] then .waiting else c.former

/-- Margins whose guard band in mV leaves 10 mV or more of what is used (25_life R442). -/
def BandLeft (guard used : Nat) : Prop := used + 10 ≤ guard

/-- A core as a start leaves it: idle in the reset state, or disabled (R439). -/
def Started (t : State) (disabled : List Nat) : Prop :=
  ∀ n, n < nCores → getCore t n = { Core.reset n with run := if n ∈ disabled then .disabled else .idle }

/-- Eight bits as a signed number. -/
def byteInt (n : Nat) : Int := (BitVec.ofNat 8 n).toInt

/-- Element `r` of register `k` of the eight that a queued MMA of i8 holds (14_tile R333). -/
def mmaElem (w : BitVec 4096) (k r : Nat) : Int := byteInt (w.toNat / 2 ^ (512 * k + 8 * r))

/-- A copy that runs between two local memories of its context: from core `m` at `so` to core `n` at `d` (16_copy R350 to
R355). -/
structure LocalCopy (s : State) (cl slot m so n d : Nat) : Prop where
  runs : (getXfer s cl slot).st = .running ∧ (getXfer s cl slot).kind = 0 ∧ copierFrozen s cl = false
  ends : bSrc (getXfer s cl slot).block = localAddr m so ∧ bDst (getXfer s cl slot).block = localAddr n d
  source : Reached s (getXfer s cl slot).ctx m ∧ so + bLen (getXfer s cl slot).block ≤ 2 ^ 16
  target : Reached s (getXfer s cl slot).ctx n ∧ d + bLen (getXfer s cl slot).block ≤ 2 ^ 16
  clean : Clean s m so (bLen (getXfer s cl slot).block)
  unowned : s.mu.excl = []

/-- Every core is held under its own number. -/
def NumberedCores (s : State) : Prop := ∀ n, (getCore s n).num = n

/-- The reservation numbered `id` waits at the directory of this chip (17_expert R373). -/
def Waits (s : State) (id : Nat) (v : Resv) : Prop :=
  s.un.resvs.find? (fun r => r.id == id) = some v ∧ fld v.name 31 20 = 0

/-- A link that carries traffic. -/
def Carries (x : Link) : Prop := x.st = .up ∨ x.st = .degraded

/-! ### Steps, words and reset -/

/-- The eight words of memory from a key, in address order. -/
def wordsAt (s : State) (key : Nat) : List W16 :=
  (List.range 8).map (fun i => BitVec.ofNat 16 (ofBytes (mread s.mem (key + 2 * i) 2)))

/-- A running core that is about to issue: nothing it waits for, no interrupt to take, no result on its way, no stream, no
word fetched ahead; the schedule is the model's own. -/
structure AtIssue (s : State) : Prop where
  turn : s.agenda = []
  runs : s.core.run = .running ∧ s.core.wait = none
  quiet : nextInt s = none ∧ s.core.ev.pend0B = []
  results : s.core.pend = [] ∧ s.core.locks = []
  divider : s.core.divUntil ≤ s.cycle
  streams : s.core.vec.streams = []
  buffers : s.core.fbuf = none ∧ s.core.rreg = none ∧ s.core.freq = none
  point : s.core.ev.point = none
  unpaired : Unpaired s

/-- The state an instruction runs in: that of its issue, with its words fetched and its issue latch filled. -/
def Latched (s u : State) (d : Decoded) : Prop :=
  u = { s with core := { s.core with
    fbuf := u.core.fbuf, freq := u.core.freq
    issue := { npc := s.core.pc + BitVec.ofNat 64 d.len, word := d.word, idx := d.idx, busy := 1 + d.stall, mark := .none
               instr := some d.instr, watch := none, stall := d.stall } } }

/-- No breakpoint, watchpoint match, single step or halt that waits stands at the core. -/
def NoDebug (s : State) : Prop :=
  (getDbg s s.core.pos).bp = [] ∧ (getDbg s s.core.pos).stepping = false ∧ (getDbg s s.core.pos).halting = false ∧
    s.core.issue.watch = none

/-- Rows of the opcode table that share the words of another row: an MDRAIN of a ticket, and the forms of MCLR (14_tile R344,
R346). The words are decoded to the first row, and the operand tells them apart. -/
def sameWords : Instr → Instr
  | .mdrainTicket d a b => .mdrainHandle d a b
  | .mclrRelease d a => .mclrReserve d a
  | .mclrClear d a => .mclrReserve d a
  | .mclrTicket d a => .mclrReserve d a
  | i => i

end Sys2Proof.Machine

open Sys2Proof Sys2Proof.Machine

/-! ## Scalar arithmetic -/

/-- R90, R91, R94 to R99: a scalar instruction of one cycle completes; its destination holds the result, x0 holds zero, the
pc moves past it, and nothing else changes. -/
def Obligations.ScalarResultAndFrame : Prop :=
  ∀ (i : Instr) (d : Reg) (w : W64) (s : State), scalarOneCycle s i = some (d, w) → NoPendX s d →
    ∃ t, exec i s = .next t ∧ t.x d = (if d = 0 then 0 else w) ∧ t.core.pc = s.core.issue.npc ∧ KeepsAllBut s t [d]

/-- R59, R92: a product stands in its register from the third cycle after issue, not before; until then every register
reads as it did. -/
def Obligations.ProductLandsInThreeCycles : Prop :=
  ∀ (i : Instr) (d : Reg) (w : W64) (s : State), product s i = some (d, w) → NoPendX s d →
    ∃ t, exec i s = .next t ∧ t.core.pc = s.core.issue.npc ∧ KeepsAllBut s t [] ∧
      (∀ n, s.cycle + 3 ≤ n → xAt t n d = if d = 0 then 0 else w) ∧
      (∀ n, n < s.cycle + 3 → xAt t n d = s.x d) ∧ (∀ n r, r ≠ d → xAt t n r = xAt s n r)

/-- R59, R93: a division completes on every operand value with the quotient or remainder the rule gives; for 4 to 36 cycles
the divider is busy and its destination is interlocked. -/
def Obligations.DivisionResultAndFrame : Prop :=
  ∀ (i : Instr) (d : Reg) (w : W64) (s : State), quotient s i = some (d, w) → NoPendX s d →
    ∃ t k, exec i s = .next t ∧ t.x d = (if d = 0 then 0 else w) ∧ t.core.pc = s.core.issue.npc ∧ KeepsAllBut s t [d] ∧
      4 ≤ k ∧ k ≤ 36 ∧ t.core.divUntil = s.cycle + k ∧
      (d ≠ 0 → tget t.core.locks (xPlace s.core.sc d) = some (s.cycle + k))

/-! ## Control flow -/

/-- R101: JMPR is the word of page 2, op 3, F 0 with d and b reserved; it goes to x[a] when that is even, with the four further
issue cycles of a jump that is not predicted and no other effect; an odd x[a] traps with cause 0x03 and x[a] in TVAL, and has no
effect. R100: a branch goes to pc + 2 x imm when its condition holds and to the next instruction otherwise, and writes no
register. R103: ALIGN of a program in local memory completes after one cycle with no effect. -/
def Obligations.BranchesAndAlign : Prop :=
  (∀ a : Reg, a.toNat < 8 → decodeInstr [0xF920, BitVec.ofNat 16 (0x1800 + 32 * a.toNat)] = some (.jmpr a)) ∧
  (∀ a : Reg, decodeInstr [BitVec.ofNat 16 (0xF800 + 16 * (a.toNat / 8)), 0xF920, BitVec.ofNat 16 (0x1800 + 32 * (a.toNat % 8))] =
    some (.jmpr a)) ∧
  (∀ d a b : Nat, d < 8 → a < 8 → b < 8 → d ≠ 0 ∨ b ≠ 0 →
    decodeInstr [0xF920, BitVec.ofNat 16 (0x1800 + 256 * d + 32 * a + 4 * b)] = none) ∧
  (∀ (a : Reg) (s : State), (s.x a).toNat % 2 = 1 → Plain s → SpillFits s.core.sc →
    (modeOf s.core = 0 ∨ (modeOf s.core = 1 ∧ s.core.sys.status.toNat / 2 ^ 14 % 2 = 0) →
      ∃ t, exec (.jmpr a) s = .next t ∧ InSystem s t 0x03 (s.x a) s.core.pc) ∧
    (modeOf s.core = 1 → s.core.sys.status.toNat / 2 ^ 14 % 2 = 1 →
      ∃ t, exec (.jmpr a) s = .next t ∧ InMonitor s t 0x03 true (s.x a) s.core.pc) ∧
    (modeOf s.core = 2 → s.core.sys.status.toNat / 2 ^ 15 % 2 = 0 →
      ∃ t, exec (.jmpr a) s = .next t ∧ InMonitor s t 0x03 false (s.x a) s.core.pc)) ∧
  (∀ (i : Instr) (taken : Bool) (imm : W64) (s : State), takenBranch s i = some (taken, imm) →
    ∃ t, exec i s = .next t ∧ t.core.pc = (if taken then s.core.pc + 2 * imm else s.core.issue.npc) ∧ BranchFrame s t) ∧
  (∀ (a : Reg) (s : State), (s.x a).toNat % 2 = 0 →
    ∃ t, exec (.jmpr a) s = .next t ∧ t.core.pc = s.x a ∧ t.core.sc = s.core.sc ∧
      t.core.issue.busy = s.core.issue.busy + 4 ∧ BranchFrame s t) ∧
  (∀ (imm : W64) (s : State), s.core.pc.toNat / 2 ^ 62 = 2 →
    ∃ t, exec (.align imm) s = .next t ∧ t.core.pc = s.core.issue.npc ∧ t.core.issue.busy = s.core.issue.busy ∧
      t.core.pend = s.core.pend ∧ KeepsAllBut s t [])

/-- R104: `dly #n` is the word of page 2, op 4, fx 1 with d reserved; n lies from 1 to 255 and n = 0 is illegal; DLY occupies
n issue cycles (one of them is its own, which the issue latch counts) and has no other effect. R105: NOP is F920 1803 with d, a
and b reserved; it occupies one issue cycle and the stall count of its MOD word, and has no other effect; the word 0x0000 has the
same effect. That the issue latch of an instruction holds its own cycle and its stall count is the model's way of counting
(log 3). -/
def Obligations.NopAndDelay : Prop :=
  (∀ n : Nat, 1 ≤ n → n ≤ 255 → decode [0xF921, BitVec.ofNat 16 (0x2000 + n)] =
    .ok ⟨.dly (BitVec.ofNat 64 n), 4, 0, BitVec.ofNat 16 (0x2000 + n), 1⟩) ∧
  decodeInstr [0xF921, 0x2000] = none ∧
  (∀ d n : Nat, 1 ≤ d → d ≤ 7 → n ≤ 255 → decodeInstr [0xF921, BitVec.ofNat 16 (0x2000 + 256 * d + n)] = none) ∧
  (∀ (ws : List W16) (n : W64), decodeInstr ws = some (.dly n) → 1 ≤ n.toNat ∧ n.toNat ≤ 255) ∧
  (∀ (n : W64) (s : State), 1 ≤ n.toNat → n.toNat ≤ 255 →
    ∃ t, exec (.dly n) s = .next t ∧ t.core.pc = s.core.issue.npc ∧ t.core.issue.mark = .done ∧
      t.core.issue.busy = s.core.issue.busy + (n.toNat - 1) ∧ t.core.pend = s.core.pend ∧ KeepsAllBut s t []) ∧
  decode [0xF920, 0x1803] = .ok ⟨.nop, 4, 0, 0x1803, 1⟩ ∧
  (∀ k : Nat, 1 ≤ k → k ≤ 7 →
    decode [0xF920, BitVec.ofNat 16 (0xFA00 + 2 * k), 0x1803] = .ok ⟨.nop, 6, k, 0x1803, 2⟩) ∧
  (∀ d a b : Nat, d < 8 → a < 8 → b < 8 → d ≠ 0 ∨ a ≠ 0 ∨ b ≠ 0 →
    decodeInstr [0xF920, BitVec.ofNat 16 (0x1803 + 256 * d + 32 * a + 4 * b)] = none) ∧
  (∀ (d : Decoded) (s : State), (latch s d).core.issue.busy = 1 + d.stall ∧ KeepsAllBut s (latch s d) []) ∧
  (∀ s : State, ∃ t, exec .nop s = .next t ∧ t.core.pc = s.core.issue.npc ∧ t.core.issue.busy = s.core.issue.busy ∧
    t.core.pend = s.core.pend ∧ KeepsAllBut s t []) ∧
  decodeInstr [0x0000] = some (.addShort 0 0 0) ∧ (∀ s : State, exec (.addShort 0 0 0) s = exec .nop s)

/-- R84, R85, R102: CALL and CALLR go to their target with the return address in the callee's x15; the caller's outs become
the callee's ins, x16 to x31 read zero, and of eight windows the oldest is stored in the 128 bytes below WSP, every other
byte of memory unchanged. That the bytes stand in memory as soon as the call is over, and not later from the spill buffer of R86,
is the model's choice (log 29). -/
def Obligations.CallOpensWindow : Prop :=
  ∀ (i : Instr) (target : W64) (s : State), callTarget s i = some target →
    (∀ a, i = .callr a → target.toNat % 2 = 0) → Plain s →
    SpillFits s.core.sc → (s.core.sc.res = 8 → s.core.sc.spillBusy = false) → NoTrace s →
    ∃ t, exec i s = .next t ∧ t.core.pc = target ∧
      WindowOpened (rawX (landAll s) 31 s.core.issue.npc) t ∧ t.core.sys = s.core.sys ∧
      (s.core.sc.res < 8 → KeepsBytes s t) ∧
      (s.core.sc.res = 8 → OldestStored (landAll s) t ∧
        KeepsBytesBut s t (localKey s.core.num (s.core.sc.wsp.toNat - 128)) 128)

/-- R84, R85, R102: RET goes to x15. With more than one resident window it moves back to the caller: the callee's ins become
the caller's outs and the caller's other registers are those it left in the ring. With one resident window and stored ones it
reloads x8 to x23 from WSP, and WSP rises by 128. -/
def Obligations.ReturnClosesOrReloadsWindow : Prop :=
  ∀ (i : Instr) (s : State), (i = .ret ∨ i = .retShort) → Plain s → WindowBelow s → ((landAll s).x 15).toNat % 2 = 0 →
    ∃ t, exec i s = .next t ∧ t.core.pc = (landAll s).x 15 ∧ WindowClosed s t ∧
      (∀ r : Reg, r.toNat < 8 → t.x r = (landAll s).x r) ∧ KeepsV (landAll s) t []

/-- R84, R85, R102: a RET directly after a CALL comes back to the instruction after the call with every register of the
caller as it was but x31, which the call wrote. -/
def Obligations.ReturnAfterCallRestoresCaller : Prop :=
  ∀ (imm : W64) (s t u : State), Plain s → s.core.pend = [] → SpillFits s.core.sc → s.core.sc.spillBusy = false →
    s.core.issue.npc.toNat % 2 = 0 → exec (.call imm) s = .next t → exec .ret t = .next u →
    u.core.pc = s.core.issue.npc ∧ callDepth u.core.sc = callDepth s.core.sc ∧
      KeepsX s u [31] ∧ u.x 31 = s.core.issue.npc

/-! ## System registers -/

/-- R62, R247: SRR of a register the mode may read completes and delivers its value; before a read of FFLAGS, FRM or FP4X
every pending result lands. -/
def Obligations.SystemRegisterRead : Prop :=
  ∀ (d : Reg) (imm : W64) (s : State), sysAccess imm.toNat (modeOf s.core) ≠ .none → NoPendX s d →
    let u := atSysAccess s imm.toNat
    ∃ t, exec (.srr d imm) s = .next t ∧ t.x d = (if d = 0 then 0 else sysGet u imm.toNat) ∧
      t.core.pc = s.core.issue.npc ∧ KeepsAllBut u t [d]

/-- R62, R88, R225, R226, R229, R238, R247, R268: SRW, SRSET and SRCLR of a register that the mode may write complete: what they form
stands in the register's writable fields, and every other register reads as before (INBOX shows the queue of the context that
ASID names, R265). In task mode STATUS takes UIE and SCHK alone,
and a write that would change another field traps with cause 0x02; WSP and WLIMIT are not written while windows are spilled: cause
0x08, kind 2 in TVAL; a QBIND is written once its commands have drained. In system and monitor mode a write of a register that may
only be read has no effect. What MONINFO stores is the model's choice (log 55), and that a task-mode write of STATUS which
differs in read-only fields alone does not trap, and that a monitor-mode write of 0b11 to SLINK.FROM is stored, are its readings of
R226 (log 48). -/
def Obligations.SystemRegisterWrite : Prop :=
  (∀ (i : Instr) (n : Nat) (w v : W64) (s : State), sysNumber i = some n → sysAccess n (modeOf s.core) = .both →
    (let u := atSysAccess s n
     formedWord u n i = some w → writtenWord u n w = some v →
     (n = 0 → modeOf s.core = 0 → (w ^^^ s.core.sys.status) &&& 0xCE00#64 = 0) →
     (n = 0x040 ∨ n = 0x041 → s.core.sc.spilled = 0) → (0x060 ≤ n → n ≤ 0x067 → (getQ s.core (n - 0x060)).cmd = []) →
     ∃ t, exec i s = .next t ∧ sysGet t n = v ∧ (∀ m, m ≠ n → (n = 0x012 → m ≠ 0x0A0) → sysGet t m = sysGet u m) ∧
      t.core.pc = s.core.issue.npc ∧ SysFrame u t n)) ∧
  (∀ (i : Instr) (w : W64) (s : State), sysNumber i = some 0 → modeOf s.core = 0 → formedWord s 0 i = some w →
    (w ^^^ s.core.sys.status) &&& 0xCE00#64 ≠ 0 → Plain s → SpillFits s.core.sc →
    ∃ t, exec i s = .next t ∧ InSystem s t 0x02 (BitVec.ofNat 64 (2 ^ 63)) s.core.pc) ∧
  (∀ (i : Instr) (n : Nat) (w : W64) (s : State), sysNumber i = some n → n = 0x040 ∨ n = 0x041 → formedWord s n i = some w →
    s.core.sc.spilled ≠ 0 → Plain s → SpillFits s.core.sc →
    (modeOf s.core = 0 ∨ (modeOf s.core = 1 ∧ s.core.sys.status.toNat / 2 ^ 14 % 2 = 0) →
      ∃ t, exec i s = .next t ∧ InSystem s t 0x08 (BitVec.ofNat 64 (2 * 2 ^ 62 + n)) s.core.pc) ∧
    (modeOf s.core = 2 → s.core.sys.status.toNat / 2 ^ 15 % 2 = 0 →
      ∃ t, exec i s = .next t ∧ InMonitor s t 0x08 false (BitVec.ofNat 64 (2 * 2 ^ 62 + n)) s.core.pc)) ∧
  (∀ (i : Instr) (n : Nat) (w : W64) (s : State), sysNumber i = some n → sysAccess n (modeOf s.core) = .read → modeOf s.core ≠ 0 →
    formedWord s n i = some w →
    ∃ t, exec i s = .next t ∧ t.core.pc = s.core.issue.npc ∧ KeepsAllBut s t [])

/-- R225, R232, R247: in task mode an access to a register R225 does not give it, and a write of one it may only read, trap
with cause 0x02, whose TVAL holds bit 63 and the register number. -/
def Obligations.SystemRegisterRefused : Prop :=
  ∀ (i : Instr) (n : Nat) (s : State), sysNumber i = some n → n < 4096 → Plain s → SpillFits s.core.sc →
    modeOf s.core = 0 →
    (sysAccess n 0 = .none ∨ (sysAccess n 0 = .read ∧ ∀ d imm, i ≠ .srr d imm)) →
    ∃ t, exec i s = .next t ∧ InSystem s t 0x02 (BitVec.ofNat 64 (2 ^ 63 + n)) s.core.pc

/-! ## Exceptions -/

/-- R230 to R232, R249: TRAP and BRK save the next instruction, the cause, the code, and mode and interrupt gate. From task
mode they enter the system bank; from system mode a system call, and any other cause while the system bank is in use, enter
the monitor bank, only the latter with DBL. In monitor mode with MBANK set a cause halts the core, leaves the bank's registers
as they were, and Deluk is told the core and the cause. -/
def Obligations.SoftwareTraps : Prop :=
  (∀ (i : Instr) (cause : Nat) (code : W64) (s : State), softwareTrap i = some (cause, code) → Plain s →
    SpillFits s.core.sc → modeOf s.core = 0 → (getDbg s s.core.pos).brkHalt = false →
    ∃ t, exec i s = .next t ∧ InSystem s t cause code s.core.issue.npc) ∧
  (∀ (i : Instr) (cause : Nat) (code : W64) (s : State), softwareTrap i = some (cause, code) → Plain s →
    SpillFits s.core.sc → modeOf s.core = 1 → (getDbg s s.core.pos).brkHalt = false →
    (cause = 0x0E ∨ s.core.sys.status.toNat / 2 ^ 14 % 2 = 1) →
    ∃ t, exec i s = .next t ∧ InMonitor s t cause (cause != 0x0E) code s.core.issue.npc) ∧
  (∀ (i : Instr) (cause : Nat) (code : W64) (s : State), softwareTrap i = some (cause, code) → Plain s →
    modeOf s.core = 2 → s.core.sys.status.toNat / 2 ^ 15 % 2 = 1 → (getDbg s s.core.pos).brkHalt = false →
    ∃ t, exec i s = .next t ∧ t.core.run = .halted ∧ t.core.sys = s.core.sys ∧
      .halt s.core.num (BitVec.ofNat 8 cause) ∈ t.out.deluk)

/-- R56, R232: an instruction that is privileged as a whole traps with cause 0x02 in task mode, whose TVAL holds the base
word and the number of words before it. -/
def Obligations.PrivilegedInstructionTraps : Prop :=
  ∀ (i : Instr) (m : Nat) (s : State), privilegedIn i = some m → Plain s → SpillFits s.core.sc → modeOf s.core = 0 →
    ∃ t, exec i s = .next t ∧
      InSystem s t 0x02 (BitVec.ofNat 64 (s.core.issue.idx * 65536 + s.core.issue.word.toNat)) s.core.pc

/-- R85, R248, R453: TRET moves the window back, reloading it from WSP when it is not resident, restores the mode and the interrupt
gate of its bank from SLINK or MONLINK, clears SBANK or MBANK, and goes to EPC or MONPC; with IDLE set it clears IDLE and makes the
core idle instead, in one empty window. Every other field of STATUS is as it was. An odd EPC traps with cause 0x03, and a TRET with
no window to move back to with cause 0x08 of kind 1. -/
def Obligations.TrapReturnFromSystem : Prop :=
  (∀ (s : State) (link epc : W64) (gate bank : Nat), Plain s → ReturnsFrom s link epc gate bank → WindowBelow s →
    (link.toNat / 8 % 2 = 0 → epc.toNat % 2 = 0) →
    ∃ t, exec .tret s = .next t ∧ t.core.fbuf = none ∧ t.core.rreg = none ∧
      t.core.sys.status.toNat % 4 = link.toNat % 4 ∧ t.core.sys.status.toNat / 2 ^ gate % 2 = link.toNat / 4 % 2 ∧
      t.core.sys.status.toNat / 2 ^ bank % 2 = 0 ∧
      (∀ k, 2 ≤ k → k ≠ gate → k ≠ bank → t.core.sys.status.toNat / 2 ^ k % 2 = s.core.sys.status.toNat / 2 ^ k % 2) ∧
      (∀ r : Reg, r.toNat < 8 → t.x r = (landAll s).x r) ∧
      t.core.sys.epc = s.core.sys.epc ∧ t.core.sys.monpc = s.core.sys.monpc ∧ KeepsV (landAll s) t [] ∧
      (NoTrace s → KeepsBytes s t) ∧
      (link.toNat / 8 % 2 = 0 → t.core.pc = epc ∧ (s.core.run = .running → t.core.run = .running) ∧ WindowClosed s t) ∧
      (link.toNat / 8 % 2 = 1 → t.core.run = .idle ∧ t.core.sc.res = 1 ∧ t.core.sc.spilled = 0 ∧ (∀ r : Reg, 8 ≤ r.toNat → t.x r = 0) ∧
        (modeOf s.core = 1 → t.core.sys.slink.toNat / 8 % 2 = 0) ∧ (modeOf s.core = 2 → t.core.sys.monlink.toNat / 8 % 2 = 0))) ∧
  (∀ s : State, Plain s → modeOf s.core = 1 → s.core.sys.slink.toNat / 8 % 2 = 0 → s.core.sys.epc.toNat % 2 = 1 → SpillFits s.core.sc →
    s.core.sys.status.toNat / 2 ^ 14 % 2 = 1 →
    ∃ t, exec .tret s = .next t ∧ InMonitor s t 0x03 true s.core.sys.epc s.core.pc) ∧
  (∀ s : State, Plain s → 1 ≤ modeOf s.core → s.core.sc.res = 1 → s.core.sc.spilled = 0 →
    (modeOf s.core = 1 → s.core.sys.epc.toNat % 2 = 0 ∧ s.core.sys.status.toNat / 2 ^ 14 % 2 = 1) →
    (modeOf s.core = 2 → s.core.sys.monpc.toNat % 2 = 0 ∧ s.core.sys.status.toNat / 2 ^ 15 % 2 = 0) →
    ∃ t, exec .tret s = .next t ∧ InMonitor s t 0x08 (modeOf s.core == 1) (BitVec.ofNat 64 (2 ^ 62)) s.core.pc)

/-- R231, R248: a TRET directly after a system call from task mode returns to the instruction after it, in task mode, with
SYSINT and every register as they were. -/
def Obligations.TrapReturnUndoesTrap : Prop :=
  ∀ (code : W64) (s t u : State), Plain s → s.core.pend = [] → modeOf s.core = 0 → s.core.sc.res < 8 →
    s.core.issue.npc.toNat % 2 = 0 → exec (.trap code) s = .next t → exec .tret t = .next u →
    u.core.pc = s.core.issue.npc ∧ modeOf u.core = 0 ∧ KeepsX s u [] ∧ KeepsWindow s u ∧
      u.core.sys.status.toNat / 2 ^ 10 % 2 = s.core.sys.status.toNat / 2 ^ 10 % 2

/-- R251: HALT is F920 3002. In monitor mode it completes and the core is halted; leaving that state raises 0x83. Elsewhere it
traps with cause 0x02. -/
def Obligations.HaltInMonitorMode : Prop :=
  decodeInstr [0xF920, 0x3002] = some .halt ∧
  (∀ s : State, modeOf s.core = 2 →
    ∃ t, exec .halt s = .next t ∧ t.core.pc = s.core.issue.npc ∧ t.core.run = .halted ∧ KeepsX (landAll s) t [] ∧
      KeepsV (landAll s) t [] ∧ t.core.sys = s.core.sys ∧ KeepsBytes s t) ∧
  (∀ (n : Nat) (s : State), coreAt s s.arg.a = n → (getCore s n).num = n → (getCore s n).pos = s.arg.a →
    (getCore s n).run = .halted → (getCore s n).former ≠ .halted →
    ∃ t, exec .debugResume s = .next t ∧ (getCore t n).run ≠ .halted ∧ (getCore t n).ev.p83.isSome = true) ∧
  (∀ s : State, Plain s → SpillFits s.core.sc →
    (modeOf s.core = 0 ∨ (modeOf s.core = 1 ∧ s.core.sys.status.toNat / 2 ^ 14 % 2 = 0) →
      ∃ t, exec .halt s = .next t ∧
        InSystem s t 0x02 (BitVec.ofNat 64 (s.core.issue.idx * 65536 + s.core.issue.word.toNat)) s.core.pc) ∧
    (modeOf s.core = 1 → s.core.sys.status.toNat / 2 ^ 14 % 2 = 1 →
      ∃ t, exec .halt s = .next t ∧
        InMonitor s t 0x02 true (BitVec.ofNat 64 (s.core.issue.idx * 65536 + s.core.issue.word.toNat)) s.core.pc))

/-! ## Loads, stores and atomics -/

/-- R59, R157, R160: an aligned load of the own local memory completes; two cycles after issue its destination holds the
bytes at LEA's address zero-extended, and until then every register reads as it did. -/
def Obligations.LoadFromOwnMemory : Prop :=
  ∀ (i : Instr) (d : Reg) (ea : W64) (n : Nat) (s : State), plainLoad s i = some (d, ea, n) →
    OwnAccess s ea n → OwnReadable s ea n → NoPendX s d →
    ∃ t, exec i s = .next t ∧ t.core.pc = s.core.issue.npc ∧ AccessFrame s t [] 0 0 ∧
      (∀ m, s.cycle + 2 ≤ m → xAt t m d = if d = 0 then 0 else wordOf (mread s.mem (ownKey s ea) n)) ∧
      (∀ m, m < s.cycle + 2 → xAt t m d = s.x d) ∧ (∀ m r, r ≠ d → xAt t m r = xAt s m r)

/-- R161, R166, R204: the interlocked loads complete with the bytes at x[a], zero-extended, in their destination. WAITA on a
word of the own local memory completes at once when the word differs from x[d], with the word sign-extended; otherwise the
core waits at it, with nothing changed. -/
def Obligations.InterlockedLoadAndWait : Prop :=
  (∀ (i : Instr) (d : Reg) (ea : W64) (n : Nat) (s : State), heldLoad s i = some (d, ea, n) →
    OwnAccess s ea n → OwnReadable s ea n → NoPendX s d → ((∃ z a, i = .ldf z d a) → s.core.mail.mcast = []) →
    ∃ t, exec i s = .next t ∧ t.core.pc = s.core.issue.npc ∧ AccessFrame (countedFar s i) t [d] 0 0 ∧
      t.x d = if d = 0 then 0 else wordOf (mread s.mem (ownKey s ea) n)) ∧
  (∀ (z : Wd) (d a b : Reg) (s : State), OwnAccess s (s.x a) (wdBytes z) → OwnReadable s (s.x a) (wdBytes z) →
    NoPendX s d → s.core.wait = none →
    let old := BitVec.ofNat (8 * wdBytes z) (ofBytes (mread s.mem (ownKey s (s.x a)) (wdBytes z)))
    (old ≠ BitVec.ofNat (8 * wdBytes z) (s.x d).toNat →
      ∃ t, exec (.waita z d a b) s = .next t ∧ t.core.pc = s.core.issue.npc ∧ AccessFrame s t [d] 0 0 ∧
        t.x d = if d = 0 then 0 else old.signExtend 64) ∧
    (old = BitVec.ofNat (8 * wdBytes z) (s.x d).toNat →
      ∃ t, exec (.waita z d a b) s = .next t ∧ t.core.pc = s.core.pc ∧ t.core.run = .waiting ∧ AccessFrame s t [] 0 0))

/-- R157, R158, R160, R176: an aligned store into the own local memory, to a location that no write still on its way has to reach
before it, completes: the low bytes of x[d] stand at LEA's address, lowest first, and every other byte is as before. -/
def Obligations.StoreToOwnMemory : Prop :=
  ∀ (i : Instr) (ea : W64) (n : Nat) (w : W64) (s : State), plainStore s i = some (ea, n, w) →
    OwnAccess s ea n → s.core.marks = [] → OwnWritable s ea n →
    ∃ t, exec i s = .next t ∧ t.core.pc = s.core.issue.npc ∧ AccessFrame s t [] (ownKey s ea) n ∧
      mread t.mem (ownKey s ea) n = bytesOf w.toNat n

/-- R173, R177, R203, R205: with nothing of the core on its way, STRL completes at every scope: the store stands in the own
local memory and, at .device and .system, the release counter of the die has stepped before it. -/
def Obligations.StoreReleaseToOwnMemory : Prop :=
  ∀ (c : Scope) (z : Sz) (d a : Reg) (s : State), OwnAccess s (s.x a) (szBytes z) → OwnWritable s (s.x a) (szBytes z) →
    Settled s →
    ∃ t, exec (.strl c z d a) s = .next t ∧ t.core.pc = s.core.issue.npc ∧ KeepsX s t [] ∧ KeepsV s t [] ∧
      t.core.sys = s.core.sys ∧ KeepsBytesBut s t (ownKey s (s.x a)) (szBytes z) ∧
      mread t.mem (ownKey s (s.x a)) (szBytes z) = bytesOf (s.x d).toNat (szBytes z) ∧
      (4 ≤ scopeCode c → (getDie s (dieOf s.core.pos)).lastStep ≠ some s.cycle → releaseCount t = releaseCount s + 1)

/-- R162 to R165: ATOM, CAS and BINC on a word of the own local memory complete: the destination holds the old word
sign-extended, the word its new value, and every other byte and register is as before. -/
def Obligations.AtomicOnOwnMemory : Prop :=
  ∀ (i : Instr) (op : AOp) (d : Reg) (ea : W64) (n : Nat) (arg : W64) (s : State),
    atomicOf s i = some (op, d, ea, n, arg) → d ≠ 0 → OwnAccess s ea n → OwnReadable s ea n → NoPendX s d →
    let old := BitVec.ofNat (8 * n) (ofBytes (mread s.mem (ownKey s ea) n))
    ∃ t, exec i s = .next t ∧ t.core.pc = s.core.issue.npc ∧ AccessFrame s t [d] (ownKey s ea) n ∧
      t.x d = old.signExtend 64 ∧
      mread t.mem (ownKey s ea) n =
        bytesOf (atomicWord op old (BitVec.ofNat (8 * n) (s.x d).toNat) (BitVec.ofNat (8 * n) arg.toNat)).toNat n

/-- R158, R161, R162: far accesses and posted atomics complete as one packet on its way to the word's home, even in the own
local memory; no register and no byte of memory has changed when they retire. -/
def Obligations.FarAccessLeavesAsPacket : Prop :=
  ∀ (i : Instr) (ea : W64) (n : Nat) (body : Body) (s : State), sentAccess s i = some (ea, n, body) →
    OwnAccess s ea n → CanSend s →
    ∃ t, exec i s = .next t ∧ t.core.pc = s.core.issue.npc ∧ t.net = s.net ++ [corePacket s ea body] ∧
      KeepsX s t [] ∧ KeepsV s t [] ∧ t.core.sys = s.core.sys ∧ KeepsWindow s t ∧ KeepsBytes s t ∧
      t.others = s.others ∧ t.un = s.un ∧ t.core.tagged = s.core.tagged +
        (match i with | .ldfTagged _ _ _ => 1 | _ => 0)

/-- R89, R135, R157: before any register or byte changes, a misaligned scalar access traps with cause 0x03 and its address in
TVAL, and a vector access does so for its lowest masked-on unit when that is misaligned. -/
def Obligations.MisalignedAccessTraps : Prop :=
  (∀ (i : Instr) (ea : W64) (n : Nat) (s : State), scalarAccess s i = some (ea, n) → ea.toNat % n ≠ 0 → Plain s →
    SpillFits s.core.sc → modeOf s.core = 0 →
    ∃ t, exec i s = .next t ∧ InSystem s t 0x03 ea s.core.pc) ∧
  (∀ (i : Instr) (ty : ETy) (d : Reg) (m : Msk) (ea : Nat → W64) (k : Nat) (s : State),
    (vectorLoad s i = some (ty, d, m, ea) ∨ vectorStore s i = some (ty, d, m, ea)) →
    UnitOn s ty m k → (∀ j, j < k → ¬ UnitOn s ty m j) → (ea k).toNat % unitBytes ty ≠ 0 → Plain s →
    SpillFits s.core.sc → modeOf s.core = 0 →
    ∃ t, exec i s = .next t ∧ InSystem s t 0x03 (ea k) s.core.pc)

/-- R146, R246: outside the monitor an access to the local memory of a core outside the context's range freezes the core,
with the pc at the access and no register changed but by results that were still on their way. -/
def Obligations.AccessOutsideContextFreezes : Prop :=
  ∀ (i : Instr) (ea : W64) (n : Nat) (s : State), scalarAccess s i = some (ea, n) → ea.toNat % n = 0 →
    ea.toNat / 2 ^ 62 = 2 → ea.toNat / 2 ^ 16 % 2 ^ 21 = 0 → ea.toNat / 2 ^ 37 % 2 ^ 25 ≠ s.core.num →
    modeOf s.core ≠ 2 → noCtx s.core = false → inRange s (curCtx s.core) (ea.toNat / 2 ^ 37 % 2 ^ 25) = false →
    ∃ t, exec i s = .next t ∧ t.core.run = .frozen ∧ t.core.pc = s.core.pc ∧ KeepsX (landAll s) t [] ∧
      KeepsV (landAll s) t [] ∧ t.core.sys = s.core.sys

/-- R159, R174, R177, R203: with nothing of the core on its way, every FENCE completes and changes no register and no byte; a
full or release fence at .device or .system steps the die's release counter. While a failed store is held, every FENCE traps
with cause 0x04 and its address, and clears it. -/
def Obligations.FencesAndFailedStores : Prop :=
  (∀ (i : Instr) (c : Scope) (s : State), (i = .fence c ∨ i = .fenceAcq c ∨ i = .fenceRel c) → Settled s →
    ∃ t, exec i s = .next t ∧ t.core.pc = s.core.issue.npc ∧ KeepsX s t [] ∧ KeepsV s t [] ∧ t.core.sys = s.core.sys ∧
      KeepsBytes s t ∧ t.core.marks = [] ∧
      (i ≠ .fenceAcq c → 4 ≤ scopeCode c → (getDie s (dieOf s.core.pos)).lastStep ≠ some s.cycle →
        releaseCount t = releaseCount s + 1)) ∧
  (∀ (i : Instr) (c : Scope) (addr : W64) (s : State), (i = .fence c ∨ i = .fenceAcq c ∨ i = .fenceRel c) →
    s.core.ev.ferr = some addr → Plain s → SpillFits s.core.sc → modeOf s.core = 0 →
    ∃ t, exec i s = .next t ∧ InSystem s t 0x04 addr s.core.pc ∧ t.core.ev.ferr = none)

/-- R82, R167 to R169: PREF completes at once and writes no register, whatever its address; IFENCE completes with the fetch
buffer and the return register empty; DISCARD of a range inside one page that the core's TLB maps for writing completes: the
lines wholly inside it are gone from L2 and every RDC, x[a] names the end of the range and x[b] is zero. -/
def Obligations.PrefetchDiscardAndFetchFence : Prop :=
  (∀ (c : Code3) (a : Reg) (imm : W64) (s : State),
    ∃ t, exec (.pref c a imm) s = .next t ∧ t.core.pc = s.core.issue.npc ∧ KeepsX s t [] ∧ KeepsV s t [] ∧
      t.core.sys = s.core.sys ∧ KeepsWindow s t) ∧
  (∀ s : State, ∃ t, exec .ifence s = .next t ∧ t.core.pc = s.core.issue.npc ∧ t.core.fbuf = none ∧ t.core.rreg = none ∧
    KeepsAllBut s t []) ∧
  (∀ (a b : Reg) (e : TlbEnt) (s : State), a ≠ b → a ≠ 0 → 0 < (s.x b).toNat → (s.x a).toNat + (s.x b).toNat ≤ 2 ^ 52 →
    s.core.tlb.find? (fun f => f.serves (curAsid s.core) (s.x a).toNat) = some e → permits e .store (inTask s.core) = true →
    ((s.x a).toNat + (s.x b).toNat - 1) / 2 ^ pageBits e.size = (s.x a).toNat / 2 ^ pageBits e.size → s.mu.excl = [] →
    let key := (leafPlace e (s.x a).toNat).2
    ∃ t, exec (.discard a b) s = .next t ∧ t.core.pc = s.core.issue.npc ∧ KeepsX s t [a, b] ∧ t.x a = s.x a + s.x b ∧
      t.x b = 0 ∧
      (∀ line, key ≤ line * 64 → line * 64 + 64 ≤ key + (s.x b).toNat →
        (leafPlace e (s.x a).toNat).1.paged = true →
          tget t.mu.l2 line = none ∧ ∀ die, die < 4 → tget t.mu.rdc (rdcKey line die) = none))

/-! ## Vectors -/

/-- R106, R109, R124: the integer and bitwise vector instructions complete; each element of the destination is f(i) modulo
2^w where the mask is on, and nothing else changes, flags included. That VSAR brings zeros into an element of an unsigned type is
the model's reading (log 14). -/
def Obligations.IntegerVectorResult : Prop :=
  ∀ (i : Instr) (ty : ETy) (d : Reg) (m : Msk) (f : Nat → Nat) (s : State), integerLane s i = some (ty, d, m, f) →
    (ty.isI || ty.isN) = true → QuietV s d →
    ∃ t, exec i s = .next t ∧ t.core.pc = s.core.issue.npc ∧ KeepsAllBut s t [] ∧
      (∀ n, s.cycle + 4 ≤ n → GivesV s t n d (tyWidth ty) (underMask s m (tyWidth ty) d f)) ∧
      (∀ n, n < s.cycle + 2 → vAt t n d = vAt s n d) ∧
      (∀ n r, r ≠ d → ¬ SameFrame s r d → vAt t n r = vAt s n r)

/-- R127 to R129, R138: VCMP of an integer type writes one mask bit for each element and zero above them; VSEL takes each
element from v[a] where the mask is on and from v[b] where it is off; the mask instructions leave a mask in bits 63:0 or a
count in a scalar register; an integer VRED.sum leaves in element 0 the sum of the elements that are on, modulo 2^w. -/
def Obligations.CompareSelectMaskAndSum : Prop :=
  (∀ (c : Cond) (ty : ETy) (d a b : Reg) (m : Msk) (s : State), (ty.isI || ty.isN) = true → QuietV s d →
    ∃ t, exec (.vcmp c ty d a b m) s = .next t ∧ t.core.pc = s.core.issue.npc ∧ KeepsAllBut s t [] ∧
      ∀ n, s.cycle + 2 ≤ n → GivesV s t n d 1 (fun i =>
        if i < 512 / tyWidth ty then
          (if mskOn s m (tyWidth ty) i || m.ag then
            (if integerCond c (laneInt ty (elem (s.v a) (tyWidth ty) i)) (laneInt ty (elem (s.v b) (tyWidth ty) i)) then 1 else 0)
          else elem (s.v d) 1 i)
        else 0)) ∧
  (∀ (ty : ETy) (d a b : Reg) (m : Msk) (s : State), QuietV s d →
    ∃ t, exec (.vsel ty d a b m) s = .next t ∧ t.core.pc = s.core.issue.npc ∧ KeepsAllBut s t [] ∧
      ∀ n, s.cycle + 2 ≤ n → GivesV s t n d (tyWidth ty) (fun i =>
        if mskOn s m (tyWidth ty) i then elem (s.v a) (tyWidth ty) i else elem (s.v b) (tyWidth ty) i)) ∧
  (∀ (i : Instr) (d : Reg) (w : W64) (s : State), maskResult s i = some (d, w) → QuietV s d →
    ∃ t, exec i s = .next t ∧ t.core.pc = s.core.issue.npc ∧ KeepsAllBut s t [] ∧
      ∀ n, s.cycle + 2 ≤ n → (Holds s d → vAt t n d = w.setWidth 512) ∧ (¬ Holds s d → vAt t n d = 0)) ∧
  (∀ (i : Instr) (d : Reg) (w : W64) (s : State), maskCount s i = some (d, w) → NoPendX s d →
    ∃ t, exec i s = .next t ∧ t.core.pc = s.core.issue.npc ∧ KeepsAllBut s t [] ∧
      ∀ n, s.cycle + 2 ≤ n → xAt t n d = if d = 0 then 0 else w) ∧
  (∀ (ty : ETy) (d a : Reg) (m : Msk) (s : State), (ty.isI || ty.isN) = true → QuietV s d →
    ∃ t, exec (.vred .sum ty d a m) s = .next t ∧ t.core.pc = s.core.issue.npc ∧ KeepsAllBut s t [] ∧
      ∀ n, s.cycle + 6 ≤ n → GivesV s t n d (tyWidth ty) (fun i => if i = 0 then
        wrapTo (tyWidth ty) (((List.range (512 / tyWidth ty)).filter (fun k => mskOn s m (tyWidth ty) k)).map
          (fun k => laneInt ty (elem (s.v a) (tyWidth ty) k))).sum else 0))

/-- R132: VPERM, VBCAST and VINS complete with the elements the rule gives, an index taken modulo n; VEXT completes with the
element sign-extended for an I type and zero-extended otherwise. -/
def Obligations.ElementMoves : Prop :=
  (∀ (i : Instr) (ty : ETy) (d : Reg) (m : Msk) (f : Nat → Nat) (s : State), moveLane s i = some (ty, d, m, f) →
    QuietV s d →
    ∃ t, exec i s = .next t ∧ t.core.pc = s.core.issue.npc ∧ VectorFrame s t [] [d] ∧
      GivesV s t s.cycle d (tyWidth ty) (underMask s m (tyWidth ty) d f)) ∧
  (∀ (ty : ETy) (d a b : Reg) (s : State), NoPendX s d →
    let e := elem (s.v a) (tyWidth ty) ((s.x b).toNat % (512 / tyWidth ty))
    ∃ t, exec (.vext ty d a b) s = .next t ∧ t.core.pc = s.core.issue.npc ∧ KeepsAllBut s t [d] ∧
      t.x d = if d = 0 then 0 else BitVec.ofInt 64 (laneInt ty e))

/-- R34, R58, R109: every vector instruction between registers completes at once on any operand values, changes no register
but its destination, sets flags in FFLAGS and clears none. -/
def Obligations.VectorCompletesAndFrame : Prop :=
  ∀ (i : Instr) (vs xs : List Reg) (s : State), vectorResult i = some (vs, xs) → (∀ d ∈ vs, QuietV s d) →
    ∃ t, exec i s = .next t ∧ t.core.pc = s.core.issue.npc ∧ VectorFrame s t xs vs

/-- R25, R26, R34, R35, R36, R38, R39, R58, R125, R129 to R131: in a floating-point operation (types f32, f16 and bf16) an on element with a
NaN operand becomes the canonical NaN of the type and an off one keeps its value outside agnostic mode. VADD, VSUB, VMUL, VFMA, VFMS and VFNMA give in each on
element the exact result rounded once by FRM, infinities and exact zeros as the rules say; the flags of the on elements go into FFLAGS and
no other does. VCVT converts the low n elements, n from the wider type, and the bits above them become zero. VRED.sum combines the lanes in
the pairwise tree with -0 for an off element and leaves zero in every other element. VSCAN.sum gives element i the trees of the first
i + 1 lanes, largest first; that a lone leaf keeps its code is the model's choice (log 48). -/
def Obligations.FloatingPointResult : Prop :=
  (∀ (i : Instr) (ty : ETy) (d : Reg) (m : Msk) (ops : List Reg) (s : State), floatOperands i = some (ty, d, m, ops) →
     ty ∈ [ETy.f32, .f16, .bf16] → QuietV s d → Holds s d →
     ∃ t, exec i s = .next t ∧ t.core.pc = s.core.issue.npc ∧
       ∀ n, s.cycle + 4 ≤ n → ∀ k, k < 512 / tyWidth ty →
         (mskOn s m (tyWidth ty) k = true → (∃ a ∈ ops, nanCode ty (elem (s.v a) (tyWidth ty) k) = true) →
           elem (vAt t n d) (tyWidth ty) k = canonicalNaN ty) ∧
         (mskOn s m (tyWidth ty) k = false → m.ag = false →
           elem (vAt t n d) (tyWidth ty) k = elem (s.v d) (tyWidth ty) k)) ∧
  (∀ (i : Instr) (ty : ETy) (d : Reg) (m : Msk) (lat : Nat) (f : Nat → Nat × Flags) (s : State),
    floatLane s i = some (ty, d, m, lat, f) → ty ∈ [ETy.f32, .f16, .bf16] → QuietV s d →
    ∃ t, exec i s = .next t ∧ t.core.pc = s.core.issue.npc ∧ VectorFrame s t [] [d] ∧
      t.core.sys.fflags = s.core.sys.fflags ||| (onFlags s m (tyWidth ty) (512 / tyWidth ty) f).zeroExtend 64 ∧
      ∀ n, s.cycle + lat ≤ n → GivesV s t n d (tyWidth ty) (underMask s m (tyWidth ty) d (fun k => (f k).1))) ∧
  (∀ (td ts : ETy) (d a : Reg) (m : Msk) (s : State), QuietV s d →
    let count := 512 / max (tyWidth td) (tyWidth ts)
    let f := fun k => rnd td (dec ts (elem (s.v a) (tyWidth ts) k) (xval s)) (frm s)
    ∃ t, exec (.vcvt td ts d a m) s = .next t ∧ t.core.pc = s.core.issue.npc ∧ VectorFrame s t [] [d] ∧
      t.core.sys.fflags = s.core.sys.fflags ||| (onFlags s m (tyWidth td) count f).zeroExtend 64 ∧
      ∀ n, s.cycle + 3 ≤ n → GivesV s t n d (tyWidth td) (fun k =>
        if k < count then underMask s m (tyWidth td) d (fun j => (f j).1) k else 0)) ∧
  (∀ (ty : ETy) (d a : Reg) (m : Msk) (s : State), ty ∈ [ETy.f32, .f16, .bf16] → QuietV s d →
    let r := laneTree (sumStep ty (frm s)) (sumLeaf s ty a m) (treeLevels ty) 0
    ∃ t, exec (.vred .sum ty d a m) s = .next t ∧ t.core.pc = s.core.issue.npc ∧ VectorFrame s t [] [d] ∧
      t.core.sys.fflags = s.core.sys.fflags ||| r.2.zeroExtend 64 ∧
      ∀ n, s.cycle + 6 ≤ n → GivesV s t n d (tyWidth ty) (fun k => if k = 0 then r.1 else 0)) ∧
  (∀ (ty : ETy) (d a : Reg) (m : Msk) (s : State), ty ∈ [ETy.f32, .f16, .bf16] → QuietV s d →
    let f := fun k => (laneTrees (sumStep ty (frm s)) (sumLeaf s ty a m) (k + 1) 7 0 none).getD (0, 0)
    ∃ t, exec (.vscan .sum ty d a m) s = .next t ∧ t.core.pc = s.core.issue.npc ∧ VectorFrame s t [] [d] ∧
      t.core.sys.fflags = s.core.sys.fflags ||| (onFlags s m (tyWidth ty) (512 / tyWidth ty) f).zeroExtend 64 ∧
      ∀ n, s.cycle ≤ n → GivesV s t n d (tyWidth ty) (underMask s m (tyWidth ty) d (fun k => (f k).1)))

/-- R58, R133 to R135, R176: a vector load whose masked-on units lie in the own local memory completes; an on unit takes the bytes
at its address, an off unit keeps its old value, or reads zero in agnostic mode. A vector store does too; of units that share
an address the higher-numbered stays, and every byte no on unit covers is as before. -/
def Obligations.VectorLoadsAndStoresOfOwnMemory : Prop :=
  (∀ (i : Instr) (ty : ETy) (d : Reg) (m : Msk) (ea : Nat → W64) (s : State), vectorLoad s i = some (ty, d, m, ea) →
    (∀ k, UnitOn s ty m k → OwnAccess s (ea k) (unitBytes ty) ∧ OwnReadable s (ea k) (unitBytes ty)) → QuietV s d →
    ∃ t, exec i s = .next t ∧ t.core.pc = s.core.issue.npc ∧ VectorFrame s t [] [d] ∧
      ∀ n, s.cycle + 2 ≤ n → GivesV s t n d (8 * unitBytes ty) (fun k =>
        if mskOn s m 8 k then ofBytes (mread s.mem (ownKey s (ea k)) (unitBytes ty))
        else if m.ag then 0 else elem (s.v d) (8 * unitBytes ty) k)) ∧
  (∀ (i : Instr) (ty : ETy) (d : Reg) (m : Msk) (ea : Nat → W64) (s : State), vectorStore s i = some (ty, d, m, ea) →
    (∀ k, UnitOn s ty m k → OwnAccess s (ea k) (unitBytes ty) ∧ OwnWritable s (ea k) (unitBytes ty)) →
    s.core.marks = [] →
    ∃ t, exec i s = .next t ∧ t.core.pc = s.core.issue.npc ∧ KeepsX s t [] ∧ KeepsV s t [] ∧ t.core.sys = s.core.sys ∧
      t.others = s.others ∧ t.net = s.net ∧ (∃ j, t.un = { s.un with joins := j }) ∧
      (∀ k, UnitOn s ty m k → (∀ j, k < j → UnitOn s ty m j → ownKey s (ea j) ≠ ownKey s (ea k)) →
        mread t.mem (ownKey s (ea k)) (unitBytes ty) =
          bytesOf (elem (s.v d) (8 * unitBytes ty) k) (unitBytes ty)) ∧
      (∀ x, (∀ k, UnitOn s ty m k → x < ownKey s (ea k) ∨ ownKey s (ea k) + unitBytes ty ≤ x) →
        mget t.mem x = mget s.mem x))

/-! ## Frames and streams -/

/-- R110 to R113, R139 to R143: VCLAIM maps each named unmapped slot to a free frame of zeros; VYIELD unmaps the named slots
and their frames leave the table of those in use; VGIVE of a mapped slot offers its frame; VTAKE takes the oldest offer that
fits with its contents and delivers the giver; VFRAMES counts the free frames. No other register changes. R361, R365, R366:
STRM reads the four words of a descriptor and begins stream mode on v[d] at its first strip; STRMX ends it and delivers EXH
and the strips counted, or zero of a register that is in no stream mode. -/
def Obligations.FrameAndStreamInstructions : Prop :=
  (∀ (d : Code3) (s : State), s.core.wait = none → s.core.pend = [] → evictedSlots s.core.vec = [] →
    (getPool s (quadOf s.core.pos)).claims = [] → (getPool s (quadOf s.core.pos)).reloads = [] →
    (unmappedIn s.core.vec d.toNat).length ≤ (freeFrames (getPool s (quadOf s.core.pos))).length →
    ∃ t, exec (.vclaim d) s = .next t ∧ t.core.pc = s.core.issue.npc ∧ KeepsX s t [] ∧ t.core.sys = s.core.sys ∧
      KeepsWindow s t ∧ KeepsBytes s t ∧
      (∀ k, k ∈ unmappedIn s.core.vec d.toNat →
        (∃ f, t.core.vec.slot k = .mapped f ∧ f ∈ freeFrames (getPool s (quadOf s.core.pos)) ∧
          tget (getPool t (quadOf s.core.pos)).used f = some (s.core.num, k)) ∧
        ∀ r : Reg, slotOf r = k → t.v r = 0) ∧
      (∀ k, k ∉ unmappedIn s.core.vec d.toNat → t.core.vec.slot k = s.core.vec.slot k) ∧
      ∀ r : Reg, slotOf r ∉ unmappedIn s.core.vec d.toNat →
        (∀ f, s.core.vec.slot (slotOf r) = .mapped f → f ∉ freeFrames (getPool s (quadOf s.core.pos))) → t.v r = s.v r) ∧
  (∀ (d : Code3) (s : State), s.core.pend = [] →
    ∃ t, exec (.vyield d) s = .next t ∧ t.core.pc = s.core.issue.npc ∧ KeepsX s t [] ∧ t.core.sys = s.core.sys ∧
      KeepsWindow s t ∧ KeepsBytes s t ∧
      (∀ k, k ∈ slotsOf d.toNat → t.core.vec.slot k = .unmapped ∧
        ∀ f, s.core.vec.slot k = .mapped f → tget (getPool t (quadOf s.core.pos)).used f = none) ∧
      (∀ k, k ∉ slotsOf d.toNat → t.core.vec.slot k = s.core.vec.slot k) ∧
      (∀ r : Reg, t.v r = if slotOf r ∈ slotsOf d.toNat then 0 else s.v r)) ∧
  (∀ (a : Reg) (b : Code3) (f : Nat) (s : State), s.core.pend = [] → 1 ≤ b.toNat → b.toNat ≤ 3 →
    s.core.vec.slot b.toNat = .mapped f → (getPool s (quadOf s.core.pos)).takers = [] →
    (s.x a = BitVec.allOnes 64 ∨ (s.x a).toNat ∈ quadCores s (quadOf s.core.pos)) →
    ∃ t o, exec (.vgive a b) s = .next t ∧ t.core.pc = s.core.issue.npc ∧ KeepsX s t [] ∧ t.core.sys = s.core.sys ∧
      KeepsWindow s t ∧ KeepsBytes s t ∧ t.core.vec.slot b.toNat = .unmapped ∧
      (∀ r : Reg, slotOf r ≠ b.toNat → t.v r = s.v r) ∧ t.un.frames = s.un.frames ∧
      (getPool t (quadOf s.core.pos)).offers = (getPool s (quadOf s.core.pos)).offers ++ [o] ∧ o.frame = some f ∧
      o.giver = s.core.num ∧
      o.target = (if s.x a = BitVec.allOnes 64 then none else some (s.x a).toNat)) ∧
  (∀ (a : Reg) (b : Code3) (s : State), s.core.pend = [] → s.core.vec.slot b.toNat = .unmapped →
    (s.x a = BitVec.allOnes 64 ∨ (s.x a).toNat ∈ quadCores s (quadOf s.core.pos)) →
    ∃ t, exec (.vgive a b) s = .next t ∧ t.core.pc = s.core.issue.npc ∧ KeepsAllBut s t []) ∧
  (∀ (d : Reg) (b : Code3) (o : Offer) (f : Nat) (s : State), s.core.wait = none → s.core.pend = [] → 1 ≤ b.toNat →
    b.toNat ≤ 3 →
    (getPool s (quadOf s.core.pos)).offers.find? (fun p => p.target == none || p.target == some s.core.num) = some o →
    o.frame = some f →
    ∃ t, exec (.vtake d b) s = .next t ∧ t.core.pc = s.core.issue.npc ∧ KeepsX s t [d] ∧ t.core.sys = s.core.sys ∧
      KeepsWindow s t ∧ KeepsBytes s t ∧ Gives t d (BitVec.ofNat 64 o.giver) ∧ t.core.vec.slot b.toNat = .mapped f ∧
      (getPool t (quadOf s.core.pos)).offers = dropFirst (· == o) (getPool s (quadOf s.core.pos)).offers ∧
      t.un.frames = s.un.frames ∧
      (∀ r : Reg, slotOf r = b.toNat → t.v r = tgetD s.un.frames (frameKey (quadOf s.core.pos) f r.toNat) 0) ∧
      (∀ r : Reg, slotOf r ≠ b.toNat → t.v r = s.v r)) ∧
  (∀ (d : Reg) (s : State), NoPendX s d → d ≠ 0 →
    ∃ t, exec (.vframes d) s = .next t ∧ t.core.pc = s.core.issue.npc ∧ KeepsAllBut s t [d] ∧
      (t.x d).toNat % 2 ^ 9 = (freeFrames (getPool s (quadOf s.core.pos))).length) ∧
  (∀ (d a : Reg) (f : Nat) (s : State), s.core.vec.s3 = .mapped f → OwnBlock s (s.x a) 8 4 →
    (let w (i : Nat) : Nat := blockWord s (s.x a) 8 i
     w 1 / 2 ^ 32 % 2 ^ 16 ≠ 0 → w 1 / 2 ^ 48 ≠ 0 → w 3 % 2 ^ 16 ≠ 0 → w 3 / 2 ^ 17 = 0 →
      ∃ t x, exec (.strm d a) s = .next t ∧ t.core.pc = s.core.issue.npc ∧ UnitFrame s t [] ∧
        tget t.core.vec.streams d.toNat = some x ∧ x.base.toNat = w 0 ∧ x.s1.toNat = w 1 % 2 ^ 32 ∧
        x.c1.toNat = w 1 / 2 ^ 32 % 2 ^ 16 ∧ x.c2.toNat = w 1 / 2 ^ 48 ∧ x.s2.toNat = w 2 % 2 ^ 32 ∧
        x.s3.toNat = w 2 / 2 ^ 32 ∧ x.c3.toNat = w 3 % 2 ^ 16 ∧ (x.dir = true ↔ w 3 / 2 ^ 16 % 2 = 1) ∧
        x.i1 = 0 ∧ x.i2 = 0 ∧ x.i3 = 0 ∧ x.count = 0 ∧ x.exh = false)) ∧
  (∀ (d a : Reg) (x : Stream) (s : State), NoPendX s d → tget s.core.vec.streams a.toNat = some x →
    ∃ t, exec (.strmx d a) s = .next t ∧ t.core.pc = s.core.issue.npc ∧ UnitFrame s t [d] ∧
      Gives t d (BitVec.ofNat 64 ((if x.exh then 2 ^ 63 else 0) + x.count)) ∧ tget t.core.vec.streams a.toNat = none) ∧
  (∀ (d a : Reg) (s : State), NoPendX s d → tget s.core.vec.streams a.toNat = none →
    ∃ t, exec (.strmx d a) s = .next t ∧ t.core.pc = s.core.issue.npc ∧ KeepsAllBut s t [d] ∧ Gives t d 0)

/-! ## Messages and queues -/

/-- R253, R256, R271, R272: SEND, its short form, SENDB and MCAST complete as messages on their way to their receivers, each
with the 16 header bytes R253 gives and the payload of v[d]; MCAST sends one copy to each member of its group, in ascending
order of logical number. -/
def Obligations.SendsLeaveAsMessages : Prop :=
  (∀ (i : Instr) (cls : Nat) (w : W512) (xa xb : W64) (att : Option Att) (s : State),
    sending s i = some (cls, w, xa, xb, att) → SendOk s cls xa xb → xa.toNat / 2 ^ 25 % 2 ^ 7 = 0 →
    (∀ from_ off, att = some (.read from_ off) → AttachOk s xa from_ off) → MayReach s (xa.toNat % 2 ^ 25) →
    interfaceFull s = false → CanSend s →
    ∃ t p m, exec i s = .next t ∧ t.core.pc = s.core.issue.npc ∧ UnitFrame s t [] ∧ t.net = s.net ++ [p] ∧
      p.src = .core s.core.num ∧ p.st = .flying ∧ p.body = .msg (xa.toNat % 2 ^ 25) m att ∧
      IsMessage m (headerOf s cls (if cls = 2 then xa.toNat / 2 ^ 48 % 2 ^ 8 else 0) (xa.toNat / 2 ^ 32 % 2 ^ 16) xb.toNat) w) ∧
  (∀ (c : MCls) (d a b : Reg) (g : Group) (s : State), SendOk s (mclsCode c) (s.x a) (s.x b) →
    (s.x a).toNat / 2 ^ 16 % 2 ^ 16 = 0 → tget s.un.groups ((s.x a).toNat % 2 ^ 16) = some g → g.kind = 1 → g.live = true →
    g.ctx = ctxNum s.core → (∀ n ∈ g.members, n < nCores) → inInterface s < 8 → inInterface s + g.members.length ≤ 8 →
    CanSend s →
    ∃ t ps m, exec (.mcast c d a b) s = .next t ∧ t.core.pc = s.core.issue.npc ∧ UnitFrame s t [] ∧ t.net = s.net ++ ps ∧
      t.core.mail.mcast = [] ∧
      ps.map (·.body) = (sortBy (fun x y => decide (x ≤ y)) g.members).map (fun n => .msg n m none) ∧
      IsMessage m (headerOf s (mclsCode c) 0 ((s.x a).toNat / 2 ^ 32 % 2 ^ 16) (s.x b).toNat) (s.v d))

/-- R259, R260, R273, R87: DONE and its short form end the handler. The first message the order of R259 gives is dispatched:
pc at its handler, SENDER, TAG and STIME in x8 to x10, x11 to x31 zero, its payload and header in v0, one window with WSP at
WLIMIT.BASE. With no message and no item the core is idle. -/
def Obligations.DoneDispatchesOrIdles : Prop :=
  ∀ (i : Instr) (s : State), (i = .done ∨ i = .doneShort) → CanEnd s →
    (∀ m r, candidates s.core.mail = m :: r →
      ∃ t, exec i s = .next t ∧
        t.core.pc = handlerPc s.core.num
          (if m.cls = 1 then (tagBound s.core.mail m.tag).getD m.handler else m.handler) ∧
        t.x 8 = m.sender.zeroExtend 64 ∧ t.x 9 = m.tag.zeroExtend 64 ∧ t.x 10 = m.stime.zeroExtend 64 ∧
        (∀ r : Reg, 11 ≤ r.toNat → t.x r = 0) ∧ (∀ r : Reg, r.toNat < 8 → t.x r = s.x r) ∧
        t.v 0 = BitVec.ofNat 512 (m.payload.toNat + msgHeader m * 2 ^ 384) ∧
        (∀ r : Reg, r ≠ 0 → t.v r = s.v r) ∧ t.core.mail.insvc = some m ∧ t.core.sc.res = 1 ∧
        t.core.sc.spilled = 0 ∧ t.core.sc.wsp.toNat = s.core.sc.wlimit.toNat / 2 ^ 39 % 2 ^ 10 * 128 ∧
        (m.origin = .plain → modeOf t.core = if m.cls = 3 then 1 else 0) ∧ KeepsBytes s t) ∧
    (candidates s.core.mail = [] → s.core.mail.deque = [] → victims s = [] →
      ∃ t, exec i s = .next t ∧ t.core.run = .idle ∧ t.core.mail.insvc = none ∧ KeepsBytes s t ∧
        (∀ r : Reg, r.toNat < 8 → t.x r = s.x r) ∧ KeepsV s t [])

/-- R261, R267, R268, R274 to R277: INBQ delivers INBOX or half of the header of what would be dispatched; BIND binds a tag
unless 64 others are bound, UNBIND unbinds one; QW pushes a command, QR pops a result, QTRY counts results, and each traps
with cause 0x0A on a queue register of KIND 0. R250: WFI completes at once when the inbox holds a message or an interrupt is
pending, and otherwise the core waits at it. -/
def Obligations.InboxAndQueueInstructions : Prop :=
  (∀ s : State, (s.core.mail.inbox ≠ [] ∨ pendingInts s.core ≠ []) →
    ∃ t, exec .wfi s = .next t ∧ t.core.pc = s.core.issue.npc ∧ KeepsAllBut s t []) ∧
  (∀ s : State, s.core.mail.inbox = [] → pendingInts s.core = [] →
    ∃ t, exec .wfi s = .next t ∧ t.core.run = .waiting ∧ t.core.pc = s.core.pc ∧ KeepsAllBut s t []) ∧
  (∀ (d a : Reg) (s : State), NoPendX s d → (s.x a).toNat ≤ 2 →
    (let mb := s.core.mail
     let h := ((candidates mb).head?.map msgHeader).getD 0
     let count (p : Msg → Bool) : Nat := (mb.inbox.filter p).length
     let inbox : Nat := (overflowOf s s.core).length % 65536 * 2 ^ 48 + count (heldReply mb) * 2 ^ 32 +
       count (fun m => m.cls == 3) * 2 ^ 24 + count (fun m => m.cls == 1) * 2 ^ 16 +
       count (fun m => m.cls == 0 || m.cls == 2) * 2 ^ 8 + (if mb.insvc.isSome then 1 else 0)
     ∃ t, exec (.inbq d a) s = .next t ∧ t.core.pc = s.core.issue.npc ∧ KeepsAllBut s t [d] ∧
      Gives t d (BitVec.ofNat 64 (if (s.x a).toNat = 0 then inbox else if (s.x a).toNat = 1 then h else h / 2 ^ 64)))) ∧
  (∀ (d a b : Reg) (s : State), NoPendX s d → HandlerOk (s.x b) 0 →
    (let tag := BitVec.ofNat 16 (s.x a).toNat
     let full : Prop := 64 ≤ (s.core.mail.tags.filter (fun t => t.1 != tag)).length
     ∃ t, exec (.bind d a b) s = .next t ∧ t.core.pc = s.core.issue.npc ∧ UnitFrame s t [d] ∧
      (full → Gives t d 1 ∧ t.core.mail = s.core.mail) ∧
      (¬ full → Gives t d 0 ∧ tagBound t.core.mail tag = some ((s.x b).setWidth 32) ∧
        ∀ u, u ≠ tag → tagBound t.core.mail u = tagBound s.core.mail u))) ∧
  (∀ (d a : Reg) (s : State), NoPendX s d →
    (let tag := BitVec.ofNat 16 (s.x a).toNat
     ∃ t, exec (.unbind d a) s = .next t ∧ t.core.pc = s.core.issue.npc ∧ UnitFrame s t [d] ∧
      tagBound t.core.mail tag = none ∧ (∀ u, u ≠ tag → tagBound t.core.mail u = tagBound s.core.mail u) ∧
      Gives t d (if (tagBound s.core.mail tag).isSome then 0 else 1))) ∧
  (∀ (q : Code3) (a : Reg) (s : State), (getQ s.core q.toNat).kind ≠ 0 → (getQ s.core q.toNat).cmd.length < 16 →
    Ready s →
    ∃ t, exec (.qw q a) s = .next t ∧ t.core.pc = s.core.issue.npc ∧ UnitFrame s t [] ∧
      getQ t.core q.toNat = { getQ s.core q.toNat with cmd := (getQ s.core q.toNat).cmd ++
        [.word (s.x a) s.core.sys.cpydefh (modeOf s.core)] } ∧
      ∀ k, k ≠ q.toNat → getQ t.core k = getQ s.core k) ∧
  (∀ (d : Reg) (q : Code3) (w : W64) (r : List W64) (s : State), NoPendX s d → (getQ s.core q.toNat).kind ≠ 0 →
    (getQ s.core q.toNat).res = w :: r →
    (∃ t, exec (.qr d q) s = .next t ∧ t.core.pc = s.core.issue.npc ∧ UnitFrame s t [d] ∧ Gives t d w ∧
      (getQ t.core q.toNat).res = r ∧ ∀ k, k ≠ q.toNat → getQ t.core k = getQ s.core k)) ∧
  (∀ (d : Reg) (q : Code3) (s : State), NoPendX s d → (getQ s.core q.toNat).kind ≠ 0 →
    ∃ t, exec (.qtry d q) s = .next t ∧ t.core.pc = s.core.issue.npc ∧ KeepsAllBut s t [d] ∧
      Gives t d (BitVec.ofNat 64 (getQ s.core q.toNat).res.length)) ∧
  (∀ (i : Instr) (d : Reg) (q : Code3) (s : State), (i = .qw q d ∨ i = .qr d q ∨ i = .qtry d q) →
    (getQ s.core q.toNat).kind = 0 → Plain s → SpillFits s.core.sc → modeOf s.core = 0 →
    ∃ t, exec i s = .next t ∧ InSystem s t 0x0A (BitVec.ofNat 64 q.toNat) s.core.pc)

/-! ## Groups, pairs and barriers -/

/-- R296 to R298, R303 to R307: GMAKE of a block that keeps the limits makes a live group under the lowest free number, or
answers all ones when none is free; GDROP frees a group of the own context; GINFO describes one or names a member; PAIR
completes when its partner waits for it, and when its partner has formed the pair; UNPAIR completes when its partner stands
at its own UNPAIR and nothing waits to be compared. That PAIR starts Core.retired afresh, by which the model lines a pair's members
up, is the model's own (log 40). -/
def Obligations.GroupInstructions : Prop :=
  (∀ (d a b : Reg) (s : State), NoPendX s d → GroupOk s (s.x a) (s.x b) →
    (∀ g, g < 4096 → tget s.un.groups g = none → (∀ h, h < g → tget s.un.groups h ≠ none) →
      ∃ t, exec (.gmake d a b) s = .next t ∧ t.core.pc = s.core.issue.npc ∧ UnitFrame s t [d] ∧
        Gives t d (BitVec.ofNat 64 g) ∧ OtherGroups s t g ∧
        tget t.un.groups g = some ⟨(s.x a).toNat % 2 ^ 4, ctxNum s.core, true, namedCores s (s.x a) (s.x b)⟩) ∧
    ((∀ g, g < 4096 → tget s.un.groups g ≠ none) →
      ∃ t, exec (.gmake d a b) s = .next t ∧ t.core.pc = s.core.issue.npc ∧ UnitFrame s t [d] ∧
        Gives t d (BitVec.allOnes 64) ∧ t.un.groups = s.un.groups)) ∧
  (∀ (a : Reg) (g : Group) (s : State), tget s.un.groups (s.x a).toNat = some g → (s.x a).toNat < 4096 → g.live = true →
    g.kind ≤ 2 → g.ctx = ctxNum s.core →
    ∃ t, exec (.gdrop a) s = .next t ∧ t.core.pc = s.core.issue.npc ∧ UnitFrame s t [] ∧
      tget t.un.groups (s.x a).toNat = none ∧ OtherGroups s t (s.x a).toNat) ∧
  (∀ (d a b : Reg) (s : State), NoPendX s d → (s.x a).toNat < 4096 →
    (∀ g, tget s.un.groups (s.x a).toNat = some g → g.ctx = ctxNum s.core →
      ∃ t, exec (.ginfo d a b) s = .next t ∧ t.core.pc = s.core.issue.npc ∧ KeepsAllBut s t [d] ∧
        Gives t d (if s.x b = 0 then BitVec.ofNat 64 ((if g.live then 2 ^ 63 else 2 ^ 62) + g.kind * 2 ^ 40 +
            g.ctx % 256 * 2 ^ 32 + g.members.length)
          else (g.members[(s.x b).toNat - 1]?.map (BitVec.ofNat 64)).getD (BitVec.allOnes 64))) ∧
    ((∀ g, tget s.un.groups (s.x a).toNat = some g → g.ctx ≠ ctxNum s.core) →
      ∃ t, exec (.ginfo d a b) s = .next t ∧ t.core.pc = s.core.issue.npc ∧ KeepsAllBut s t [d] ∧ Gives t d 0)) ∧
  (∀ (d a : Reg) (g : Nat) (grp : Group) (s : State), NoPendX s d → s.core.wait = none → noCtx s.core = false →
    inRange s (curCtx s.core) (s.x a).toNat = true → (s.x a).toNat < nCores →
    (getCore s (s.x a).toNat).pos = s.core.pos ^^^ 1 → pairOf s s.core.num = none → pairOf s (s.x a).toNat = none →
    s.un.groups.find? (fun e => e.2.kind == 3 && !e.2.live && e.2.ctx == ctxNum s.core &&
      e.2.members == [(s.x a).toNat, s.core.num]) = some (g, grp) →
    ∃ t, exec (.pair d a) s = .next t ∧ t.core.pc = s.core.issue.npc ∧ UnitFrame s t [d] ∧ Gives t d (BitVec.ofNat 64 g) ∧
      tget t.un.groups g = some ⟨3, ctxNum s.core, true, [(s.x a).toNat, s.core.num]⟩ ∧ OtherGroups s t g ∧
      t.core.retired = 1 ∧ (getCore t (s.x a).toNat).retired = 0) ∧
  (∀ (d a : Reg) (c g : Nat) (s : State), NoPendX s d → s.core.wait = some ⟨c, .paired g⟩ →
    ∃ t, exec (.pair d a) s = .next t ∧ t.core.pc = s.core.issue.npc ∧ UnitFrame s t [d] ∧ Gives t d (BitVec.ofNat 64 g)) ∧
  (∀ (g m : Nat) (grp : Group) (s : State), s.core.wait = none → s.core.pend = [] → s.core.mail.mcast = [] →
    pairOf s s.core.num = some (g, grp) → partnerOf s s.core.num = some (g, m) → (getPair s g).lead = [] →
    (getPair s g).follow = [] →
    (if leads s s.core.num m then (getPair s g).followAt else (getPair s g).leadAt) = some (2 ^ 20) →
    ∃ t, exec .unpair s = .next t ∧ t.core.pc = s.core.issue.npc ∧ UnitFrame s t [] ∧ tget t.un.groups g = none ∧
      OtherGroups s t g) ∧
  (∀ (c g : Nat) (s : State), s.core.wait = some ⟨c, .paired g⟩ →
    ∃ t, exec .unpair s = .next t ∧ t.core.pc = s.core.issue.npc ∧ UnitFrame s t [])

/-- R308, R312, R313, R319 to R324: BCFG configures a free barrier, or one of the own context that is not gathering, and frees
it when EN is 0; an arrival of the current phase counts, and the last of COUNT ends the phase; BARR delivers its phase, BARW
too once the phase is over, and waits until then; BWAIT delivers PHASE of a phase that is over; BLEAVE counts and lowers
COUNT; BQRY describes a barrier. -/
def Obligations.BarrierInstructions : Prop :=
  (∀ (d a b : Reg) (c : Scope) (s : State), NoPendX s d → BarName s (s.x a) c →
    (let id := (s.x a).toNat
     let w := (s.x b).toNat
     let x := getBar s id
     w / 2 ^ 58 % 2 ^ 3 = 0 → w / 2 ^ 24 % 2 ^ 24 = 0 →
     (x.count = 0 ∨ (x.ctx = ctxNum s.core ∧ (x.broken = true ∨ (x.arr = 0 ∧ x.carried = 0)))) → x.waiting = [] →
     (w / 2 ^ 63 = 1 → w % 2 ^ 24 ≠ 0 →
      ∃ t, exec (.bcfg d a b) s = .next t ∧ t.core.pc = s.core.issue.npc ∧ UnitFrame s t [d] ∧ Gives t d 0 ∧
        (getBar t id).ctx = ctxNum s.core ∧ (getBar t id).count = w % 2 ^ 24 ∧ (getBar t id).arr = 0 ∧
        (getBar t id).carried = 0 ∧ (getBar t id).broken = false ∧
        ((getBar t id).carry = true ↔ w / 2 ^ 62 % 2 = 1) ∧ ((getBar t id).hold = true ↔ w / 2 ^ 61 % 2 = 1) ∧
        (getBar t id).layer = w / 2 ^ 48 % 2 ^ 10 ∧
        (getBar t id).phase = if x.count = 0 then 0 else x.phase) ∧
     (w / 2 ^ 63 = 0 →
      ∃ t, exec (.bcfg d a b) s = .next t ∧ t.core.pc = s.core.issue.npc ∧ UnitFrame s t [d] ∧ Gives t d 0 ∧
        (x.count ≠ 0 → (getBar t id).count = 0)))) ∧
  (∀ (d a b : Reg) (c : Scope) (s : State), NoPendX s d → BarName s (s.x a) c → Settled s →
    (let id := (s.x a).toNat
     let x := getBar s id
     BarOk s id → NotHeld s id → x.carried < x.count → (s.x b).toNat < 2 → (s.x b).toNat = x.phase.toNat % 2 →
     (∃ t, exec (.barr d a b) s = .next t ∧ t.core.pc = s.core.issue.npc ∧ UnitFrame s t [d] ∧
        Gives t d (x.phase.zeroExtend 64) ∧ Arrived x (getBar t id)) ∧
     (x.arr + 1 = x.count →
      ∃ t, exec (.barw d a b) s = .next t ∧ t.core.pc = s.core.issue.npc ∧ UnitFrame s t [d] ∧
        Gives t d (x.phase.zeroExtend 64) ∧ Arrived x (getBar t id)) ∧
     (x.arr + 1 ≠ x.count →
      ∃ t, exec (.barw d a b) s = .next t ∧ t.core.pc = s.core.pc ∧ t.core.run = .waiting ∧ UnitFrame s t [] ∧
        t.core.wait = some ⟨s.cycle, .phase id x.phase d b⟩ ∧ Arrived x (getBar t id)))) ∧
  (∀ (d a b : Reg) (c : Scope) (s : State), NoPendX s d → BarName s (s.x a) c → s.core.wait = none →
    BarOk s (s.x a).toNat → (s.x b).toNat < 2 ^ 32 →
    (let n := ((getBar s (s.x a).toNat).phase - (s.x b).setWidth 32).toNat
     1 ≤ n → n < 2 ^ 31 →
     ∃ t, exec (.bwait d a b) s = .next t ∧ t.core.pc = s.core.issue.npc ∧ UnitFrame s t [d] ∧
      Gives t d ((getBar s (s.x a).toNat).phase.zeroExtend 64))) ∧
  (∀ (d a : Reg) (c : Scope) (s : State), NoPendX s d → BarName s (s.x a) c → Settled s → BarOk s (s.x a).toNat →
    NotHeld s (s.x a).toNat →
    (let x := getBar s (s.x a).toNat
     1 < x.count → x.carried < x.count →
     ∃ t, exec (.bleave d a) s = .next t ∧ t.core.pc = s.core.issue.npc ∧ UnitFrame s t [d] ∧
      Gives t d (x.phase.zeroExtend 64) ∧ (getBar t (s.x a).toNat).count = x.count - 1)) ∧
  (∀ (d a b : Reg) (c : Scope) (s : State), NoPendX s d → BarName s (s.x a) c → (s.x b).toNat ≤ 1 →
    (let x := getBar s (s.x a).toNat
     (InTime s (s.x a).toNat → x.count ≠ 0 → x.ctx = ctxNum s.core →
      ∃ t, exec (.bqry d a b) s = .next t ∧ t.core.pc = s.core.issue.npc ∧ KeepsAllBut s t [d] ∧
        Gives t d (BitVec.ofNat 64 (if (s.x b).toNat = 0 then
            (if x.broken then 3 else if x.arr ≠ 0 ∨ x.carried ≠ 0 then 2 else 1) * 2 ^ 62 +
              (if x.carry then 2 ^ 61 else 0) + (if x.hold then 2 ^ 60 else 0) + x.layer * 2 ^ 48 + x.carried * 2 ^ 24 + x.arr
          else x.ctx % 256 * 2 ^ 56 + x.count * 2 ^ 32 + x.phase.toNat))) ∧
     ((x.count = 0 ∨ x.ctx ≠ ctxNum s.core) →
      ∃ t, exec (.bqry d a b) s = .next t ∧ t.core.pc = s.core.issue.npc ∧ KeepsAllBut s t [d] ∧ Gives t d 0)))

/-! ## Matrix engines -/

/-- R334, R335, R343: MTSUB and MGANG of a well-formed record enter it into the cluster's table and deliver its ticket, whose
generation is not zero; it is ready when its WAIT is zero and pending otherwise; a full table answers zero. R347, R348: MSTAT
delivers the status word, the fault address or the record's address of a ticket, slot, queued MMAs and flags of a handle, and
STATE 15 of an unknown ticket; MWAIT completes when a handle has no MMA queued and when a ticket's record is done, faulted,
abandoned or unknown. What MSTAT delivers of a handle for selectors 1 and 2 the spec leaves open (log 4). -/
def Obligations.RecordsAndTheirStatus : Prop :=
  (∀ (i : Instr) (d : Reg) (ea : W64) (gang : Bool) (ms : List Nat) (s : State), submitting s i = some (d, ea, gang, ms) →
    ea.toNat % 128 = 0 → shapeOut s (myCluster s) ea = false → OwnBlock s ea 8 16 → recordBad (recordIn s ea) gang = false →
    Ready s →
    (∀ k, recEntry s (myCluster s) = some k → liveRecs s (myCluster s) < 1024 →
      ∃ t r, exec i s = .next t ∧ t.core.pc = s.core.issue.npc ∧ UnitFrame s t [d] ∧
        Gives t d (BitVec.ofNat 64 (r.gen * 1024 + k)) ∧ 1 ≤ r.gen ∧ getRec t (myCluster s) k = some r ∧
        (∀ j, j < 16 → r.words.toNat / 2 ^ (64 * j) % 2 ^ 64 = blockWord s ea 8 j) ∧ r.addr = ea ∧ r.members = ms ∧
        r.core = s.core.num ∧ r.ctx = ctxNum s.core ∧ r.wait = blockWord s ea 8 1 / 2 ^ 48 % 2 ^ 10 ∧
        r.st = (if r.wait = 0 then .ready else .pending) ∧
        ∀ q, q ≠ recKey (myCluster s) k → tget t.un.recs q = tget s.un.recs q) ∧
    (1024 ≤ liveRecs s (myCluster s) →
      ∃ t, exec i s = .next t ∧ t.core.pc = s.core.issue.npc ∧ UnitFrame s t [d] ∧ Gives t d 0 ∧ t.un.recs = s.un.recs)) ∧
  (∀ (d a b : Reg) (slot : Nat) (s : State), NoPendX s d → (s.x a).toNat < 4 →
    tget s.core.handles (s.x a).toNat = some slot →
    ((s.x b).toNat = 0 →
      ∃ t, exec (.mstat d a b) s = .next t ∧ t.core.pc = s.core.issue.npc ∧ KeepsAllBut s t [d] ∧
        Gives t d (BitVec.ofNat 64 (slot + mmasOf s (myCluster s) slot % 4 * 2 ^ 8 +
          (getAcc s (myCluster s) slot).flags.toNat * 2 ^ 42))) ∧
    (1 ≤ (s.x b).toNat → (s.x b).toNat ≤ 2 →
      ∃ t w, exec (.mstat d a b) s = .next t ∧ t.core.pc = s.core.issue.npc ∧ KeepsAllBut s t [d] ∧ Gives t d w) ∧
    (mmasOf s (myCluster s) slot = 0 →
      ∃ t, exec (.mwait d a) s = .next t ∧ t.core.pc = s.core.issue.npc ∧ KeepsAllBut s t [d] ∧ Gives t d 0)) ∧
  (∀ (d a b : Reg) (s : State), NoPendX s d → NamesTicket (s.x a) →
    (NoTicket s (s.x a) → (s.x b).toNat ≤ 2 →
      (∃ t, exec (.mstat d a b) s = .next t ∧ t.core.pc = s.core.issue.npc ∧ KeepsAllBut s t [d] ∧
        Gives t d (if (s.x b).toNat = 0 then BitVec.ofNat 64 (15 * 2 ^ 60) else 0)) ∧
      ∃ t, exec (.mwait d a) s = .next t ∧ t.core.pc = s.core.issue.npc ∧ UnitFrame s t [d] ∧
        Gives t d (BitVec.ofNat 64 (15 * 2 ^ 60))) ∧
    (∀ i r, recOf s (myCluster s) ((s.x a).toNat % 2 ^ 32) = some (i, r) → (s.x b).toNat ≤ 2 →
      (∃ t, exec (.mstat d a b) s = .next t ∧ t.core.pc = s.core.issue.npc ∧ KeepsAllBut s t [d] ∧
        Gives t d (if (s.x b).toNat = 0 then statusWord s (myCluster s) i r else if (s.x b).toNat = 1 then r.faultAddr
          else r.addr)) ∧
      (recState s (myCluster s) i r ∈ [3, 4, 6, 15] →
        ∃ t, exec (.mwait d a) s = .next t ∧ t.core.pc = s.core.issue.npc ∧ UnitFrame s t [d] ∧
          Gives t d (statusWord s (myCluster s) i r))))

/-- R333, R342, R344 to R346: MCLR reserves a slot for a handle, releases or clears it, and frees what a ticket keeps; MMA
queues the two times eight registers it names for the engine of its handle's slot; MDRAIN of a handle stores its 32 rows at
its target and nothing else, and of a ticket resumes a faulted share; MSCL sets a scale entry. -/
def Obligations.AccumulatorInstructions : Prop :=
  (∀ (d a : Reg) (h : Nat) (s : State), NoPendX s d → h < 4 →
    ((s.x a).toNat = 2 ^ 9 + h → tget s.core.handles h = none →
      (∀ slot, reserveSlot s (myCluster s) = some slot →
        ∃ t, exec (.mclrReserve d a) s = .next t ∧ t.core.pc = s.core.issue.npc ∧ UnitFrame s t [d] ∧
          Gives t d (BitVec.ofNat 64 slot) ∧ tget t.core.handles h = some slot ∧
          (getAcc t (myCluster s) slot).st = .reserved ∧ (getAcc t (myCluster s) slot).words = [] ∧
          (getAcc t (myCluster s) slot).owner = s.core.num) ∧
      (reserveSlot s (myCluster s) = none →
        ∃ t, exec (.mclrReserve d a) s = .next t ∧ t.core.pc = s.core.issue.npc ∧ KeepsAllBut s t [d] ∧
          Gives t d (BitVec.allOnes 64))) ∧
    (∀ slot, (s.x a).toNat = 2 ^ 8 + h → tget s.core.handles h = some slot → mmasOf s (myCluster s) slot = 0 →
      ∃ t, exec (.mclrRelease d a) s = .next t ∧ t.core.pc = s.core.issue.npc ∧ UnitFrame s t [d] ∧ Gives t d 0 ∧
        tget t.core.handles h = none ∧ (getAcc t (myCluster s) slot).st = .free) ∧
    (∀ slot, (s.x a).toNat = h → tget s.core.handles h = some slot → mmasOf s (myCluster s) slot = 0 →
      ∃ t, exec (.mclrClear d a) s = .next t ∧ t.core.pc = s.core.issue.npc ∧ UnitFrame s t [d] ∧ Gives t d 0 ∧
        t.core.handles = s.core.handles ∧ (getAcc t (myCluster s) slot).words = [] ∧
        (getAcc t (myCluster s) slot).st = (getAcc s (myCluster s) slot).st)) ∧
  (∀ (d a : Reg) (s : State), NoPendX s d → NamesTicket (s.x a) →
    (NoTicket s (s.x a) →
      ∃ t, exec (.mclrTicket d a) s = .next t ∧ t.core.pc = s.core.issue.npc ∧ KeepsAllBut s t [d] ∧ Gives t d 1) ∧
    (∀ i slot r, Serves s (s.x a) i slot r → (getAcc s (myCluster s) slot).st = .kept →
      ∃ t, exec (.mclrTicket d a) s = .next t ∧ t.core.pc = s.core.issue.npc ∧ UnitFrame s t [d] ∧ Gives t d 0 ∧
        (getAcc t (myCluster s) slot).st = .free)) ∧
  (∀ (ty : ETy) (d a b : Reg) (slot : Nat) (s : State), (s.x d).toNat < 4 →
    tget s.core.handles (s.x d).toNat = some slot → (getEng s (myCluster s) (slot / 4)).mmas.length < 2 →
    ∃ t j, exec (.mma ty d a b) s = .next t ∧ t.core.pc = s.core.issue.npc ∧ UnitFrame s t [] ∧
      (getEng t (myCluster s) (slot / 4)).mmas = (getEng s (myCluster s) (slot / 4)).mmas ++ [j] ∧ j.slot = slot ∧
      j.core = s.core.num ∧ j.ty = ty ∧
      ∀ k, k < 8 → j.a.toNat / 2 ^ (512 * k) % 2 ^ 512 = (s.v (a + BitVec.ofNat 5 k)).toNat ∧
        j.b.toNat / 2 ^ (512 * k) % 2 ^ 512 = (s.v (b + BitVec.ofNat 5 k)).toNat) ∧
  (∀ (d a b : Reg) (slot : Nat) (s : State), NoPendX s d → s.core.wait = none → (s.x a).toNat < 4 →
    tget s.core.handles (s.x a).toNat = some slot → mmasOf s (myCluster s) slot = 0 → OwnBlock s (s.x b) 8 2 →
    (let tgt := BitVec.ofNat 128 (blockWord s (s.x b) 8 0 + blockWord s (s.x b) 8 1 * 2 ^ 64)
     OwnTarget s tgt →
     ∃ t, exec (.mdrainHandle d a b) s = .next t ∧ t.core.pc = s.core.issue.npc ∧ KeepsX s t [d] ∧ KeepsV s t [] ∧
      t.core.sys = s.core.sys ∧ KeepsWindow s t ∧ Gives t d 0 ∧
      (∀ k, k < 32 → mread t.mem (drainKey s tgt k) (drainRowBytes (dFmt tgt)) =
        (drainRow (getAcc s (myCluster s) slot).words k 32 (dFmt tgt)).1) ∧
      (∀ x, (∀ k, k < 32 → x < drainKey s tgt k ∨ drainKey s tgt k + drainRowBytes (dFmt tgt) ≤ x) →
        mget t.mem x = mget s.mem x))) ∧
  (∀ (d a b : Reg) (s : State), NoPendX s d → s.core.wait = none → NamesTicket (s.x a) →
    (NoTicket s (s.x a) →
      ∃ t, exec (.mdrainTicket d a b) s = .next t ∧ t.core.pc = s.core.issue.npc ∧ KeepsAllBut s t [d] ∧ Gives t d 1) ∧
    (∀ i slot r, Serves s (s.x a) i slot r → (getAcc s (myCluster s) slot).st = .faulted → s.x b = 0 →
      ∃ t, exec (.mdrainTicket d a b) s = .next t ∧ t.core.pc = s.core.issue.npc ∧ UnitFrame s t [d] ∧ Gives t d 0 ∧
        (getAcc t (myCluster s) slot).st =
          if (getAcc s (myCluster s) slot).chunk * 32 < rK r.words then .busy else .draining)) ∧
  (∀ (d : Code3) (a b : Reg) (s : State),
    ∃ t e, exec (.mscl d a b) s = .next t ∧ t.core.pc = s.core.issue.npc ∧ UnitFrame s t [] ∧
      tget t.un.scales (myCluster s * 8 + d.toNat) = some e ∧ e.s = s.x a ∧
      e.t.toNat = (s.x b).toNat / 64 * 64 ∧ e.h = (s.x b).toNat % 64)


/-! ## Copies, kernels and queues of work -/

/-- R350, R364, R367: CPY, CPYF, GATH and SCAT of a well-formed block post one command into the queue register with the
block, its address and the handler it chooses, and write no register; CPYST delivers the status of a transfer, a counter of
it, or STATE 15 of an unknown one. -/
def Obligations.CopyInstructions : Prop :=
  (∀ (i : Instr) (q : Code3) (a : Reg) (kind : Nat) (fenced : Bool) (s : State), posting i = some (q, a, kind, fenced) →
    (getQ s.core q.toNat).kind = 1 → (getQ s.core q.toNat).cmd.length < 16 → OwnBlock s (s.x a) 8 6 →
    blockBad kind (copyBlock s (s.x a)) s.core.sys.cpydefh = false → Ready s → (fenced = true → Settled s) →
    (let h := BitVec.ofNat 32 (blockWord s (s.x a) 8 5 / 2 ^ 32)
     ∃ t, exec i s = .next t ∧ t.core.pc = s.core.issue.npc ∧ UnitFrame s t [] ∧
      (getQ t.core q.toNat).cmd = (getQ s.core q.toNat).cmd ++
        [.copy kind (s.x a) (copyBlock s (s.x a)) (if h = 0 then s.core.sys.cpydefh else h) (modeOf s.core)] ∧
      (getQ t.core q.toNat).res = (getQ s.core q.toNat).res ∧ ∀ k, k ≠ q.toNat → getQ t.core k = getQ s.core k)) ∧
  (∀ (d a b : Reg) (s : State), NoPendX s d → (s.x a).toNat < 2 ^ 32 → (s.x b).toNat ≤ 64 →
    (xferOf s (myCluster s) (s.x a).toNat = none →
      ∃ t, exec (.cpyst d a b) s = .next t ∧ t.core.pc = s.core.issue.npc ∧ KeepsAllBut s t [d] ∧
        Gives t d (if s.x b = 0 then BitVec.ofNat 64 (15 * 2 ^ 60) else 0)) ∧
    (∀ k x, xferOf s (myCluster s) (s.x a).toNat = some (k, x) →
      ∃ t, exec (.cpyst d a b) s = .next t ∧ t.core.pc = s.core.issue.npc ∧ KeepsAllBut s t [d] ∧
        (s.x b = 0 → Gives t d (BitVec.ofNat 64 (xferCode x.st x.cause * 2 ^ 60 + x.cause % 2 ^ 8 * 2 ^ 52 +
          (if x.pois then 2 ^ 51 else 0) + x.doneB % 2 ^ 40))) ∧
        (∀ c, s.x b ≠ 0 → x.counters[(s.x b).toNat - 1]? = some c →
          Gives t d (BitVec.ofNat 64 (c.1 * 2 ^ 32 + c.2.1 * 2 ^ 16 + c.2.2))) ∧
        (s.x b ≠ 0 → x.counters.length ≤ (s.x b).toNat - 1 → Gives t d 0)))

/-- R287, R289 to R295: FORK puts an item at the bottom of the deque, counts it in its counter and its kernel's LIVE and
delivers 0, or delivers 1 with no effect when the deque is full; YIELD with nothing else to dispatch runs its continuation at
once; JOIN completes when its counter is zero and waits otherwise; the continuation form delivers the counter; KLAUNCH takes
a kernel slot, or delivers 0 when none is free; KWAIT delivers the status of a complete kernel and 0xFF of a handle that
names none. -/
def Obligations.KernelInstructions : Prop :=
  (∀ (d a b : Reg) (h : BitVec 32) (s : State), NoPendX s d → ForkOk (s.x b) → serviceKernel s.core = some h →
    (16 ≤ s.core.mail.deque.length →
      ∃ t, exec (.fork d a b) s = .next t ∧ t.core.pc = s.core.issue.npc ∧ KeepsAllBut s t [d] ∧ Gives t d 1) ∧
    (s.core.mail.deque.length < 16 →
     (let off := (s.x b).toNat / 2 ^ 32 % 2 ^ 16
      let used := (s.x b).toNat / 2 ^ 63 = 1
      (used → CounterReadable s off) →
      ∃ t i, exec (.fork d a b) s = .next t ∧ t.core.pc = s.core.issue.npc ∧ KeepsX s t [d] ∧ KeepsV s t [] ∧
        t.core.sys = s.core.sys ∧ KeepsWindow s t ∧ Gives t d 0 ∧ t.core.mail.deque = i :: s.core.mail.deque ∧
        IsItem s i (s.v a) (s.x b) h ∧
        (∀ k, kerOf s h = some k → (getKer t k).live = (getKer s k).live + 1) ∧
        (used → ofBytes (mread t.mem (counterKey s off) 8) = (ofBytes (mread s.mem (counterKey s off) 8) + 1) % 2 ^ 64 ∧
          KeepsBytesBut s t (counterKey s off) 8) ∧
        (¬ used → KeepsBytes s t)))) ∧
  (∀ (a b : Reg) (h : BitVec 32) (k : Nat) (m : Msg) (s : State), ForkOk (s.x b) → (s.x b).toNat / 2 ^ 63 = 0 →
    s.core.mail.insvc = some m → m.origin = .wake h → kerOf s h = some k → 1 ≤ (getKer s k).live → Settled s →
    modeOf s.core ≠ 2 → s.core.sys.status.toNat / 2 ^ 14 % 2 = 0 → s.core.sys.status.toNat / 2 ^ 6 % 2 = 0 →
    s.core.sc.spillBusy = false → NoTrace s → overflowOf s s.core = [] → s.un.dues = [] → candidates s.core.mail = [] →
    s.core.mail.deque = [] →
    ∃ t, exec (.yield a b) s = .next t ∧ t.core.pc = handlerPc s.core.num ((s.x b).setWidth 32) ∧
      (t.x 8).toNat = s.core.num % 2 ^ 32 ∧ t.x 9 = 0 ∧ (t.x 10).toNat = s.out.time % 2 ^ 32 ∧
      (∀ r : Reg, 11 ≤ r.toNat → t.x r = 0) ∧ (∀ r : Reg, r.toNat < 8 → t.x r = s.x r) ∧
      (t.v 0).toNat % 2 ^ 384 = (s.v a).toNat % 2 ^ 384 ∧ (getKer t k).live = (getKer s k).live ∧ KeepsBytes s t) ∧
  (∀ (d a : Reg) (s : State), NoPendX s d → (s.x a).toNat % 8 = 0 → (s.x a).toNat < 2 ^ 16 →
    CounterReadable s (s.x a).toNat →
    (ofBytes (mread s.mem (counterKey s (s.x a).toNat) 8) = 0 →
      ∃ t, exec (.join d a) s = .next t ∧ t.core.pc = s.core.issue.npc ∧ UnitFrame s t [d] ∧ Gives t d 0) ∧
    (ofBytes (mread s.mem (counterKey s (s.x a).toNat) 8) ≠ 0 →
      ∃ t, exec (.join d a) s = .next t ∧ t.core.pc = s.core.pc ∧ t.core.run = .waiting ∧ UnitFrame s t []) ∧
    ∀ b : Reg, HandlerOk (s.x b) 0 → ofBytes (mread s.mem (counterKey s (s.x a).toNat) 8) ≠ 0 →
      ∃ t, exec (.joinCont d a b) s = .next t ∧ t.core.pc = s.core.issue.npc ∧ UnitFrame s t [d] ∧
        Gives t d (wordOf (mread s.mem (counterKey s (s.x a).toNat) 8)) ∧
        t.un.joins = s.un.joins ++ [⟨ctxNum s.core, s.core.num, (s.x a).toNat, (s.x b).setWidth 32, false⟩]) ∧
  (∀ (d a : Reg) (s : State), NoPendX s d → Settled s → (s.x a).toNat % 64 = 0 → OwnBlock s (s.x a) 8 8 →
    launchBad s (nodeAt s (s.x a)) = false →
    (∀ k, kerSlot s = some k →
      ∃ t, exec (.klaunch d a) s = .next t ∧ t.core.pc = s.core.issue.npc ∧ UnitFrame s t [d] ∧
        Gives t d (BitVec.ofNat 64 (((getKer t k).gen * 2 ^ 8 + k) % 2 ^ 32)) ∧ 1 ≤ (getKer t k).gen ∧
        (getKer t k).st = .ready ∧ (getKer t k).entry.toNat = blockWord s (s.x a) 8 2 % 2 ^ 32 ∧
        (getKer t k).first = blockWord s (s.x a) 8 2 / 2 ^ 32 % 2 ^ 25 ∧
        (getKer t k).count = blockWord s (s.x a) 8 3 % 2 ^ 25 ∧ (getKer t k).args.toNat = blockWord s (s.x a) 8 4) ∧
    (kerSlot s = none →
      ∃ t, exec (.klaunch d a) s = .next t ∧ t.core.pc = s.core.issue.npc ∧ UnitFrame s t [d] ∧ Gives t d 0)) ∧
  (∀ (d a : Reg) (s : State), NoPendX s d → s.x a ≠ 0 → (s.x a).toNat < 2 ^ 32 →
    serviceKernel s.core ≠ some ((s.x a).setWidth 32) →
    (kerOf s ((s.x a).setWidth 32) = none →
      ∃ t, exec (.kwait d a) s = .next t ∧ t.core.pc = s.core.issue.npc ∧ UnitFrame s t [d] ∧ Gives t d 0xFF) ∧
    (∀ k, kerOf s ((s.x a).setWidth 32) = some k → (getKer s k).st = .complete →
      ∃ t, exec (.kwait d a) s = .next t ∧ t.core.pc = s.core.issue.npc ∧ UnitFrame s t [d] ∧
        Gives t d (BitVec.ofNat 64 (getKer s k).status)))

/-! ## Experts, queries, placement and collectives -/

/-- R369, R372 to R375, R381 to R387: the expert instructions deliver what a peer chip's directory answered; EXROUTE goes out
as a reservation, or delivers status 2 of an entry that is not live and 3 of one with no serving replica; EXBACK closes an
open receipt; EXGROW delivers the replica that grows or all ones; EXRETIRE starts a drain; EXJOIN of an entry with no
contribution writes +0; EXUPD delivers the new weight-set number; EXSTAT delivers zero of a name that stands for nothing. -/
def Obligations.ExpertInstructions : Prop :=
  (∀ (i : Instr) (d : Reg) (c : Nat) (w : W64) (s : State), askingExpert i = some d → NoPendX s d →
    s.core.wait = some ⟨c, .routed w false⟩ →
    (∀ d' a b, i = .exretire d' a b → (s.x b).toNat ≤ 15) →
    ∃ t, exec i s = .next t ∧ t.core.pc = s.core.issue.npc ∧ UnitFrame s t [d] ∧ Gives t d w) ∧
  (∀ (d a b : Reg) (s : State), NoPendX s d → s.core.wait = none → routeBad (s.x b) = false → OwnName s (s.x a).toNat →
    (let c := getCopy s (s.x a).toNat (dieOf s.core.pos)
     (c.st ≠ .live →
      ∃ t, exec (.exroute d a b) s = .next t ∧ t.core.pc = s.core.issue.npc ∧ KeepsAllBut s t [d] ∧
        Gives t d (BitVec.ofNat 64 (2 ^ 63 + 2))) ∧
     (c.st = .live → servingReps c = [] →
      ∃ t, exec (.exroute d a b) s = .next t ∧ t.core.pc = s.core.issue.npc ∧ KeepsAllBut s t [d] ∧
        Gives t d (BitVec.ofNat 64 (2 ^ 63 + 3))) ∧
     (c.st = .live → servingReps c ≠ [] → (getLog s 3).mode = 0 →
      ∃ t v, exec (.exroute d a b) s = .next t ∧ t.core.pc = s.core.pc ∧ t.core.run = .waiting ∧ UnitFrame s t [] ∧
        t.un.resvs = s.un.resvs ++ [v] ∧ v.core = s.core.num ∧ v.word = s.x b ∧ v.ws = c.ws ∧ v.granted = none ∧
        v.at_ ∈ servingReps c ∧ ∀ k, k ∈ servingReps c → (c.rep v.at_).infl ≤ (c.rep k).infl))) ∧
  (∀ (d a b : Reg) (s : State), NoPendX s d → s.core.wait = none → (s.x b).toNat = 2 ^ 63 →
    OwnName s ((s.x a).toNat % 2 ^ 32) →
    (let e := (s.x a).toNat % 2 ^ 32
     let k := (s.x a).toNat / 2 ^ 58 % 2 ^ 4
     receiptOpen (getExp s e) (s.x a) = true →
     ∃ t, exec (.exback d a b) s = .next t ∧ t.core.pc = s.core.issue.npc ∧ UnitFrame s t [d] ∧ Gives t d 0 ∧
      tget ((getExp t e).rep k).slots ((s.x a).toNat / 2 ^ 48 % 2 ^ 10) = none ∧
      ∀ j, j ≠ k → (getExp t e).rep j = (getExp s e).rep j)) ∧
  (∀ (d a : Reg) (s : State), NoPendX s d → s.core.wait = none → OwnName s (s.x a).toNat →
    (grow s (s.x a).toNat = none →
      ∃ t, exec (.exgrow d a) s = .next t ∧ t.core.pc = s.core.issue.npc ∧ KeepsAllBut s t [d] ∧
        Gives t d (BitVec.allOnes 64)) ∧
    (∀ k u, grow s (s.x a).toNat = some (k, u) → NoPendX u d →
      ∃ t, exec (.exgrow d a) s = .next t ∧ t.core.pc = u.core.issue.npc ∧ Gives t d (BitVec.ofNat 64 k) ∧
        ((getExp t (s.x a).toNat).rep k).st = .filling)) ∧
  (∀ (d a b : Reg) (s : State), NoPendX s d → s.core.wait = none → OwnName s (s.x a).toNat → (s.x b).toNat ≤ 15 →
    (let x := getExp s (s.x a).toNat
     let k := (s.x b).toNat
     (x.st ≠ .live →
      ∃ t, exec (.exretire d a b) s = .next t ∧ t.core.pc = s.core.issue.npc ∧ KeepsAllBut s t [d] ∧ Gives t d 2) ∧
     (x.st = .live → (k ∉ servingReps x ∨ (servingReps x).length < 2) →
      ∃ t, exec (.exretire d a b) s = .next t ∧ t.core.pc = s.core.issue.npc ∧ KeepsAllBut s t [d] ∧ Gives t d 1) ∧
     (x.st = .live → k ∈ servingReps x → 2 ≤ (servingReps x).length →
      ∃ t, exec (.exretire d a b) s = .next t ∧ t.core.pc = s.core.issue.npc ∧ UnitFrame s t [d] ∧ Gives t d 0 ∧
        ((getExp t (s.x a).toNat).rep k).st = .draining ∧
        ∀ j, j ≠ k → (getExp t (s.x a).toNat).rep j = x.rep j))) ∧
  (∀ (d a b : Reg) (s : State), NoPendX s d → s.core.wait = none → OwnName s (s.x a).toNat →
    (let e := (s.x a).toNat
     let x := getExp s e
     (s.x b).toNat % 64 = 0 → x.owner = s.core.num → x.st = .joining → allCopies s e (fun c => c.st == .joining) = true →
     quiet x = true → contributions x = [] → x.glen % 64 = 0 → OwnLines s (s.x b) (x.glen / 64) →
     inRange s (ctxNum s.core) s.core.num = true → s.core.num < nCores → s.core.run ≠ .disabled →
     tget s.mu.away (ctxNum s.core * 8192 + s.core.num) = none →
     ∃ t, exec (.exjoin d a b) s = .next t ∧ t.core.pc = s.core.issue.npc ∧ KeepsX s t [d] ∧ KeepsV s t [] ∧
      t.core.sys = s.core.sys ∧ KeepsWindow s t ∧ Gives t d 0 ∧ (getExp t e).st = .joined ∧
      (∀ i, i < x.glen / 64 → mread t.mem (ownKey s (stepAddr (s.x b) 64 i)) 64 = List.replicate 64 0) ∧
      (∀ y, (∀ i, i < x.glen / 64 → y < ownKey s (stepAddr (s.x b) 64 i) ∨ ownKey s (stepAddr (s.x b) 64 i) + 64 ≤ y) →
        mget t.mem y = mget s.mem y))) ∧
  (∀ (d a b : Reg) (c : Nat) (s : State), NoPendX s d → s.core.wait = some ⟨c, .update⟩ → OwnName s (s.x a).toNat →
    (let e := (s.x a).toNat
     let x := getExp s e
     (s.x b).toNat % 64 = 0 → x.owner = s.core.num → x.st = .updating → OwnLines s (s.x b) (x.wlen / 64) →
     allCopies s e (fun c => c.st == .updating) = true → quiet x = true → x.pub = true →
     (∀ r ∈ x.reps, r.job ≠ 1) →
     ∃ t, exec (.exupd d a b) s = .next t ∧ t.core.pc = s.core.issue.npc ∧ UnitFrame s t [d] ∧
      Gives t d ((x.ws + 1).zeroExtend 64) ∧ (getExp t e).ws = x.ws + 1 ∧ (getExp t e).st = .live)) ∧
  (∀ (d a b : Reg) (s : State), NoPendX s d → s.core.wait = none → (s.x b).toNat ≤ 16 →
    (NoName s (s.x a).toNat →
      ∃ t, exec (.exstat d a b) s = .next t ∧ t.core.pc = s.core.issue.npc ∧ KeepsAllBut s t [d] ∧ Gives t d 0) ∧
    (OwnName s (s.x a).toNat →
     (let c := getCopy s (s.x a).toNat (dieOf s.core.pos)
      ∃ t, exec (.exstat d a b) s = .next t ∧ t.core.pc = s.core.issue.npc ∧ KeepsAllBut s t [d] ∧
        (s.x b = 0 → Gives t d (BitVec.ofNat 64 (expStCode c.st * 2 ^ 61 + (servingReps c).length * 2 ^ 56 +
          c.grows * 2 ^ 48 + c.nseq.toNat * 2 ^ 32 + c.ws.toNat))))))

/-- The least of a count and the largest value of its field (20_query R414). -/
def saturated (bits n : Nat) : Nat := min (2 ^ bits - 1) n

/-- R396, R410 to R414: NNQ posts the packet whose header it has read, NNRES a request for results; NNCAN cancels a query
that has not run yet, asks one that runs to stop and waits for it to end, and says of others whether they were cancelled, have
ended or are unknown; NNLOAD, in system mode, loads or removes a graph of the own context, and tells of one that another
context holds or a query uses; NNSTAT delivers the words of a query, and STATE 15 of an unknown one. R388: HSIFT on a heap of
the own local memory: a NaN score delivers 0 and sets NV; an entry of a heap that is not full joins it; one above the root of a
full heap takes its place; one that is not leaves the heap as it is. No byte outside the heap changes. -/
def Obligations.QueryAndHeapInstructions : Prop :=
  (∀ (d a b : Reg) (n k : Nat) (s : State), NoPendX s d → s.core.marks = [] → n ≤ k → 1 ≤ k → k ≤ 8 →
    (s.x a).toNat % 8 = 0 → (s.x a).toNat % 2 ^ 16 + 8 + 8 * k ≤ 0x10000 → OwnBlock s (s.x a) 8 (1 + n) →
    blockWord s (s.x a) 8 0 = k * 16 + n →
    (let new := (s.x b).toNat
     (nanCode .f32 (new / 2 ^ 32) = true →
      ∃ t, exec (.hsift d a b) s = .next t ∧ t.core.pc = s.core.issue.npc ∧ KeepsX s t [d] ∧ KeepsV s t [] ∧
        t.core.sys = { s.core.sys with fflags := s.core.sys.fflags ||| 1 } ∧ KeepsBytes s t ∧ Gives t d 0) ∧
     (nanCode .f32 (new / 2 ^ 32) = false → n < k →
      ∃ t, exec (.hsift d a b) s = .next t ∧ t.core.pc = s.core.issue.npc ∧ KeepsX s t [d] ∧ KeepsV s t [] ∧
        t.core.sys = s.core.sys ∧ KeepsBytesBut s t (ownKey s (s.x a)) (8 + 8 * k) ∧ Gives t d 1 ∧
        blockWord t (s.x a) 8 0 = k * 16 + (n + 1) ∧
        (heapOf t (s.x a) (n + 1)).Perm (heapOf s (s.x a) n ++ [new])) ∧
     (nanCode .f32 (new / 2 ^ 32) = false → n = k → heapLt (blockWord s (s.x a) 8 1) new = true →
      ∃ t, exec (.hsift d a b) s = .next t ∧ t.core.pc = s.core.issue.npc ∧ KeepsX s t [d] ∧ KeepsV s t [] ∧
        t.core.sys = s.core.sys ∧ KeepsBytesBut s t (ownKey s (s.x a)) (8 + 8 * k) ∧ Gives t d 1 ∧
        blockWord t (s.x a) 8 0 = k * 16 + k ∧
        (heapOf t (s.x a) k).Perm (new :: (heapOf s (s.x a) k).tail)) ∧
     (nanCode .f32 (new / 2 ^ 32) = false → n = k → heapLt (blockWord s (s.x a) 8 1) new = false →
      ∃ t, exec (.hsift d a b) s = .next t ∧ t.core.pc = s.core.issue.npc ∧ AccessFrame s t [d] 0 0 ∧ Gives t d 0))) ∧
  (∀ (q : Code3) (a : Reg) (s : State), (getQ s.core q.toNat).kind = 3 → (getQ s.core q.toNat).cmd.length < 16 → Ready s →
    (s.x a).toNat % 64 = 0 → OwnBlock s (s.x a) 8 8 → headerWrong s (ctxNum s.core) (packetAt s (s.x a)) = false →
    ∃ t, exec (.nnq q a) s = .next t ∧ t.core.pc = s.core.issue.npc ∧ UnitFrame s t [] ∧
      (getQ t.core q.toNat).cmd = (getQ s.core q.toNat).cmd ++ [.query (s.x a) (packetAt s (s.x a))] ∧
      ∀ k, k ≠ q.toNat → getQ t.core k = getQ s.core k) ∧
  (∀ (q : Code3) (a b : Reg) (first count : Nat) (s : State), (getQ s.core q.toNat).kind = 3 →
    (getQ s.core q.toNat).cmd.length < 16 → Ready s → (s.x a).toNat < 2 ^ 32 → (s.x b).toNat = first + count * 2 ^ 8 →
    first < 32 → 1 ≤ count → count ≤ 16 → first + count ≤ 32 →
    ∃ t, exec (.nnres q a b) s = .next t ∧ t.core.pc = s.core.issue.npc ∧ UnitFrame s t [] ∧
      (getQ t.core q.toNat).cmd = (getQ s.core q.toNat).cmd ++ [.collect ((s.x a).setWidth 32) first count] ∧
      ∀ k, k ≠ q.toNat → getQ t.core k = getQ s.core k) ∧
  (∀ (d a : Reg) (s : State), NoPendX s d → (s.x a).toNat < 2 ^ 32 →
    (let found := queryOf s (ctxNum s.core) ((s.x a).setWidth 32)
     (found = none →
      ∃ t, exec (.nncan d a) s = .next t ∧ t.core.pc = s.core.issue.npc ∧ KeepsAllBut s t [d] ∧ Gives t d 2) ∧
     (∀ k, found = some k → (getQuery s k).st = .cancelled →
      ∃ t, exec (.nncan d a) s = .next t ∧ t.core.pc = s.core.issue.npc ∧ KeepsAllBut s t [d] ∧ Gives t d 0) ∧
     (∀ k, found = some k → ((getQuery s k).st = .done ∨ (getQuery s k).st = .faulted) →
      ∃ t, exec (.nncan d a) s = .next t ∧ t.core.pc = s.core.issue.npc ∧ KeepsAllBut s t [d] ∧ Gives t d 1) ∧
     (∀ k, found = some k → (getQuery s k).st ∈ [QuerySt.reading, .ready, .suspended] → s.un.collects = [] →
      ∃ t, exec (.nncan d a) s = .next t ∧ t.core.pc = s.core.issue.npc ∧ UnitFrame s t [d] ∧ Gives t d 0 ∧
        (getQuery t k).st = .cancelled) ∧
     (∀ k, found = some k → (getQuery s k).st = .running →
      ∃ t, exec (.nncan d a) s = .next t ∧ t.core.pc = s.core.pc ∧ t.core.run = .waiting ∧ UnitFrame s t [] ∧
        getQuery t k = { getQuery s k with cancel := true }) ∧
     (∀ k, found = some k → (getQuery s k).st = .completing →
      ∃ t, exec (.nncan d a) s = .next t ∧ t.core.pc = s.core.pc ∧ t.core.run = .waiting ∧ UnitFrame s t [] ∧
        getQuery t k = getQuery s k))) ∧
  (∀ (d a b : Reg) (s : State), NoPendX s d → 1 ≤ modeOf s.core → (s.x a).toNat ≤ 63 →
    (∀ g, tget s.un.nngraphs (s.x a).toNat = some g → g.ctx ≠ ctxNum s.core →
      ∃ t, exec (.nnload d a b) s = .next t ∧ t.core.pc = s.core.issue.npc ∧ KeepsAllBut s t [d] ∧ Gives t d 2) ∧
    ((∀ g, tget s.un.nngraphs (s.x a).toNat = some g → g.ctx = ctxNum s.core) → graphUsed s (s.x a).toNat = true →
      ∃ t, exec (.nnload d a b) s = .next t ∧ t.core.pc = s.core.issue.npc ∧ KeepsAllBut s t [d] ∧ Gives t d 1)) ∧
  (∀ (d a b : Reg) (s : State), NoPendX s d → 1 ≤ modeOf s.core → (s.x a).toNat ≤ 63 →
    (∀ g, tget s.un.nngraphs (s.x a).toNat = some g → g.ctx = ctxNum s.core) → graphUsed s (s.x a).toNat = false →
    (s.x b = 0 →
      ∃ t, exec (.nnload d a b) s = .next t ∧ t.core.pc = s.core.issue.npc ∧ UnitFrame s t [d] ∧ Gives t d 0 ∧
        tget t.un.nngraphs (s.x a).toNat = none) ∧
    (let desc := BitVec.ofNat 1024 (packNat 64 ((List.range 16).map (blockWord s (s.x b) 8)))
     s.x b ≠ 0 → (s.x b).toNat % 64 = 0 → OwnBlock s (s.x b) 8 16 → graphBad desc = false →
      ∃ t, exec (.nnload d a b) s = .next t ∧ t.core.pc = s.core.issue.npc ∧ UnitFrame s t [d] ∧ Gives t d 0 ∧
        tget t.un.nngraphs (s.x a).toNat = some ⟨ctxNum s.core, desc⟩)) ∧
  (∀ (d a b : Reg) (s : State), NoPendX s d → (s.x a).toNat < 2 ^ 32 → (s.x b).toNat ≤ 2 →
    (let found := queryOf s (ctxNum s.core) ((s.x a).setWidth 32)
     (found = none →
      ∃ t, exec (.nnstat d a b) s = .next t ∧ t.core.pc = s.core.issue.npc ∧ KeepsAllBut s t [d] ∧
        Gives t d (if s.x b = 0 then BitVec.ofNat 64 (15 * 2 ^ 60) else 0)) ∧
     (∀ k, found = some k →
      (let q := getQuery s k
       ∃ t, exec (.nnstat d a b) s = .next t ∧ t.core.pc = s.core.issue.npc ∧ KeepsAllBut s t [d] ∧
        (∀ code, (q.st, code) ∈ [(QuerySt.reading, 0), (.ready, 1), (.running, 2), (.suspended, 3), (.completing, 4), (.done, 5),
            (.faulted, 6), (.cancelled, 7)] → (s.x b).toNat = 0 →
          Gives t d (BitVec.ofNat 64 (code * 2 ^ 60 + q.cause % 2 ^ 8 * 2 ^ 52 + q.found.length % 2 ^ 6 * 2 ^ 46 +
            q.cand.length % 2 ^ 7 * 2 ^ 39 + saturated 32 q.exp))) ∧
        ((s.x b).toNat = 1 → Gives t d (BitVec.ofNat 64 (saturated 16 q.unrec * 2 ^ 48 + saturated 16 q.susp * 2 ^ 32 +
          saturated 16 q.batch * 2 ^ 16 + saturated 8 q.badId * 2 ^ 8 + saturated 8 q.nans))) ∧
        ((s.x b).toNat = 2 → Gives t d (BitVec.ofNat 64 q.visited.length))))))

/-- R417, R425, R434, R435: RESIDE makes the task movable with no destination counted and UNRESIDE ends it, each telling what
it was; SWAPQ delivers SOUT of the core that holds a number, with RESULT 4 when none does; a collective instruction leaves
its contribution and waits, and completes with the result in its vector register, AGATH with none. -/
def Obligations.PlacementAndCollectives : Prop :=
  (∀ (d : Reg) (s : State), NoPendX s d →
    (s.core.task.mov = true →
      ∃ t, exec (.reside d) s = .next t ∧ t.core.pc = s.core.issue.npc ∧ KeepsAllBut s t [d] ∧ Gives t d 1) ∧
    (s.core.task.mov = false →
      ∃ t, exec (.reside d) s = .next t ∧ t.core.pc = s.core.issue.npc ∧ UnitFrame s t [d] ∧ Gives t d 0 ∧
        t.core.task.mov = true ∧ t.core.task.sdest = []) ∧
    ∃ t, exec (.unreside d) s = .next t ∧ t.core.pc = s.core.issue.npc ∧ UnitFrame s t [d] ∧
      Gives t d (if s.core.task.mov then 1 else 0) ∧ t.core.task.mov = false) ∧
  (∀ (d a : Reg) (s : State), NoPendX s d →
    (let word (c : Core) : W64 := BitVec.ofNat 64 (c.task.result * 2 ^ 61 + (if c.task.mov then 2 ^ 60 else 0) +
       c.task.age * 2 ^ 56 + c.task.partner * 2 ^ 31 + c.task.inst % 2 ^ 16 * 2 ^ 13 + c.pos % 2 ^ 13)
     (s.x a = BitVec.allOnes 64 →
      ∃ t, exec (.swapq d a) s = .next t ∧ t.core.pc = s.core.issue.npc ∧ KeepsAllBut s t [d] ∧ Gives t d (word s.core)) ∧
     ((s.x a).toNat < 2 ^ 25 → (ctxNum s.core = 256 ∨ inRange s (ctxNum s.core) (s.x a).toNat = true) →
      (coreHere s (s.x a).toNat = true →
        ∃ t, exec (.swapq d a) s = .next t ∧ t.core.pc = s.core.issue.npc ∧ KeepsAllBut s t [d] ∧
          Gives t d (word (getCore s (s.x a).toNat))) ∧
      (coreHere s (s.x a).toNat = false →
        ∃ t, exec (.swapq d a) s = .next t ∧ t.core.pc = s.core.issue.npc ∧ KeepsAllBut s t [d] ∧
          Gives t d (BitVec.ofNat 64 (4 * 2 ^ 61)))))) ∧
  (∀ (i : Instr) (d a b : Reg) (kind id c : Nat) (x : Coll) (v : W512) (s : State), collective i = some (d, a, b, kind) →
    s.core.wait = some ⟨c, .coll id b⟩ → s.out.colls.find? (fun y => y.id == id) = some x → x.failed = none →
    x.result = some v → QuietV s d →
    ∃ t, exec i s = .next t ∧ t.core.pc = s.core.issue.npc ∧ KeepsX s t [] ∧ t.core.sys = s.core.sys ∧ KeepsWindow s t ∧
      KeepsBytes s t ∧ (kind ≠ 3 → (Holds s d → t.v d = v) ∧ (¬ Holds s d → t.v d = 0)) ∧
      (∀ r, (kind = 3 ∨ (r ≠ d ∧ ¬ SameFrame s r d)) → t.v r = s.v r)) ∧
  (∀ (i : Instr) (d a b : Reg) (kind : Nat) (g : Group) (s : State), collective i = some (d, a, b, kind) → Settled s →
    (s.x b).toNat / 2 ^ 32 = 0 → (s.x b).toNat / 2 ^ 12 % 2 ^ 4 = 0 → CollGroup s g (s.x b) →
    (kind = 3 → (s.x d).toNat % 64 = 0 ∧ (s.x d).toNat / 2 ^ 62 = 2 ∧ (s.x d).toNat / 2 ^ 16 % 2 ^ 21 = 0 ∧
      (s.x d).toNat / 2 ^ 37 % 2 ^ 25 = s.core.num ∧ (s.x d).toNat % 2 ^ 16 + 64 * g.members.length ≤ 0x10000) →
    ∃ t id y, exec i s = .next t ∧ t.core.pc = s.core.pc ∧ t.core.run = .waiting ∧ UnitFrame s t [] ∧
      t.core.wait = some ⟨s.cycle, .coll id b⟩ ∧ y ∈ t.out.colls ∧ y.id = id ∧ tget y.contribs s.core.num = some (s.v a))

/-! ## Translations and contexts -/

/-- R221 to R223, R252: in system mode, with nothing of the core on its way, TLBINV removes the entries its words name from
the core's TLB, and from every core's at SCOPE 4, which is .device (R221 refuses a higher code; bits 63:52 of its address are not looked
at: log 55); PGQ delivers what a walk finds, with level 1 for an address outside virtual space, whose walk reads no entry (log 48); PGPIN delivers 1
when the page is absent, 3 when it is pinned already or is not pinned, 0 when it pins or unpins it, in the own cluster's TLB or,
with bit 62, in every one of the die; a global entry matches every ASID (R216). In monitor mode CTXSW of
a context that is resident begins its save, and of none begins the restore. -/
def Obligations.TranslationAndContextInstructions : Prop :=
  (∀ (a b : Reg) (s : State), 1 ≤ modeOf s.core → Settled s →
    (s.x b).toNat / 2 ^ 32 % 2 ^ 26 = 0 → (s.x b).toNat / 2 ^ 59 % 2 ^ 3 ≤ 4 → s.net = [] → s.mu.parked = [] →
    s.mu.excl = [] →
    ∃ t, exec (.tlbinv a b) s = .next t ∧ t.core.pc = s.core.issue.npc ∧ KeepsX s t [] ∧ KeepsV s t [] ∧
      t.core.sys = s.core.sys ∧ KeepsWindow s t ∧
      t.core.tlb = s.core.tlb.filter (fun e => !invalidated (s.x a) (s.x b) e) ∧
      ((s.x b).toNat / 2 ^ 59 % 2 ^ 3 = 4 → ∀ n,
        (getCore t n).tlb = (getCore s n).tlb.filter (fun e => !invalidated (s.x a) (s.x b) e)) ∧
      ((s.x b).toNat / 2 ^ 58 % 2 = 0 → s.mu.walks = [] → KeepsBytes s t)) ∧
  (∀ (d a b : Reg) (s : State), NoPendX s d → 1 ≤ modeOf s.core → (s.x b).toNat < 2 ^ 9 →
    (let w := walkVa s ((s.x b).toNat % 2 ^ 8) (s.x a)
     let pin := if pinnedAt s (myCluster s) ((s.x b).toNat % 2 ^ 8) (s.x a).toNat then 2 ^ 56 else 0
     ∃ t, exec (.pgq d a b) s = .next t ∧ t.core.pc = s.core.issue.npc ∧
      WalkFrame s (vaReads s ((s.x b).toNat % 2 ^ 8) (s.x a)) t [d] ∧
      (w.ok = true → (s.x b).toNat / 2 ^ 8 = 1 → Gives t d w.w1) ∧
      (w.ok = true → (s.x b).toNat / 2 ^ 8 = 0 → Gives t d (BitVec.ofNat 64 (2 ^ 63 + w.size * 2 ^ 61 + w.level * 2 ^ 58 +
        pin + leafAddr (entOf ((s.x b).toNat % 2 ^ 8) (s.x a).toNat w) (s.x a).toNat / 1024 * 1024 + w.w0.toNat % 2 ^ 10))) ∧
      (w.ok = false → Gives t d (BitVec.ofNat 64 (w.level * 2 ^ 58 + (if w.mal then 2 ^ 57 else 0) + pin))))) ∧
  (∀ (d a b : Reg) (s : State), NoPendX s d → 1 ≤ modeOf s.core → (s.x b).toNat / 2 ^ 8 % 2 ^ 54 = 0 →
    (let asid := (s.x b).toNat % 2 ^ 8
     let w := walkVa s asid (s.x a)
     let mine (f : TlbEnt) : Bool := f.pin && (f.asid == asid || decide (f.w0.toNat / 2 ^ 6 % 2 = 1))
     let same (f : TlbEnt) : Bool := mine f && f.size == w.size && f.vpage == (entOf asid (s.x a).toNat w).vpage
     let hit (f : TlbEnt) : Bool := mine f && (s.x a).toNat / 2 ^ pageBits f.size == f.vpage
     let l := getCtlb s (myCluster s)
     let u := vaReads s asid (s.x a)
     ((s.x b).toNat / 2 ^ 63 = 1 → w.ok = false →
      ∃ t, exec (.pgpin d a b) s = .next t ∧ t.core.pc = s.core.issue.npc ∧ WalkFrame s u t [d] ∧ Gives t d 1) ∧
     ((s.x b).toNat / 2 ^ 63 = 1 → w.ok = true → (s.x b).toNat / 2 ^ 62 % 2 = 0 → l.any same = true →
      ∃ t, exec (.pgpin d a b) s = .next t ∧ t.core.pc = s.core.issue.npc ∧ WalkFrame s u t [d] ∧ Gives t d 3) ∧
     ((s.x b).toNat / 2 ^ 63 = 1 → w.ok = true → (s.x b).toNat / 2 ^ 62 % 2 = 0 → l.all (fun f => !f.pin) = true →
      ∃ t, exec (.pgpin d a b) s = .next t ∧ t.core.pc = s.core.issue.npc ∧ WalkFrame s u t [d] ∧ Gives t d 0 ∧
        (getCtlb t (myCluster s)).any same = true) ∧
     ((s.x b).toNat / 2 ^ 62 = 0 → l.any hit = false →
      ∃ t, exec (.pgpin d a b) s = .next t ∧ t.core.pc = s.core.issue.npc ∧ KeepsAllBut s t [d] ∧ Gives t d 3) ∧
     ((s.x b).toNat / 2 ^ 62 = 0 → l.any hit = true →
      ∃ t, exec (.pgpin d a b) s = .next t ∧ t.core.pc = s.core.issue.npc ∧ UnitFrame s t [d] ∧ Gives t d 0 ∧
        (getCtlb t (myCluster s)).any hit = false) ∧
     ((s.x b).toNat / 2 ^ 62 = 3 → w.ok = true →
      (∀ cl, cl / 32 = myCluster s / 32 → (getCtlb s cl).any same = true ∨ (getCtlb s cl).all (fun f => !f.pin) = true) →
      ∃ t, exec (.pgpin d a b) s = .next t ∧ t.core.pc = s.core.issue.npc ∧ WalkFrame s u t [d] ∧
        ((∀ cl, cl / 32 = myCluster s / 32 → (getCtlb s cl).any same = false) → Gives t d 0) ∧
        ((∃ cl, cl / 32 = myCluster s / 32 ∧ (getCtlb s cl).any same = true) → Gives t d 3) ∧
        ∀ cl, cl / 32 = myCluster s / 32 → (getCtlb t cl).any same = true) ∧
     ((s.x b).toNat / 2 ^ 62 = 1 →
      ∃ t, exec (.pgpin d a b) s = .next t ∧ t.core.pc = s.core.issue.npc ∧ UnitFrame s t [d] ∧
        ((∀ cl, cl / 32 = myCluster s / 32 → (getCtlb s cl).any hit = true) → Gives t d 0) ∧
        ((∃ cl, cl / 32 = myCluster s / 32 ∧ (getCtlb s cl).any hit = false) → Gives t d 3) ∧
        ∀ cl, cl / 32 = myCluster s / 32 → (getCtlb t cl).any hit = false))) ∧
  (∀ (a b : Reg) (s : State), modeOf s.core = 2 → Unpaired s →
    (let c := (s.x a).toNat
     (s.x a = BitVec.allOnes 64 ∨ (c < 256 ∧ ctxLife s c = 1 ∧ inRange s c s.core.num = true ∧ ctxNum s.core ≠ c)) →
     (noCtx s.core = false →
      ∃ t j, exec (.ctxsw a b) s = .next t ∧ t.core.run = .switching ∧ t.core.job = some j ∧ j.saving = true ∧
        j.load = (if s.x a = BitVec.allOnes 64 then none else some c) ∧ j.deadline = s.x b ∧ KeepsBytes s t) ∧
     (noCtx s.core = true → s.x a ≠ BitVec.allOnes 64 →
      ∃ t j, exec (.ctxsw a b) s = .next t ∧ t.core.run = .switching ∧ t.core.job = some j ∧ j.saving = false ∧
        j.load = some c ∧ KeepsBytes s t) ∧
     (noCtx s.core = true → s.x a = BitVec.allOnes 64 →
      ∃ t, exec (.ctxsw a b) s = .next t ∧ t.core.run = .idle ∧ KeepsBytes s t)))

/-! ## Events of the cores -/

/-- R76, R80, R86, R103, R119, R149, R166, R230 to R233, R239, R262, R316: a wait that is over lets its core issue again; an
ALIGN that nothing holds back is left; at the end of its slice 0x80 is pending; a block asked for arrives in the return
register; the spill buffer is written; a VTAKE whose limit has passed traps with cause 0x07; a barrier whose limit has passed
is broken, and those that wait at it fail; the first of the pending interrupts that can be taken is taken into the bank of its
cause, and 0x82 into the user handler of the oldest completion; entries follow the copies of an MCAST (R89, R182). -/
def Obligations.WaitAndInterruptEvents : Prop :=
  (∀ (i : Instr) (n : Nat) (s : State), Named s n → (getCore s n).run = .waiting → waitMet s n = true →
    (i = .waitComplete ∨ i = .waitaTimeout ∨ (i = .waitaWake ∧ ∃ w ∈ s.mu.watches, w.1 = n) ∨
      (i = .waitaPoll ∧ ∀ w ∈ s.mu.watches, w.1 ≠ n) ∨ i = .loadReply) →
    ∃ t, exec i s = .next t ∧ getCore t n = { getCore s n with run := .running } ∧ OnlyCore s t n) ∧
  (∀ (n : Nat) (s : State), s.arg.a = n → NumberedCores s → n ∈ quadCores s (quadOf (getCore s n).pos) →
    (getCore s n).standing = .waiting → (getCore s n).wait.map (·.what) = some .align → evictedSlots (getCore s n).vec = [] →
    (∀ m ∈ quadCores s (quadOf (getCore s n).pos), m ≠ n → (getCore s m).standing = .running →
      curAsid (getCore s m) ≠ curAsid (getCore s n)) →
    (∀ m ∈ quadCores s (quadOf (getCore s n).pos), NoDebug (focus s m)) →
    ∃ t, exec .alignRelease s = .next t ∧ (getCore t n).pc = (getCore s n).issue.npc ∧ (getCore t n).run = .running ∧
      (getCore t n).wait = none ∧
      (∀ m, (getCore s m).wait.map (·.what) ≠ some .align → getCore t m = getCore s m) ∧ t.mem = s.mem) ∧
  (∀ (n : Nat) (s : State), Named s n → (getCore s n).ev.sliceRem = 1 → (getCore s n).ev.sliceLen ≠ 0 →
    noCtx (getCore s n) = false → modeOf (getCore s n) ≠ 2 → (getCore s n).run ∈ [Run.idle, .running, .waiting] →
    ∃ t, exec .sliceExpiry s = .next t ∧
      getCore t n = { getCore s n with ev := { (getCore s n).ev with sliceRem := 0, p80 := true } } ∧ OnlyCore s t n) ∧
  (∀ (n off : Nat) (s : State), Named s n → n < 2 ^ 25 → off < 2 ^ 16 → off % 32 = 0 →
    (getCore s n).freq = some (localAddr n off) → isPoisoned s (lineKeyOf (localKey n off)) = false →
    (let b : Block := ⟨localAddr n off, BitVec.ofNat 256 (ofBytes (mread s.mem (localKey n off) 32))⟩
     ∃ t, exec .fetchBlockArrival s = .next t ∧ getCore t n = { getCore s n with freq := none, rreg := some b } ∧
      OnlyCore s t n)) ∧
  (∀ (n : Nat) (s : State), Named s n →
    ∃ t, exec .spillBufferWrite s = .next t ∧
      getCore t n = { getCore s n with sc := { (getCore s n).sc with spillBusy := false } } ∧ OnlyCore s t n) ∧
  (∀ (n k c : Nat) (s : State), Named s n →
    (let f := focus s n
     let q := quadOf f.core.pos
     let lim := f.core.sys.framewait.toNat % 2 ^ 32
     f.core.wait = some ⟨c, .take⟩ → (getPool s q).takers.find? (fun w => w.1 == n) = some (n, k) → k < 4 → lim ≠ 0 →
     c + lim ≤ s.cycle → f.core.run = .waiting → Unpaired f → f.core.mail.mcast = [] → WindowOk f.core.sc →
     SpillFits f.core.sc → modeOf f.core = 0 →
     ∃ t, exec .vtakeTimeout s = .next t ∧ InSystem f (focus t n) 0x07 (BitVec.ofNat 64 k) f.core.pc ∧
      ∀ w ∈ (getPool t q).takers, w.1 ≠ n)) ∧
  (∀ (id c : Nat) (s : State), s.arg.a = id → (getBar s id).tlim ≠ 0 → (getBar s id).broken = false →
    (getBar s id).clock = some c → c + (getBar s id).tlim ≤ s.cycle →
    ∃ t, exec .barrierTimeout s = .next t ∧ getBar t id = { getBar s id with broken := true, clock := none } ∧
      (∀ n b, ((∃ ph, (getCore s n).wait = some ⟨b, .bwait id ph⟩) ∨
          ∃ ph d r, (getCore s n).wait = some ⟨b, .phase id ph d r⟩) →
        (getCore t n).wait = some ⟨b, .failed 0x09 (BitVec.ofNat 64 (2 * 2 ^ 60 + id))⟩) ∧
      (∀ n, (getCore s n).wait = none → getCore t n = getCore s n) ∧ t.mem = s.mem) ∧
  (∀ (n : Nat) (s : State), Named s n →
    (let f := focus s n
     Plain f → SpillFits f.core.sc → f.core.run = .running → f.core.ev.point = none → f.core.mail.mcast = [] →
     (s.arg.b = 0x80 → nextInt f = some 0x80 → unacked f n = [] →
      ∃ t, exec .interruptEntry s = .next t ∧ InMonitor f (focus t n) 0x80 false 0 f.core.pc ∧
        (getCore t n).ev.p80 = false) ∧
     (∀ w, s.arg.b = 0x83 → nextInt f = some 0x83 → f.core.ev.p83 = some w →
      ∃ t, exec .interruptEntry s = .next t ∧ InMonitor f (focus t n) 0x83 false w f.core.pc ∧
        (getCore t n).ev.p83 = none) ∧
     (∀ x r, s.arg.b = 0x84 → nextInt f = some 0x84 → f.core.ev.notices = x :: r →
      ∃ t, exec .interruptEntry s = .next t ∧ InMonitor f (focus t n) 0x84 false x.info f.core.pc ∧
        (getCore t n).sys.monaddr = if x.info.toNat / 2 ^ 60 ∈ [2, 5, 10] then x.addr else 0) ∧
     (s.arg.b = 0x81 → nextInt f = some 0x81 →
      ∃ t, exec .interruptEntry s = .next t ∧ InSystem f (focus t n) 0x81 (inboxWord f) f.core.pc ∧
        (getCore t n).ev.p81 = false) ∧
     (∀ h id r, s.arg.b = 0x82 → nextInt f = some 0x82 → f.core.mail.cpyq = (h, id) :: r →
      ∃ t, exec .interruptEntry s = .next t ∧ (getCore t n).pc = handlerPc n h ∧
        WindowOpened (rawX (landAll f) 31 f.core.pc) (focus t n) ∧ (getCore t n).mail.cpyq = r ∧
        (getCore t n).sys.status.toNat / 2 ^ 6 % 2 = 1 ∧ modeOf (getCore t n) = 0)))

/-- R112, R114, R116, R139, R158, R159, R225, R258, R268, R269, R271, R272, R289, R292: a message and its attachment land at
their receiver; a copy of an MCAST leaves; an acknowledgement ends its packet and holds a failed store's address; QBIND takes
a new unit once its commands have drained; answers join the results in their order; an idle core runs the item at the bottom
of its deque; a continuation whose counter is zero arrives as a message; claims and reloads at the heads of their queues get
frames, a stalled pool writes a victim's frame out, and its acknowledgement frees it; a write of a page-table root, of SILCTL or of
a die's notice core stores the bits of that register. -/
def Obligations.MessageAndPoolEvents : Prop :=
  (∀ (dest : Nat) (p : Packet) (m : Msg) (s : State), findPacket s s.arg.a = some p → p.body = .msg dest m none →
    m.far = false → m.origin = .plain → m.attaching = false → tget s.mu.parked dest = none → s.mu.portStop = [] →
    FirstToArrive s dest m.age → TakesMessage s p.ctx dest m.cls →
    ∃ t, exec .messageArrival s = .next t ∧ Took s t dest m.handler m.cls m.payload ∧
      (∀ n, n ≠ dest → getCore t n = getCore s n) ∧ t.mem = s.mem) ∧
  (∀ (dest q off at_ age by_ lines : Nat) (p : Packet) (m : Msg) (s : State), findPacket s s.arg.a = some p →
    p.body = .attach dest age by_ (localAddr q at_) off (64 * lines) → q ≠ dest → at_ % 64 = 0 → at_ + 64 * lines ≤ 2 ^ 16 →
    off % 64 = 0 → off + 64 * lines ≤ 2 ^ 16 → Reached s p.ctx q → Reached s p.ctx dest → HomeHears s p dest → Clean s q at_ (64 * lines) →
    NoneLate s dest → s.net.takeWhile (fun x => x.id != p.id) = [] → heldAtPort s p (.loc dest) = none →
    membersFor s p.ctx dest = [dest] → (getCore s dest).num = dest → m ∈ (getCore s dest).mail.inbox → m.age = age →
    m.attaching = true → (∀ x ∈ (getCore s dest).mail.inbox, x.age = age → x = m) →
    ∃ t, exec .attachmentComplete s = .next t ∧
      (∀ k, k < 64 * lines → mget t.mem (localKey dest (off + k)) = mget s.mem (localKey q (at_ + k))) ∧
      KeepsBytesBut s t (localKey dest off) (64 * lines) ∧
      ∃ m' ∈ (getCore t dest).mail.inbox, m' = { m with attaching := false }) ∧
  (∀ (n : Nat) (p : Packet) (r : List Packet) (dest : Nat) (m : Msg) (s : State), Named s n →
    (getCore s n).mail.mcast = p :: r → p.body = .msg dest m none → dest < nCores → p.toPeer = false →
    inInterface (focus s n) < 8 → partnerOf s n = none →
    ∃ t, exec .mcastCopy s = .next t ∧ t.net = s.net ++ [p] ∧ (getCore t n).mail.mcast = r ∧
      (∀ k, k ≠ n → getCore t k = getCore s k) ∧ t.mem = s.mem) ∧
  (∀ (p : Packet) (n : Nat) (err : Option W64) (s : State), s.net.find? (fun q => q.id == s.arg.a) = some p →
    p.st = .acked err → p.src = .core n → (getCore s n).num = n → partnerOf s n = none → (getCore s n).marks = [] →
    s.un.dues = [] → tget s.un.kept (p.ctx * 8192 + n) = none → (getCore s n).ev.doneBelow ≤ p.id →
    ∃ t, exec .storeAck s = .next t ∧ t.net = s.net.erase p ∧ (getCore t n).ev.ferr = (getCore s n).ev.ferr.or err ∧
      (∀ k, k ≠ n → getCore t k = getCore s k) ∧ t.mem = s.mem) ∧
  (∀ (n q : Nat) (s : State), Named s n → s.arg.b = q → (getQ (getCore s n) q).cmd = [] →
    (let kind := s.arg.w.toNat % 2 ^ 4
     let unit := s.arg.w.toNat / 2 ^ 16 % 2 ^ 16
     (kind = 0 ∨ (kind ∈ [1, 2, 4] ∧ unit = 0) ∨ (kind = 3 ∧ unit < 12) ∨ (kind = 5 ∧ unit < 4096)) →
     ∃ t, exec .qbindWrite s = .next t ∧ (getQ (getCore t n) q).kind = kind ∧ (getQ (getCore t n) q).unit = unit ∧
      (getQ (getCore t n) q).res = [] ∧ (∀ k, k ≠ q → getQ (getCore t n) k = getQ (getCore s n) k) ∧ OnlyCore s t n)) ∧
  (∀ (n q k : Nat) (ws : List W64) (s : State), Named s n → s.arg.b = q → (getQ (getCore s n) q).owed = [(k, ws)] →
    ws ≠ [] → (getQ (getCore s n) q).res.length + ws.length ≤ 16 →
    ∃ t, exec .portResult s = .next t ∧ (getQ (getCore t n) q).res = (getQ (getCore s n) q).res ++ ws ∧
      (getQ (getCore t n) q).owed = [] ∧ OnlyCore s t n) ∧
  (∀ (n : Nat) (i : Item) (r : List Item) (s : State), Named s n → (getCore s n).run = .idle →
    candidates (getCore s n).mail = [] → (getCore s n).mail.deque = i :: r → Unpaired (focus s n) →
    evictedSlots (getCore s n).vec = [] →
    ∃ t, exec .dequeSteal s = .next t ∧ (getCore t n).run = .running ∧ (getCore t n).pc = handlerPc n i.handler ∧
      (focus t n).x 8 = i.forker.zeroExtend 64 ∧ (focus t n).x 9 = 0 ∧ (focus t n).x 10 = i.time.zeroExtend 64 ∧
      ((focus t n).v 0).toNat % 2 ^ 384 = i.payload.toNat ∧ (getCore t n).mail.deque = r ∧
      (∀ m, m ≠ n → getCore t m = getCore s m)) ∧
  (∀ (j : JoinWait) (s : State), s.un.joins.filter (fun k => k.core == s.arg.a) = [j] → j.due = true →
    FirstToArrive s j.core 0 → TakesMessage s j.ctx j.core 0 →
    ∃ t, exec .joinContinuation s = .next t ∧ Took s t j.core j.handler 0 0 ∧ t.un.joins = s.un.joins.erase j ∧
      t.mem = s.mem) ∧
  (∀ (quad n set : Nat) (r : List (Nat × Nat)) (s : State), s.arg.a = quad → (getPool s quad).claims = (n, set) :: r →
    (getPool s quad).reloads = [] → evictedSlots (getCore s n).vec = [] → (getCore s n).num = n →
    (unmappedIn (getCore s n).vec set).length ≤ (freeFrames (getPool s quad)).length →
    ∃ t, exec .claimServed s = .next t ∧ (getPool t quad).claims = r ∧
      (∀ k ∈ unmappedIn (getCore s n).vec set, ∃ f ∈ freeFrames (getPool s quad), (getCore t n).vec.slot k = .mapped f ∧
        tget (getPool t quad).used f = some (n, k)) ∧
      (∀ k, k ∉ unmappedIn (getCore s n).vec set → (getCore t n).vec.slot k = (getCore s n).vec.slot k) ∧
      (∀ b, (getCore s n).wait = some ⟨b, .claim⟩ → (getCore t n).wait = some ⟨b, .claimed⟩) ∧
      (∀ m, m ≠ n → getCore t m = getCore s m) ∧ t.mem = s.mem) ∧
  (∀ (quad n k : Nat) (r : List Reload) (v : State) (l : List Byte) (s : State), s.arg.a = quad →
    (getPool s quad).reloads = .slots n :: r → (getCore s n).num = n → evictedSlots (getCore s n).vec = [k] →
    1 ≤ (freeFrames (getPool s quad)).length →
    ctxRead (putPool s quad { getPool s quad with reloads := r }) n
      (slotImage (putPool s quad { getPool s quad with reloads := r }) n k) 512 = .ok (v, l) →
    ∃ t, exec .reloadServed s = .next t ∧ (getPool t quad).reloads = r ∧
      (∃ f ∈ freeFrames (getPool s quad), (getCore t n).vec.slot k = .mapped f ∧
        tget (getPool t quad).used f = some (n, k) ∧ ∀ j, j < 8 →
          tgetD t.un.frames (frameKey quad f j) 0 = lineOf ((l.drop (64 * j)).take 64)) ∧
      (∀ m, m ≠ n → getCore t m = getCore s m) ∧ t.mem = v.mem) ∧
  (∀ (quad n k f b : Nat) (u : State) (s : State), s.arg.a = quad → (getPool s quad).stallSince = some b →
    b + 64 ≤ s.cycle → (getPool s quad).writing = [] → poolStuck s quad = true → victimOf s quad = some n →
    (getPool s quad).offers = [] → k ∈ [1, 2, 3] → (getCore s n).vec.slot k = .mapped f →
    (∀ j, j ≠ k → ∀ g, (getCore s n).vec.slot j ≠ .mapped g) → (getCore s n).pend = [] →
    ctxWrite s n (slotImage s n k) (frameBytes s quad f) = .ok u →
    ∃ t, exec .poolStall s = .next t ∧ (getCore t n).vec.slot k = .evicted ∧ (getPool t quad).writing = [f] ∧
      tget (getPool t quad).used f = none ∧ t.mem = u.mem) ∧
  (∀ (quad : Nat) (s : State), s.arg.a = quad → (getPool s quad).writing ≠ [] →
    ∃ t, exec .frameImageAck s = .next t ∧ getPool t quad = { getPool s quad with writing := [] } ∧ CoresKept s t ∧
      t.mem = s.mem) ∧
  (∀ s : State, s.arg.b = 8 →
    (∀ k, s.arg.a = 0x10000 + 8 * k → k < 256 →
      ∃ t, exec .registerWrite s = .next t ∧ tgetD t.mu.root k 0 = s.arg.w &&& 0xFFFFFFFFFE001#64 ∧
        (∀ j, j ≠ k → tgetD t.mu.root j 0 = tgetD s.mu.root j 0) ∧ CoresKept s t ∧ t.mem = s.mem) ∧
    (s.arg.a = 0x15000 →
      ∃ t, exec .registerWrite s = .next t ∧ t.out.silEn.toNat = s.arg.w.toNat % 2 ^ 4 ∧ CoresKept s t ∧
        t.mem = s.mem) ∧
    (∀ d, s.arg.a = 0x15300 + 8 * d → d < 4 →
      ∃ t, exec .registerWrite s = .next t ∧ (getDie t d).notice = s.arg.w.toNat % 2 ^ 11 ∧ CoresKept s t ∧
        t.mem = s.mem))

/-! ## Events of memory and of the host -/

/-- R155, R156, R158, R162, R171, R177, R178, R183, R213, R217, R278, R433: a store and a posted atomic take effect at their
home and are acknowledged, a write from another die once the home has heard what it must, which then hears its stamp; beats
leave and arrive, the sweep drops what trails; stacks go through their retraining; rows are exchanged; the host writes, reads,
snoops, answers and rings a doorbell, gets an error response for a failed translation, and is quarantined outside every range; a walk
fills the cluster's TLB; the bytes of a key gather. The model's choices here: what a doorbell latches and when (log 34), the TLB that
host and doorbell accesses translate through (log 49), and that a host write carries no clock (log 54). -/
def Obligations.MemoryAndHostEvents : Prop :=
  (∀ (p : Packet) (n off m : Nat) (l : List Byte) (s : State), findPacket s s.arg.a = some p →
    p.body = .store (.loc n) (cellsAt (localKey n off) l) → p.src = .core m → Reached s p.ctx n → HomeHears s p n → l ≠ [] →
    off + l.length ≤ 2 ^ 16 → heldAtPort s p (.loc n) = none →
    ∃ t, exec .remoteAccessAtHome s = .next t ∧ mread t.mem (localKey n off) l.length = l ∧
      KeepsBytesBut s t (localKey n off) l.length ∧ Applied t p ∧ CoresKept s t) ∧
  (∀ (p : Packet) (n off m k : Nat) (op : AOp) (expect arg : W64) (s : State), findPacket s s.arg.a = some p →
    p.body = .atomic (.loc n) (localKey n off) k op expect arg → p.src = .core m → Reached s p.ctx n → HomeHears s p n → k = 4 ∨ k = 8 →
    off % k = 0 → off < 2 ^ 16 → Whole s n off k → heldAtPort s p (.loc n) = none →
    (let old := BitVec.ofNat (8 * k) (ofBytes (mread s.mem (localKey n off) k))
     ∃ t, exec .atomicAtHome s = .next t ∧ KeepsBytesBut s t (localKey n off) k ∧ Applied t p ∧ CoresKept s t ∧
      mread t.mem (localKey n off) k =
        bytesOf (atomicWord op old (BitVec.ofNat (8 * k) expect.toNat) (BitVec.ofNat (8 * k) arg.toNat)).toNat k)) ∧
  (∀ (p : Packet) (h kid m : Nat) (c : Bool) (cells : List Host.Cell) (s : State), findPacket s s.arg.a = some p →
    p.body = .store (.hbm h c kid) cells → h ≠ p.die → p.src = .core m → s.mu.excl = [] → s.mu.hostHeld = [] →
    (∀ x ∈ cells, stackStOf s x.1 = .up) → heardAll s h p.die p.stamp = true →
    ∃ t, exec .crossDieWriteApply s = .next t ∧ t.mem = (homeWrite s (.hbm h c kid) cells).mem ∧
      t.mu.l2 = (homeWrite s (.hbm h c kid) cells).mu.l2 ∧ (getDie t h).vc = (getDie s h).vc.merge p.stamp ∧
      Applied t p ∧ CoresKept s t) ∧
  (∀ (die : Nat) (s : State), s.arg.a = die → die < 4 → (getDie s die).beatDue = true →
    (getDie s die).lastBeat + 256 ≤ s.cycle →
    ∃ t ps, exec .clockBeat s = .next t ∧ t.net = s.net ++ ps ∧
      ps.map (·.body) = ((List.range 4).filter (fun e => e != die)).map .beat ∧
      (∀ p ∈ ps, p.die = die ∧ p.stamp = (getDie s die).vc ∧ p.st = .flying) ∧ (getDie t die).beatDue = false ∧
      (getDie t die).vc = (getDie s die).vc ∧ CoresKept s t ∧ t.mem = s.mem) ∧
  (∀ (p : Packet) (s : State), s.net.find? (fun q => q.die == s.arg.a && q.body == .beat s.arg.b) = some p →
    bridgeAhead s s.arg.a s.arg.b (s.net.takeWhile (fun q => q.id != p.id)) = false → (∀ q ∈ s.net, q.id = p.id → q = p) →
    ∃ t, exec .beatArrival s = .next t ∧ t.net = s.net.erase p ∧
      (getDie t s.arg.b).vc = (getDie s s.arg.b).vc.merge p.stamp ∧
      tget (getDie t s.arg.b).heard s.arg.a = some ((tgetD (getDie s s.arg.b).heard s.arg.a Clock.zero).merge p.stamp) ∧
      CoresKept s t ∧ t.mem = s.mem) ∧
  (∀ s : State, ∃ t, exec .rdcSweep s = .next t ∧ CoresKept s t ∧ t.mem = s.mem ∧ ∀ e, e ∈ t.mu.rdc ↔ e ∈ s.mu.rdc ∧
    ¬ (e.1 % 4 = s.arg.a ∧ ∃ d, d < 4 ∧ 2 ^ 30 ≤ ((getDie s s.arg.a).floor.get d - e.2.clock.get d).toNat ∧
      ((getDie s s.arg.a).floor.get d - e.2.clock.get d).toNat < 2 ^ 31)) ∧
  (∀ (n : Nat) (s : State), s.arg.a = n →
    (let x := getStack s n
     (x.st = .up → s.arg.b % 4 ≠ x.ratio →
      ∃ t, exec .ratioChangeRequest s = .next t ∧ (getStack t n).st = .pending ∧ (getStack t n).newRatio = s.arg.b % 4 ∧
        (getStack t n).ratio = x.ratio ∧ CoresKept s t ∧ t.mem = s.mem) ∧
     (x.st = .pending → NoneSwitches s →
      ∃ t, exec .stackRetrainStart s = .next t ∧ (getStack t n).st = .retraining ∧ CoresKept s t ∧ t.mem = s.mem) ∧
     (x.st = .up ∨ x.st = .pending → NoneSwitches s →
      ∃ t, exec .forcedRetrain s = .next t ∧ (getStack t n).st = .retraining ∧ CoresKept s t ∧ t.mem = s.mem) ∧
     (x.st = .retraining → s.arg.f = true →
      ∃ t, exec .stackRetrainComplete s = .next t ∧ (getStack t n).st = .up ∧
        (getStack t n).ratio = (if x.requested then x.newRatio else x.ratio) ∧
        (getStack t n).retrains = x.retrains + 1 ∧ CoresKept s t ∧ t.mem = s.mem) ∧
     (x.st = .retraining → s.arg.f = false → 2 ≤ x.tries → (getCore s (noticeCore s (n / 3))).ev.notices = [] →
      ∃ t y, exec .stackRetrainComplete s = .next t ∧ (getStack t n).st = .failed ∧
        (getCore t (noticeCore s (n / 3))).ev.notices = [y] ∧ y.info.toNat / 2 ^ 60 = 3 ∧ t.mem = s.mem) ∧
     (x.interval + 32000000 ≤ s.out.time →
      ∃ t, exec .refreshIntervalEnd s = .next t ∧ (getStack t n).acts = [] ∧ (getStack t n).interval = s.out.time ∧
        CoresKept s t ∧ t.mem = s.mem) ∧
     (4096 ≤ tgetD x.acts (rowKey s.arg.b s.arg.c) 0 → tget x.busy s.arg.b = none →
      ∃ t o, exec .rowExchange s = .next t ∧ tget (getStack t n).busy s.arg.b = some s.cycle ∧
        (getStack t n).rowSwaps = x.rowSwaps + 1 ∧ rowAt (getStack t n) s.arg.b o = rowAt x s.arg.b s.arg.c ∧
        rowAt (getStack t n) s.arg.b s.arg.c = rowAt x s.arg.b o ∧
        (∀ r, r ≠ o → r ≠ s.arg.c → rowAt (getStack t n) s.arg.b r = rowAt x s.arg.b r) ∧ CoresKept s t ∧
        t.mem = s.mem) ∧
     (∀ c, tget x.busy s.arg.b = some c → c + 1536 ≤ s.cycle →
      ∃ t, exec .rowExchangeComplete s = .next t ∧ tget (getStack t n).busy s.arg.b = none ∧ CoresKept s t ∧
        t.mem = s.mem))) ∧
  (∀ s : State, hostUp s = true →
    (hdmOf s s.arg.a = none →
      ∃ t u, exec .hostMemWrite s = .next t ∧ exec .hostMemRead s = .next u ∧ (getLink t 24).st = .quarantined ∧
        (getLink t 24).frozen = true ∧ (getLink u 24).st = .quarantined ∧ (getLink u 24).frozen = true ∧
        t.mem = s.mem ∧ u.mem = s.mem) ∧
    (∀ h u place key, hdmOf s s.arg.a = some h → h.hctl.toNat / 2 ^ 62 % 2 = 1 →
      hostResolve s h s.arg.a .store = .ok (u, place, key) → place ≠ .aperture →
      (let cells := cellsAt key (bytesOf s.arg.line.toNat s.arg.b)
       placeThere u place cells = true → writeReady u place cells ((homeOf u place).getD 0) Clock.zero = true →
       ∃ t, exec .hostMemWrite s = .next t ∧ t.mem = (homeWrite u place cells).mem ∧
        t.mu.l2 = (homeWrite u place cells).mu.l2 ∧
        t.out.hostOut = (homeWrite u place cells).out.hostOut ++ [some []])) ∧
    (∀ h cause, hdmOf s s.arg.a = some h → h.hctl.toNat / 2 ^ 62 % 2 = 1 →
      hostResolve s h s.arg.a .store = .error (.cause cause) →
      ∃ t, exec .hostMemWrite s = .next t ∧ t = { s with out := { s.out with hostOut := s.out.hostOut ++ [none] } }) ∧
    (∀ h cause, hdmOf s s.arg.a = some h → hostResolve s h s.arg.a .load = .error (.cause cause) →
      ∃ t, exec .hostMemRead s = .next t ∧ t = { s with out := { s.out with hostOut := s.out.hostOut ++ [none] } }) ∧
    (∀ h u v place key l c, hdmOf s s.arg.a = some h → hostResolve s h s.arg.a .load = .ok (u, place, key) →
      readHome u ((homeOf u place).getD 0) place key s.arg.b = .ok (v, l, c) →
      ∃ t, exec .hostMemRead s = .next t ∧ t.mem = v.mem ∧ t.out.hostOut = v.out.hostOut ++ [some l] ∧
        ((∃ d k kid, place = .hbm d k kid) → lineKeyOf key ∈ t.mu.hostHeld)) ∧
    (∀ v l, ctxLife s s.arg.a = 1 → (∀ b ∈ s.un.doorbells, b.tail.isSome = true) → (∀ l ∈ s.mu.rdc, l.2.stale = false) →
      (let cp := subqCp s s.arg.a
       let b : Bell := ⟨s.arg.a, s.cycle, subqAddr s s.arg.a, cp, none⟩
       let u := raiseFloor s cp (chipClock s)
       let w := { u with un := { u.un with doorbells := u.un.doorbells ++ [b] } }
       vaRead w (cp * 32) s.arg.a (subqAddr s s.arg.a) 64 = .ok (v, l) →
       ∃ t, exec .hostDoorbell s = .next t ∧
        t.un.doorbells = s.un.doorbells ++ [{ b with tail := some (qHeadOf l).tail }] ∧ CoresKept s t ∧ t.mem = v.mem))) ∧
  (∀ (l : L2Line) (s : State), tget s.mu.l2 (lineKeyOf (hostKey s.arg.a)) = some l →
    ∃ t, exec .hostCacheSnoop s = .next t ∧ tget t.mu.l2 (lineKeyOf (hostKey s.arg.a)) = some { l with dirty := false } ∧
      (l.dirty = true → mread t.mem (64 * lineKeyOf (hostKey s.arg.a)) 64 = bytesOf l.data.toNat 64) ∧
      KeepsBytesBut s t (64 * lineKeyOf (hostKey s.arg.a)) 64 ∧ CoresKept s t) ∧
  (∀ s : State, s.mu.snooped.Nodup → lineKeyOf s.arg.a ∈ s.mu.snooped →
    ∃ t, exec .backInvalidateResponse s = .next t ∧ lineKeyOf s.arg.a ∉ t.mu.hostHeld ∧
      lineKeyOf s.arg.a ∉ t.mu.snooped ∧ CoresKept s t ∧ t.mem = s.mem) ∧
  (∀ (e : TlbEnt) (s : State), getWalks s s.arg.a = [⟨s.arg.b, s.arg.w.toNat, some e⟩] →
    (∀ f ∈ getCtlb s s.arg.a, f.asid = e.asid → f.size = e.size → f.vpage ≠ e.vpage) →
    ∃ t, exec .pageWalkComplete s = .next t ∧ e ∈ getCtlb t s.arg.a ∧ getWalks t s.arg.a = [] ∧ CoresKept s t ∧
      t.mem = s.mem) ∧
  (∀ (k off : Nat) (s : State), s.arg.a = k → s.arg.b = off → off < 64 → s.arg.c = 1 →
    (let x := tgetD s.mu.keys k KeySt.fresh
     let got := x.have_ ||| (1#64 <<< off)
     (got ≠ BitVec.allOnes 64 →
      ∃ t y, exec .keyWrite s = .next t ∧ tget t.mu.keys k = some y ∧ y.have_ = got ∧ y.installed = x.installed ∧
        (∀ j, j < 64 → y.bytes.toNat / 2 ^ (8 * j) % 2 ^ 8 =
          if j = off then s.arg.line.toNat % 2 ^ 8 else x.bytes.toNat / 2 ^ (8 * j) % 2 ^ 8) ∧ CoresKept s t) ∧
     (got = BitVec.allOnes 64 →
      ∃ t y, exec .keyWrite s = .next t ∧ tget t.mu.keys k = some y ∧ y.have_ = 0 ∧ CoresKept s t ∧
        (∀ j, j < 64 → y.value.toNat / 2 ^ (8 * j) % 2 ^ 8 =
          if j = off then s.arg.line.toNat % 2 ^ 8 else x.bytes.toNat / 2 ^ (8 * j) % 2 ^ 8) ∧
        (y.installed = true ↔ (s.arg.line.toNat % 2 ^ 8 ≠ 0 ∨ ∃ j, j < 64 ∧ j ≠ off ∧
          x.bytes.toNat / 2 ^ (8 * j) % 2 ^ 8 ≠ 0)))))

/-! ## Events of contexts, starts, debugging and management -/

/-- R76, R228, R234, R241, R243, R439 to R442, R445 to R447, R449 to R452: a context is allocated and torn down; a save that
may end leaves its core without the context and the image listed, and a restore loads the context; power-on stops every core,
a cold start clears memory and releases the cores, a warm start keeps memory when KEEP and the digest allow; the margins are
replanned; the debug unit halts, resumes, steps and writes; log modes change; a replay that waits is reported; the management
port answers and stores what it is given. What LOG's pointer, a teardown and a power-on reset leave is the model's choice where the rules do
not say (logs 12, 21 and 23); the certificate and the signature of the quote are opaque values (log 4). -/
def Obligations.ContextStartAndDebugEvents : Prop :=
  (∀ s : State, s.arg.w.toNat % 4 = 1 → LifeWritable s s.arg.a →
    ∃ t, exec .contextAllocate s = .next t ∧ descWord t s.arg.a 0 = s.arg.w ∧ ctxLife t s.arg.a = 1 ∧ CoresKept s t) ∧
  (∀ s : State, LifeWritable s s.arg.a → evictedOffers s s.arg.a = [] →
    (∀ g ∈ s.un.graphs, g.2.ctx ≠ s.arg.a) →
    (∀ n ∈ residents s s.arg.a, (getCore s n).num = n) →
    ∃ t, exec .contextTeardown s = .next t ∧ ctxLife t s.arg.a = 0 ∧ (∀ n ∈ residents s s.arg.a, noCtx (getCore t n) = true) ∧
      (∀ n ∈ residents s s.arg.a, modeOf (getCore s n) ≠ 2 → (getCore t n).run = .idle) ∧
      (∀ n, n ∉ residents s s.arg.a → getCore t n = getCore s n) ∧ (∀ g ∈ t.un.groups, g.2.ctx ≠ s.arg.a) ∧
      (∀ b ∈ t.un.barriers, b.2.ctx ≠ s.arg.a) ∧ (∀ p ∈ t.net, p.ctx = s.arg.a → ∀ d m att, p.body ≠ .msg d m att)) ∧
  (∀ (n : Nat) (j : SwJob) (s : State), Named s n → (getCore s n).run = .switching → (getCore s n).job = some j →
    (∀ u, j.saving = true → saveReady (focus s n) j = true → saveImage j (focus s n) = .ok u →
      ∃ t, exec .saveComplete s = .next t ∧ noCtx (getCore t n) = true ∧
        tget t.mu.away (curCtx (getCore s n) * 8192 + n) = some (if j.alt then 1 else 0) ∧
        (tget t.un.kept (curCtx (getCore s n) * 8192 + n)).isSome = true ∧
        (j.load = none → (getCore t n).run = .idle) ∧
        (∀ c, j.load = some c → (getCore t n).run = .switching ∧
          ∃ k, (getCore t n).job = some k ∧ k.saving = false ∧ k.load = some c)) ∧
    (∀ c, j.saving = false → j.load = some c → c < 256 → ctxLife s c = 1 → inRange s c n = true →
      (∀ u, tget s.un.kept (c * 8192 + n) = none → restoreImage c j.began (focus s n) = .ok u →
        ∃ t, exec .restoreComplete s = .next t ∧ noCtx (getCore t n) = false ∧ curCtx (getCore t n) = c ∧
          (getCore t n).run ≠ .switching) ∧
      (∀ k u v im, tget s.un.kept (c * 8192 + n) = some k → k.former ≠ .idle →
        restoreImage c j.began (focus s n) = .ok u → imageOf (focus s n) c n = .ok (v, im) → savedHandles im = [] →
        ∃ t, exec .restoreComplete s = .next t ∧ noCtx (getCore t n) = false ∧ curCtx (getCore t n) = c ∧
          (getCore t n).run = .running ∧
          (getCore t n).pc = BitVec.ofNat 64 (im.hdr / 2 ^ 64) ∧
          tget t.mu.away (c * 8192 + n) = none ∧ tget t.un.kept (c * 8192 + n) = none))) ∧
  (∀ s : State, ∃ t, exec .powerOnReset s = .next t ∧ (∀ n, n < nCores → (getCore t n).run = .reset) ∧
    t.mem = (l2Flush s).mem ∧ t.mu.l2 = [] ∧ t.net = [] ∧ t.cycle = s.cycle) ∧
  (∀ s : State, s.core.run = .reset →
    (s.arg.f = true →
      ∃ t, exec .coldStart s = .next t ∧ Started t (s.out.boot.disabled ++ maskBits s.arg.b nCores) ∧
        (∀ x, mget t.mem x = if x < 2 ^ 64 then 0 else mget s.mem x) ∧ t.mu.l2 = [] ∧ t.mu.rdc = [] ∧ t.mu.keys = [] ∧
        (∀ i, i < 25 → (getLink t i).st = if (getLink s i).en then .training else .down) ∧
        (∀ n, n < 12 → (getStack t n).st = if n ∈ maskBits s.arg.c 12 then .failed else .up) ∧
        t.out.boot.kind = 1 ∧ t.out.boot.kept = false ∧ t.out.boot.full = true ∧
        t.out.boot.digest = s.out.boot.image) ∧
    (s.arg.f = true → s.core.num < nCores → BandLeft (s.arg.w.toNat % 2 ^ 32) (s.arg.w.toNat / 2 ^ 32) →
      ∃ t, exec .warmStart s = .next t ∧ Started t s.out.boot.disabled ∧ t.mu.keys = [] ∧ t.mu.root = [] ∧
        t.mu.l2 = [] ∧ t.out.boot.kind = 2 ∧ t.out.boot.keep = false ∧ t.out.boot.plans = s.out.boot.plans + 1 ∧
        (∀ i, i < 25 → (getLink s i).st = .down → (getLink s i).en = true → (getLink t i).st = .training) ∧
        (t.out.boot.kept = true ↔ s.out.boot.keep = true ∧ s.arg.a = s.out.boot.digest) ∧
        (∀ x, mget t.mem x =
          if x < hbmEnd ∧ (t.out.boot.kept = false ∨ (s.mu.ctxtab ≠ 0 ∧ ctxTab s ≤ x ∧ x < ctxTab s + 16384)) then 0
          else mget s.mem x)) ∧
    (s.arg.f = false →
      ∃ t u, exec .coldStart s = .next t ∧ exec .warmStart s = .next u ∧ t.out.boot.failed = true ∧
        t.out.deluk = s.out.deluk ++ [.startFailed] ∧ CoresKept s t ∧ u.out.boot.failed = true ∧
        u.out.deluk = s.out.deluk ++ [.startFailed] ∧ CoresKept s u)) ∧
  (∀ s : State,
    (BandLeft s.arg.a s.arg.b → NoneSwitches s →
      ∃ t, exec .drydownReplan s = .next t ∧ t.out.boot.guard = s.arg.a ∧ t.out.boot.used = s.arg.b ∧
        t.out.boot.plans = s.out.boot.plans + 1 ∧ t.out.boot.drift = s.arg.f ∧ t.out.boot.planned = s.out.time ∧
        (s.arg.f = true → (getStack s s.arg.c).st = .up → (getStack t s.arg.c).st = .retraining) ∧
        CoresKept s t ∧ t.mem = s.mem) ∧
    (s.arg.f = false → ¬ BandLeft s.arg.a s.arg.b → (getCore s (noticeCore s 0)).ev.notices = [] →
      ∃ t y, exec .drydownReplan s = .next t ∧ t.out.boot.guard = s.arg.a ∧
        (getCore t (noticeCore s 0)).ev.notices = [y] ∧ y.info.toNat / 2 ^ 60 = 8)) ∧
  (∀ (n : Nat) (s : State), coreAt s s.arg.a = n → (getCore s n).num = n → (getCore s n).pos = s.arg.a →
    ((getCore s n).run = .running → (getCore s n).wait = none →
      ∃ t, exec .debugHaltRequest s = .next t ∧ (getCore t n).run = .halted ∧ (getCore t n).former = .running ∧
        (getCore t n).pc = (getCore s n).pc ∧ (getCore t n).pend = [] ∧
        (getCore t n).sc = (landAll (focus s n)).core.sc ∧ (getCore t n).vec = (landAll (focus s n)).core.vec ∧
        (∀ m, m ≠ n → getCore t m = getCore s m) ∧ t.mem = s.mem) ∧
    ((getCore s n).run = .halted →
      (∃ t, exec .debugResume s = .next t ∧ (getCore t n).run = resumesAs (getCore s n) ∧
        (getCore t n).ev.p83 = some (BitVec.ofNat 64 (min (2 ^ 64 - 1) (s.cycle - (getCore s n).ev.haltSince))) ∧
        (getCore t n).pc = (getCore s n).pc ∧ OnlyCore s t n) ∧
      (∃ t, exec .debugStep s = .next t ∧ (getCore t n).run = resumesAs (getCore s n) ∧
        (getDbg t s.arg.a).stepping = true ∧ (getCore t n).ev = (getCore s n).ev ∧
        (∀ m, m ≠ n → getCore t m = getCore s m) ∧ t.mem = s.mem)) ∧
    (∃ t, exec .debugClrdly s = .next t ∧ getCore t n = { getCore s n with dly := [] } ∧ OnlyCore s t n) ∧
    ((getCore s n).run = .halted ∨ (getCore s n).run = .frozen →
      (∀ r : Reg, (getDbg s s.arg.a).sel.toNat % 2 ^ 16 = 16 * r.toNat →
        ∃ t, exec .debugDataWrite s = .next t ∧ Gives (focus t n) r s.arg.w ∧ KeepsX (focus s n) (focus t n) [r] ∧
          (∀ m, m ≠ n → getCore t m = getCore s m) ∧ t.mem = s.mem) ∧
      ((getDbg s s.arg.a).sel.toNat % 4 = 3 →
        ∃ t, exec .debugDataWrite s = .next t ∧ getCore t n = { getCore s n with pc := s.arg.w } ∧ OnlyCore s t n))) ∧
  (∀ s : State, (getLog s (s.arg.a % 4)).mode ≠ 1 →
    ∃ t, exec .logControlWrite s = .next t ∧ (getLog t (s.arg.a % 4)).mode = s.arg.w.toNat % 4 ∧
      (s.arg.w.toNat % 4 = 1 → (getLog t (s.arg.a % 4)).ptr = 0 ∧ (getLog t (s.arg.a % 4)).stall = false) ∧ CoresKept s t ∧
      t.mem = s.mem) ∧
  (∀ s : State, (getLog s (s.arg.a % 4)).mode = 2 → replayWaits s (s.arg.a % 4) s.arg.b = true →
    (tget (getLog s (s.arg.a % 4)).waitSince s.arg.b = none →
      ∃ t, exec .replayStall s = .next t ∧ tget (getLog t (s.arg.a % 4)).waitSince s.arg.b = some s.cycle ∧ CoresKept s t) ∧
    (∀ c, tget (getLog s (s.arg.a % 4)).waitSince s.arg.b = some c → (getLog s (s.arg.a % 4)).stall = false →
      c + 2 ^ 24 ≤ s.cycle → (getCore s (noticeCore s (unitDie s (s.arg.a % 4) s.arg.b % 4))).ev.notices = [] →
      ∃ t y, exec .replayStall s = .next t ∧ (getLog t (s.arg.a % 4)).stall = true ∧
        (getCore t (noticeCore s (unitDie s (s.arg.a % 4) s.arg.b % 4))).ev.notices = [y] ∧
        y.info.toNat / 2 ^ 60 = 7)) ∧
  (∀ s : State,
    (∃ t, exec .delukIdentity s = .next t ∧
      t.out.deluk = s.out.deluk ++ [.identity Config.certificate s.out.boot.digest (bootstatWord s.out.boot)
        (Config.quoteSign s.fresh s.out.boot.digest (bootstatWord s.out.boot))] ∧ CoresKept s t) ∧
    (∃ t l, exec .delukStatus s = .next t ∧ t.out.deluk = s.out.deluk ++ [.status l] ∧ l.length = 41 ∧ CoresKept s t) ∧
    (∃ t, exec .delukNotices s = .next t ∧ t.out.delukSent = s.out.deluk.length ∧ t.out.deluk = s.out.deluk ∧
      CoresKept s t) ∧
    (s.arg.f = false →
      ∃ t, exec .delukDebug s = .next t ∧ t.out.deluk = s.out.deluk ++ [.data (dbgRead s s.arg.a s.arg.b)] ∧
        CoresKept s t) ∧
    (s.arg.f = true → s.arg.b = 0x050 →
      ∃ t, exec .delukDebug s = .next t ∧ (getDbg t s.arg.a).sel = s.arg.w &&& 0xFFF3 ∧ CoresKept s t) ∧
    (∃ t, exec .delukFirmware s = .next t ∧ t.out.boot.image = s.arg.a ∧ t.out.boot.digest = s.out.boot.digest ∧
      CoresKept s t) ∧
    (1000 ≤ s.arg.a → s.arg.a ≤ 3300 → BandLeft s.arg.b s.arg.c →
      ∃ t, exec .delukPower s = .next t ∧ t.out.boot.power = s.arg.a ∧ t.out.boot.guard = s.arg.b ∧
        t.out.boot.used = s.arg.c ∧ t.out.boot.plans = s.out.boot.plans + 1 ∧ CoresKept s t) ∧
    (∃ t, exec .delukReset s = .next t ∧ t.out.boot.request = some s.arg.f ∧ CoresKept s t))

/-! ## Events of kernels and graphs -/

/-- R279 to R286, R288: of the entries a command processor may examine the first is admitted with the headers its graph
holds, its nodes that wait for nothing ready, or ended with code 7 when it is malformed; a ready kernel node takes a slot,
LIVE becomes COUNT and each core of its range is sent a wake; the kernel runs once every wake is delivered; a node whose work
is over completes and counts down its successor; a wait node completes when its predicate holds and ends its graph with
code 1 at its limit; a weight switch goes on to its commit, which advances cur(L); the status word of an ended graph is
written. -/
def Obligations.GraphEvents : Prop :=
  (∀ (cp : Nat) (u v w : State) (l : List Subq) (es : List Entry) (e : Entry) (q : Subq) (s : State),
    s.arg.a = cp → admitted s cp < 64 → subqHeads cp (rungBells (readBells s cp) cp) (readBells s cp) = .ok (u, l) →
    allEntries cp l u = .ok (v, es) → bestBy entryFirst (es.filter (fun f => !switchBars v f.ctx f.batch)) = some e →
    l.find? (fun p => p.ctx == e.ctx) = some q → takeEntry v cp q e = .ok w →
    (e.bad = true →
      ∃ t g x, exec .graphAdmission s = .next t ∧ tget t.un.graphs g = some x ∧ x.ctx = e.ctx ∧ x.cp = cp ∧
        x.status = e.status ∧ x.ended = some (7, 0)) ∧
    (∀ x hs, e.bad = false →
      readHeaders cp e.ctx e.graph e.nodes 0 { w with nextId := w.nextId + 1 } = .ok (x, hs, none) →
      (∀ i h, hs[i]? = some h → headerBad { Node.fresh with hdr := h } e.nodes i = false ∧
        layerBad { Node.fresh with hdr := h } = false) →
      ∃ t g x, exec .graphAdmission s = .next t ∧ tget t.un.graphs g = some x ∧ x.ctx = e.ctx ∧ x.cp = cp ∧
        x.prio = e.prio ∧ x.batch = e.batch ∧ x.status = e.status ∧ ∀ i h, hs[i]? = some h →
          (x.node i).hdr = h ∧ (x.node i).waits = h.toNat / 2 ^ 16 % 2 ^ 16 ∧
          (x.node i).st = if h.toNat / 2 ^ 16 % 2 ^ 16 = 0 then .ready else .pending)) ∧
  (∀ (cp g i p r k : Nat) (x : Graph) (u : State) (l : List Byte) (s : State), s.arg.a = cp →
    bestBy nodeFirst (readyNodes s cp) = some (g, p, r, i) → i < 4096 → tget s.un.graphs g = some x → kerSlot s = some k →
    cpRead s x.cp x.ctx (x.addr + BitVec.ofNat 64 (64 * i + 16)) 48 = .got u l false →
    (let n : Node := { x.node i with body := BitVec.ofNat 384 (ofBytes l) }
     n.kind = 0 → n.layer = 0xFFFF → bodyBad (setNode u g i (fun _ => n)) x.ctx n = false →
     ∃ t y, exec .nodeStart s = .next t ∧ (getKer t k).st = .waking ∧ (getKer t k).live = n.kCount ∧
      (getKer t k).wakes = n.kCount ∧ (getKer t k).entry.toNat = ofBytes l % 2 ^ 32 ∧
      (getKer t k).args.toNat = ofBytes l / 2 ^ 128 % 2 ^ 64 ∧ (getKer t k).ctx = x.ctx ∧
      tget t.un.graphs g = some y ∧ (y.node i).st = .running)) ∧
  (∀ (k : Nat) (s : State), s.arg.a = k → (getKer s k).st = .waking → (getKer s k).wakes = 0 →
    ∃ t, exec .kernelRunning s = .next t ∧ getKer t k = { getKer s k with st := .running } ∧ CoresKept s t ∧
      t.mem = s.mem) ∧
  (∀ (g i k : Nat) (x : Graph) (m : Node) (s : State), s.arg.a = g → s.arg.b = i → i < 4096 → tget s.un.graphs g = some x →
    x.ended = none → (x.node i).st = .running → (x.node i).succs = [k] → k ≠ i → tget x.nodes k = some m → m.kind ≠ 3 →
    m.waits = 1 → m.st = .pending →
    ((x.node i).kind = 0 → kerOver s (x.node i).job = true →
      ∃ t y, exec .nodeComplete s = .next t ∧ tget t.un.graphs g = some y ∧ (y.node i).st = .done ∧
        (y.node k).st = .ready ∧ (y.node k).waits = 0 ∧ CoresKept s t ∧ t.mem = s.mem) ∧
    ((x.node i).kind = 1 → (x.node i).job = 2 ^ 32 →
      ∃ t y, exec .nodeComplete s = .next t ∧ tget t.un.graphs g = some y ∧ (y.node i).st = .done ∧
        (y.node k).st = .ready ∧ (y.node k).waits = 0 ∧ CoresKept s t ∧ t.mem = s.mem) ∧
    (∀ u, (x.node i).kind = 4 → nodePred s x (x.node i) = .is u true →
      ∃ t y, exec .waitNodeSatisfied s = .next t ∧ tget t.un.graphs g = some y ∧ (y.node i).st = .done ∧
        (y.node k).st = .ready ∧ (y.node k).waits = 0)) ∧
  (∀ (g i c : Nat) (x : Graph) (s : State), s.arg.a = g → s.arg.b = i → tget s.un.graphs g = some x → x.ended = none →
    (x.node i).st = .running → (x.node i).kind = 4 → (x.node i).limit = some c → c ≤ s.out.time →
    ∃ t y, exec .waitNodeTimeout s = .next t ∧ tget t.un.graphs g = some y ∧ y.ended = some (1, i) ∧ CoresKept s t ∧
      t.mem = s.mem) ∧
  (∀ (g code i n off : Nat) (x : Graph) (s : State), s.arg.a = g → tget s.un.graphs g = some x → x.ended = some (code, i) →
    (∀ p ∈ x.nodes, p.2.st ≠ .running) → x.alone = false → x.status = localAddr n off → off % 8 = 0 → off < 2 ^ 16 →
    Reached s x.ctx n → WritesAtOnce s x.cp n →
    ∃ t, exec .graphEnd s = .next t ∧ tget t.un.graphs g = none ∧ KeepsBytesBut s t (localKey n off) 8 ∧ CoresKept s t ∧
      mread t.mem (localKey n off) 8 =
        bytesOf ((code + if code ∈ [0, 5, 7] then 0 else i % 65536 * 65536) % 2 ^ 64) 8) ∧
  (∀ (g i : Nat) (x : Graph) (s : State), s.arg.a = g → s.arg.b = i → tget s.un.graphs g = some x →
    (x.node i).st = .running → (x.node i).kind = 7 →
    ((x.node i).job = 0 → (x.node i).word 1 = 0 →
      switchFree s g x (x.node i).layer (BitVec.ofNat 32 ((x.node i).word 0).toNat) = true →
      ∃ t y, exec .weightSwitchCopy s = .next t ∧ tget t.un.graphs g = some y ∧ (y.node i).job = 2 ^ 32 ∧
        (y.node i).st = .running ∧ CoresKept s t ∧ t.mem = s.mem) ∧
    ((x.node i).job = 2 ^ 32 → x.ended = none → i ∉ (x.node i).succs →
      (∀ b ∈ s.un.barriers, b.2.ctx ≠ x.ctx) →
      ∃ t y, exec .weightSwitchCommit s = .next t ∧ layerCur t x.ctx (x.node i).layer = BitVec.ofNat 32 ((x.node i).word 0).toNat ∧
        tget t.un.graphs g = some y ∧ (y.node i).st = .done ∧ CoresKept s t ∧ t.mem = s.mem))

/-! ## Events of matrix engines, copies and streams -/

/-- R325, R326, R332, R333, R335 to R339: a share is placed and rises in priority; an engine takes a chunk, an MMA of i8 adds
the exact sums of products modulo 2^32; a share drains into its target; a decrement lands at its home; a tile fault traps with
cause 0x0B. R350, R351, R354 to R356, R358 to R360, R362: a copy's block is read, its bytes and rows move, a row as a packet from its
owner, it writes its flag and is done, and its interrupt's entry is appended; a strip is fetched ahead. That an event moves at most 64
bytes and that a row is read in one event and written in another is log 33's choice, the order in which an engine serves its transfers
log 52's. -/
def Obligations.TileAndCopyEvents : Prop :=
  (∀ (cl i k slot : Nat) (r : TileRec) (rest : List (Nat × TileRec)) (s : State), s.arg.a = cl → pausedHere s cl = none →
    (getLog s 2).mode = 0 → (readyRecs s cl).filter (fun p => (slotFor s cl p.2).isSome) = (i, r) :: rest →
    nextShare r = some k → slotFor s cl r = some (slot, false) →
    ∃ t q, exec .sharePlacement s = .next t ∧ (getAcc t cl slot).st = .busy ∧ (getAcc t cl slot).words = [] ∧
      (getAcc t cl slot).owner = r.ticket i ∧ (getAcc t cl slot).sub = k ∧ (getAcc t cl slot).chunk = 0 ∧
      (getEng t cl (slot / 4)).input = some slot ∧ getRec t cl i = some q ∧ tget q.placed k = some slot ∧ CoresKept s t ∧
      t.mem = s.mem) ∧
  (∀ (cl i : Nat) (r : TileRec) (s : State), s.arg.a = cl → recOf s cl s.arg.b = some (i, r) → r.st = .ready →
    r.readyAt + 65536 ≤ s.cycle →
    ∃ t, exec .shareAgeing s = .next t ∧ getRec t cl i = some { r with prio := min 63 (r.prio + 1), readyAt := r.readyAt + 65536 } ∧
      CoresKept s t ∧ t.mem = s.mem) ∧
  (∀ (cl slot i : Nat) (r : TileRec) (v : State) (av bv : List (List FV)) (sa sb : Option (List (Option Int))) (s : State),
    s.arg.a = cl → s.arg.b = slot →
    (let x := getAcc s cl slot
     x.st = .busy → (getEng s cl (slot / 4)).frozen = false → (getEng s cl (slot / 4)).run = some slot →
     recOf s cl x.owner = some (i, r) → (x.chunk ≠ 0 ∨ rAcck r.words ≠ 2) →
     chunkOperands s cl r x.sub x.chunk = .inr (v, av, bv, sa, sb) →
     let w := chunkInto x.words x.flags (rCfmt r.words == 1) av bv sa sb
     ((x.chunk + 1) * 32 < rK r.words →
      ∃ t, exec .tileChunk s = .next t ∧ getAcc t cl slot = { x with words := w.1, flags := w.2, chunk := x.chunk + 1 } ∧
        t.mem = v.mem) ∧
     (rK r.words ≤ (x.chunk + 1) * 32 → rDrain r.words = true →
      ∃ t, exec .tileChunk s = .next t ∧ (getAcc t cl slot).st = .draining ∧ (getAcc t cl slot).words = w.1 ∧
        (getAcc t cl slot).flags = w.2 ∧ (getEng t cl (slot / 4)).run = none ∧ t.mem = v.mem))) ∧
  (∀ (cl e : Nat) (j : MmaJob) (rest : List MmaJob) (s : State), s.arg.a = cl → s.arg.b = e →
    (getEng s cl e).frozen = false → (getEng s cl e).mmas = j :: rest →
    ∃ t, exec .mmaApply s = .next t ∧ (getEng t cl e).mmas = rest ∧ (getAcc t cl j.slot).st = (getAcc s cl j.slot).st ∧
      (getAcc t cl j.slot).owner = (getAcc s cl j.slot).owner ∧ CoresKept s t ∧ t.mem = s.mem ∧
      (j.ty = .i8 → (getAcc t cl j.slot).flags = (getAcc s cl j.slot).flags ∧ ∀ r c, r < 32 → c < 32 →
        tgetD (getAcc t cl j.slot).words (32 * r + c) 0 = tgetD (getAcc s cl j.slot).words (32 * r + c) 0 +
          BitVec.ofInt 32 ((List.range 8).map (fun k => mmaElem j.a k r * mmaElem j.b k c)).sum)) ∧
  (∀ (cl slot i : Nat) (r : TileRec) (u : State) (fl : Flags) (s : State), s.arg.a = cl → s.arg.b = slot →
    (let x := getAcc s cl slot
     x.st = .draining → (getEng s cl (slot / 4)).frozen = false → recOf s cl x.owner = some (i, r) → x.sub ∈ r.finished →
     drainGo cl r.ctx r.asid x.words x.target (drainCore r x.target x.sub) (rN r.words) (rM r.words - x.row) s x.row x.flags =
       .done u fl →
     ∃ t, exec .drainComplete s = .next t ∧ (getAcc t cl slot).st = .free ∧ t.mem = u.mem)) ∧
  (∀ (n off cl ticket : Nat) (p : Packet) (s : State), findPacket s s.arg.a = some p →
    p.body = .shape (.loc n) (localKey n off) cl ticket → Reached s p.ctx n → HomeHears s p n → off % 8 = 0 → off < 2 ^ 16 →
    Whole s n off 8 → heldAtPort s p (.loc n) = none → recOf s cl ticket = none →
    (let w := ofBytes (mread s.mem (localKey n off) 8)
     w / 2 ^ 48 % 2 ^ 10 ≠ 0 →
     ∃ t, exec .shapeDecrementAtHome s = .next t ∧ ofBytes (mread t.mem (localKey n off) 8) = w - 2 ^ 48 ∧
      KeepsBytesBut s t (localKey n off) 8 ∧ t.net.length + 1 = s.net.length ∧ CoresKept s t)) ∧
  (∀ (n : Nat) (v : W64) (r : List W64) (s : State), Named s n → Plain (focus s n) → SpillFits (getCore s n).sc →
    modeOf (getCore s n) = 0 → (getCore s n).run = .running → (getCore s n).mail.mcast = [] → (getCore s n).ev.pend0B = v :: r →
    ∃ t, exec .tileFaultTrap s = .next t ∧ InSystem (focus s n) (focus t n) 0x0B v (getCore s n).pc ∧
      (getCore t n).ev.pend0B = r) ∧
  (∀ (cl slot : Nat) (s : State), s.arg.a = cl → s.arg.b = slot → copierFrozen s cl = false →
    (let x := getXfer s cl slot
     (∀ p ∈ s.un.xfers, p.2.forWhom = x.forWhom → p.2.st = .reading → x.seq ≤ p.2.seq) →
     (x.st = .reading → x.flagged = false → x.kind = 0 →
      ∃ t, exec .copyBlockRead s = .next t ∧ getXfer t cl slot = { x with st := .running } ∧ CoresKept s t ∧ t.mem = s.mem) ∧
     (∀ n off, x.st = .reading → x.flagged = true → x.blockAddr = localAddr n off → off % 8 = 0 → off + 48 ≤ 2 ^ 16 →
        Reached s x.ctx n → Clean s n off 48 →
      (let b := BitVec.ofNat 384 (ofBytes (mread s.mem (localKey n off) 48))
       blockBad 0 b x.handler = false →
       ∃ t, exec .copyBlockRead s = .next t ∧ (getXfer t cl slot).st = .running ∧ (getXfer t cl slot).block = b ∧
        (getXfer t cl slot).handler = if b.toNat / 2 ^ 352 = 0 then x.handler else BitVec.ofNat 32 (b.toNat / 2 ^ 352))))) ∧
  (∀ (cl slot m so n d : Nat) (s : State), s.arg.a = cl → s.arg.b = slot → LocalCopy s cl slot m so n d →
    WritesAtOnce s (cl / 32) n → copyNext s cl = some slot →
    (let x := getXfer s cl slot
     let k := min (bLen x.block - x.doneB) (min (64 - (so + x.doneB) % 64) (64 - (d + x.doneB) % 64))
     x.doneB < bLen x.block →
     ∃ t, exec .copyPieceStart s = .next t ∧ (getXfer t cl slot).doneB = x.doneB + k ∧
      mread t.mem (localKey n (d + x.doneB)) k = mread s.mem (localKey m (so + x.doneB)) k ∧
      KeepsBytesBut s t (localKey n (d + x.doneB)) k ∧ CoresKept s t)) ∧
  (∀ (cl slot c q : Nat) (s : State), s.arg.a = cl → s.arg.b = slot → copierFrozen s cl = false →
    (let x := getXfer s cl slot
     x.st = .running → x.kind = 0 → bLen x.block ≤ x.doneB → x.forWhom = .core c q → x.cause = 0 → bUir 0 x.block = false →
     x.peerWin = none →
     (bFlg 0 x.block = false →
      ∃ t, exec .copyComplete s = .next t ∧ (getXfer t cl slot).st = .done ∧ CoresKept s t ∧ t.mem = s.mem) ∧
     (∀ n off, bFlg 0 x.block = true → bFlag x.block = localAddr n off → off % 4 = 0 → off < 2 ^ 16 → Reached s x.ctx n →
      WritesAtOnce s (cl / 32) n →
      ∃ t, exec .copyComplete s = .next t ∧ (getXfer t cl slot).st = .done ∧
        mread t.mem (localKey n off) 4 = bytesOf (bFval x.block) 4 ∧ KeepsBytesBut s t (localKey n off) 4 ∧ CoresKept s t))) ∧
  (∀ (cl slot n q : Nat) (s : State), s.arg.a = cl → s.arg.b = slot →
    (let x := getXfer s cl slot
     x.st = .completing → x.flagged = true → x.forWhom = .core n q → x.cause = 0 → (getCore s n).num = n → copierFrozen s cl = false →
     (∀ p ∈ s.un.xfers, p.2.st = .completing → x.endSeq ≤ p.2.endSeq) →
     noCtx (getCore s n) = false → curCtx (getCore s n) = x.ctx → (getCore s n).mail.cpyq.length < 64 →
     ∃ t, exec .completionQueueAppend s = .next t ∧ (getXfer t cl slot).st = .done ∧ t.mem = s.mem ∧
      (getCore t n).mail.cpyq = (getCore s n).mail.cpyq ++ [(x.handler, BitVec.ofNat 32 (x.gen * 64 + slot))] ∧
      ∀ m, m ≠ n → getCore t m = getCore s m)) ∧
  (∀ (cl slot k e n d : Nat) (s : State), s.arg.a = cl → s.arg.b = slot → s.arg.c = k → copierFrozen s cl = false →
    (let x := getXfer s cl slot
     let m := rowOwner x.block (e % 2 ^ 32)
     let so := gOff x.block + e % 2 ^ 32 % gPer x.block * gRow x.block
     x.st = .running → x.kind = 1 → x.rows.find? (fun f => f / 2 ^ 32 == k) = some e → bDst x.block = localAddr n d →
     gOff x.block % 64 = 0 → d % 64 = 0 → so + gRow x.block ≤ 2 ^ 16 → d + (k + 1) * gRow x.block ≤ 2 ^ 16 →
     copyNext s cl = some slot → subArrives s cl slot m = some s →
     (rowSent s cl slot k = none → Reached s x.ctx m → Clean s m so (gRow x.block) →
      ∃ t p, exec .gatherRowAtOwner s = .next t ∧ t.net = s.net ++ [p] ∧
        p.body = .row cl slot k (mread s.mem (localKey m so) (gRow x.block)) ∧ (getXfer t cl slot).rows = x.rows ∧
        CoresKept s t ∧ KeepsBytes s t) ∧
     (∀ p l, rowSent s cl slot k = some (p, l) → l.length = gRow x.block → Reached s x.ctx n → WritesAtOnce s (cl / 32) n →
      ∃ t, exec .gatherRowAtOwner s = .next t ∧ (getXfer t cl slot).rows = x.rows.filter (fun f => f != e) ∧
        t.net.length + 1 = s.net.length ∧ mread t.mem (localKey n (d + k * gRow x.block)) (gRow x.block) = l ∧
        KeepsBytesBut s t (localKey n (d + k * gRow x.block)) (gRow x.block) ∧ CoresKept s t))) ∧
  (∀ (n : Nat) (r : Reg) (x : Stream) (s : State), Named s n → s.arg.b = r.toNat → tget (getCore s n).vec.streams r.toNat = some x →
    x.dir = false → x.fetched.length < 4 → (x.ahead x.fetched.length).over = false →
    OwnAccess (focus s n) (x.ahead x.fetched.length).addr 64 → OwnReadable (focus s n) (x.ahead x.fetched.length).addr 64 →
    (let v := lineOf (mread s.mem (ownKey (focus s n) (x.ahead x.fetched.length).addr) 64)
     ∃ t, exec .streamStripFetch s = .next t ∧
      tget (getCore t n).vec.streams r.toNat = some { x with fetched := x.fetched ++ [v] } ∧
      (∀ m, m ≠ n → getCore t m = getCore s m) ∧ t.mem = s.mem))

/-! ## Events of experts and of the resident task -/

/-- R369, R371 to R374, R377, R378: EXCFG installs and removes an entry, and the copies of a die follow; a reservation that
the port grants takes a free slot, its row is pulled and delivered and the receipt is returned; an evaluation counts, and
retires the youngest replica; a fill, and a hand-over, start and complete, a hand-over also when its copy has stopped (log 18, the
model's choice). R418, R420 to R424: an instant begins, a sub-round decides its pairs together, an exchange swaps two positions, a
forwarding ends. -/
def Obligations.ExpertAndPlacementEvents : Prop :=
  (∀ (n : Nat) (s : State), s.arg.a = n → fld s.arg.w 0 0 = 1 → (getExp s n).st = .free →
    (∀ y, expertFrom s (s.arg.w &&& (ones 51 6 ||| 1)) = some y →
      ∃ t, exec .excfgInstall s = .next t ∧ getExp t n = y ∧ getCopy t n (dieOf (getCore s y.owner).pos) = y ∧
        CoresKept s t ∧ t.mem = s.mem) ∧
    (expertFrom s (s.arg.w &&& (ones 51 6 ||| 1)) = none →
      ∃ t, exec .excfgInstall s = .next t ∧ getExp t n = { getExp s n with err := true } ∧ CoresKept s t ∧
        t.mem = s.mem)) ∧
  (∀ (n : Nat) (s : State), s.arg.a = n → fld s.arg.w 0 0 = 0 → (getExp s n).st = .live →
    (∀ r ∈ (getExp s n).reps, r.st = .retired ∧ r.hop = false) →
    ∃ t, exec .excfgRemove s = .next t ∧ (getExp t n).st = .free ∧ (getExp t n).reps = [] ∧
      (∀ d, d < 4 → (getCopy t n d).st = .free) ∧ CoresKept s t ∧ t.mem = s.mem) ∧
  (∀ (e d : Nat) (s : State), s.arg.a = e → s.arg.b = d → (getExp s e).st ≠ .free →
    ∃ t, exec .directoryCopyUpdate s = .next t ∧ getCopy t e d = getExp s e ∧
      (∀ f k, copyKey f k ≠ copyKey e d → getCopy t f k = getCopy s f k) ∧ t.un.experts = s.un.experts ∧ CoresKept s t ∧
      t.mem = s.mem) ∧
  (∀ (v : Resv) (s : State), Waits s s.arg.a v → v.granted = none →
    (let e := fld v.name 15 0
     let r := (getExp s e).rep v.at_
     let c := getCopy s e (dieOf (getCore s r.first).pos)
     c.st = .live → c.ws = v.ws → r.st = .serving → r.infl < r.nslot → rowLen v.word ≤ r.rsz * 64 →
     ∃ t slot, exec .reservationAtPort s = .next t ∧ slot < r.nslot ∧ tget r.slots slot = none ∧
      tget ((getExp t e).rep v.at_).slots slot = some false ∧
      Waits t s.arg.a { v with granted := some (v.at_, slot) } ∧ CoresKept s t ∧ t.mem = s.mem)) ∧
  (∀ (v : Resv) (r slot n : Nat) (u : State) (row : Row) (s : State), Waits s s.arg.a v →
    v.granted = some (r, slot) → v.q = none → pullRow s v.ctx v.core v.die v.word = some (u, row) → row.lost = none → v.core < nCores →
    (getCore u v.core).wait = some ⟨n, .route v.id⟩ → (∀ p ∈ u.net, p.id ≠ u.nextId) →
    (let x := (getExp s (fld v.name 15 0)).rep r
     ∃ t p m off, exec .expertRowPulled s = .next t ∧
      (getCore t v.core).wait = some ⟨n, .routed (receiptOf (fld v.name 15 0) r slot x.cseq) false⟩ ∧
      p ∈ t.net ∧ p.id = u.nextId ∧
      p.body = .msg (((getExp u (fld v.name 15 0)).rep r).first + slot % ((getExp u (fld v.name 15 0)).rep r).count) m
        (some (.row row.bytes off row.bad)) ∧ m.cls = 2 ∧ m.sender.toNat = v.core % 2 ^ 32 ∧ m.handler = (getExp u (fld v.name 15 0)).fwdh ∧
      t.mem = u.mem)) ∧
  (∀ (e : Nat) (s : State), s.arg.a = e →
    (let x := getExp s e
     let y := { x with
       lastEval := s.cycle / 4096, sinceGrow := min 17 (x.sinceGrow + 1), sinceRetire := min 17 (x.sinceRetire + 1) }
     let sv := servingReps x
     x.st = .live → x.lastEval < s.cycle / 4096 → x.growT = 0 →
     (x.shrinkT = 0 → ∃ t, exec .accordEvaluation s = .next t ∧ getExp t e = y ∧ CoresKept s t ∧ t.mem = s.mem) ∧
     (x.shrinkT ≠ 0 → 8 * (sv.map (fun k => (x.rep k).infl)).sum ≤ x.shrinkT * (sv.map (fun k => (x.rep k).nslot)).sum →
      2 ≤ sv.length → 16 < y.sinceGrow → (∃ b : BitVec 16, ∀ j ∈ sv, ((x.rep j).cseq - b).toNat < 2 ^ 15) →
      ∃ t k, exec .accordEvaluation s = .next t ∧ k ∈ sv ∧
        (∀ j ∈ sv, (x.rep j).upTo (x.rep k) = true) ∧ ((getExp t e).rep k).st = .draining ∧
        (getExp t e).sinceRetire = 0 ∧ (∀ j, j ≠ k → (getExp t e).rep j = x.rep j) ∧ CoresKept s t ∧ t.mem = s.mem))) ∧
  (∀ (e k : Nat) (s : State), s.arg.a = e → s.arg.b = k → ((getExp s e).rep k).st = .filling →
    (getExp s e).pub = false →
    (((getExp s e).rep k).job = 2 ^ 32 → ((getExp s e).rep k).fillWs = (getExp s e).ws → ((getExp s e).rep k).zeroed = true →
      ∃ t, exec .replicaFillComplete s = .next t ∧
        (getExp t e).rep k = { (getExp s e).rep k with st := .serving, job := 0 } ∧ CoresKept s t ∧ t.mem = s.mem) ∧
    (2 ^ 32 < ((getExp s e).rep k).job →
      ∃ t, exec .replicaFillComplete s = .next t ∧
        (getExp t e).rep k = { (getExp s e).rep k with st := .retired, ferr := true, job := 0 } ∧ CoresKept s t ∧
        t.mem = s.mem)) ∧
  (∀ (e k slot : Nat) (s : State), s.arg.a = e → s.arg.b = k →
    (let x := getExp s e
     let r := x.rep k
     let cl := clusterOf (getCore s r.first).pos
     r.st = .draining → r.slots = [] → (∀ d, d < 4 → ((getCopy s e d).rep k).st = .draining) → xferSlot s cl = some slot →
     ∃ t, exec .handoverStart s = .next t ∧ ((getExp t e).rep k).st = .handing ∧ (getXfer t cl slot).st = .running ∧
      (getXfer t cl slot).forWhom = .handover e k ∧ bSrc (getXfer t cl slot).block = r.gacc ∧
      bDst (getXfer t cl slot).block = x.hobuf + BitVec.ofNat 64 (k * x.glen) ∧ CoresKept s t ∧ t.mem = s.mem)) ∧
  (∀ (e k : Nat) (s : State), s.arg.a = e → s.arg.b = k → ((getExp s e).rep k).st = .handing →
    2 ^ 32 ≤ ((getExp s e).rep k).job →
    ∃ t, exec .handoverComplete s = .next t ∧
      (getExp t e).rep k = { (getExp s e).rep k with st := .retired, hop := true, job := 0 } ∧ CoresKept s t ∧
      t.mem = s.mem) ∧
  (∀ (die : Nat) (s : State), s.arg.a = die →
    (let v := tgetD s.out.subround die 0
     let on := fld s.out.silEn die die == 1
     v % 8 = 0 → v / 8 < s.cycle / 4194304 → (dieCores s die).Nodup →
     ∃ t, exec .swapInstant s = .next t ∧ tgetD t.out.subround die 0 = (v / 8 + 1) * 8 + (if on then 1 else 5) ∧
      t.mem = s.mem ∧ ∀ n ∈ dieCores s die, (getCore t n).task.age = min 15 ((getCore s n).task.age + 1) ∧
        (getCore t n).task.result = if (getCore s n).task.mov && !on then 5 else (getCore s n).task.result)) ∧
  (∀ (die : Nat) (s : State), s.arg.a = die → NumberedCores s → (∀ e ∈ s.out.swaps, e.die ≠ die) →
    (let v := tgetD s.out.subround die 0
     let ps := (subroundPairs die (v % 8)).map (fun p => (coreAt s p.1, coreAt s p.2))
     1 ≤ v % 8 → v % 8 ≤ 4 → (ps.flatMap (fun p => [p.1, p.2])).Nodup →
     ∃ t, exec .swapSubround s = .next t ∧ tgetD t.out.subround die 0 = v + 1 ∧ t.mem = s.mem ∧ ∀ p ∈ ps,
      (getCore t p.1).task.result = pairResult s p.1 p.2 ∧ (getCore t p.2).task.result = pairResult s p.1 p.2 ∧
      (getCore t p.1).task.inst = v / 8 % 65536 ∧ (getCore t p.2).task.inst = v / 8 % 65536 ∧
      (pairResult s p.1 p.2 = 1 → (getCore t p.1).run = .swapping ∧ (getCore t p.2).run = .swapping ∧
        ⟨p.1, p.2, die⟩ ∈ t.out.swaps))) ∧
  (∀ (n : Nat) (e : Exchange) (s : State), s.arg.a = n → s.out.swaps.find? (fun e => e.a == n || e.b == n) = some e →
    e.a ≠ e.b → (getCore s e.a).num = e.a → (getCore s e.b).num = e.b → crossReady s e.a = true → crossReady s e.b = true →
    ∃ t, exec .swapExchangeComplete s = .next t ∧ t.mem = s.mem ∧
      (getCore t e.a).pos = (getCore s e.b).pos ∧ (getCore t e.b).pos = (getCore s e.a).pos ∧
      (getCore t e.a).cycleBase = (getCore s e.b).cycleBase ∧ (getCore t e.b).cycleBase = (getCore s e.a).cycleBase ∧
      (getCore t e.a).tlb = (getCore s e.b).tlb ∧ (getCore t e.b).tlb = (getCore s e.a).tlb ∧
      (getCore t e.a).run = (getCore s e.a).former ∧ (getCore t e.b).run = (getCore s e.b).former ∧
      (getCore t e.a).sc = (getCore s e.a).sc ∧ (getCore t e.b).sc = (getCore s e.b).sc ∧
      (getCore t e.a).pc = (getCore s e.a).pc ∧ (getCore t e.b).pc = (getCore s e.b).pc ∧
      (∀ m, m ≠ e.a → m ≠ e.b → getCore t m = getCore s m) ∧ e ∉ t.out.swaps ∧
      ⟨e.a, (getCore s e.a).pos, s.cycle + 16384, s.nextId⟩ ∈ t.out.forwards ∧
      ⟨e.b, (getCore s e.b).pos, s.cycle + 16384, s.nextId⟩ ∈ t.out.forwards) ∧
  (∀ (n : Nat) (f : Forward) (s : State), s.arg.a = n → s.out.forwards.find? (fun f => f.num == n) = some f →
    f.until_ ≤ s.cycle → s.net = [] →
    ∃ t, exec .forwardingEnd s = .next t ∧ t.out.forwards = s.out.forwards.filter (fun g => g.num != n) ∧ CoresKept s t ∧
      t.mem = s.mem)

/-! ## Events of searches, links and collectives -/

/-- R398, R401 to R407: a query's vector is read; the first ready query takes an engine; a batch is measured; a search starts
at its entry, takes its best candidate, is suspended and stops; a query resumes, completes with its result entries written, and
rises in priority; an arbitration window closes; one burst of a starving read is admitted. R426, R427, R430 to R435: a link is trained, retrained,
loses lanes, takes flits, is quarantined, enabled and disabled; TWIN and WFAULT are written; the clock's lock is judged; a
contribution arrives, a collective ends, and a member's limit ends its wait. The model's own: the slew is minus the offset last
measured (log 38); a frozen link stays quarantined whatever EN is written (log 44). -/
def Obligations.SearchLinkAndCollectiveEvents : Prop :=
  (∀ (k : Nat) (u : State) (l : List Byte) (s : State), s.arg.a = k → (getQuery s k).st = .reading →
    queryFrozen s k = false →
    engReads s (stackCluster (k / 64)) (getQuery s k).ctx (getQuery s k).asid (leaAdd (getQuery s k).pkt 0x40)
      (vecBytes (ngDim (descOf s (hGraph (getQuery s k).hdr))) (hFmt (getQuery s k).hdr)) = .got u l false →
    ∃ t, exec .queryVectorRead s = .next t ∧ (getQuery t k).st = .ready ∧ (getQuery t k).readyAt = s.out.time ∧
      (∀ i, i < vecBytes (ngDim (descOf s (hGraph (getQuery s k).hdr))) (hFmt (getQuery s k).hdr) / 64 →
        (getQuery t k).vecWords[i]? = some (lineOf ((l.drop (64 * i)).take 64))) ∧ t.mem = u.mem) ∧
  (∀ (stack : Nat) (p : Nat × Query) (s : State), s.arg.a = stack → enginesUsed s stack < 8 →
    bestBy queryFirst (readyQueries s stack) = some p →
    ∃ t, exec .querySchedule s = .next t ∧
      getQuery t p.1 = { p.2 with st := .running, waited := p.2.waited + (s.out.time - p.2.readyAt) } ∧
      (∀ k, k ≠ p.1 → getQuery t k = getQuery s k) ∧ CoresKept s t ∧ t.mem = s.mem) ∧
  (∀ (b : Batch) (u v : State) (ms : List (BitVec 32 × BitVec 32)) (s : State),
    s.un.batches.find? (fun c => c.id == s.arg.a) = some b → b.adj = false →
    (∀ c ∈ s.un.batches.takeWhile (fun c => c.id != s.arg.a), c.stack ≠ b.stack) →
    (let q := getQuery s b.query
     let d := descOf s (hGraph q.hdr)
     gateReads s b.stack (768 + s.arg.a) (b.ids.map (fun n => (recordAt d n, vlenOf d))) = .ok u →
     measureAll d q b.ids u = (v, ms.map (fun e => (e.1, some e.2))) →
     ∃ t, exec .distanceBatch s = .next t ∧ t.un.batches = v.un.batches.filter (fun c => c.id != s.arg.a) ∧
      (getQuery t b.query).hop = q.hop.map (fun h => match ms.find? (fun e => e.1 == h.1) with
        | some e => (h.1, some e.2)
        | none => h) ∧ t.mem = v.mem)) ∧
  (∀ (k : Nat) (s : State), s.arg.a = k → (getQuery s k).st = .running → queryFrozen s k = false →
    (getQuery s k).inHop = false → (getQuery s k).cancel = false → ctxLife s (getQuery s k).ctx ≠ 2 →
    ((getQuery s k).visited = [] →
      ∃ t, exec .queryHop s = .next t ∧ (getQuery t k).visited = [(hEntry (getQuery s k).hdr).toNat] ∧
        (getQuery t k).hop = [(hEntry (getQuery s k).hdr, none)] ∧ (getQuery t k).inHop = true ∧ CoresKept s t ∧
        t.mem = s.mem) ∧
    ((getQuery s k).visited ≠ [] → (holdsBackQuery s k (getQuery s k) = true ∨ outranked s k (getQuery s k) = true) →
      ∃ t, exec .queryHop s = .next t ∧
        getQuery t k = { getQuery s k with st := .suspended, susp := (getQuery s k).susp + 1 } ∧ CoresKept s t ∧
        t.mem = s.mem) ∧
    ((getQuery s k).visited ≠ [] → holdsBackQuery s k (getQuery s k) = false → outranked s k (getQuery s k) = false →
      ((getQuery s k).cand = [] ∨ (getQuery s k).exp = hBudget (getQuery s k).hdr) →
      ∃ t, exec .queryHop s = .next t ∧ getQuery t k = { getQuery s k with st := .completing } ∧ CoresKept s t ∧
        t.mem = s.mem) ∧
    (∀ c r, (getQuery s k).visited ≠ [] → (getQuery s k).cand = c :: r → searchOver (getQuery s k) = false →
      holdsBackQuery s k (getQuery s k) = false → outranked s k (getQuery s k) = false →
      ∃ t, exec .queryHop s = .next t ∧
        getQuery t k = { getQuery s k with cand := r, cur := some c.id, inHop := true } ∧ CoresKept s t ∧
        t.mem = s.mem)) ∧
  (∀ (k : Nat) (s : State), s.arg.a = k → (getQuery s k).st = .suspended → holdsBackQuery s k (getQuery s k) = false →
    ∃ t, exec .queryResume s = .next t ∧ getQuery t k = { getQuery s k with st := .ready, readyAt := s.out.time } ∧
      CoresKept s t ∧ t.mem = s.mem) ∧
  (∀ (k n off : Nat) (s : State), s.arg.a = k → (getQuery s k).st = .completing → queryFrozen s k = false →
    (getQuery s k).cause = 0 → hFlag (getQuery s k).hdr = 0 → hRes (getQuery s k).hdr = localAddr n off → off % 8 = 0 →
    off + 8 * hK (getQuery s k).hdr ≤ 2 ^ 16 → Reached s (getQuery s k).ctx n → WritesAtOnce s (k / 64 / 3) n →
    (getQuery s k).released = false →
    ∃ t, exec .queryComplete s = .next t ∧ (getQuery t k).st = .done ∧
      (∀ i, i < hK (getQuery s k).hdr → mread t.mem (localKey n (off + 8 * i)) 8 =
        bytesOf (match (getQuery s k).found[i]? with
          | some e => e.id.toNat * 2 ^ 32 + e.d.toNat
          | none => 0xFFFFFFFF7F800000) 8) ∧ KeepsBytesBut s t (localKey n off) (8 * hK (getQuery s k).hdr)) ∧
  (∀ (k : Nat) (s : State), s.arg.a = k → (getQuery s k).st = .ready → effPrio (getQuery s k) < 63 →
    65536 * ((getQuery s k).raised + 1) ≤ (getQuery s k).waited + (s.out.time - (getQuery s k).readyAt) →
    ∃ t, exec .queryAgeing s = .next t ∧ getQuery t k = { getQuery s k with raised := (getQuery s k).raised + 1 } ∧
      CoresKept s t ∧ t.mem = s.mem) ∧
  (∀ (stack p w : Nat) (s : State), s.arg.a = stack → s.arg.b = p → tget (getStack s stack).open_ p = some w →
    w + (getStack s stack).window ≤ s.out.time →
    ∃ t, exec .arbWindowClose s = .next t ∧ tget (getStack t stack).open_ p = none ∧ CoresKept s t ∧ t.mem = s.mem) ∧
  (∀ (stack p r w n : Nat) (s : State), s.arg.a = stack → s.arg.b = p → p < 64 → (getStack s stack).starve ≠ 0 →
    (tget (getStack s stack).open_ p).isSome = true → (getStack s stack).held = [(heldKey r p, w + 1)] →
    tget (getStack s stack).bursts (heldKey r p) = some (n + 1) → w + (getStack s stack).starve * (getStack s stack).window ≤ s.out.time →
    ∃ t, exec .attarStarvation s = .next t ∧ tget (getStack t stack).bursts (heldKey r p) = some n ∧
      tget (getStack t stack).held p = some s.out.time ∧ CoresKept s t ∧ t.mem = s.mem) ∧
  (∀ (i c : Nat) (s : State), s.arg.a = i → s.arg.c = c → (getLink s i).st = .training →
    (s.arg.b ≤ 1 → (24 ≤ i ∨ fld s.out.peerauth (c % 4096) (c % 4096) = 1) →
      ∃ t, exec .linkTrainingComplete s = .next t ∧ (getLink t i).st = (if s.arg.b = 0 then .up else .degraded) ∧
        (getLink t i).peer = (if i < 24 then c % 4096 else 0) ∧
        (getLink t i).lanes = (if i = 24 then 16 else 8) / (if s.arg.b = 0 then 1 else 2) ∧
        (getLink t i).trains.toNat = min 255 ((getLink s i).trains.toNat + 1) ∧ CoresKept s t ∧ t.mem = s.mem) ∧
    ((s.arg.b = 2 ∨ (s.arg.b ≤ 1 ∧ i < 24 ∧ fld s.out.peerauth (c % 4096) (c % 4096) = 0)) →
      ∃ t, exec .linkTrainingComplete s = .next t ∧ (getLink t i).st = .quarantined ∧ t.mem = s.mem) ∧
    ((s.arg.b = 3 ∨ (s.arg.b = 4 ∧ 2 ≤ (getLink s i).tries)) →
      ∃ t, exec .linkTrainingComplete s = .next t ∧ (getLink t i).st = .down ∧ t.mem = s.mem)) ∧
  (∀ (i : Nat) (s : State), s.arg.a = i → Carries (getLink s i) →
    ∃ t u, exec .linkLaneLoss s = .next t ∧ exec .linkErrorThreshold s = .next u ∧ (getLink t i).st = .retraining ∧
      (getLink u i).st = .retraining ∧ (getLink u i).errs.toNat = min 65535 ((getLink s i).errs.toNat + s.arg.b) ∧
      (getLink t i).errs = (getLink s i).errs ∧ (getLink t i).sent = (getLink s i).sent ∧ (getLink u i).sent = (getLink s i).sent ∧
      CoresKept s t ∧ CoresKept s u ∧ t.mem = s.mem ∧ u.mem = s.mem) ∧
  (∀ (i : Nat) (s : State), s.arg.a = i → (getLink s i).st = .retraining →
    (s.arg.b ≤ 1 → ∃ t, exec .linkRetrainComplete s = .next t ∧
      (getLink t i).st = (if s.arg.b = 0 then .up else .degraded) ∧
      (getLink t i).lanes = (if i = 24 then 16 else 8) / (if s.arg.b = 0 then 1 else 2) ∧ CoresKept s t ∧ t.mem = s.mem) ∧
    (2 ≤ s.arg.b → 2 ≤ (getLink s i).tries →
      ∃ t, exec .linkRetrainComplete s = .next t ∧ (getLink t i).st = .down ∧ t.mem = s.mem)) ∧
  (∀ (i : Nat) (f : Flit) (s : State), s.arg.a = i → (getLink s i).frozen = false → Carries (getLink s i) →
    s.out.linkIn.find? (fun g => g.link == i) = some f →
    (i < 24 → f.chip ≠ (getLink s i).peer →
      ∃ t, exec .linkFlitArrival s = .next t ∧ (getLink t i).st = .quarantined ∧ (getLink t i).frozen = true ∧
        t.out.linkIn.length + 1 = s.out.linkIn.length ∧ t.mem = s.mem) ∧
    (∀ m, f.chip = (getLink s i).peer → f.late = false → f.msg = some m →
      ∃ t p, exec .linkFlitArrival s = .next t ∧ t.net = s.net ++ [p] ∧ p.body = .msg f.dest m none ∧
        p.src = .link f.link ∧ t.out.linkIn.length + 1 = s.out.linkIn.length ∧ CoresKept s t ∧ t.mem = s.mem) ∧
    (f.chip = (getLink s i).peer → f.late = false → f.missed s = false → f.msg = none → f.ask = none → f.bytes ≠ 0 →
      f.write = true → (∀ q ∈ s.net, q.id ≠ s.nextId) →
      ∃ t p, exec .linkFlitArrival s = .next t ∧ t.net = s.net ++ [p] ∧ p.src = .link f.link ∧ p.window = f.window ∧
        p.body = .store (flitPlace f.addr f.kid).1
          (cellsAt (flitPlace f.addr f.kid).2 (bytesOf f.data.toNat (min f.bytes 64))) ∧
        t.out.linkIn.length + 1 = s.out.linkIn.length ∧ CoresKept s t ∧ t.mem = s.mem)) ∧
  (∀ (i : Nat) (s : State), s.arg.a = i →
    ((getLink s i).frozen = true →
      ∃ t, exec .lctlEnWrite s = .next t ∧ getLink t i = { getLink s i with en := s.arg.f } ∧ CoresKept s t ∧
        t.mem = s.mem) ∧
    ((getLink s i).frozen = false → s.arg.f = true → (getLink s i).st = .down →
      ∃ t, exec .lctlEnWrite s = .next t ∧ (getLink t i).st = .training ∧ (getLink t i).en = true ∧ CoresKept s t ∧
        t.mem = s.mem) ∧
    ((getLink s i).frozen = false → s.arg.f = false →
      ∃ t, exec .lctlEnWrite s = .next t ∧ (getLink t i).st = .down ∧ (getLink t i).en = false ∧ CoresKept s t ∧
        t.mem = s.mem)) ∧
  (∀ (i : Nat) (s : State), s.arg.a = i → (getLink s i).st = .quarantined →
    ∃ t, exec .lctlQrel s = .next t ∧ (getLink t i).st = .training ∧ (getLink t i).frozen = false ∧ CoresKept s t ∧
      t.mem = s.mem) ∧
  (∀ (i : Nat) (s : State), s.arg.a = i → Carries (getLink s i) →
    ∃ t, exec .lctlRetrain s = .next t ∧ (getLink t i).st = .retraining ∧ (getLink t i).sent = (getLink s i).sent ∧
      CoresKept s t ∧ t.mem = s.mem) ∧
  (∀ (s : State),
    (1 ≤ fld s.arg.w 4 0 → fld s.arg.w 4 0 ≤ 16 → (∀ p ∈ s.out.links, p.1 < 24 → ¬ Carries p.2) →
      ∃ t, exec .twinWrite s = .next t ∧ t.out.twin = fld s.arg.w 4 0 ∧ CoresKept s t ∧ t.mem = s.mem) ∧
    ((fld s.arg.w 4 0 = 0 ∨ 16 < fld s.arg.w 4 0 ∨ ∃ p ∈ s.out.links, p.1 < 24 ∧ Carries p.2) → exec .twinWrite s = .next s)) ∧
  (∀ (s : State), fld s.arg.w 0 0 = 1 →
    ∃ t, exec .dstatWfaultClear s = .next t ∧ t.out.wfault = false ∧ t.out.wfaultWin = s.out.wfaultWin ∧ CoresKept s t ∧
      t.mem = s.mem) ∧
  (∀ (s : State), ∃ t, exec .ptpSync s = .next t ∧ t.out.ptpGm = s.arg.a % 4096 ∧
    t.out.ptpOffset = BitVec.ofNat 32 s.arg.w.toNat ∧
    (t.out.ptpLock = true ↔ -25 ≤ t.out.ptpOffset.toInt ∧ t.out.ptpOffset.toInt ≤ 25) ∧ t.out.time = s.out.time ∧
    t.out.slew = -t.out.ptpOffset.toInt ∧
    CoresKept s t ∧ t.mem = s.mem) ∧
  (∀ (x : Coll) (n : Nat) (s : State), s.arg.b = n → getColl s s.arg.a = some x → n ∈ x.members → n ∉ x.arrived →
    (n < nCores → (tget x.contribs n).isSome = true →
      ∃ t, exec .collectiveContribution s = .next t ∧ getColl t s.arg.a = some { x with arrived := n :: x.arrived } ∧
        CoresKept s t ∧ t.mem = s.mem) ∧
    (nCores ≤ n → writesFrom s (n / nCores) = false →
      ∃ t y, exec .collectiveContribution s = .next t ∧ getColl t s.arg.a = some y ∧ y.arrived = n :: x.arrived ∧
        tget y.contribs n = some s.arg.line ∧ y.mixed = (x.mixed || x.kind != s.arg.c) ∧ CoresKept s t ∧
        t.mem = s.mem)) ∧
  (∀ (x : Coll) (n : Nat) (s : State), getColl s s.arg.a = some x → x.result = none → x.failed = none → x.ports = [] →
    n ∈ x.members → n < nCores → n ∉ x.taken →
    (∀ f, collFails s x = some f →
      ∃ t, exec .collectiveResult s = .next t ∧ getColl t s.arg.a = some { x with failed := some f } ∧ CoresKept s t ∧
        t.mem = s.mem) ∧
    (collFails s x = none → (∀ m ∈ x.members, m ∈ x.arrived) → x.kind ≠ 3 →
      ∃ t, exec .collectiveResult s = .next t ∧
        getColl t s.arg.a = some { x with result := some (combine x.kind (x.members.map (fun m => tgetD x.contribs m 0))) } ∧
        CoresKept s t ∧ t.mem = s.mem)) ∧
  (∀ (n since id : Nat) (b : Reg) (x : Coll) (s : State), s.arg.a = n →
    (getCore s n).wait = some ⟨since, .coll id b⟩ → getColl s id = some x → x.failed = none → x.result = none →
    (getCore s n).sys.btimeout.toNat ≠ 0 → since + (getCore s n).sys.btimeout.toNat ≤ s.cycle →
    ∃ t, exec .collectiveTimeout s = .next t ∧
      (getCore t n).wait = some ⟨since, .failed 0x0B (collTval 1 x.tag (fld ((focus s n).x b) 11 0))⟩ ∧
      (∀ m, m ≠ n → getCore t m = getCore s m) ∧ t.mem = s.mem)

/-! ## The machine as a whole -/

/-- R53, R59, R79: when the words at an even program counter in the core's own local memory decode to an instruction, the step
is exec of that instruction in the state with its issue latch filled, and what follows exec; an instruction that completes
keeps what exec gave, and its cycles pass. How turns pass between cores is the model's own (log 5). -/
def Obligations.StepRunsDecoded : Prop :=
  (∀ (off : Nat) (d : Decoded) (s : State), AtIssue s → s.core.num < nCores → s.core.pc = localAddr s.core.num off →
    off % 2 = 0 → off + d.len ≤ 2 ^ 16 → Whole s s.core.num off d.len →
    decode (wordsAt s (localKey s.core.num off)) = .ok d → usesEvicted s d.instr = false →
    ∃ u, Latched s u d ∧ step s = match exec d.instr u with
      | .next v =>
        let t := afterExec u u v d.instr
        if t.core.run ≠ .running then .next (rotate t) else if breathes s t then breathe s t else .next t
      | o => o) ∧
  (∀ (i : Instr) (u v : State), u.core.wait = none → v.core.issue.mark = .done → v.core.run = .running → NoDebug v →
    v.core.vec.streams = [] → Unpaired v → v.core.ev.reloadOwed = [] →
    (let t := afterExec u u v i
     t.core.pc = v.core.pc ∧ (∀ r, t.x r = v.x r) ∧ (∀ r, t.v r = v.v r) ∧ t.core.sys = v.core.sys ∧ t.mem = v.mem ∧
     t.core.run = .running ∧ t.cycle = v.cycle + max 1 v.core.issue.busy))

/-- R45 to R52 and the encodings of the families: words written out from the spec decode to the instructions they stand
for. -/
def Obligations.DecodeOfWrittenWords : Prop :=
  decodeInstr [0xF894, 0xF915, 0x0428] = some (.sltn 20 9 10) ∧
  decodeInstr [0xFC01, 0xF8A0, 0x3008] = some (.shliShort 16 16 40) ∧
  decodeInstr [0x43FB] = some (.ldiShort 3 (-5)) ∧
  decodeInstr [0xF850, 0xF922, 0x095A] = some (.blt 9 10 (-6)) ∧
  decodeInstr [0xF930, 0x5397] = some (.atomAdd .d 3 4 5) ∧
  decodeInstr [0xF931, 0x3800] = some (.fence .device) ∧
  decodeInstr [0xF940, 0xFA60, 0x3695] = some (.vsel .f32 6 4 5 ⟨3, false⟩) ∧
  decodeInstr [0xF818, 0xF962, 0x0300] = some (.mma .bf16 3 8 16) ∧
  decodeInstr [0xF930, 0x7395] = some (.pgq 3 4 5) ∧
  decodeInstr [0xF884, 0xF9C0, 0x0885] = some (.agath 16 4 9)

/-- R12, R76, R226, R229, R419, R426, R431, R439: after a cold start every core is idle in monitor mode at the position of its
number with no context, x1 to x31 are zero, every byte of memory reads zero, every link is enabled and down, TWIN is 2 and
SILCTL.EN is 0xF. Registers the spec states no value for hold the model's (log 1); that the bytes of the host's and of peer chips'
memories, whose keys lie from 2^64 on, read zero too is the model's choice (log 2). -/
def Obligations.ResetValues : Prop :=
  (∀ n, n < nCores → (getCore State.reset n).num = n ∧ (getCore State.reset n).pos = n ∧
    (getCore State.reset n).run = .idle ∧ modeOf (getCore State.reset n) = 2 ∧ noCtx (getCore State.reset n) = true ∧
    curAsid (getCore State.reset n) = 0 ∧ (getCore State.reset n).sys.status = 2 ∧
    ∀ r, (getCore State.reset n).sc.get r = 0) ∧
  (∀ a, mget State.reset.mem a = 0) ∧ Memory.wf State.reset.mem = true ∧
  (∀ i, i < 25 → (getLink State.reset i).st = .down ∧ (getLink State.reset i).en = true) ∧
  State.reset.out.twin = 2 ∧ State.reset.out.silEn = 0xF ∧ State.reset.cycle = 0

/-- Every step keeps the canonical form of memory: strictly rising keys, and no entry equal to what an unlisted byte reads
as. The form is the model's own (log 2). -/
def Obligations.MemoryStaysCanonical : Prop :=
  ∀ s t : State, Memory.wf s.mem = true → step s = .next t → Memory.wf t.mem = true

/-- No instruction, trap, wait or event ends the machine: while the schedule names cores of the chip, every step answers a
next state (R5, R76, R230: what an instruction cannot do it traps on or waits for). -/
def Obligations.StepNeverStops : Prop := ∀ s : State, AgendaOk s → StepSafe s

/-- R45 to R53, R72: every well-formed instruction has words, at most five, and they decode to it with every operand; what
words decode to is well formed. An event has no words. -/
def Obligations.DecodingUndoesEncoding : Prop :=
  (∀ i : Instr, WellFormed i = true → isEvent i = false →
    ∃ ws, encode i = some ws ∧ ws.length ≤ 5 ∧ decodeInstr ws = some (sameWords i)) ∧
  (∀ i : Instr, isEvent i = true → encode i = none) ∧
  (∀ (ws : List W16) (d : Decoded), decode ws = .ok d → WellFormed d.instr = true)
end

