-- ==== Sys2Proof/Laws/State.lean ====
section
/-! SUPPORT. One lemma per field and update of State. -/
namespace Sys2Proof.Machine

variable (s : State)

/-! ### The core in focus -/

@[simp] theorem mapCore_core (f : Core → Core) : (s.mapCore f).core = f s.core := rfl
@[simp] theorem mapCore_others (f : Core → Core) : (s.mapCore f).others = s.others := rfl
@[simp] theorem mapCore_mem (f : Core → Core) : (s.mapCore f).mem = s.mem := rfl
@[simp] theorem mapCore_net (f : Core → Core) : (s.mapCore f).net = s.net := rfl
@[simp] theorem mapCore_mu (f : Core → Core) : (s.mapCore f).mu = s.mu := rfl
@[simp] theorem mapCore_un (f : Core → Core) : (s.mapCore f).un = s.un := rfl
@[simp] theorem mapCore_out (f : Core → Core) : (s.mapCore f).out = s.out := rfl
@[simp] theorem mapCore_cycle (f : Core → Core) : (s.mapCore f).cycle = s.cycle := rfl
@[simp] theorem mapCore_nextId (f : Core → Core) : (s.mapCore f).nextId = s.nextId := rfl
@[simp] theorem mapCore_fresh (f : Core → Core) : (s.mapCore f).fresh = s.fresh := rfl
@[simp] theorem mapCore_arg (f : Core → Core) : (s.mapCore f).arg = s.arg := rfl
@[simp] theorem mapCore_agenda (f : Core → Core) : (s.mapCore f).agenda = s.agenda := rfl

@[simp] theorem mapSys_others (f : SysRegs → SysRegs) : (s.mapSys f).others = s.others := rfl
@[simp] theorem mapSys_mem (f : SysRegs → SysRegs) : (s.mapSys f).mem = s.mem := rfl
@[simp] theorem mapSys_net (f : SysRegs → SysRegs) : (s.mapSys f).net = s.net := rfl
@[simp] theorem mapSys_mu (f : SysRegs → SysRegs) : (s.mapSys f).mu = s.mu := rfl
@[simp] theorem mapSys_un (f : SysRegs → SysRegs) : (s.mapSys f).un = s.un := rfl
@[simp] theorem mapSys_out (f : SysRegs → SysRegs) : (s.mapSys f).out = s.out := rfl
@[simp] theorem mapSys_cycle (f : SysRegs → SysRegs) : (s.mapSys f).cycle = s.cycle := rfl
@[simp] theorem mapSys_nextId (f : SysRegs → SysRegs) : (s.mapSys f).nextId = s.nextId := rfl
@[simp] theorem mapSys_fresh (f : SysRegs → SysRegs) : (s.mapSys f).fresh = s.fresh := rfl
@[simp] theorem mapSys_arg (f : SysRegs → SysRegs) : (s.mapSys f).arg = s.arg := rfl
@[simp] theorem mapSys_agenda (f : SysRegs → SysRegs) : (s.mapSys f).agenda = s.agenda := rfl
@[simp] theorem mapSys_core_num (f : SysRegs → SysRegs) : (s.mapSys f).core.num = s.core.num := rfl
@[simp] theorem mapSys_core_pos (f : SysRegs → SysRegs) : (s.mapSys f).core.pos = s.core.pos := rfl
@[simp] theorem mapSys_core_run (f : SysRegs → SysRegs) : (s.mapSys f).core.run = s.core.run := rfl
@[simp] theorem mapSys_core_former (f : SysRegs → SysRegs) : (s.mapSys f).core.former = s.core.former := rfl
@[simp] theorem mapSys_core_pc (f : SysRegs → SysRegs) : (s.mapSys f).core.pc = s.core.pc := rfl
@[simp] theorem mapSys_core_issue (f : SysRegs → SysRegs) : (s.mapSys f).core.issue = s.core.issue := rfl
@[simp] theorem mapSys_core_sc (f : SysRegs → SysRegs) : (s.mapSys f).core.sc = s.core.sc := rfl
@[simp] theorem mapSys_core_vec (f : SysRegs → SysRegs) : (s.mapSys f).core.vec = s.core.vec := rfl
@[simp] theorem mapSys_core_sys (f : SysRegs → SysRegs) : (s.mapSys f).core.sys = f s.core.sys := rfl
@[simp] theorem mapSys_core_fbuf (f : SysRegs → SysRegs) : (s.mapSys f).core.fbuf = s.core.fbuf := rfl
@[simp] theorem mapSys_core_rreg (f : SysRegs → SysRegs) : (s.mapSys f).core.rreg = s.core.rreg := rfl
@[simp] theorem mapSys_core_freq (f : SysRegs → SysRegs) : (s.mapSys f).core.freq = s.core.freq := rfl
@[simp] theorem mapSys_core_pend (f : SysRegs → SysRegs) : (s.mapSys f).core.pend = s.core.pend := rfl
@[simp] theorem mapSys_core_locks (f : SysRegs → SysRegs) : (s.mapSys f).core.locks = s.core.locks := rfl
@[simp] theorem mapSys_core_divUntil (f : SysRegs → SysRegs) : (s.mapSys f).core.divUntil = s.core.divUntil := rfl
@[simp] theorem mapSys_core_wait (f : SysRegs → SysRegs) : (s.mapSys f).core.wait = s.core.wait := rfl
@[simp] theorem mapSys_core_mail (f : SysRegs → SysRegs) : (s.mapSys f).core.mail = s.core.mail := rfl
@[simp] theorem mapSys_core_ev (f : SysRegs → SysRegs) : (s.mapSys f).core.ev = s.core.ev := rfl
@[simp] theorem mapSys_core_tlb (f : SysRegs → SysRegs) : (s.mapSys f).core.tlb = s.core.tlb := rfl
@[simp] theorem mapSys_core_marks (f : SysRegs → SysRegs) : (s.mapSys f).core.marks = s.core.marks := rfl
@[simp] theorem mapSys_core_tagged (f : SysRegs → SysRegs) : (s.mapSys f).core.tagged = s.core.tagged := rfl
@[simp] theorem mapSys_core_peerWindow (f : SysRegs → SysRegs) : (s.mapSys f).core.peerWindow = s.core.peerWindow := rfl
@[simp] theorem mapSys_core_handles (f : SysRegs → SysRegs) : (s.mapSys f).core.handles = s.core.handles := rfl
@[simp] theorem mapSys_core_collCount (f : SysRegs → SysRegs) : (s.mapSys f).core.collCount = s.core.collCount := rfl
@[simp] theorem mapSys_core_collOpen (f : SysRegs → SysRegs) : (s.mapSys f).core.collOpen = s.core.collOpen := rfl
@[simp] theorem mapSys_core_task (f : SysRegs → SysRegs) : (s.mapSys f).core.task = s.core.task := rfl
@[simp] theorem mapSys_core_job (f : SysRegs → SysRegs) : (s.mapSys f).core.job = s.core.job := rfl
@[simp] theorem mapSys_core_dly (f : SysRegs → SysRegs) : (s.mapSys f).core.dly = s.core.dly := rfl
@[simp] theorem mapSys_core_cycleBase (f : SysRegs → SysRegs) : (s.mapSys f).core.cycleBase = s.core.cycleBase := rfl
@[simp] theorem mapSys_core_retired (f : SysRegs → SysRegs) : (s.mapSys f).core.retired = s.core.retired := rfl
@[simp] theorem mapSys_core_replyClock (f : SysRegs → SysRegs) : (s.mapSys f).core.replyClock = s.core.replyClock := rfl
@[simp] theorem mapSys_core_altArea (f : SysRegs → SysRegs) : (s.mapSys f).core.altArea = s.core.altArea := rfl
@[simp] theorem mapSys_core_seq (f : SysRegs → SysRegs) : (s.mapSys f).core.seq = s.core.seq := rfl

@[simp] theorem mapSc_others (f : Scalars → Scalars) : (s.mapSc f).others = s.others := rfl
@[simp] theorem mapSc_mem (f : Scalars → Scalars) : (s.mapSc f).mem = s.mem := rfl
@[simp] theorem mapSc_net (f : Scalars → Scalars) : (s.mapSc f).net = s.net := rfl
@[simp] theorem mapSc_mu (f : Scalars → Scalars) : (s.mapSc f).mu = s.mu := rfl
@[simp] theorem mapSc_un (f : Scalars → Scalars) : (s.mapSc f).un = s.un := rfl
@[simp] theorem mapSc_out (f : Scalars → Scalars) : (s.mapSc f).out = s.out := rfl
@[simp] theorem mapSc_cycle (f : Scalars → Scalars) : (s.mapSc f).cycle = s.cycle := rfl
@[simp] theorem mapSc_nextId (f : Scalars → Scalars) : (s.mapSc f).nextId = s.nextId := rfl
@[simp] theorem mapSc_fresh (f : Scalars → Scalars) : (s.mapSc f).fresh = s.fresh := rfl
@[simp] theorem mapSc_arg (f : Scalars → Scalars) : (s.mapSc f).arg = s.arg := rfl
@[simp] theorem mapSc_agenda (f : Scalars → Scalars) : (s.mapSc f).agenda = s.agenda := rfl
@[simp] theorem mapSc_core_num (f : Scalars → Scalars) : (s.mapSc f).core.num = s.core.num := rfl
@[simp] theorem mapSc_core_pos (f : Scalars → Scalars) : (s.mapSc f).core.pos = s.core.pos := rfl
@[simp] theorem mapSc_core_run (f : Scalars → Scalars) : (s.mapSc f).core.run = s.core.run := rfl
@[simp] theorem mapSc_core_former (f : Scalars → Scalars) : (s.mapSc f).core.former = s.core.former := rfl
@[simp] theorem mapSc_core_pc (f : Scalars → Scalars) : (s.mapSc f).core.pc = s.core.pc := rfl
@[simp] theorem mapSc_core_issue (f : Scalars → Scalars) : (s.mapSc f).core.issue = s.core.issue := rfl
@[simp] theorem mapSc_core_sc (f : Scalars → Scalars) : (s.mapSc f).core.sc = f s.core.sc := rfl
@[simp] theorem mapSc_core_vec (f : Scalars → Scalars) : (s.mapSc f).core.vec = s.core.vec := rfl
@[simp] theorem mapSc_core_sys (f : Scalars → Scalars) : (s.mapSc f).core.sys = s.core.sys := rfl
@[simp] theorem mapSc_core_fbuf (f : Scalars → Scalars) : (s.mapSc f).core.fbuf = s.core.fbuf := rfl
@[simp] theorem mapSc_core_rreg (f : Scalars → Scalars) : (s.mapSc f).core.rreg = s.core.rreg := rfl
@[simp] theorem mapSc_core_freq (f : Scalars → Scalars) : (s.mapSc f).core.freq = s.core.freq := rfl
@[simp] theorem mapSc_core_pend (f : Scalars → Scalars) : (s.mapSc f).core.pend = s.core.pend := rfl
@[simp] theorem mapSc_core_locks (f : Scalars → Scalars) : (s.mapSc f).core.locks = s.core.locks := rfl
@[simp] theorem mapSc_core_divUntil (f : Scalars → Scalars) : (s.mapSc f).core.divUntil = s.core.divUntil := rfl
@[simp] theorem mapSc_core_wait (f : Scalars → Scalars) : (s.mapSc f).core.wait = s.core.wait := rfl
@[simp] theorem mapSc_core_mail (f : Scalars → Scalars) : (s.mapSc f).core.mail = s.core.mail := rfl
@[simp] theorem mapSc_core_ev (f : Scalars → Scalars) : (s.mapSc f).core.ev = s.core.ev := rfl
@[simp] theorem mapSc_core_tlb (f : Scalars → Scalars) : (s.mapSc f).core.tlb = s.core.tlb := rfl
@[simp] theorem mapSc_core_marks (f : Scalars → Scalars) : (s.mapSc f).core.marks = s.core.marks := rfl
@[simp] theorem mapSc_core_tagged (f : Scalars → Scalars) : (s.mapSc f).core.tagged = s.core.tagged := rfl
@[simp] theorem mapSc_core_peerWindow (f : Scalars → Scalars) : (s.mapSc f).core.peerWindow = s.core.peerWindow := rfl
@[simp] theorem mapSc_core_handles (f : Scalars → Scalars) : (s.mapSc f).core.handles = s.core.handles := rfl
@[simp] theorem mapSc_core_collCount (f : Scalars → Scalars) : (s.mapSc f).core.collCount = s.core.collCount := rfl
@[simp] theorem mapSc_core_collOpen (f : Scalars → Scalars) : (s.mapSc f).core.collOpen = s.core.collOpen := rfl
@[simp] theorem mapSc_core_task (f : Scalars → Scalars) : (s.mapSc f).core.task = s.core.task := rfl
@[simp] theorem mapSc_core_job (f : Scalars → Scalars) : (s.mapSc f).core.job = s.core.job := rfl
@[simp] theorem mapSc_core_dly (f : Scalars → Scalars) : (s.mapSc f).core.dly = s.core.dly := rfl
@[simp] theorem mapSc_core_cycleBase (f : Scalars → Scalars) : (s.mapSc f).core.cycleBase = s.core.cycleBase := rfl
@[simp] theorem mapSc_core_retired (f : Scalars → Scalars) : (s.mapSc f).core.retired = s.core.retired := rfl
@[simp] theorem mapSc_core_replyClock (f : Scalars → Scalars) : (s.mapSc f).core.replyClock = s.core.replyClock := rfl
@[simp] theorem mapSc_core_altArea (f : Scalars → Scalars) : (s.mapSc f).core.altArea = s.core.altArea := rfl
@[simp] theorem mapSc_core_seq (f : Scalars → Scalars) : (s.mapSc f).core.seq = s.core.seq := rfl

@[simp] theorem mapEv_others (f : Events → Events) : (s.mapEv f).others = s.others := rfl
@[simp] theorem mapEv_mem (f : Events → Events) : (s.mapEv f).mem = s.mem := rfl
@[simp] theorem mapEv_net (f : Events → Events) : (s.mapEv f).net = s.net := rfl
@[simp] theorem mapEv_mu (f : Events → Events) : (s.mapEv f).mu = s.mu := rfl
@[simp] theorem mapEv_un (f : Events → Events) : (s.mapEv f).un = s.un := rfl
@[simp] theorem mapEv_out (f : Events → Events) : (s.mapEv f).out = s.out := rfl
@[simp] theorem mapEv_cycle (f : Events → Events) : (s.mapEv f).cycle = s.cycle := rfl
@[simp] theorem mapEv_nextId (f : Events → Events) : (s.mapEv f).nextId = s.nextId := rfl
@[simp] theorem mapEv_fresh (f : Events → Events) : (s.mapEv f).fresh = s.fresh := rfl
@[simp] theorem mapEv_arg (f : Events → Events) : (s.mapEv f).arg = s.arg := rfl
@[simp] theorem mapEv_agenda (f : Events → Events) : (s.mapEv f).agenda = s.agenda := rfl
@[simp] theorem mapEv_core_num (f : Events → Events) : (s.mapEv f).core.num = s.core.num := rfl
@[simp] theorem mapEv_core_pos (f : Events → Events) : (s.mapEv f).core.pos = s.core.pos := rfl
@[simp] theorem mapEv_core_run (f : Events → Events) : (s.mapEv f).core.run = s.core.run := rfl
@[simp] theorem mapEv_core_former (f : Events → Events) : (s.mapEv f).core.former = s.core.former := rfl
@[simp] theorem mapEv_core_pc (f : Events → Events) : (s.mapEv f).core.pc = s.core.pc := rfl
@[simp] theorem mapEv_core_issue (f : Events → Events) : (s.mapEv f).core.issue = s.core.issue := rfl
@[simp] theorem mapEv_core_sc (f : Events → Events) : (s.mapEv f).core.sc = s.core.sc := rfl
@[simp] theorem mapEv_core_vec (f : Events → Events) : (s.mapEv f).core.vec = s.core.vec := rfl
@[simp] theorem mapEv_core_sys (f : Events → Events) : (s.mapEv f).core.sys = s.core.sys := rfl
@[simp] theorem mapEv_core_fbuf (f : Events → Events) : (s.mapEv f).core.fbuf = s.core.fbuf := rfl
@[simp] theorem mapEv_core_rreg (f : Events → Events) : (s.mapEv f).core.rreg = s.core.rreg := rfl
@[simp] theorem mapEv_core_freq (f : Events → Events) : (s.mapEv f).core.freq = s.core.freq := rfl
@[simp] theorem mapEv_core_pend (f : Events → Events) : (s.mapEv f).core.pend = s.core.pend := rfl
@[simp] theorem mapEv_core_locks (f : Events → Events) : (s.mapEv f).core.locks = s.core.locks := rfl
@[simp] theorem mapEv_core_divUntil (f : Events → Events) : (s.mapEv f).core.divUntil = s.core.divUntil := rfl
@[simp] theorem mapEv_core_wait (f : Events → Events) : (s.mapEv f).core.wait = s.core.wait := rfl
@[simp] theorem mapEv_core_mail (f : Events → Events) : (s.mapEv f).core.mail = s.core.mail := rfl
@[simp] theorem mapEv_core_ev (f : Events → Events) : (s.mapEv f).core.ev = f s.core.ev := rfl
@[simp] theorem mapEv_core_tlb (f : Events → Events) : (s.mapEv f).core.tlb = s.core.tlb := rfl
@[simp] theorem mapEv_core_marks (f : Events → Events) : (s.mapEv f).core.marks = s.core.marks := rfl
@[simp] theorem mapEv_core_tagged (f : Events → Events) : (s.mapEv f).core.tagged = s.core.tagged := rfl
@[simp] theorem mapEv_core_peerWindow (f : Events → Events) : (s.mapEv f).core.peerWindow = s.core.peerWindow := rfl
@[simp] theorem mapEv_core_handles (f : Events → Events) : (s.mapEv f).core.handles = s.core.handles := rfl
@[simp] theorem mapEv_core_collCount (f : Events → Events) : (s.mapEv f).core.collCount = s.core.collCount := rfl
@[simp] theorem mapEv_core_collOpen (f : Events → Events) : (s.mapEv f).core.collOpen = s.core.collOpen := rfl
@[simp] theorem mapEv_core_task (f : Events → Events) : (s.mapEv f).core.task = s.core.task := rfl
@[simp] theorem mapEv_core_job (f : Events → Events) : (s.mapEv f).core.job = s.core.job := rfl
@[simp] theorem mapEv_core_dly (f : Events → Events) : (s.mapEv f).core.dly = s.core.dly := rfl
@[simp] theorem mapEv_core_cycleBase (f : Events → Events) : (s.mapEv f).core.cycleBase = s.core.cycleBase := rfl
@[simp] theorem mapEv_core_retired (f : Events → Events) : (s.mapEv f).core.retired = s.core.retired := rfl
@[simp] theorem mapEv_core_replyClock (f : Events → Events) : (s.mapEv f).core.replyClock = s.core.replyClock := rfl
@[simp] theorem mapEv_core_altArea (f : Events → Events) : (s.mapEv f).core.altArea = s.core.altArea := rfl
@[simp] theorem mapEv_core_seq (f : Events → Events) : (s.mapEv f).core.seq = s.core.seq := rfl

@[simp] theorem mapMail_others (f : Mail → Mail) : (s.mapMail f).others = s.others := rfl
@[simp] theorem mapMail_mem (f : Mail → Mail) : (s.mapMail f).mem = s.mem := rfl
@[simp] theorem mapMail_net (f : Mail → Mail) : (s.mapMail f).net = s.net := rfl
@[simp] theorem mapMail_mu (f : Mail → Mail) : (s.mapMail f).mu = s.mu := rfl
@[simp] theorem mapMail_un (f : Mail → Mail) : (s.mapMail f).un = s.un := rfl
@[simp] theorem mapMail_out (f : Mail → Mail) : (s.mapMail f).out = s.out := rfl
@[simp] theorem mapMail_cycle (f : Mail → Mail) : (s.mapMail f).cycle = s.cycle := rfl
@[simp] theorem mapMail_nextId (f : Mail → Mail) : (s.mapMail f).nextId = s.nextId := rfl
@[simp] theorem mapMail_fresh (f : Mail → Mail) : (s.mapMail f).fresh = s.fresh := rfl
@[simp] theorem mapMail_arg (f : Mail → Mail) : (s.mapMail f).arg = s.arg := rfl
@[simp] theorem mapMail_agenda (f : Mail → Mail) : (s.mapMail f).agenda = s.agenda := rfl
@[simp] theorem mapMail_core_num (f : Mail → Mail) : (s.mapMail f).core.num = s.core.num := rfl
@[simp] theorem mapMail_core_pos (f : Mail → Mail) : (s.mapMail f).core.pos = s.core.pos := rfl
@[simp] theorem mapMail_core_run (f : Mail → Mail) : (s.mapMail f).core.run = s.core.run := rfl
@[simp] theorem mapMail_core_former (f : Mail → Mail) : (s.mapMail f).core.former = s.core.former := rfl
@[simp] theorem mapMail_core_pc (f : Mail → Mail) : (s.mapMail f).core.pc = s.core.pc := rfl
@[simp] theorem mapMail_core_issue (f : Mail → Mail) : (s.mapMail f).core.issue = s.core.issue := rfl
@[simp] theorem mapMail_core_sc (f : Mail → Mail) : (s.mapMail f).core.sc = s.core.sc := rfl
@[simp] theorem mapMail_core_vec (f : Mail → Mail) : (s.mapMail f).core.vec = s.core.vec := rfl
@[simp] theorem mapMail_core_sys (f : Mail → Mail) : (s.mapMail f).core.sys = s.core.sys := rfl
@[simp] theorem mapMail_core_fbuf (f : Mail → Mail) : (s.mapMail f).core.fbuf = s.core.fbuf := rfl
@[simp] theorem mapMail_core_rreg (f : Mail → Mail) : (s.mapMail f).core.rreg = s.core.rreg := rfl
@[simp] theorem mapMail_core_freq (f : Mail → Mail) : (s.mapMail f).core.freq = s.core.freq := rfl
@[simp] theorem mapMail_core_pend (f : Mail → Mail) : (s.mapMail f).core.pend = s.core.pend := rfl
@[simp] theorem mapMail_core_locks (f : Mail → Mail) : (s.mapMail f).core.locks = s.core.locks := rfl
@[simp] theorem mapMail_core_divUntil (f : Mail → Mail) : (s.mapMail f).core.divUntil = s.core.divUntil := rfl
@[simp] theorem mapMail_core_wait (f : Mail → Mail) : (s.mapMail f).core.wait = s.core.wait := rfl
@[simp] theorem mapMail_core_mail (f : Mail → Mail) : (s.mapMail f).core.mail = f s.core.mail := rfl
@[simp] theorem mapMail_core_ev (f : Mail → Mail) : (s.mapMail f).core.ev = s.core.ev := rfl
@[simp] theorem mapMail_core_tlb (f : Mail → Mail) : (s.mapMail f).core.tlb = s.core.tlb := rfl
@[simp] theorem mapMail_core_marks (f : Mail → Mail) : (s.mapMail f).core.marks = s.core.marks := rfl
@[simp] theorem mapMail_core_tagged (f : Mail → Mail) : (s.mapMail f).core.tagged = s.core.tagged := rfl
@[simp] theorem mapMail_core_peerWindow (f : Mail → Mail) : (s.mapMail f).core.peerWindow = s.core.peerWindow := rfl
@[simp] theorem mapMail_core_handles (f : Mail → Mail) : (s.mapMail f).core.handles = s.core.handles := rfl
@[simp] theorem mapMail_core_collCount (f : Mail → Mail) : (s.mapMail f).core.collCount = s.core.collCount := rfl
@[simp] theorem mapMail_core_collOpen (f : Mail → Mail) : (s.mapMail f).core.collOpen = s.core.collOpen := rfl
@[simp] theorem mapMail_core_task (f : Mail → Mail) : (s.mapMail f).core.task = s.core.task := rfl
@[simp] theorem mapMail_core_job (f : Mail → Mail) : (s.mapMail f).core.job = s.core.job := rfl
@[simp] theorem mapMail_core_dly (f : Mail → Mail) : (s.mapMail f).core.dly = s.core.dly := rfl
@[simp] theorem mapMail_core_cycleBase (f : Mail → Mail) : (s.mapMail f).core.cycleBase = s.core.cycleBase := rfl
@[simp] theorem mapMail_core_retired (f : Mail → Mail) : (s.mapMail f).core.retired = s.core.retired := rfl
@[simp] theorem mapMail_core_replyClock (f : Mail → Mail) : (s.mapMail f).core.replyClock = s.core.replyClock := rfl
@[simp] theorem mapMail_core_altArea (f : Mail → Mail) : (s.mapMail f).core.altArea = s.core.altArea := rfl
@[simp] theorem mapMail_core_seq (f : Mail → Mail) : (s.mapMail f).core.seq = s.core.seq := rfl

@[simp] theorem mapVec_others (f : Vectors → Vectors) : (s.mapVec f).others = s.others := rfl
@[simp] theorem mapVec_mem (f : Vectors → Vectors) : (s.mapVec f).mem = s.mem := rfl
@[simp] theorem mapVec_net (f : Vectors → Vectors) : (s.mapVec f).net = s.net := rfl
@[simp] theorem mapVec_mu (f : Vectors → Vectors) : (s.mapVec f).mu = s.mu := rfl
@[simp] theorem mapVec_un (f : Vectors → Vectors) : (s.mapVec f).un = s.un := rfl
@[simp] theorem mapVec_out (f : Vectors → Vectors) : (s.mapVec f).out = s.out := rfl
@[simp] theorem mapVec_cycle (f : Vectors → Vectors) : (s.mapVec f).cycle = s.cycle := rfl
@[simp] theorem mapVec_nextId (f : Vectors → Vectors) : (s.mapVec f).nextId = s.nextId := rfl
@[simp] theorem mapVec_fresh (f : Vectors → Vectors) : (s.mapVec f).fresh = s.fresh := rfl
@[simp] theorem mapVec_arg (f : Vectors → Vectors) : (s.mapVec f).arg = s.arg := rfl
@[simp] theorem mapVec_agenda (f : Vectors → Vectors) : (s.mapVec f).agenda = s.agenda := rfl
@[simp] theorem mapVec_core_num (f : Vectors → Vectors) : (s.mapVec f).core.num = s.core.num := rfl
@[simp] theorem mapVec_core_pos (f : Vectors → Vectors) : (s.mapVec f).core.pos = s.core.pos := rfl
@[simp] theorem mapVec_core_run (f : Vectors → Vectors) : (s.mapVec f).core.run = s.core.run := rfl
@[simp] theorem mapVec_core_former (f : Vectors → Vectors) : (s.mapVec f).core.former = s.core.former := rfl
@[simp] theorem mapVec_core_pc (f : Vectors → Vectors) : (s.mapVec f).core.pc = s.core.pc := rfl
@[simp] theorem mapVec_core_issue (f : Vectors → Vectors) : (s.mapVec f).core.issue = s.core.issue := rfl
@[simp] theorem mapVec_core_sc (f : Vectors → Vectors) : (s.mapVec f).core.sc = s.core.sc := rfl
@[simp] theorem mapVec_core_vec (f : Vectors → Vectors) : (s.mapVec f).core.vec = f s.core.vec := rfl
@[simp] theorem mapVec_core_sys (f : Vectors → Vectors) : (s.mapVec f).core.sys = s.core.sys := rfl
@[simp] theorem mapVec_core_fbuf (f : Vectors → Vectors) : (s.mapVec f).core.fbuf = s.core.fbuf := rfl
@[simp] theorem mapVec_core_rreg (f : Vectors → Vectors) : (s.mapVec f).core.rreg = s.core.rreg := rfl
@[simp] theorem mapVec_core_freq (f : Vectors → Vectors) : (s.mapVec f).core.freq = s.core.freq := rfl
@[simp] theorem mapVec_core_pend (f : Vectors → Vectors) : (s.mapVec f).core.pend = s.core.pend := rfl
@[simp] theorem mapVec_core_locks (f : Vectors → Vectors) : (s.mapVec f).core.locks = s.core.locks := rfl
@[simp] theorem mapVec_core_divUntil (f : Vectors → Vectors) : (s.mapVec f).core.divUntil = s.core.divUntil := rfl
@[simp] theorem mapVec_core_wait (f : Vectors → Vectors) : (s.mapVec f).core.wait = s.core.wait := rfl
@[simp] theorem mapVec_core_mail (f : Vectors → Vectors) : (s.mapVec f).core.mail = s.core.mail := rfl
@[simp] theorem mapVec_core_ev (f : Vectors → Vectors) : (s.mapVec f).core.ev = s.core.ev := rfl
@[simp] theorem mapVec_core_tlb (f : Vectors → Vectors) : (s.mapVec f).core.tlb = s.core.tlb := rfl
@[simp] theorem mapVec_core_marks (f : Vectors → Vectors) : (s.mapVec f).core.marks = s.core.marks := rfl
@[simp] theorem mapVec_core_tagged (f : Vectors → Vectors) : (s.mapVec f).core.tagged = s.core.tagged := rfl
@[simp] theorem mapVec_core_peerWindow (f : Vectors → Vectors) : (s.mapVec f).core.peerWindow = s.core.peerWindow := rfl
@[simp] theorem mapVec_core_handles (f : Vectors → Vectors) : (s.mapVec f).core.handles = s.core.handles := rfl
@[simp] theorem mapVec_core_collCount (f : Vectors → Vectors) : (s.mapVec f).core.collCount = s.core.collCount := rfl
@[simp] theorem mapVec_core_collOpen (f : Vectors → Vectors) : (s.mapVec f).core.collOpen = s.core.collOpen := rfl
@[simp] theorem mapVec_core_task (f : Vectors → Vectors) : (s.mapVec f).core.task = s.core.task := rfl
@[simp] theorem mapVec_core_job (f : Vectors → Vectors) : (s.mapVec f).core.job = s.core.job := rfl
@[simp] theorem mapVec_core_dly (f : Vectors → Vectors) : (s.mapVec f).core.dly = s.core.dly := rfl
@[simp] theorem mapVec_core_cycleBase (f : Vectors → Vectors) : (s.mapVec f).core.cycleBase = s.core.cycleBase := rfl
@[simp] theorem mapVec_core_retired (f : Vectors → Vectors) : (s.mapVec f).core.retired = s.core.retired := rfl
@[simp] theorem mapVec_core_replyClock (f : Vectors → Vectors) : (s.mapVec f).core.replyClock = s.core.replyClock := rfl
@[simp] theorem mapVec_core_altArea (f : Vectors → Vectors) : (s.mapVec f).core.altArea = s.core.altArea := rfl
@[simp] theorem mapVec_core_seq (f : Vectors → Vectors) : (s.mapVec f).core.seq = s.core.seq := rfl

@[simp] theorem mapUn_core (f : Units → Units) : (s.mapUn f).core = s.core := rfl
@[simp] theorem mapUn_others (f : Units → Units) : (s.mapUn f).others = s.others := rfl
@[simp] theorem mapUn_mem (f : Units → Units) : (s.mapUn f).mem = s.mem := rfl
@[simp] theorem mapUn_net (f : Units → Units) : (s.mapUn f).net = s.net := rfl
@[simp] theorem mapUn_mu (f : Units → Units) : (s.mapUn f).mu = s.mu := rfl
@[simp] theorem mapUn_un (f : Units → Units) : (s.mapUn f).un = f s.un := rfl
@[simp] theorem mapUn_out (f : Units → Units) : (s.mapUn f).out = s.out := rfl
@[simp] theorem mapUn_cycle (f : Units → Units) : (s.mapUn f).cycle = s.cycle := rfl
@[simp] theorem mapUn_nextId (f : Units → Units) : (s.mapUn f).nextId = s.nextId := rfl
@[simp] theorem mapUn_fresh (f : Units → Units) : (s.mapUn f).fresh = s.fresh := rfl
@[simp] theorem mapUn_arg (f : Units → Units) : (s.mapUn f).arg = s.arg := rfl
@[simp] theorem mapUn_agenda (f : Units → Units) : (s.mapUn f).agenda = s.agenda := rfl

@[simp] theorem mapMu_core (f : MemUnits → MemUnits) : (s.mapMu f).core = s.core := rfl
@[simp] theorem mapMu_others (f : MemUnits → MemUnits) : (s.mapMu f).others = s.others := rfl
@[simp] theorem mapMu_mem (f : MemUnits → MemUnits) : (s.mapMu f).mem = s.mem := rfl
@[simp] theorem mapMu_net (f : MemUnits → MemUnits) : (s.mapMu f).net = s.net := rfl
@[simp] theorem mapMu_mu (f : MemUnits → MemUnits) : (s.mapMu f).mu = f s.mu := rfl
@[simp] theorem mapMu_un (f : MemUnits → MemUnits) : (s.mapMu f).un = s.un := rfl
@[simp] theorem mapMu_out (f : MemUnits → MemUnits) : (s.mapMu f).out = s.out := rfl
@[simp] theorem mapMu_cycle (f : MemUnits → MemUnits) : (s.mapMu f).cycle = s.cycle := rfl
@[simp] theorem mapMu_nextId (f : MemUnits → MemUnits) : (s.mapMu f).nextId = s.nextId := rfl
@[simp] theorem mapMu_fresh (f : MemUnits → MemUnits) : (s.mapMu f).fresh = s.fresh := rfl
@[simp] theorem mapMu_arg (f : MemUnits → MemUnits) : (s.mapMu f).arg = s.arg := rfl
@[simp] theorem mapMu_agenda (f : MemUnits → MemUnits) : (s.mapMu f).agenda = s.agenda := rfl

@[simp] theorem mapOut_core (f : Outside → Outside) : (s.mapOut f).core = s.core := rfl
@[simp] theorem mapOut_others (f : Outside → Outside) : (s.mapOut f).others = s.others := rfl
@[simp] theorem mapOut_mem (f : Outside → Outside) : (s.mapOut f).mem = s.mem := rfl
@[simp] theorem mapOut_net (f : Outside → Outside) : (s.mapOut f).net = s.net := rfl
@[simp] theorem mapOut_mu (f : Outside → Outside) : (s.mapOut f).mu = s.mu := rfl
@[simp] theorem mapOut_un (f : Outside → Outside) : (s.mapOut f).un = s.un := rfl
@[simp] theorem mapOut_out (f : Outside → Outside) : (s.mapOut f).out = f s.out := rfl
@[simp] theorem mapOut_cycle (f : Outside → Outside) : (s.mapOut f).cycle = s.cycle := rfl
@[simp] theorem mapOut_nextId (f : Outside → Outside) : (s.mapOut f).nextId = s.nextId := rfl
@[simp] theorem mapOut_fresh (f : Outside → Outside) : (s.mapOut f).fresh = s.fresh := rfl
@[simp] theorem mapOut_arg (f : Outside → Outside) : (s.mapOut f).arg = s.arg := rfl
@[simp] theorem mapOut_agenda (f : Outside → Outside) : (s.mapOut f).agenda = s.agenda := rfl

/-! ### Registers, the issue latch and how an instruction ends -/


@[simp] theorem rawX_others (r : Reg) (w : W64) : (rawX s r w).others = s.others := rfl
@[simp] theorem rawX_mem (r : Reg) (w : W64) : (rawX s r w).mem = s.mem := rfl
@[simp] theorem rawX_net (r : Reg) (w : W64) : (rawX s r w).net = s.net := rfl
@[simp] theorem rawX_mu (r : Reg) (w : W64) : (rawX s r w).mu = s.mu := rfl
@[simp] theorem rawX_un (r : Reg) (w : W64) : (rawX s r w).un = s.un := rfl
@[simp] theorem rawX_out (r : Reg) (w : W64) : (rawX s r w).out = s.out := rfl
@[simp] theorem rawX_cycle (r : Reg) (w : W64) : (rawX s r w).cycle = s.cycle := rfl
@[simp] theorem rawX_nextId (r : Reg) (w : W64) : (rawX s r w).nextId = s.nextId := rfl
@[simp] theorem rawX_fresh (r : Reg) (w : W64) : (rawX s r w).fresh = s.fresh := rfl
@[simp] theorem rawX_arg (r : Reg) (w : W64) : (rawX s r w).arg = s.arg := rfl
@[simp] theorem rawX_agenda (r : Reg) (w : W64) : (rawX s r w).agenda = s.agenda := rfl
@[simp] theorem rawX_core_num (r : Reg) (w : W64) : (rawX s r w).core.num = s.core.num := rfl
@[simp] theorem rawX_core_pos (r : Reg) (w : W64) : (rawX s r w).core.pos = s.core.pos := rfl
@[simp] theorem rawX_core_run (r : Reg) (w : W64) : (rawX s r w).core.run = s.core.run := rfl
@[simp] theorem rawX_core_former (r : Reg) (w : W64) : (rawX s r w).core.former = s.core.former := rfl
@[simp] theorem rawX_core_pc (r : Reg) (w : W64) : (rawX s r w).core.pc = s.core.pc := rfl
@[simp] theorem rawX_core_issue (r : Reg) (w : W64) : (rawX s r w).core.issue = s.core.issue := rfl
@[simp] theorem rawX_core_sc (r : Reg) (w : W64) : (rawX s r w).core.sc = s.core.sc.set r w := rfl
@[simp] theorem rawX_core_vec (r : Reg) (w : W64) : (rawX s r w).core.vec = s.core.vec := rfl
@[simp] theorem rawX_core_sys (r : Reg) (w : W64) : (rawX s r w).core.sys = s.core.sys := rfl
@[simp] theorem rawX_core_fbuf (r : Reg) (w : W64) : (rawX s r w).core.fbuf = s.core.fbuf := rfl
@[simp] theorem rawX_core_rreg (r : Reg) (w : W64) : (rawX s r w).core.rreg = s.core.rreg := rfl
@[simp] theorem rawX_core_freq (r : Reg) (w : W64) : (rawX s r w).core.freq = s.core.freq := rfl
@[simp] theorem rawX_core_pend (r : Reg) (w : W64) : (rawX s r w).core.pend = s.core.pend := rfl
@[simp] theorem rawX_core_locks (r : Reg) (w : W64) : (rawX s r w).core.locks = s.core.locks := rfl
@[simp] theorem rawX_core_divUntil (r : Reg) (w : W64) : (rawX s r w).core.divUntil = s.core.divUntil := rfl
@[simp] theorem rawX_core_wait (r : Reg) (w : W64) : (rawX s r w).core.wait = s.core.wait := rfl
@[simp] theorem rawX_core_mail (r : Reg) (w : W64) : (rawX s r w).core.mail = s.core.mail := rfl
@[simp] theorem rawX_core_ev (r : Reg) (w : W64) : (rawX s r w).core.ev = s.core.ev := rfl
@[simp] theorem rawX_core_tlb (r : Reg) (w : W64) : (rawX s r w).core.tlb = s.core.tlb := rfl
@[simp] theorem rawX_core_marks (r : Reg) (w : W64) : (rawX s r w).core.marks = s.core.marks := rfl
@[simp] theorem rawX_core_tagged (r : Reg) (w : W64) : (rawX s r w).core.tagged = s.core.tagged := rfl
@[simp] theorem rawX_core_peerWindow (r : Reg) (w : W64) : (rawX s r w).core.peerWindow = s.core.peerWindow := rfl
@[simp] theorem rawX_core_handles (r : Reg) (w : W64) : (rawX s r w).core.handles = s.core.handles := rfl
@[simp] theorem rawX_core_collCount (r : Reg) (w : W64) : (rawX s r w).core.collCount = s.core.collCount := rfl
@[simp] theorem rawX_core_collOpen (r : Reg) (w : W64) : (rawX s r w).core.collOpen = s.core.collOpen := rfl
@[simp] theorem rawX_core_task (r : Reg) (w : W64) : (rawX s r w).core.task = s.core.task := rfl
@[simp] theorem rawX_core_job (r : Reg) (w : W64) : (rawX s r w).core.job = s.core.job := rfl
@[simp] theorem rawX_core_dly (r : Reg) (w : W64) : (rawX s r w).core.dly = s.core.dly := rfl
@[simp] theorem rawX_core_cycleBase (r : Reg) (w : W64) : (rawX s r w).core.cycleBase = s.core.cycleBase := rfl
@[simp] theorem rawX_core_retired (r : Reg) (w : W64) : (rawX s r w).core.retired = s.core.retired := rfl
@[simp] theorem rawX_core_replyClock (r : Reg) (w : W64) : (rawX s r w).core.replyClock = s.core.replyClock := rfl
@[simp] theorem rawX_core_altArea (r : Reg) (w : W64) : (rawX s r w).core.altArea = s.core.altArea := rfl
@[simp] theorem rawX_core_seq (r : Reg) (w : W64) : (rawX s r w).core.seq = s.core.seq := rfl

@[simp] theorem setNpc_others (w : W64) : (setNpc s w).others = s.others := rfl
@[simp] theorem setNpc_mem (w : W64) : (setNpc s w).mem = s.mem := rfl
@[simp] theorem setNpc_net (w : W64) : (setNpc s w).net = s.net := rfl
@[simp] theorem setNpc_mu (w : W64) : (setNpc s w).mu = s.mu := rfl
@[simp] theorem setNpc_un (w : W64) : (setNpc s w).un = s.un := rfl
@[simp] theorem setNpc_out (w : W64) : (setNpc s w).out = s.out := rfl
@[simp] theorem setNpc_cycle (w : W64) : (setNpc s w).cycle = s.cycle := rfl
@[simp] theorem setNpc_nextId (w : W64) : (setNpc s w).nextId = s.nextId := rfl
@[simp] theorem setNpc_fresh (w : W64) : (setNpc s w).fresh = s.fresh := rfl
@[simp] theorem setNpc_arg (w : W64) : (setNpc s w).arg = s.arg := rfl
@[simp] theorem setNpc_agenda (w : W64) : (setNpc s w).agenda = s.agenda := rfl
@[simp] theorem setNpc_core_num (w : W64) : (setNpc s w).core.num = s.core.num := rfl
@[simp] theorem setNpc_core_pos (w : W64) : (setNpc s w).core.pos = s.core.pos := rfl
@[simp] theorem setNpc_core_run (w : W64) : (setNpc s w).core.run = s.core.run := rfl
@[simp] theorem setNpc_core_former (w : W64) : (setNpc s w).core.former = s.core.former := rfl
@[simp] theorem setNpc_core_pc (w : W64) : (setNpc s w).core.pc = s.core.pc := rfl
@[simp] theorem setNpc_core_issue (w : W64) : (setNpc s w).core.issue = { s.core.issue with npc := w } := rfl
@[simp] theorem setNpc_core_sc (w : W64) : (setNpc s w).core.sc = s.core.sc := rfl
@[simp] theorem setNpc_core_vec (w : W64) : (setNpc s w).core.vec = s.core.vec := rfl
@[simp] theorem setNpc_core_sys (w : W64) : (setNpc s w).core.sys = s.core.sys := rfl
@[simp] theorem setNpc_core_fbuf (w : W64) : (setNpc s w).core.fbuf = s.core.fbuf := rfl
@[simp] theorem setNpc_core_rreg (w : W64) : (setNpc s w).core.rreg = s.core.rreg := rfl
@[simp] theorem setNpc_core_freq (w : W64) : (setNpc s w).core.freq = s.core.freq := rfl
@[simp] theorem setNpc_core_pend (w : W64) : (setNpc s w).core.pend = s.core.pend := rfl
@[simp] theorem setNpc_core_locks (w : W64) : (setNpc s w).core.locks = s.core.locks := rfl
@[simp] theorem setNpc_core_divUntil (w : W64) : (setNpc s w).core.divUntil = s.core.divUntil := rfl
@[simp] theorem setNpc_core_wait (w : W64) : (setNpc s w).core.wait = s.core.wait := rfl
@[simp] theorem setNpc_core_mail (w : W64) : (setNpc s w).core.mail = s.core.mail := rfl
@[simp] theorem setNpc_core_ev (w : W64) : (setNpc s w).core.ev = s.core.ev := rfl
@[simp] theorem setNpc_core_tlb (w : W64) : (setNpc s w).core.tlb = s.core.tlb := rfl
@[simp] theorem setNpc_core_marks (w : W64) : (setNpc s w).core.marks = s.core.marks := rfl
@[simp] theorem setNpc_core_tagged (w : W64) : (setNpc s w).core.tagged = s.core.tagged := rfl
@[simp] theorem setNpc_core_peerWindow (w : W64) : (setNpc s w).core.peerWindow = s.core.peerWindow := rfl
@[simp] theorem setNpc_core_handles (w : W64) : (setNpc s w).core.handles = s.core.handles := rfl
@[simp] theorem setNpc_core_collCount (w : W64) : (setNpc s w).core.collCount = s.core.collCount := rfl
@[simp] theorem setNpc_core_collOpen (w : W64) : (setNpc s w).core.collOpen = s.core.collOpen := rfl
@[simp] theorem setNpc_core_task (w : W64) : (setNpc s w).core.task = s.core.task := rfl
@[simp] theorem setNpc_core_job (w : W64) : (setNpc s w).core.job = s.core.job := rfl
@[simp] theorem setNpc_core_dly (w : W64) : (setNpc s w).core.dly = s.core.dly := rfl
@[simp] theorem setNpc_core_cycleBase (w : W64) : (setNpc s w).core.cycleBase = s.core.cycleBase := rfl
@[simp] theorem setNpc_core_retired (w : W64) : (setNpc s w).core.retired = s.core.retired := rfl
@[simp] theorem setNpc_core_replyClock (w : W64) : (setNpc s w).core.replyClock = s.core.replyClock := rfl
@[simp] theorem setNpc_core_altArea (w : W64) : (setNpc s w).core.altArea = s.core.altArea := rfl
@[simp] theorem setNpc_core_seq (w : W64) : (setNpc s w).core.seq = s.core.seq := rfl

@[simp] theorem addBusy_others (n : Nat) : (addBusy s n).others = s.others := rfl
@[simp] theorem addBusy_mem (n : Nat) : (addBusy s n).mem = s.mem := rfl
@[simp] theorem addBusy_net (n : Nat) : (addBusy s n).net = s.net := rfl
@[simp] theorem addBusy_mu (n : Nat) : (addBusy s n).mu = s.mu := rfl
@[simp] theorem addBusy_un (n : Nat) : (addBusy s n).un = s.un := rfl
@[simp] theorem addBusy_out (n : Nat) : (addBusy s n).out = s.out := rfl
@[simp] theorem addBusy_cycle (n : Nat) : (addBusy s n).cycle = s.cycle := rfl
@[simp] theorem addBusy_nextId (n : Nat) : (addBusy s n).nextId = s.nextId := rfl
@[simp] theorem addBusy_fresh (n : Nat) : (addBusy s n).fresh = s.fresh := rfl
@[simp] theorem addBusy_arg (n : Nat) : (addBusy s n).arg = s.arg := rfl
@[simp] theorem addBusy_agenda (n : Nat) : (addBusy s n).agenda = s.agenda := rfl
@[simp] theorem addBusy_core_num (n : Nat) : (addBusy s n).core.num = s.core.num := rfl
@[simp] theorem addBusy_core_pos (n : Nat) : (addBusy s n).core.pos = s.core.pos := rfl
@[simp] theorem addBusy_core_run (n : Nat) : (addBusy s n).core.run = s.core.run := rfl
@[simp] theorem addBusy_core_former (n : Nat) : (addBusy s n).core.former = s.core.former := rfl
@[simp] theorem addBusy_core_pc (n : Nat) : (addBusy s n).core.pc = s.core.pc := rfl
@[simp] theorem addBusy_core_issue (n : Nat) : (addBusy s n).core.issue = { s.core.issue with busy := s.core.issue.busy + n } := rfl
@[simp] theorem addBusy_core_sc (n : Nat) : (addBusy s n).core.sc = s.core.sc := rfl
@[simp] theorem addBusy_core_vec (n : Nat) : (addBusy s n).core.vec = s.core.vec := rfl
@[simp] theorem addBusy_core_sys (n : Nat) : (addBusy s n).core.sys = s.core.sys := rfl
@[simp] theorem addBusy_core_fbuf (n : Nat) : (addBusy s n).core.fbuf = s.core.fbuf := rfl
@[simp] theorem addBusy_core_rreg (n : Nat) : (addBusy s n).core.rreg = s.core.rreg := rfl
@[simp] theorem addBusy_core_freq (n : Nat) : (addBusy s n).core.freq = s.core.freq := rfl
@[simp] theorem addBusy_core_pend (n : Nat) : (addBusy s n).core.pend = s.core.pend := rfl
@[simp] theorem addBusy_core_locks (n : Nat) : (addBusy s n).core.locks = s.core.locks := rfl
@[simp] theorem addBusy_core_divUntil (n : Nat) : (addBusy s n).core.divUntil = s.core.divUntil := rfl
@[simp] theorem addBusy_core_wait (n : Nat) : (addBusy s n).core.wait = s.core.wait := rfl
@[simp] theorem addBusy_core_mail (n : Nat) : (addBusy s n).core.mail = s.core.mail := rfl
@[simp] theorem addBusy_core_ev (n : Nat) : (addBusy s n).core.ev = s.core.ev := rfl
@[simp] theorem addBusy_core_tlb (n : Nat) : (addBusy s n).core.tlb = s.core.tlb := rfl
@[simp] theorem addBusy_core_marks (n : Nat) : (addBusy s n).core.marks = s.core.marks := rfl
@[simp] theorem addBusy_core_tagged (n : Nat) : (addBusy s n).core.tagged = s.core.tagged := rfl
@[simp] theorem addBusy_core_peerWindow (n : Nat) : (addBusy s n).core.peerWindow = s.core.peerWindow := rfl
@[simp] theorem addBusy_core_handles (n : Nat) : (addBusy s n).core.handles = s.core.handles := rfl
@[simp] theorem addBusy_core_collCount (n : Nat) : (addBusy s n).core.collCount = s.core.collCount := rfl
@[simp] theorem addBusy_core_collOpen (n : Nat) : (addBusy s n).core.collOpen = s.core.collOpen := rfl
@[simp] theorem addBusy_core_task (n : Nat) : (addBusy s n).core.task = s.core.task := rfl
@[simp] theorem addBusy_core_job (n : Nat) : (addBusy s n).core.job = s.core.job := rfl
@[simp] theorem addBusy_core_dly (n : Nat) : (addBusy s n).core.dly = s.core.dly := rfl
@[simp] theorem addBusy_core_cycleBase (n : Nat) : (addBusy s n).core.cycleBase = s.core.cycleBase := rfl
@[simp] theorem addBusy_core_retired (n : Nat) : (addBusy s n).core.retired = s.core.retired := rfl
@[simp] theorem addBusy_core_replyClock (n : Nat) : (addBusy s n).core.replyClock = s.core.replyClock := rfl
@[simp] theorem addBusy_core_altArea (n : Nat) : (addBusy s n).core.altArea = s.core.altArea := rfl
@[simp] theorem addBusy_core_seq (n : Nat) : (addBusy s n).core.seq = s.core.seq := rfl

@[simp] theorem emptyFetch_others : (emptyFetch s).others = s.others := rfl
@[simp] theorem emptyFetch_mem : (emptyFetch s).mem = s.mem := rfl
@[simp] theorem emptyFetch_net : (emptyFetch s).net = s.net := rfl
@[simp] theorem emptyFetch_mu : (emptyFetch s).mu = s.mu := rfl
@[simp] theorem emptyFetch_un : (emptyFetch s).un = s.un := rfl
@[simp] theorem emptyFetch_out : (emptyFetch s).out = s.out := rfl
@[simp] theorem emptyFetch_cycle : (emptyFetch s).cycle = s.cycle := rfl
@[simp] theorem emptyFetch_nextId : (emptyFetch s).nextId = s.nextId := rfl
@[simp] theorem emptyFetch_fresh : (emptyFetch s).fresh = s.fresh := rfl
@[simp] theorem emptyFetch_arg : (emptyFetch s).arg = s.arg := rfl
@[simp] theorem emptyFetch_agenda : (emptyFetch s).agenda = s.agenda := rfl
@[simp] theorem emptyFetch_core_num : (emptyFetch s).core.num = s.core.num := rfl
@[simp] theorem emptyFetch_core_pos : (emptyFetch s).core.pos = s.core.pos := rfl
@[simp] theorem emptyFetch_core_run : (emptyFetch s).core.run = s.core.run := rfl
@[simp] theorem emptyFetch_core_former : (emptyFetch s).core.former = s.core.former := rfl
@[simp] theorem emptyFetch_core_pc : (emptyFetch s).core.pc = s.core.pc := rfl
@[simp] theorem emptyFetch_core_issue : (emptyFetch s).core.issue = s.core.issue := rfl
@[simp] theorem emptyFetch_core_sc : (emptyFetch s).core.sc = s.core.sc := rfl
@[simp] theorem emptyFetch_core_vec : (emptyFetch s).core.vec = s.core.vec := rfl
@[simp] theorem emptyFetch_core_sys : (emptyFetch s).core.sys = s.core.sys := rfl
@[simp] theorem emptyFetch_core_fbuf : (emptyFetch s).core.fbuf = none := rfl
@[simp] theorem emptyFetch_core_rreg : (emptyFetch s).core.rreg = none := rfl
@[simp] theorem emptyFetch_core_freq : (emptyFetch s).core.freq = none := rfl
@[simp] theorem emptyFetch_core_pend : (emptyFetch s).core.pend = s.core.pend := rfl
@[simp] theorem emptyFetch_core_locks : (emptyFetch s).core.locks = s.core.locks := rfl
@[simp] theorem emptyFetch_core_divUntil : (emptyFetch s).core.divUntil = s.core.divUntil := rfl
@[simp] theorem emptyFetch_core_wait : (emptyFetch s).core.wait = s.core.wait := rfl
@[simp] theorem emptyFetch_core_mail : (emptyFetch s).core.mail = s.core.mail := rfl
@[simp] theorem emptyFetch_core_ev : (emptyFetch s).core.ev = s.core.ev := rfl
@[simp] theorem emptyFetch_core_tlb : (emptyFetch s).core.tlb = s.core.tlb := rfl
@[simp] theorem emptyFetch_core_marks : (emptyFetch s).core.marks = s.core.marks := rfl
@[simp] theorem emptyFetch_core_tagged : (emptyFetch s).core.tagged = s.core.tagged := rfl
@[simp] theorem emptyFetch_core_peerWindow : (emptyFetch s).core.peerWindow = s.core.peerWindow := rfl
@[simp] theorem emptyFetch_core_handles : (emptyFetch s).core.handles = s.core.handles := rfl
@[simp] theorem emptyFetch_core_collCount : (emptyFetch s).core.collCount = s.core.collCount := rfl
@[simp] theorem emptyFetch_core_collOpen : (emptyFetch s).core.collOpen = s.core.collOpen := rfl
@[simp] theorem emptyFetch_core_task : (emptyFetch s).core.task = s.core.task := rfl
@[simp] theorem emptyFetch_core_job : (emptyFetch s).core.job = s.core.job := rfl
@[simp] theorem emptyFetch_core_dly : (emptyFetch s).core.dly = s.core.dly := rfl
@[simp] theorem emptyFetch_core_cycleBase : (emptyFetch s).core.cycleBase = s.core.cycleBase := rfl
@[simp] theorem emptyFetch_core_retired : (emptyFetch s).core.retired = s.core.retired := rfl
@[simp] theorem emptyFetch_core_replyClock : (emptyFetch s).core.replyClock = s.core.replyClock := rfl
@[simp] theorem emptyFetch_core_altArea : (emptyFetch s).core.altArea = s.core.altArea := rfl
@[simp] theorem emptyFetch_core_seq : (emptyFetch s).core.seq = s.core.seq := rfl

@[simp] theorem retire_others : (retire s).others = s.others := rfl
@[simp] theorem retire_mem : (retire s).mem = s.mem := rfl
@[simp] theorem retire_net : (retire s).net = s.net := rfl
@[simp] theorem retire_mu : (retire s).mu = s.mu := rfl
@[simp] theorem retire_un : (retire s).un = s.un := rfl
@[simp] theorem retire_out : (retire s).out = s.out := rfl
@[simp] theorem retire_cycle : (retire s).cycle = s.cycle := rfl
@[simp] theorem retire_nextId : (retire s).nextId = s.nextId := rfl
@[simp] theorem retire_fresh : (retire s).fresh = s.fresh := rfl
@[simp] theorem retire_arg : (retire s).arg = s.arg := rfl
@[simp] theorem retire_agenda : (retire s).agenda = s.agenda := rfl
@[simp] theorem retire_core_num : (retire s).core.num = s.core.num := rfl
@[simp] theorem retire_core_pos : (retire s).core.pos = s.core.pos := rfl
@[simp] theorem retire_core_run : (retire s).core.run = if s.core.run = .waiting then .running else s.core.run := rfl
@[simp] theorem retire_core_former : (retire s).core.former = s.core.former := rfl
@[simp] theorem retire_core_pc : (retire s).core.pc = s.core.issue.npc := rfl
@[simp] theorem retire_core_issue : (retire s).core.issue = { s.core.issue with mark := .done } := rfl
@[simp] theorem retire_core_sc : (retire s).core.sc = s.core.sc := rfl
@[simp] theorem retire_core_vec : (retire s).core.vec = s.core.vec := rfl
@[simp] theorem retire_core_sys : (retire s).core.sys = s.core.sys := rfl
@[simp] theorem retire_core_fbuf : (retire s).core.fbuf = s.core.fbuf := rfl
@[simp] theorem retire_core_rreg : (retire s).core.rreg = s.core.rreg := rfl
@[simp] theorem retire_core_freq : (retire s).core.freq = s.core.freq := rfl
@[simp] theorem retire_core_pend : (retire s).core.pend = s.core.pend := rfl
@[simp] theorem retire_core_locks : (retire s).core.locks = s.core.locks := rfl
@[simp] theorem retire_core_divUntil : (retire s).core.divUntil = s.core.divUntil := rfl
@[simp] theorem retire_core_wait : (retire s).core.wait = none := rfl
@[simp] theorem retire_core_mail : (retire s).core.mail = s.core.mail := rfl
@[simp] theorem retire_core_ev : (retire s).core.ev = s.core.ev := rfl
@[simp] theorem retire_core_tlb : (retire s).core.tlb = s.core.tlb := rfl
@[simp] theorem retire_core_marks : (retire s).core.marks = s.core.marks := rfl
@[simp] theorem retire_core_tagged : (retire s).core.tagged = s.core.tagged := rfl
@[simp] theorem retire_core_peerWindow : (retire s).core.peerWindow = s.core.peerWindow := rfl
@[simp] theorem retire_core_handles : (retire s).core.handles = s.core.handles := rfl
@[simp] theorem retire_core_collCount : (retire s).core.collCount = s.core.collCount := rfl
@[simp] theorem retire_core_collOpen : (retire s).core.collOpen = s.core.collOpen := rfl
@[simp] theorem retire_core_task : (retire s).core.task = s.core.task := rfl
@[simp] theorem retire_core_job : (retire s).core.job = s.core.job := rfl
@[simp] theorem retire_core_dly : (retire s).core.dly = s.core.dly := rfl
@[simp] theorem retire_core_cycleBase : (retire s).core.cycleBase = s.core.cycleBase := rfl
@[simp] theorem retire_core_retired : (retire s).core.retired = s.core.retired + 1 := rfl
@[simp] theorem retire_core_replyClock : (retire s).core.replyClock = s.core.replyClock := rfl
@[simp] theorem retire_core_altArea : (retire s).core.altArea = s.core.altArea := rfl
@[simp] theorem retire_core_seq : (retire s).core.seq = s.core.seq := rfl

@[simp] theorem blockOn_others (w : WaitFor) : (blockOn s w).others = s.others := rfl
@[simp] theorem blockOn_mem (w : WaitFor) : (blockOn s w).mem = s.mem := rfl
@[simp] theorem blockOn_net (w : WaitFor) : (blockOn s w).net = s.net := rfl
@[simp] theorem blockOn_mu (w : WaitFor) : (blockOn s w).mu = s.mu := rfl
@[simp] theorem blockOn_un (w : WaitFor) : (blockOn s w).un = s.un := rfl
@[simp] theorem blockOn_out (w : WaitFor) : (blockOn s w).out = s.out := rfl
@[simp] theorem blockOn_cycle (w : WaitFor) : (blockOn s w).cycle = s.cycle := rfl
@[simp] theorem blockOn_nextId (w : WaitFor) : (blockOn s w).nextId = s.nextId := rfl
@[simp] theorem blockOn_fresh (w : WaitFor) : (blockOn s w).fresh = s.fresh := rfl
@[simp] theorem blockOn_arg (w : WaitFor) : (blockOn s w).arg = s.arg := rfl
@[simp] theorem blockOn_agenda (w : WaitFor) : (blockOn s w).agenda = s.agenda := rfl
@[simp] theorem blockOn_core_num (w : WaitFor) : (blockOn s w).core.num = s.core.num := rfl
@[simp] theorem blockOn_core_pos (w : WaitFor) : (blockOn s w).core.pos = s.core.pos := rfl
@[simp] theorem blockOn_core_run (w : WaitFor) : (blockOn s w).core.run = .waiting := rfl
@[simp] theorem blockOn_core_former (w : WaitFor) : (blockOn s w).core.former = s.core.former := rfl
@[simp] theorem blockOn_core_pc (w : WaitFor) : (blockOn s w).core.pc = s.core.pc := rfl
@[simp] theorem blockOn_core_issue (w : WaitFor) : (blockOn s w).core.issue = { s.core.issue with mark := .blocked } := rfl
@[simp] theorem blockOn_core_sc (w : WaitFor) : (blockOn s w).core.sc = s.core.sc := rfl
@[simp] theorem blockOn_core_vec (w : WaitFor) : (blockOn s w).core.vec = s.core.vec := rfl
@[simp] theorem blockOn_core_sys (w : WaitFor) : (blockOn s w).core.sys = s.core.sys := rfl
@[simp] theorem blockOn_core_fbuf (w : WaitFor) : (blockOn s w).core.fbuf = s.core.fbuf := rfl
@[simp] theorem blockOn_core_rreg (w : WaitFor) : (blockOn s w).core.rreg = s.core.rreg := rfl
@[simp] theorem blockOn_core_freq (w : WaitFor) : (blockOn s w).core.freq = s.core.freq := rfl
@[simp] theorem blockOn_core_pend (w : WaitFor) : (blockOn s w).core.pend = s.core.pend := rfl
@[simp] theorem blockOn_core_locks (w : WaitFor) : (blockOn s w).core.locks = s.core.locks := rfl
@[simp] theorem blockOn_core_divUntil (w : WaitFor) : (blockOn s w).core.divUntil = s.core.divUntil := rfl
@[simp] theorem blockOn_core_wait_isSome (w : WaitFor) : (blockOn s w).core.wait.isSome = true := rfl

/-- A wait that begins now. -/
theorem blockOn_core_wait (w : WaitFor) (h : s.core.wait = none) : (blockOn s w).core.wait = some ⟨s.cycle, w⟩ := by
  simp [blockOn, h]

@[simp] theorem blockOn_core_mail (w : WaitFor) : (blockOn s w).core.mail = s.core.mail := rfl
@[simp] theorem blockOn_core_ev (w : WaitFor) : (blockOn s w).core.ev = s.core.ev := rfl
@[simp] theorem blockOn_core_tlb (w : WaitFor) : (blockOn s w).core.tlb = s.core.tlb := rfl
@[simp] theorem blockOn_core_marks (w : WaitFor) : (blockOn s w).core.marks = s.core.marks := rfl
@[simp] theorem blockOn_core_tagged (w : WaitFor) : (blockOn s w).core.tagged = s.core.tagged := rfl
@[simp] theorem blockOn_core_peerWindow (w : WaitFor) : (blockOn s w).core.peerWindow = s.core.peerWindow := rfl
@[simp] theorem blockOn_core_handles (w : WaitFor) : (blockOn s w).core.handles = s.core.handles := rfl
@[simp] theorem blockOn_core_collCount (w : WaitFor) : (blockOn s w).core.collCount = s.core.collCount := rfl
@[simp] theorem blockOn_core_collOpen (w : WaitFor) : (blockOn s w).core.collOpen = s.core.collOpen := rfl
@[simp] theorem blockOn_core_task (w : WaitFor) : (blockOn s w).core.task = s.core.task := rfl
@[simp] theorem blockOn_core_job (w : WaitFor) : (blockOn s w).core.job = s.core.job := rfl
@[simp] theorem blockOn_core_dly (w : WaitFor) : (blockOn s w).core.dly = s.core.dly := rfl
@[simp] theorem blockOn_core_cycleBase (w : WaitFor) : (blockOn s w).core.cycleBase = s.core.cycleBase := rfl
@[simp] theorem blockOn_core_retired (w : WaitFor) : (blockOn s w).core.retired = s.core.retired := rfl
@[simp] theorem blockOn_core_replyClock (w : WaitFor) : (blockOn s w).core.replyClock = s.core.replyClock := rfl
@[simp] theorem blockOn_core_altArea (w : WaitFor) : (blockOn s w).core.altArea = s.core.altArea := rfl
@[simp] theorem blockOn_core_seq (w : WaitFor) : (blockOn s w).core.seq = s.core.seq := rfl

end Sys2Proof.Machine
end

