-- ==== Sys2Proof/Laws/Table.lean ====
section
/-! SUPPORT. What reading a table answers after a write, and the canonical form of tables and of memory. -/
namespace Sys2Proof.Machine

variable {α : Type}

/-! ### Reading after writing -/

theorem tget_tdel_self (t : Tbl α) (k : Nat) : tget (tdel t k) k = none := by
  induction t with
  | nil => rfl
  | cons p r ih =>
    obtain ⟨j, v⟩ := p
    by_cases h : j = k <;> simp [tdel, tget, h, ih]

theorem tget_tdel_ne (t : Tbl α) {k q : Nat} (h : q ≠ k) : tget (tdel t k) q = tget t q := by
  induction t with
  | nil => rfl
  | cons p r ih =>
    obtain ⟨j, v⟩ := p
    by_cases hk : j = k
    · subst hk; simp [tdel, tget, ih, Ne.symm h]
    · by_cases hq : j = q
      · subst hq; simp [tdel, tget, h]
      · simp [tdel, tget, hk, hq, ih]

theorem tget_tins_self (t : Tbl α) (k : Nat) (v : α) (h : tget t k = none) : tget (tins t k v) k = some v := by
  induction t with
  | nil => simp [tins, tget]
  | cons p r ih =>
    obtain ⟨j, w⟩ := p
    by_cases hj : j = k
    · simp [tget, hj] at h
    · by_cases hlt : k < j
      · simp [tins, tget, hlt]
      · simp only [tget, hj, if_false] at h; simp [tins, tget, hlt, hj, ih h]

theorem tget_tins_ne (t : Tbl α) {k q : Nat} (v : α) (h : q ≠ k) : tget (tins t k v) q = tget t q := by
  induction t with
  | nil => simp [tins, tget, Ne.symm h]
  | cons p r ih =>
    obtain ⟨j, w⟩ := p
    by_cases hlt : k < j
    · simp [tins, tget, hlt, Ne.symm h]
    · by_cases hq : j = q
      · subst hq; simp [tins, tget, hlt]
      · simp [tins, tget, hlt, hq, ih]

theorem tget_tput_self (t : Tbl α) (k : Nat) (v : α) : tget (tput t k v) k = some v :=
  tget_tins_self _ _ _ (tget_tdel_self _ _)

theorem tget_tput_ne (t : Tbl α) {k q : Nat} (v : α) (h : q ≠ k) : tget (tput t k v) q = tget t q := by
  rw [tput, tget_tins_ne _ _ h, tget_tdel_ne _ h]

@[simp] theorem tgetD_nil (k : Nat) (d : α) : tgetD [] k d = d := rfl

theorem tgetD_tputD_self [DecidableEq α] (d : α) (t : Tbl α) (k : Nat) (v : α) : tgetD (tputD d t k v) k d = v := by
  by_cases h : v = d <;> simp [tgetD, tputD, h, tget_tdel_self, tget_tput_self]

theorem tgetD_tputD_ne [DecidableEq α] (d : α) (t : Tbl α) {k q : Nat} (v : α) (h : q ≠ k) :
    tgetD (tputD d t k v) q d = tgetD t q d := by
  by_cases hv : v = d <;> simp [tgetD, tputD, hv, tget_tdel_ne _ h, tget_tput_ne _ _ h]

/-! ### Rising order -/

/-- Every number of the table is at least `b`. -/
def From (b : Nat) (t : Tbl α) : Prop := ∀ p ∈ t, b ≤ p.1

theorem tsorted_cons (j : Nat) (v : α) (r : Tbl α) :
    tsorted ((j, v) :: r) = true ↔ From (j + 1) r ∧ tsorted r = true := by
  induction r generalizing j v with
  | nil => simp [tsorted, From]
  | cons p r ih =>
    obtain ⟨k, w⟩ := p
    simp only [tsorted, Bool.and_eq_true, decide_eq_true_eq, From, List.mem_cons, forall_eq_or_imp]
    constructor
    · rintro ⟨hlt, hs⟩
      have := (ih k w).1 hs
      exact ⟨⟨hlt, fun p hp => by have := this.1 p hp; omega⟩, hs⟩
    · rintro ⟨⟨h1, -⟩, hs⟩
      exact ⟨h1, hs⟩

theorem from_tdel {b : Nat} {t : Tbl α} (k : Nat) (h : From b t) : From b (tdel t k) := by
  induction t with
  | nil => exact h
  | cons p r ih =>
    obtain ⟨j, v⟩ := p
    have hr : From b r := fun q hq => h q (List.mem_cons_of_mem _ hq)
    by_cases hk : j = k
    · simpa [tdel, hk] using ih hr
    · simp only [tdel, hk, if_false]
      intro q hq
      rcases List.mem_cons.1 hq with rfl | hq
      · exact h _ List.mem_cons_self
      · exact ih hr q hq

theorem from_tins {b : Nat} {t : Tbl α} {k : Nat} (v : α) (hb : b ≤ k) (h : From b t) : From b (tins t k v) := by
  induction t with
  | nil => intro q hq; simp [tins] at hq; subst hq; exact hb
  | cons p r ih =>
    obtain ⟨j, w⟩ := p
    have hr : From b r := fun q hq => h q (List.mem_cons_of_mem _ hq)
    by_cases hlt : k < j
    · simp only [tins, hlt, if_true]
      intro q hq
      rcases List.mem_cons.1 hq with rfl | hq
      · exact hb
      · exact h q hq
    · simp only [tins, hlt, if_false]
      intro q hq
      rcases List.mem_cons.1 hq with rfl | hq
      · exact h _ List.mem_cons_self
      · exact ih hr q hq

theorem tsorted_tdel {t : Tbl α} (k : Nat) (h : tsorted t = true) : tsorted (tdel t k) = true := by
  induction t with
  | nil => exact h
  | cons p r ih =>
    obtain ⟨j, v⟩ := p
    obtain ⟨hf, hs⟩ := (tsorted_cons j v r).1 h
    by_cases hk : j = k
    · simpa [tdel, hk] using ih hs
    · simp only [tdel, hk, if_false]
      exact (tsorted_cons ..).2 ⟨from_tdel k hf, ih hs⟩

theorem tsorted_tins {t : Tbl α} {k : Nat} (v : α) (hk : tget t k = none) (h : tsorted t = true) :
    tsorted (tins t k v) = true := by
  induction t with
  | nil => rfl
  | cons p r ih =>
    obtain ⟨j, w⟩ := p
    obtain ⟨hf, hs⟩ := (tsorted_cons j w r).1 h
    by_cases hlt : k < j
    · simp only [tins, hlt, if_true]
      refine (tsorted_cons ..).2 ⟨fun q hq => ?_, h⟩
      rcases List.mem_cons.1 hq with rfl | hq
      · exact hlt
      · have := hf q hq; omega
    · by_cases hj : j = k
      · simp [tget, hj] at hk
      · simp only [tget, hj, if_false] at hk
        simp only [tins, hlt, if_false]
        exact (tsorted_cons ..).2 ⟨from_tins v (by omega) hf, ih hk hs⟩

theorem tsorted_tput {t : Tbl α} (k : Nat) (v : α) (h : tsorted t = true) : tsorted (tput t k v) = true :=
  tsorted_tins v (tget_tdel_self _ _) (tsorted_tdel k h)

/-! ### Memory -/

theorem mem_tdel {t : Tbl α} {k : Nat} {p : Nat × α} (h : p ∈ tdel t k) : p ∈ t := by
  induction t with
  | nil => simp [tdel] at h
  | cons q r ih =>
    obtain ⟨j, v⟩ := q
    by_cases hk : j = k
    · rw [tdel, if_pos hk] at h; exact List.mem_cons_of_mem _ (ih h)
    · rw [tdel, if_neg hk] at h
      rcases List.mem_cons.1 h with rfl | h
      · exact List.mem_cons_self
      · exact List.mem_cons_of_mem _ (ih h)

theorem mem_tins {t : Tbl α} {k : Nat} {v : α} {p : Nat × α} (h : p ∈ tins t k v) : p = (k, v) ∨ p ∈ t := by
  induction t with
  | nil => simpa [tins] using h
  | cons q r ih =>
    obtain ⟨j, w⟩ := q
    by_cases hlt : k < j
    · rw [tins, if_pos hlt] at h; simpa using h
    · rw [tins, if_neg hlt] at h
      rcases List.mem_cons.1 h with rfl | h
      · exact .inr List.mem_cons_self
      · rcases ih h with h | h
        · exact .inl h
        · exact .inr (List.mem_cons_of_mem _ h)

/-- Writing a byte keeps the canonical form. -/
theorem mput_wf {m : List (Nat × Byte)} (a : Nat) (b : Byte) (h : Memory.wf m = true) :
    Memory.wf (mput m a b) = true := by
  simp only [Memory.wf, Bool.and_eq_true, List.all_eq_true, bne_iff_ne] at h ⊢
  obtain ⟨hs, hz⟩ := h
  by_cases hb : b = 0
  · simp only [mput, tputD, hb, if_true]
    exact ⟨tsorted_tdel a hs, fun p hp => hz p (mem_tdel hp)⟩
  · simp only [mput, tputD, hb, if_false]
    refine ⟨tsorted_tput a b hs, fun p hp => ?_⟩
    rcases mem_tins hp with rfl | hp
    · exact hb
    · exact hz p (mem_tdel hp)

/-- Writing any number of bytes keeps the canonical form. -/
theorem mputs_wf {m : List (Nat × Byte)} (l : List (Nat × Byte)) (h : Memory.wf m = true) :
    Memory.wf (mputs m l) = true := by
  induction l generalizing m with
  | nil => exact h
  | cons p r ih => exact ih (mput_wf p.1 p.2 h)

@[simp] theorem mget_mput_self (m : List (Nat × Byte)) (a : Nat) (b : Byte) : mget (mput m a b) a = b :=
  tgetD_tputD_self 0 m a b

theorem mget_mput_ne (m : List (Nat × Byte)) {a k : Nat} (b : Byte) (h : k ≠ a) : mget (mput m a b) k = mget m k :=
  tgetD_tputD_ne 0 m b h

/-- A byte none of the written cells names is unchanged. -/
theorem mget_mputs_of_not_mem (m l : List (Nat × Byte)) (k : Nat) (h : ∀ p ∈ l, p.1 ≠ k) :
    mget (mputs m l) k = mget m k := by
  induction l generalizing m with
  | nil => rfl
  | cons p r ih =>
    rw [show mputs m (p :: r) = mputs (mput m p.1 p.2) r from rfl, ih _ (fun q hq => h q (List.mem_cons_of_mem _ hq)),
      mget_mput_ne _ _ (Ne.symm (h p List.mem_cons_self))]

theorem mem_cellsAt {a : Nat} {l : List Byte} {p : Nat × Byte} (h : p ∈ cellsAt a l) : a ≤ p.1 ∧ p.1 < a + l.length := by
  induction l generalizing a with
  | nil => simp [cellsAt] at h
  | cons b r ih =>
    rcases List.mem_cons.1 h with rfl | h
    · simp
    · have := ih h; simp only [List.length_cons]; omega

/-- A write of bytes laid from `a` leaves every other byte alone. -/
theorem mget_mputs_cellsAt_out (m : List (Nat × Byte)) (a k : Nat) (l : List Byte) (h : k < a ∨ a + l.length ≤ k) :
    mget (mputs m (cellsAt a l)) k = mget m k :=
  mget_mputs_of_not_mem m _ k (fun p hp => by have := mem_cellsAt hp; omega)

/-- Bytes laid from `a` read back. -/
theorem mread_mputs_cellsAt (m : List (Nat × Byte)) (a : Nat) (l : List Byte) :
    mread (mputs m (cellsAt a l)) a l.length = l := by
  induction l generalizing m a with
  | nil => rfl
  | cons b r ih =>
    change mget (mputs (mput m a b) (cellsAt (a + 1) r)) a :: mread (mputs (mput m a b) (cellsAt (a + 1) r)) (a + 1) r.length
      = b :: r
    rw [ih, mget_mputs_cellsAt_out _ _ _ _ (.inl (Nat.lt_succ_self a)), mget_mput_self]

@[simp] theorem mget_nil (k : Nat) : mget [] k = 0 := rfl

/-- Memory at reset has the canonical form. -/
theorem memory_wf_nil : Memory.wf [] = true := rfl

end Sys2Proof.Machine
end

