-- ==== Sys2Proof/Laws/Regs.lean ====
section
/-! SUPPORT. What reading a register answers after a write, and how results of fixed latency land. -/
namespace Sys2Proof.Machine

/-! ### The scalar file -/

@[simp] theorem get_zero (c : Scalars) : c.get 0 = 0 := by simp [Scalars.get]

@[simp] theorem x_zero (s : State) : s.x 0 = 0 := get_zero _

theorem ringIx_inj {base q r : Nat} (hq : 8 ≤ q) (hq' : q < 32) (hr : 8 ≤ r) (hr' : r < 32)
    (h : ringIx base q = ringIx base r) : q = r := by
  simp only [ringIx] at h; omega

theorem get_set_self (c : Scalars) {r : Reg} (w : W64) (h : r ≠ 0) : (c.set r w).get r = w := by
  by_cases h8 : r.toNat < 8 <;> simp only [Scalars.get, Scalars.set, h, h8, if_true, if_false, tgetD_tputD_self]

theorem get_set_ne (c : Scalars) {q r : Reg} (w : W64) (h : q ≠ r) : (c.set r w).get q = c.get q := by
  by_cases hr : r = 0
  · simp only [Scalars.set, hr, if_true]
  by_cases hq : q = 0
  · simp only [Scalars.get, hq, if_true]
  have hn : q.toNat ≠ r.toNat := fun e => h (BitVec.eq_of_toNat_eq e)
  by_cases h8 : r.toNat < 8 <;> by_cases g8 : q.toNat < 8 <;>
    simp only [Scalars.get, Scalars.set, hr, hq, h8, g8, if_true, if_false]
  · rw [tgetD_tputD_ne _ _ _ hn]
  · rw [tgetD_tputD_ne]
    exact fun e => hn (ringIx_inj (by omega) q.isLt (by omega) r.isLt e)

@[simp] theorem set_base (c : Scalars) (r : Reg) (w : W64) : (c.set r w).base = c.base := by
  unfold Scalars.set; split <;> [rfl; (split <;> rfl)]
@[simp] theorem set_res (c : Scalars) (r : Reg) (w : W64) : (c.set r w).res = c.res := by
  unfold Scalars.set; split <;> [rfl; (split <;> rfl)]
@[simp] theorem set_spilled (c : Scalars) (r : Reg) (w : W64) : (c.set r w).spilled = c.spilled := by
  unfold Scalars.set; split <;> [rfl; (split <;> rfl)]
@[simp] theorem set_wsp (c : Scalars) (r : Reg) (w : W64) : (c.set r w).wsp = c.wsp := by
  unfold Scalars.set; split <;> [rfl; (split <;> rfl)]
@[simp] theorem set_wlimit (c : Scalars) (r : Reg) (w : W64) : (c.set r w).wlimit = c.wlimit := by
  unfold Scalars.set; split <;> [rfl; (split <;> rfl)]

theorem x_rawX_self (s : State) {r : Reg} (w : W64) (h : r ≠ 0) : (rawX s r w).x r = w := get_set_self _ w h
theorem x_rawX_ne (s : State) {q r : Reg} (w : W64) (h : q ≠ r) : (rawX s r w).x q = s.x q := get_set_ne _ w h
theorem x_rawX (s : State) (q r : Reg) (w : W64) : (rawX s r w).x q = if q = r ∧ r ≠ 0 then w else s.x q := by
  by_cases h : q = r
  · subst h
    by_cases h0 : q = 0
    · subst h0; rw [x_zero, if_neg (fun e => e.2 rfl), x_zero]
    · rw [x_rawX_self _ _ h0, if_pos ⟨rfl, h0⟩]
  · rw [x_rawX_ne _ _ h, if_neg (fun e => h e.1)]

/-! ### The vector file -/

@[simp] theorem v_rawX (s : State) (q r : Reg) (w : W64) : (rawX s r w).v q = s.v q := rfl

/-- Setting a vector register of slot 0. -/
theorem v_vset_own_self (s : State) (r : Reg) (w : W512) (h : slotOf r = 0) : (vset s r w).v r = w := by
  simp [State.v, vset, vget, h, tgetD_tputD_self]

theorem x_vset (s : State) (r : Reg) (w : W512) (q : Reg) : (vset s r w).x q = s.x q := by
  unfold vset
  split
  · rfl
  · split <;> rfl

/-! ### Landing -/

theorem landAll_of_none (s : State) (h : s.core.pend = []) : landAll s = s := by
  obtain ⟨core, _⟩ := s
  obtain ⟨⟩ := core
  simp only at h
  subst h
  simp [landAll, lastLanding]

theorem same_cycle (p : Pend) (r : Reg) (w w' : W64) (l l' : Nat) : p.same (.x r w l) = p.same (.x r w' l') := by
  cases p <;> rfl

theorem same_cycle_v (p : Pend) (r : Reg) (w w' : W512) (l l' : Nat) : p.same (.v r w l) = p.same (.v r w' l') := by
  cases p <;> rfl

/-- A result that meets no earlier one for its register. -/
theorem deliver_clear (s : State) (p : Pend) (direct : Bool) (h : ∀ q ∈ s.core.pend, q.same p = false) :
    deliver s p direct =
      if direct then p.apply s
      else { s with core := { s.core with pend := pendInsert p s.core.pend } } := by
  have h1 : s.core.pend.any (fun q => q.same p && q.lands == p.lands) = false := by
    rw [List.any_eq_false]; intro q hq; simp [h q hq]
  have h2 : s.core.pend.filter
      (fun q => !(q.same p && (q.lands == p.lands || (direct && q.lands < p.lands)))) = s.core.pend := by
    rw [List.filter_eq_self]; intro q hq; simp [h q hq]
  unfold deliver
  simp only [h1, h2, Bool.false_and, Bool.false_eq_true, if_false]

/-- A scalar result of one cycle is in its register when the instruction ends. -/
theorem setXL_one (s : State) (r : Reg) (w : W64) (h : NoPendX s r) : setXL s r w 1 = rawX s r w := by
  by_cases h0 : r = 0
  · subst h0
    simp only [setXL, rawX, Scalars.set, if_true]
  · have h' : ∀ q ∈ s.core.pend, q.same (.x r w (s.cycle + 1)) = false := fun q hq => by
      rw [same_cycle q r w 0 _ 0]; exact h q hq
    simp only [setXL, h0, if_false, deliver_clear _ _ _ h', Pend.apply, Nat.le_refl, decide_true, if_true]

/-! ### Interlocks -/

@[simp] theorem lockAt_x (s : State) (p l : Nat) (r : Reg) : (lockAt s p l).x r = s.x r := by unfold lockAt; split <;> rfl
@[simp] theorem lockAt_v (s : State) (p l : Nat) (r : Reg) : (lockAt s p l).v r = s.v r := by unfold lockAt; split <;> rfl
@[simp] theorem lockAt_mem (s : State) (p l : Nat) : (lockAt s p l).mem = s.mem := by unfold lockAt; split <;> rfl
@[simp] theorem lockAt_sys (s : State) (p l : Nat) : (lockAt s p l).core.sys = s.core.sys := by
  unfold lockAt; split <;> rfl
@[simp] theorem lockAt_pend (s : State) (p l : Nat) : (lockAt s p l).core.pend = s.core.pend := by
  unfold lockAt; split <;> rfl
@[simp] theorem lockAt_one (s : State) (p : Nat) : lockAt s p 1 = s := by simp [lockAt]

/-- An interlocked scalar result is in its register when the instruction ends; its place is held for `lat` cycles. -/
theorem setXI_clear (s : State) (r : Reg) (w : W64) (lat : Nat) (h0 : r ≠ 0) (h : NoPendX s r) :
    setXI s r w lat = lockAt (rawX s r w) (xPlace s.core.sc r) lat := by
  have h' : ∀ q ∈ s.core.pend, q.same (.x r w (s.cycle + lat)) = false := fun q hq => by
    rw [same_cycle q r w 0 _ 0]; exact h q hq
  simp only [setXI, h0, if_false, deliver_clear _ _ _ h', Pend.apply, if_true]

/-- A scalar result of more than one cycle joins those on their way. -/
theorem setXL_late (s : State) (r : Reg) (w : W64) (lat : Nat) (hl : 1 < lat) (hr : r ≠ 0) (h : NoPendX s r) :
    setXL s r w lat = { s with core := { s.core with pend := pendInsert (.x r w (s.cycle + lat)) s.core.pend } } := by
  have h' : ∀ q ∈ s.core.pend, q.same (.x r w (s.cycle + lat)) = false := fun q hq => by
    rw [same_cycle q r w 0 _ 0]; exact h q hq
  have hd : decide (lat ≤ 1) = false := by simp; omega
  simp only [setXL, hr, hd, if_false, Bool.false_eq_true, deliver_clear _ _ _ h']

/-- A vector result of fixed latency joins those on their way. -/
theorem setVL_clear (s : State) (r : Reg) (w : W512) (lat : Nat) (h : NoPendV s r) :
    setVL s r w lat = { s with core := { s.core with pend := pendInsert (.v r w (s.cycle + lat)) s.core.pend } } := by
  have h' : ∀ q ∈ s.core.pend, q.same (.v r w (s.cycle + lat)) = false := fun q hq => by
    rw [same_cycle_v q r w 0 _ 0]; exact h q hq
  simp [setVL, deliver_clear _ _ _ h']

/-- An interlocked vector result is in its register when the instruction ends; its place is held for `lat` cycles. -/
theorem setVI_clear (s : State) (r : Reg) (w : W512) (lat : Nat) (h : NoPendV s r) :
    setVI s r w lat = lockAt (vset s r w) (vPlace r) lat := by
  have h' : ∀ q ∈ s.core.pend, q.same (.v r w (s.cycle + lat)) = false := fun q hq => by
    rw [same_cycle_v q r w 0 _ 0]; exact h q hq
  simp [setVI, deliver_clear _ _ _ h', Pend.apply]

/-! ### Frames -/

theorem keepsAllBut_retire_rawX (s : State) (d : Reg) (w : W64) : KeepsAllBut s (retire (rawX s d w)) [d] := by
  refine ⟨fun r hr => ?_, fun r _ => rfl, rfl, ?_, ?_, fun _ => rfl, ⟨rfl, rfl, rfl, rfl, rfl, rfl⟩⟩
  · exact x_rawX_ne s w (by simpa using hr)
  · exact ⟨by simp, by simp, by simp, by simp, by simp⟩
  · exact ⟨rfl, rfl, rfl, rfl, rfl, rfl, rfl, rfl, rfl, rfl, rfl, rfl⟩

theorem retire_x (s : State) (r : Reg) : (retire s).x r = s.x r := rfl
theorem retire_v (s : State) (r : Reg) : (retire s).v r = s.v r := rfl

end Sys2Proof.Machine
end

