-- ==== Sys2Proof/Tests/Slice0.lean ====
section
/-! SUPPORT. Words the spec prints and what they decode to, terms that are not well formed, single steps, and for each
statement states that meet its hypotheses. The words are the examples of the rules named. -/
namespace Sys2Proof.Machine.Tests
open Sys2Proof Sys2Proof.Machine
set_option Elab.async false
set_option maxRecDepth 10000
set_option linter.unusedVariables false

/-! ### Words of the spec's examples -/

/-- R91. -/
theorem test_decode_sltn : decodeInstr [0xF894, 0xF915, 0x0428] = some (.sltn 20 9 10) := by decide +kernel
/-- R96. -/
theorem test_decode_shli : decodeInstr [0xFC01, 0xF8A0, 0x3008] = some (.shliShort 16 16 40) := by decide +kernel
/-- R95. -/
theorem test_decode_sext : decodeInstr [0xF850, 0xF911, 0x0944] = some (.sext .h 9 10) := by decide +kernel
/-- R97. -/
theorem test_decode_ldi : decodeInstr [0x43FB] = some (.ldiShort 3 (-5)) := by decide +kernel
/-- R100. -/
theorem test_decode_blt : decodeInstr [0xF850, 0xF922, 0x095A] = some (.blt 9 10 (-6)) := by decide +kernel
/-- R102. -/
theorem test_decode_call : decodeInstr [0xB200] = some (.callShort 512) := by decide +kernel
/-- R102. -/
theorem test_decode_ret : decodeInstr [0xB800] = some (.retShort) := by decide +kernel
/-- R103. -/
theorem test_decode_align : decodeInstr [0xF920, 0x2040] = some (.align 64) := by decide +kernel
/-- R104. -/
theorem test_decode_dly : decodeInstr [0xF921, 0x2003] = some (.dly 3) := by decide +kernel
/-- R105. -/
theorem test_decode_nop : decodeInstr [0xF920, 0x1803] = some (.nop) := by decide +kernel
/-- R248. -/
theorem test_decode_tret : decodeInstr [0xF920, 0x3000] = some (.tret) := by decide +kernel
/-- R249. -/
theorem test_decode_trap : decodeInstr [0xF920, 0x3805] = some (.trap 5) := by decide +kernel
/-- R249. -/
theorem test_decode_brk : decodeInstr [0xF921, 0x3801] = some (.brk 1) := by decide +kernel
/-- R247. -/
theorem test_decode_srr : decodeInstr [0xF920, 0x2B30] = some (.srr 3 0x30) := by decide +kernel
/-- R160. -/
theorem test_decode_ld_d : decodeInstr [0x6388] = some (.ldDShort 3 4 8) := by decide +kernel
/-- R160. -/
theorem test_decode_st_w : decodeInstr [0x7EA4] = some (.stWShort 6 5 4) := by decide +kernel
/-- R160. -/
theorem test_decode_ldx : decodeInstr [0xF930, 0x1396] = some (.ldx .w 3 4 5) := by decide +kernel
/-- R163. -/
theorem test_decode_atom : decodeInstr [0xF930, 0x5397] = some (.atomAdd .d 3 4 5) := by decide +kernel
/-- R164. -/
theorem test_decode_cas : decodeInstr [0xF930, 0x5B97] = some (.cas .d 3 4 5) := by decide +kernel
/-- R166. -/
theorem test_decode_waita : decodeInstr [0xF930, 0x6B97] = some (.waita .d 3 4 5) := by decide +kernel
/-- R203. -/
theorem test_decode_fence : decodeInstr [0xF931, 0x3800] = some (.fence .device) := by decide +kernel
/-- R204. -/
theorem test_decode_ldaq : decodeInstr [0xF934, 0x4383] = some (.ldaq .device .d 3 4) := by decide +kernel
/-- R205. -/
theorem test_decode_strl : decodeInstr [0xF934, 0x4B83] = some (.strl .device .d 3 4) := by decide +kernel
/-- R122. -/
theorem test_decode_vadd : decodeInstr [0xC794] = some (.vaddF32Short 7 4 5 ⟨0, false⟩) := by decide +kernel
/-- R129. -/
theorem test_decode_vred : decodeInstr [0xF940, 0x4780] = some (.vred .sum .f32 7 4 ⟨0, false⟩) := by decide +kernel
/-- R128. -/
theorem test_decode_vsel : decodeInstr [0xF940, 0xFA60, 0x3695] = some (.vsel .f32 6 4 5 ⟨3, false⟩) := by decide +kernel
/-- R132. -/
theorem test_decode_vperm : decodeInstr [0xF950, 0x0CB8] = some (.vperm .f32 4 5 6 ⟨0, false⟩) := by decide +kernel
/-- R132. -/
theorem test_decode_vext : decodeInstr [0xF958, 0x0B97] = some (.vext .i32 3 4 5) := by decide +kernel
/-- R143. -/
theorem test_decode_vframes : decodeInstr [0xF980, 0x2B00] = some (.vframes 3) := by decide +kernel
/-- R139. -/
theorem test_decode_vclaim : decodeInstr [0xF980, 0x2600] = some (.vclaim 6) := by decide +kernel
/-- R342. -/
theorem test_decode_mma : decodeInstr [0xF818, 0xF962, 0x0300] = some (.mma .bf16 3 8 16) := by decide +kernel
/-- R344. -/
theorem test_decode_mdrain : decodeInstr [0xF960, 0x0B96] = some (.mdrainHandle 3 4 5) := by decide +kernel
/-- R348. -/
theorem test_decode_mwait : decodeInstr [0xF960, 0x1382] = some (.mwait 3 4) := by decide +kernel
/-- R294. -/
theorem test_decode_klaunch : decodeInstr [0xF970, 0x1B82] = some (.klaunch 3 4) := by decide +kernel
/-- R275. -/
theorem test_decode_bind : decodeInstr [0xF970, 0x0B95] = some (.bind 3 4 5) := by decide +kernel
/-- R277. -/
theorem test_decode_qr : decodeInstr [0xF970, 0x1341] = some (.qr 3 2) := by decide +kernel
/-- R274. -/
theorem test_decode_inbq : decodeInstr [0xF970, 0x0B80] = some (.inbq 3 4) := by decide +kernel
/-- R252. -/
theorem test_decode_ctxsw : decodeInstr [0xF920, 0x3073] = some (.ctxsw 3 4) := by decide +kernel
/-- R221. -/
theorem test_decode_tlbinv : decodeInstr [0xF930, 0x7094] = some (.tlbinv 4 5) := by decide +kernel
/-- R222. -/
theorem test_decode_pgq : decodeInstr [0xF930, 0x7395] = some (.pgq 3 4 5) := by decide +kernel
/-- R435. -/
theorem test_decode_ared : decodeInstr [0xF9C0, 0x0CB8] = some (.aredSum 4 5 6) := by decide +kernel
/-- R435. -/
theorem test_decode_agath : decodeInstr [0xF884, 0xF9C0, 0x0885] = some (.agath 16 4 9) := by decide +kernel
/-- R414. -/
theorem test_decode_nnstat : decodeInstr [0xF9B0, 0x0B94] = some (.nnstat 3 4 5) := by decide +kernel
/-- R412. -/
theorem test_decode_nncan : decodeInstr [0xF9B0, 0x0382] = some (.nncan 3 4) := by decide +kernel
/-- R425. -/
theorem test_decode_swapq : decodeInstr [0xF9C0, 0x0382] = some (.swapq 3 4) := by decide +kernel

/-! ### Terms that WellFormed refuses -/

theorem test_illformed_imm_of_addi_short : WellFormed (.addiShort 1 1 (2 ^ 44)) = false := by decide
theorem test_illformed_shift_of_64 : WellFormed (.shliShort 1 1 64) = false := by decide
theorem test_illformed_shift_of_64_long : WellFormed (.sari 1 1 64) = false := by decide
theorem test_illformed_imm_of_ldi : WellFormed (.ldiShort 1 (2 ^ 47)) = false := by decide
theorem test_illformed_imm_of_branch : WellFormed (.brShort (2 ^ 50)) = false := by decide
theorem test_illformed_imm_beside_reg : WellFormed (.addi 9 1 (2 ^ 34)) = false := by decide
theorem test_illformed_ldih_range : WellFormed (.ldih 1 (2 ^ 32)) = false := by decide
theorem test_illformed_ldih_range_below : WellFormed (.ldih 1 (-(2 ^ 31) - 1)) = false := by decide
theorem test_illformed_align_0 : WellFormed (.align 0) = false := by decide
theorem test_illformed_align_65536 : WellFormed (.align 65536) = false := by decide
theorem test_illformed_dly_0 : WellFormed (.dly 0) = false := by decide
theorem test_illformed_dly_256 : WellFormed (.dly 256) = false := by decide
theorem test_illformed_sysreg_unlisted : WellFormed (.srr 1 0x007) = false := by decide
theorem test_illformed_sysreg_unlisted_write : WellFormed (.srw 1 0x109) = false := by decide
theorem test_illformed_trap_256 : WellFormed (.trap 256) = false := by decide
theorem test_illformed_brk_256 : WellFormed (.brk 256) = false := by decide
theorem test_illformed_ldf_tag_x0 : WellFormed (.ldfTagged .d 1 0) = false := by decide
theorem test_illformed_pref_hint_3 : WellFormed (.pref 3 1 0) = false := by decide
theorem test_illformed_vadd_of_8_bit_floats : WellFormed (.vadd .e4m3 1 2 3 ⟨0, false⟩) = false := by decide
theorem test_illformed_vdiv_of_integers : WellFormed (.vdiv .i32 1 2 3 ⟨0, false⟩) = false := by decide
theorem test_illformed_vabs_of_unsigned : WellFormed (.vabs .n8 1 2 ⟨0, false⟩) = false := by decide
theorem test_illformed_vand_of_floats : WellFormed (.vand .f32 1 2 3 ⟨0, false⟩) = false := by decide
theorem test_illformed_vdot_of_f32 : WellFormed (.vdot .f32 1 2 3 ⟨0, false⟩) = false := by decide
theorem test_illformed_vperm_of_e2m1 : WellFormed (.vperm .e2m1 1 2 3 ⟨0, false⟩) = false := by decide
theorem test_illformed_agnostic_unmasked : WellFormed (.vmulF32Short 1 2 3 ⟨0, true⟩) = false := by decide
theorem test_illformed_vsel_unmasked : WellFormed (.vsel .f32 1 2 3 ⟨0, false⟩) = false := by decide
theorem test_illformed_vsel_agnostic : WellFormed (.vsel .f32 1 2 3 ⟨1, true⟩) = false := by decide
theorem test_illformed_vld_imm_beside_mask : WellFormed (.vld .f32 9 1 (2 ^ 24) ⟨1, false⟩) = false := by decide
theorem test_illformed_vclaim_empty : WellFormed (.vclaim 0) = false := by decide
theorem test_illformed_vyield_empty : WellFormed (.vyield 0) = false := by decide
theorem test_illformed_vgive_slot_0 : WellFormed (.vgive 1 0) = false := by decide
theorem test_illformed_vgive_slot_4 : WellFormed (.vgive 1 4) = false := by decide
theorem test_illformed_vtake_slot_0 : WellFormed (.vtake 1 0) = false := by decide
theorem test_illformed_vtake_slot_4 : WellFormed (.vtake 1 4) = false := by decide
theorem test_illformed_mma_type : WellFormed (.mma .f32 1 8 16) = false := by decide
theorem test_illformed_mma_group_a : WellFormed (.mma .f16 1 9 16) = false := by decide
theorem test_illformed_mma_group_b : WellFormed (.mma .f16 1 8 17) = false := by decide
theorem test_illformed_mma_same_group : WellFormed (.mma .f16 1 8 8) = false := by decide
theorem test_illformed_join_cont_x0 : WellFormed (.joinCont 1 2 0) = false := by decide
theorem test_illformed_strm_register : WellFormed (.strm 23 1) = false := by decide
theorem test_illformed_strmx_register : WellFormed (.strmx 1 23) = false := by decide
theorem test_illformed_vsxpack_type : WellFormed (.vsxpack .sx3 .i8 1 2) = false := by decide
theorem test_illformed_vsxunpack_type : WellFormed (.vsxunpack .sx3 .i8 1 2) = false := by decide

/-! ### Encodings the decoder refuses -/

/-- R53: a chain that ends without a base word, and a PAGE word twice. -/
theorem test_decode_truncated : decodeInstr [0xF920] = none := by decide
theorem test_decode_two_pages : decodeInstr [0xF920, 0xF920, 0x1803] = none := by decide
/-- R104: n = 0. -/
theorem test_decode_dly_0 : decodeInstr [0xF921, 0x2000] = none := by decide

/-! ### Small states -/

/-- Core 0 of cluster 0, running in monitor mode with no context at the start of its local memory. -/
def mon : State :=
  { State.reset with core := { Core.reset 0 with
      run := .running, pc := localAddr 0 0, issue := { Issue.reset with npc := localAddr 0 4, word := 0x1803, idx := 1 } } }

/-- Words of 64 bits in the local memory of core `n`. -/
def dataOf (s : State) (n off : Nat) (l : List W64) : State :=
  { s with mem := mputs s.mem (cellsAt (localKey n off) (l.flatMap (fun w => bytesOf w.toNat 8))) }

/-- Words of 64 bits in HBM. -/
def hbm (s : State) (a : Nat) (l : List W64) : State :=
  { s with mem := mputs s.mem (cellsAt a (l.flatMap (fun w => bytesOf w.toNat 8))) }

def data (s : State) (off : Nat) (l : List W64) : State := dataOf s 0 off l

/-- Registers x3, x4 and x5. -/
def regs (s : State) (x y z : W64) : State := rawX (rawX (rawX s 3 x) 4 y) 5 z

def status (s : State) (w : W64) : State := s.mapSys (fun r => { r with status := w })

/-- Context 5 is live with ASID 5 and holds cores 0 to 3; its save areas, its message buffer and its tile area lie in HBM. -/
def ctx5 (s : State) : State := hbm s (64 * 5) [0x501, 0x400000000]

/-- Core 0 in task mode of context 5. -/
def task : State := status ((ctx5 mon).mapSys (fun r => { r with asid := 0x505 })) 0

/-- Core 0 in system mode of context 5, and in its bank. -/
def sysm : State := status task 0x4001

/-- A core of context 5 beside core 0. -/
def mate (s : State) (n : Nat) (run : Run) : State :=
  { s with others := tput s.others n { Core.reset n with
      run := run, pc := localAddr n 0, sys := { SysRegs.reset with asid := 0x505, status := 0 } } }

def args (s : State) (a : Nat) (b : Nat := 0) (c : Nat := 0) (f : Bool := false) (w : W64 := 0) (line : W512 := 0) : State :=
  { s with arg := { EvArg.zero with a := a, b := b, c := c, f := f, w := w, line := line } }

def at_ (s : State) (cycle : Nat) : State := { s with cycle := cycle, out := { s.out with time := cycle } }

/-- The next state of an outcome. -/
def nx (s : State) : Host.Outcome State Fault Refusal → State
  | .next t => t
  | _ => s

def isNext : Host.Outcome State Fault Refusal → Bool
  | .next _ => true
  | _ => false

theorem nx_eq {s : State} {o : Host.Outcome State Fault Refusal} (h : isNext o = true) : o = .next (nx s o) := by
  cases o <;> simp_all [isNext, nx]

/-! ### Conditions that evaluation shows -/

theorem noPend_ok {s : State} {r : Reg} (h : s.core.pend = []) : NoPendX s r := by simp [NoPendX, h]
theorem noPendV_ok {s : State} {r : Reg} (h : s.core.pend = []) : NoPendV s r := by simp [NoPendV, h]
theorem quiet_ok {s : State} {r : Reg} (h : s.core.pend = []) : QuietV s r := fun _ _ => noPendV_ok h

theorem windowOk_ok {c : Scalars}
    (h : c.base < 136 ∧ (1 ≤ c.res ∧ c.res ≤ 8) ∧ c.wsp.toNat ≤ 0x10000 ∧ c.wsp.toNat % 128 = 0) : WindowOk c :=
  ⟨h.1, h.2.1, h.2.2⟩

theorem plain_ok {s : State} (h : s.core.wait = none ∧ s.core.run ≠ .idle ∧ partnerOf s s.core.num = none ∧ s.core.sc.base < 136 ∧
    (1 ≤ s.core.sc.res ∧ s.core.sc.res ≤ 8) ∧ s.core.sc.wsp.toNat ≤ 0x10000 ∧ s.core.sc.wsp.toNat % 128 = 0) : Plain s :=
  ⟨h.1, h.2.1, h.2.2.1, windowOk_ok h.2.2.2⟩

/-- Whether an access lies in the own local memory and can be read. -/
def ownAt (s : State) (ea : W64) (n : Nat) : Bool :=
  decide (ea.toNat / 2 ^ 62 = 2) && decide (ea.toNat / 2 ^ 37 % 2 ^ 25 = s.core.num) &&
    decide (ea.toNat / 2 ^ 16 % 2 ^ 21 = 0) && decide (ea.toNat % n = 0) && decide ((getDbg s s.core.pos).wpc = [])

def canRead (s : State) (ea : W64) (n : Nat) : Bool :=
  decide (isPoisoned s (lineKeyOf (ownKey s ea)) = false) && !lateWrite s (dieOf s.core.pos) (lineKeyOf (ownKey s ea)) && decide (overlapsOwn s (ownKey s ea) n = false) &&
    decide (tget s.mu.away (ctxNum s.core * 8192 + s.core.num) = none)

theorem ownAccess_ok {s : State} {ea : W64} {n : Nat} (h : ownAt s ea n = true) : OwnAccess s ea n := by
  simp only [ownAt, Bool.and_eq_true, decide_eq_true_eq] at h
  exact ⟨h.1.1.1.1, h.1.1.1.2, h.1.1.2, h.1.2, h.2⟩

theorem ownReadable_ok {s : State} {ea : W64} {n : Nat} (h : canRead s ea n = true) : OwnReadable s ea n := by
  simp only [canRead, Bool.and_eq_true, decide_eq_true_eq, Bool.not_eq_true'] at h
  exact ⟨h.1.1.1, h.1.1.2, h.1.2, h.2⟩

theorem ownWritable_ok {s : State} {ea : W64} {n : Nat} (h : ownAhead s (ownKey s ea) n = false ∧
    lateWrite s (dieOf s.core.pos) (lineKeyOf (ownKey s ea)) = false) : OwnWritable s ea n := ⟨h.1, h.2⟩

theorem ownBlock_ok {s : State} {ea : W64} {k n : Nat}
    (h : (List.range n).all (fun i => ownAt s (stepAddr ea k i) k && canRead s (stepAddr ea k i) k) = true) :
    OwnBlock s ea k n := fun i hi => by
  have := List.all_eq_true.1 h i (List.mem_range.2 hi)
  rw [Bool.and_eq_true] at this
  exact ⟨ownAccess_ok this.1, ownReadable_ok this.2⟩

theorem ownLines_ok {s : State} {ea : W64} {n : Nat}
    (h : (List.range n).all (fun i => ownAt s (stepAddr ea 64 i) 64) = true) : OwnLines s ea n := fun i hi =>
  ownAccess_ok (List.all_eq_true.1 h i (List.mem_range.2 hi))

theorem settled_ok {s : State} (h : s.core.pend = [] ∧ unacked s s.core.num = [] ∧ s.core.marks = [] ∧
    s.core.peerWindow = none ∧ s.core.ev.ferr = none ∧ s.core.wait = none ∧ partnerOf s s.core.num = none) : Settled s :=
  ⟨h.1, h.2.1, h.2.2.1, h.2.2.2.1, h.2.2.2.2.1, h.2.2.2.2.2.1, h.2.2.2.2.2.2⟩

theorem canSend_ok {s : State} (h : s.core.marks = [] ∧ (unacked s s.core.num).length < 256 ∧ s.core.tagged < 64 ∧
    s.core.mail.mcast = [] ∧ partnerOf s s.core.num = none ∧ s.core.num < nCores) : CanSend s :=
  ⟨h.1, h.2.1, h.2.2.1, h.2.2.2.1, h.2.2.2.2.1, h.2.2.2.2.2⟩

theorem ready_ok {s : State} (h : s.core.wait = none ∧ s.core.pend = [] ∧ s.core.marks = [] ∧
    partnerOf s s.core.num = none) : Ready s := ⟨h.1, h.2.1, h.2.2.1, h.2.2.2⟩

theorem holds0_ok {s : State} {r : Reg} (h : slotOf r = 0) : Holds s r := .inl h

theorem reached_ok {s : State} {ctx n : Nat} (h : (n < nCores ∧ (getCore s n).run ≠ .disabled) ∧
    (inRange s ctx n = true ∨ ctx = 256) ∧ (ctx = 256 ∨ awayOf s ctx n = none)) : Reached s ctx n := ⟨h.1, h.2.1, h.2.2⟩

theorem whole_ok {s : State} {n off k : Nat} (h : s.mu.poison = []) : Whole s n off k := fun i _ => by
  simp [isPoisoned, h, tget]

/-- Whether a packet writes no line. -/
def writesNone (p : Packet) : Bool := p.body.lines.isEmpty

theorem noneLate_ok {s : State} {n : Nat} (h : s.net.all writesNone = true) : NoneLate s n := fun off _ => by
  unfold lateWrite lateIn
  refine List.any_eq_false.2 fun p hp => ?_
  have := List.all_eq_true.1 h p hp
  simp only [writesNone, List.isEmpty_iff] at this
  simp [this]

theorem clean_ok {s : State} {n off k : Nat} (h : s.mu.poison = [] ∧ s.net.all writesNone = true) : Clean s n off k :=
  ⟨whole_ok h.1, noneLate_ok h.2⟩

theorem writesAtOnce_ok {s : State} {d n : Nat} (h : s.net.all writesNone = true ∧ dieOf (getCore s n).pos = d) :
    WritesAtOnce s d n := ⟨noneLate_ok h.1, .inl h.2⟩

theorem takes_ok {s : State} {ctx n cls : Nat} (h : (n < nCores ∧ (getCore s n).num = n) ∧
    ((getCore s n).run ≠ .disabled ∧ (getCore s n).run ≠ .switching) ∧
    (ctx = 256 ∨ (noCtx (getCore s n) = false ∧ curCtx (getCore s n) = ctx)) ∧ overflowOf s (getCore s n) = [] ∧
    (getCore s n).mail.inbox.length < 32 ∧
    (cls = 1 ∨ cls = 3 ∨ ((getCore s n).mail.inbox.filter (fun m => m.cls == 0 || m.cls == 2)).length < 24) ∧
    membersFor s ctx n = [n] ∧ membersFor s (ctxNum (getCore s n)) n = [n] ∧ partnerOf s n = none) : TakesMessage s ctx n cls :=
  ⟨h.1, h.2.1, h.2.2.1, h.2.2.2.1, h.2.2.2.2.1, h.2.2.2.2.2.1, h.2.2.2.2.2.2⟩

theorem ownName_ok {s : State} {name : Nat} (h : name < 2 ^ 16 ∧ ctxNum s.core ≠ 256 ∧
    (getCopy s name (dieOf s.core.pos)).ctx = ctxNum s.core ∧ (getCopy s name (dieOf s.core.pos)).st ≠ .free) :
    OwnName s name := ⟨h.1, h.2.1, h.2.2.1, h.2.2.2⟩

theorem inTime_ok {s : State} {id : Nat} (h : (getBar s id).clock = none) : InTime s id := fun c hc => by
  rw [h] at hc; cases hc

theorem barOk_ok {s : State} {id : Nat} (h : (getBar s id).clock = none ∧ (getBar s id).count ≠ 0 ∧
    (getBar s id).ctx = ctxNum s.core ∧ (getBar s id).broken = false) : BarOk s id :=
  ⟨inTime_ok h.1, h.2.1, h.2.2.1, h.2.2.2⟩

theorem forkOk_ok {xb : W64} (h : xb.toNat / 2 ^ 48 % 2 ^ 15 = 0 ∧ (xb.toNat % 2 ^ 32 ≠ 0 ∧ xb.toNat % 2 = 0 ∧
    (xb.toNat / 2 ^ 31 % 2 = 1 → xb.toNat / 2 ^ 16 % 2 ^ 15 = 0)) ∧
    (xb.toNat / 2 ^ 63 = 1 → xb.toNat / 2 ^ 32 % 2 ^ 3 = 0)) : ForkOk xb := ⟨h.1, h.2.1, h.2.2⟩

/-- All eight windows are resident, and the spill pointer stands at `p`. -/
def full (p : W64) (s : State) : State := s.mapSc (fun c => { c with res := 8, wsp := p })

/-- Two windows are resident. -/
def full2 (s : State) : State := s.mapSc (fun c => { c with res := 2, base := 16 })

/-- A state after a call. -/
def called : State := nx mon (exec (.call 8) mon)

/-- v1, v2 and v3 hold words. -/
def vecs (s : State) : State := vset (vset (vset s 1 0x7FC000003F8000007F800000) 2 0x00000002FFFFFFFE80000000) 3 0xFF

/-- Slots 1 and 3 hold frames 5 and 7 of the quad. -/
def frames (s : State) : State :=
  (s.mapVec (fun v => { v with s1 := .mapped 5, s3 := .mapped 7 })).mapUn (fun u => { u with
    pools := tput u.pools 0 { Pool.fresh with used := [(5, (0, 1)), (7, (0, 3))] } })

def stream1 : Stream :=
  { base := localAddr 0 256, s1 := 64, s2 := 0, s3 := 0, c1 := 4, c2 := 1, c3 := 1, dir := false, i1 := 0, i2 := 0, i3 := 0
    exh := false, count := 0, fetched := [] }

def msg1 : Msg :=
  { handler := 0x100, sender := 3, tag := 9, cls := 0, alen := 0, stime := 77, payload := 0xABCD, src := .core 3
    origin := .plain, clock := Clock.zero, far := false, age := 1, arrived := 80, attaching := false }

def inbox (s : State) (l : List Msg) : State := s.mapMail (fun m => { m with inbox := l })

/-- Queue register q1 bound to a kind of port. -/
def bound (s : State) (kind : Nat) : State :=
  s.mapMail (fun m => { m with q := [(1, { QReg.fresh with kind := kind, res := [5, 6] })] })

def groups (s : State) (l : Tbl Group) : State := s.mapUn (fun u => { u with groups := l })

def waitsFor (s : State) (w : WaitFor) : State := s.mapCore (fun c => { c with wait := some ⟨0, w⟩ })

def barrier3 (s : State) (b : Barrier) : State := s.mapUn (fun u => { u with barriers := [(3, b)] })

theorem tget_of_mem {α : Type} (f : Nat → α) (g : Nat) : ∀ l : List Nat, g ∈ l → tget (l.map (fun k => (k, f k))) g = some (f g)
  | [], h => absurd h (by simp)
  | k :: l, h => by
    by_cases hk : k = g
    · subst hk; simp [tget]
    · simp only [List.map_cons, tget, hk, if_false]
      exact tget_of_mem f g l ((List.mem_cons.1 h).resolve_left (fun e => hk e.symm))


theorem vecOwn_ok {s : State} {ea : Nat → W64} {n : Nat} {p : Nat → Prop} (hp : ∀ k, p k → k < 16)
    (h : (List.range 16).all (fun k => ownAt s (ea k) n && canRead s (ea k) n) = true) :
    ∀ k, p k → OwnAccess s (ea k) n ∧ OwnReadable s (ea k) n := fun k hk => by
  have := List.all_eq_true.1 h k (List.mem_range.2 (hp k hk))
  rw [Bool.and_eq_true] at this
  exact ⟨ownAccess_ok this.1, ownReadable_ok this.2⟩

theorem vecOwnW_ok {s : State} {ea : Nat → W64} {n : Nat} {p : Nat → Prop} (hp : ∀ k, p k → k < 16)
    (h : (List.range 16).all (fun k => ownAt s (ea k) n) = true ∧ s.net = [] ∧ s.mu.parked = []) :
    ∀ k, p k → OwnAccess s (ea k) n ∧ OwnWritable s (ea k) n := fun k hk =>
  ⟨ownAccess_ok (List.all_eq_true.1 h.1 k (List.mem_range.2 (hp k hk))),
    by simp [ownAhead, flying, h.2.1, h.2.2], by simp [lateWrite, lateIn, h.2.1]⟩

theorem notHeld_ok {s : State} {id : Nat} (h : serviceBatch s s.core = none) : NotHeld s id := fun b hb => by
  rw [h] at hb; cases hb

theorem allTaken_ok {s : State} {f : Nat → Group} (h : s.un.groups = (List.range 4096).map (fun k => (k, f k))) :
    ∀ g, g < 4096 → tget s.un.groups g ≠ none := fun g hg => by
  rw [h, tget_of_mem f g _ (List.mem_range.2 hg)]; exact Option.some_ne_none _

theorem canEnd_ok {s : State} (h : Ready s) (h1 : modeOf s.core ≠ 2 ∧ s.core.sys.status.toNat / 2 ^ 14 % 2 = 0 ∧
    s.core.sys.status.toNat / 2 ^ 6 % 2 = 0 ∧ s.core.sc.spillBusy = false ∧ s.core.ev.ferr = none) (h2 : NoTrace s)
    (h3 : s.core.mail.insvc = none ∧ overflowOf s s.core = [] ∧ (getLog s 0).mode = 0) : CanEnd s :=
  ⟨h, h1.1, h1.2.1, h1.2.2.1, h1.2.2.2.1, h1.2.2.2.2, h2, (fun m hm => by rw [h3.1] at hm; cases hm), h3.2.1, h3.2.2⟩

theorem noneAll_ok {α : Type} {o : Option α} {p : α → Prop} (h : o = none) : ∀ g, o = some g → p g := fun g e => by
  rw [h] at e; cases e

/-- The words of a tile record of one chunk: A at 0x400, B at 0x800, drained to 0x1000 of core 0. -/
def tileWords (gang : Bool) : List W64 :=
  [if gang then 0x01000000000000C0 else 0x0100000000000040, 0x0000002000200020, 0x0004800000000400, 0, 0x0004800000000800, 0, 0, 0,
    0x1000000000000000, 0x80, 0, 0, 0, 0, 0, 0]

def rec1 : TileRec :=
  { gen := 1, st := .done, addr := localAddr 0 0x400, words := 0, ctx := 256, asid := 0, core := 0, prio := 0, wait := 0, members := []
    seq := 0, readyAt := 0, placed := [], finished := [], dropped := [], cause := 0, share := 0, faultAddr := 0, extra := false
    barErr := false, cErr := false, flags := 0, chunks := [], scales := 0, endSeq := 0, peerWin := none, released := false }

def recs (s : State) (l : Tbl TileRec) : State := s.mapUn (fun u => { u with recs := l })

def accs (s : State) (l : Tbl Acc) : State := s.mapUn (fun u => { u with accs := l })

def handle (s : State) (h slot : Nat) : State := s.mapCore (fun c => { c with handles := [(h, slot)] })

def item1 : Item := { handler := 0x100, payload := 0xAB, forker := 0, time := 0, kernel := 0x105, counter := none, clock := Clock.zero }

/-- Core 0 runs a message of kernel 0x105. -/
def working (s : State) : State := s.mapMail (fun m => { m with insvc := some { msg1 with origin := .wake 0x105 } })

def kers (s : State) (l : Tbl Kernel) : State := s.mapUn (fun u => { u with kernels := l })

def rep1 : Rep :=
  { Rep.fresh with first := 0, count := 1, wbuf := localAddr 0 0x2000, gacc := localAddr 0 0x3000, nslot := 4, rsz := 1, st := .serving }

def exp1 : Expert := { Expert.fresh with st := .live, ctx := 5, owner := 0, wlen := 64, glen := 64, reps := [rep1] }

/-- Expert 3, as every die shows it. -/
def expert (s : State) (x : Expert) : State :=
  s.mapUn (fun u => { u with experts := [(3, x)], copies := (List.range 4).map (fun d => (copyKey 3 d, x)) })

/-- A descriptor of a graph of one node of 16 elements in stack 0, and a packet that asks for it. -/
def graphWords : List W64 := [0x30010, 1, 0x10000000000, 0, 0, 0, 0, 0, 0, 0, 0, 0, 0, 0, 0, 0]

def packetWords : List W64 := [1, 0x0000010100000000, 1, 0, 0, 0, 0, 0]

def graph0 (s : State) : State :=
  s.mapUn (fun u => { u with nngraphs := [(0, ⟨256, BitVec.ofNat 1024 (packNat 64 (graphWords.map (·.toNat)))⟩)] })

def queries (s : State) (l : Tbl Query) : State := s.mapUn (fun u => { u with queries := l })

theorem collGroup_ok {s : State} {g : Group} {xb : W64} (h : tget s.un.groups (xb.toNat % 2 ^ 12) = some g ∧
    (g.live = true ∧ g.kind = 1 ∧ g.ctx = ctxNum s.core) ∧ s.core.num ∈ g.members ∧ ∀ n ∈ g.members, n < nCores) : CollGroup s g xb :=
  ⟨h.1, h.2.1, h.2.2.1, h.2.2.2⟩

theorem ownTarget_ok {s : State} {t : BitVec 128} (h : targetBad t (dFmt t == 4) 32 = false ∧ dRel t = false ∧ dCore t = s.core.num ∧
    (s.core.num < nCores ∧ s.core.run ≠ .disabled) ∧ (inRange s (ctxNum s.core) s.core.num = true ∨ ctxNum s.core = 256) ∧
    tget s.mu.away (ctxNum s.core * 8192 + s.core.num) = none ∧ drainRowBytes (dFmt t) ≤ dPitch t) : OwnTarget s t :=
  ⟨h.1, h.2.1, h.2.2.1, h.2.2.2.1, h.2.2.2.2.1, h.2.2.2.2.2.1, h.2.2.2.2.2.2⟩

/-- Virtual addresses below 2^31 stand for the same HBM addresses under ASID 5; key 0 is installed. -/
def paged (s : State) : State :=
  let t := hbm (hbm s 0x20000 [0x30001, 0]) 0x30000 [0x3F, 0]
  { t with mu := { t.mu with root := [(5, 0x20001)], ctlb := [(0, [⟨5, 0, 2, 0x3F, 0, false⟩])], keys := [(0, { KeySt.fresh with installed := true })] } }

/-- An entry of the TLB of cluster 0. -/
def ctlbOf (s : State) (pin : Bool) : State := { s with mu := { s.mu with ctlb := [(0, [⟨5, 0, 2, 0x3F, 0, pin⟩])] } }

def runs (s : State) (r : Run) : State := s.mapCore (fun c => { c with run := r })

def pk0 : Packet :=
  { id := 1, src := .core 1, ctx := 256, asid := 0, die := 0, stamp := Clock.zero, sent := 0, window := 0, addr := 0, body := .beat 0
    st := .flying, counted := false, park := none }

/-- One packet is on its way, and the event is about it. -/
def flies (s : State) (p : Packet) : State := args { s with net := [p] } p.id

def pool (s : State) (p : Pool) : State := s.mapUn (fun u => { u with pools := [(0, p)] })

def die0 (s : State) (d : Die) : State := { s with mu := { s.mu with dies := [(0, d)] } }

def stack0 (s : State) (x : Stack) : State := { s with mu := { s.mu with hbm := [(0, x)] } }

def hostOn (s : State) : State := { s with out := { s.out with links := [(24, { Link.fresh with st := .up })] } }

/-- The host reaches the first 2 MB of context 5. -/
def hdm0 (s : State) : State := { s with out := { s.out with hdm := [(0, ⟨0, 0x200000, 0, 0xC000000000000505⟩)] } }

def got {α ε : Type} (d : α) : Except ε α → α
  | .ok x => x
  | .error _ => d

/-- A quad of which core 0 holds every frame while core 1 claims one. -/
def stuck : State :=
  at_ (runs (pool (paged (task.mapVec (fun v => { v with s1 := .mapped 5 })))
    { Pool.fresh with used := (List.range nFrames).map (fun f => (f, (0, 1))), claims := [(1, 2)], stallSince := some 0 }) .idle) 64

theorem oneSlot_ok {v : Vectors} {k : Nat} (h : k = 1 ∧ v.s2 = .unmapped ∧ v.s3 = .unmapped) :
    ∀ j, j ≠ k → ∀ g, v.slot j ≠ .mapped g := fun j hj g => by
  obtain ⟨rfl, h2, h3⟩ := h
  unfold Vectors.slot
  split <;> simp_all

def hostSt : State := args (hdm0 (hostOn (paged (ctx5 mon)))) 0x40000 8 0 false 0x11

theorem getD_eq {α : Type} {o : Option α} {d : α} (h : o.isSome = true) : o = some (o.getD d) := by
  cases o <;> simp_all

def isOk {α ε : Type} : Except ε α → Bool
  | .ok _ => true
  | .error _ => false

theorem got_eq {α ε : Type} {e : Except ε α} {d : α} (h : isOk e = true) : e = .ok (got d e) := by
  cases e <;> simp_all [isOk, got]

theorem pair_eq {α β : Type} (p : α × β) : p = (p.1, p.2) := rfl

theorem triple_eq {α β γ : Type} {p : α × β × Option γ} (h : p.2.2.isNone = true) : p = (p.1, p.2.1, none) := by
  obtain ⟨a, b, c⟩ := p
  cases c <;> simp_all

theorem headers_ok {l : List (BitVec 128)} {n : Nat}
    (h : l.zipIdx.all (fun p => !headerBad { Node.fresh with hdr := p.1 } n p.2 && !layerBad { Node.fresh with hdr := p.1 }) = true) :
    ∀ i w, l[i]? = some w → headerBad { Node.fresh with hdr := w } n i = false ∧ layerBad { Node.fresh with hdr := w } = false :=
  fun i w e => by
    have := List.all_eq_true.1 h (w, i) (List.mk_mem_zipIdx_iff_getElem?.2 e)
    simpa using this

/-- What a command processor finds at queues and entries of a state. -/
def heads (s : State) : State × List Subq := got (s, []) (subqHeads 0 (rungBells (readBells s 0) 0) (readBells s 0))

def ents (s : State) : State × List Entry := got (s, []) (allEntries 0 (heads s).2 (heads s).1)

theorem heads_eq {s : State} (h : isOk (subqHeads 0 (rungBells (readBells s 0) 0) (readBells s 0)) = true) :
    subqHeads 0 (rungBells (readBells s 0) 0) (readBells s 0) = .ok ((heads s).1, (heads s).2) := got_eq h

theorem ents_eq {s : State} (h : isOk (allEntries 0 (heads s).2 (heads s).1) = true) :
    allEntries 0 (heads s).2 (heads s).1 = .ok ((ents s).1, (ents s).2) := got_eq h

/-- The entry that goes first, its queue, and the state in which it is taken. -/
def pickE (s : State) : Entry :=
  (bestBy entryFirst ((ents s).2.filter (fun f => !switchBars (ents s).1 f.ctx f.batch))).getD ⟨0, 0, 0, 0⟩

def pickQ (s : State) : Subq := ((heads s).2.find? (fun p => p.ctx == (pickE s).ctx)).getD ⟨0, 0, ⟨0, 0, 0, 0, 0, 0⟩⟩

def took (s : State) : State := got s (takeEntry (ents s).1 0 (pickQ s) (pickE s))

theorem pickE_eq {s : State}
    (h : (bestBy entryFirst ((ents s).2.filter (fun f => !switchBars (ents s).1 f.ctx f.batch))).isSome = true) :
    bestBy entryFirst ((ents s).2.filter (fun f => !switchBars (ents s).1 f.ctx f.batch)) = some (pickE s) := getD_eq h

theorem pickQ_eq {s : State} (h : ((heads s).2.find? (fun p => p.ctx == (pickE s).ctx)).isSome = true) :
    (heads s).2.find? (fun p => p.ctx == (pickE s).ctx) = some (pickQ s) := getD_eq h

theorem took_eq {s : State} (h : isOk (takeEntry (ents s).1 0 (pickQ s) (pickE s)) = true) :
    takeEntry (ents s).1 0 (pickQ s) (pickE s) = .ok (took s) := got_eq h

/-- The headers read for the first entry. -/
def hdrs (s : State) : State × List (BitVec 128) × Option Nat :=
  got (s, [], none) (readHeaders 0 (pickE s).ctx (pickE s).graph (pickE s).nodes 0 { took s with nextId := (took s).nextId + 1 })

theorem ok3_eq {α β γ ε : Type} {e : Except ε (α × β × Option γ)} {d : α × β × Option γ}
    (h : isOk e = true ∧ (got d e).2.2.isNone = true) : e = .ok ((got d e).1, (got d e).2.1, none) := by
  rw [got_eq (d := d) h.1]
  exact congrArg Except.ok (triple_eq h.2)

/-- The doorbell of context 5 rings: the state in which the queue's header is read, and what that read gives. -/
def rung : State := args (hostOn (paged (ctx5 mon))) 5

def rungW : State :=
  let u := raiseFloor rung (subqCp rung 5) (chipClock rung)
  { u with un := { u.un with doorbells := u.un.doorbells ++ [⟨5, 0, subqAddr rung 5, subqCp rung 5, none⟩] } }

def rungR : State × List Byte := got (rungW, []) (vaRead rungW (subqCp rung 5 * 32) 5 (subqAddr rung 5) 64)

def restored (s : State) : State := got s (restoreImage 5 0 (focus s 0))

def imageIn (s : State) : State × Image := got (s, ⟨0, 0, 0, false⟩) (imageOf (focus s 0) 5 0)
theorem imageIn_eq {s : State} (h : isOk (imageOf (focus s 0) 5 0) = true) :
    imageOf (focus s 0) 5 0 = .ok ((imageIn s).1, (imageIn s).2) := got_eq h

theorem hdrs_eq {s : State}
    (h : isOk (readHeaders 0 (pickE s).ctx (pickE s).graph (pickE s).nodes 0 { took s with nextId := (took s).nextId + 1 }) = true ∧
      (hdrs s).2.2.isNone = true) :
    readHeaders 0 (pickE s).ctx (pickE s).graph (pickE s).nodes 0 { took s with nextId := (took s).nextId + 1 } =
      .ok ((hdrs s).1, (hdrs s).2.1, none) := ok3_eq (d := (s, [], none)) h

/-- Whether a packet is no message that reached a core before one of an age. -/
def notBefore (n age : Nat) (q : Packet) : Bool :=
  match q.body with
  | .msg k m _ => k != n || m.age == 0 || (age != 0 && decide (age ≤ m.age))
  | _ => true

theorem first_ok {s : State} {n age : Nat} (h : s.net.all (notBefore n age) = true) : FirstToArrive s n age :=
  fun q hq m att e => by
    have := List.all_eq_true.1 h q hq
    simp only [notBefore, e] at this
    simp at this
    omega

theorem ctlb_ok {s : State} {p : List TlbEnt → Prop} {l : List TlbEnt} (h : s.mu.ctlb = [(0, l)]) (h0 : p []) (h1 : p l) :
    ∀ cl, p (getCtlb s cl) := fun cl => by
  unfold getCtlb
  rw [h]
  by_cases hc : (0 : Nat) = cl
  · simpa [tgetD, tget, hc] using h1
  · simpa [tgetD, tget, hc] using h0

def readOf (s : State) : EngRead → State × List Byte
  | .got t l _ => (t, l)
  | _ => (s, [])

def isRead : EngRead → Bool
  | .got _ _ false => true
  | _ => false

theorem read_eq {s : State} {e : EngRead} (h : isRead e = true) : e = .got (readOf s e).1 (readOf s e).2 false := by
  cases e with
  | got t l b => cases b <;> first | rfl | cases h
  | fails c => cases h
  | violates => cases h
  | waits t => cases h

def predOf (s : State) : Pred → State
  | .is t _ => t
  | _ => s

theorem pred_eq {s : State} {p : Pred} (h : (match p with | .is _ b => b | _ => false) = true) : p = .is (predOf s p) true := by
  cases p <;> simp_all [predOf]

def inrOf {α β : Type} (d : β) : α ⊕ β → β
  | .inr x => x
  | .inl _ => d

theorem inr_eq {α β : Type} {e : α ⊕ β} {d : β} (h : e.isRight = true) : e = .inr (inrOf d e) := by
  cases e <;> simp_all [inrOf]

def doneOf (s : State) : DrainEnd → State × Flags
  | .done t fl => (t, fl)
  | _ => (s, 0)

def isDone : DrainEnd → Bool
  | .done _ _ => true
  | _ => false

theorem done_eq {s : State} {e : DrainEnd} (h : isDone e = true) : e = .done (doneOf s e).1 (doneOf s e).2 := by
  cases e <;> simp_all [isDone, doneOf]

def switching (s : State) (j : SwJob) : State := runs (s.mapCore (fun c => { c with job := some j })) .switching

def log0 (s : State) (l : LogSt) : State := { s with out := { s.out with logs := [(0, l)] } }

def dbg0 (s : State) (d : Dbg) : State := { s with out := { s.out with dbg := [(0, d)] } }

/-- The queue of context 5 at 0x50000 holds one entry, which a doorbell covers. -/
def submitted (s : State) (entry : List W64) : State :=
  hbm (hbm (hbm (s.mapUn (fun u => { u with doorbells := [⟨5, 0, 0x50000, 0, some 1⟩] })) (64 * 5 + 0x38) [0x50000]) 0x50000 [1, 0x0000000100000010])
    0x50040 entry

def graphOf (nodes : Tbl Node) : Graph :=
  { ctx := 5, cp := 0, prio := 3, batch := 0, addr := 0x60000, status := localAddr 0 0x80, nodes := nodes, ended := none, top := 0
    doneTop := 0, alone := false }

def graph9 (s : State) (x : Graph) : State := s.mapUn (fun u => { u with graphs := [(9, x)] })

/-- A graph whose submission entry is malformed, and one of one kernel node without successors. -/
def badEntry : State := submitted (paged task) [0x60001, 1, 0x80, 0]

def goodEntry : State := hbm (submitted (paged task) [0x60000, 1, 0x80, 0]) 0x60000 [0, 0x0000FFFFFFFF0000]

def kernelNode : Node := { Node.fresh with st := .ready, hdr := 0x0000FFFFFFFF00000000000000000000 }

def nodeReady : State :=
  hbm (graph9 (paged task) (graphOf [(0, kernelNode)])) 0x60010 [0x100, 2, 0]

/-- A node of a kind that runs and has node 1 as its successor. -/
def runningNode (kind job : Nat) : Node :=
  { Node.fresh with st := .running, hdr := BitVec.ofNat 128 (kind + 0x100 + 2 ^ 32 + 0xFFFFFFFF * 2 ^ 80), job := job }

def waitingNode : Node := { Node.fresh with hdr := 0x0000FFFFFFFF00000000000000010000, waits := 1 }

def twoNodes (n : Node) : Graph := graphOf [(0, n), (1, waitingNode)]

def recW (k : Nat) : BitVec 1024 :=
  BitVec.ofNat 1024 (packNat 64 [0x0100000000000040, 0x200020 + k * 2 ^ 32, 0x0008800000000400, 0, 0x0004800000000800, 0, 0, 0, 0x1000000000000000,
    0x80, 0, 0, 0, 0, 0, 0])

/-- A record of context 5 in entry 0 of cluster 0. -/
def recIn (st : RecSt) (k : Nat) : TileRec := { rec1 with st := st, words := recW k, ctx := 5, asid := 5 }

def accIn (st : AccSt) : Acc := { Acc.fresh with st := st, owner := 0x400, ctx := 5, target := BitVec.ofNat 128 (0x1000000000000000 + 0x80 * 2 ^ 64) }

def chunked (k : Nat) : State :=
  (accs (recs task [(0, recIn .running k)]) [(0, accIn .busy)]).mapUn (fun u => { u with
    engines := [(0, { Engine.fresh with run := some 0, input := some 0 })] })

def chunkOf (s : State) (k : Nat) :=
  inrOf (s, [], [], none, none) (chunkOperands s 0 (recIn .running k) (getAcc s 0 0).sub (getAcc s 0 0).chunk)


def drained : State := accs (recs task [(0, { recIn .running 32 with finished := [0] })]) [(0, accIn .draining)]

def xfer0 (s : State) (x : Xfer) : State := s.mapUn (fun u => { u with xfers := [(0, x)] })

/-- A copy of 256 bytes from offset 0x800 to 0x1000 of core 0, with a flag of FLG and FLAG. -/
def copy256 (flag : Bool) : BitVec 384 :=
  BitVec.ofNat 384 (packNat 64 [(localAddr 0 0x800).toNat, (localAddr 0 0x1000).toNat, 256, if flag then 0x100 else 0,
    if flag then (localAddr 0 0x40).toNat else 0, 7])

def copying (flag : Bool) (done : Nat) : Xfer :=
  { Xfer.fresh with gen := 1, st := .running, block := copy256 flag, forWhom := .core 0 1, ctx := 5, asid := 5, doneB := done }

/-- A gather of rows of 64 bytes from offset 0x1000 of cores 0 on, two a core, to offset 0x2000 of core 0. -/
def gathering : Xfer :=
  { copying false 0 with kind := 1, rows := [1], block := BitVec.ofNat 384 (packNat 64
      [(localAddr 0 0x3000).toNat, (localAddr 0 0x2000).toNat, 0x10001, 0x0002100000000000, 0, 0]) }

theorem localCopy_ok {s : State} {cl slot m so n d : Nat} (h : ((getXfer s cl slot).st = .running ∧ (getXfer s cl slot).kind = 0 ∧
      copierFrozen s cl = false) ∧ (bSrc (getXfer s cl slot).block = localAddr m so ∧ bDst (getXfer s cl slot).block = localAddr n d))
    (h1 : Reached s (getXfer s cl slot).ctx m ∧ Reached s (getXfer s cl slot).ctx n)
    (h2 : so + bLen (getXfer s cl slot).block ≤ 2 ^ 16 ∧ d + bLen (getXfer s cl slot).block ≤ 2 ^ 16 ∧ (s.mu.poison = [] ∧ s.net.all writesNone = true) ∧ s.mu.excl = []) :
    LocalCopy s cl slot m so n d :=
  ⟨h.1, h.2, ⟨h1.1, h2.1⟩, ⟨h1.2, h2.2.1⟩, clean_ok h2.2.2.1, h2.2.2.2⟩

theorem inr5_eq {α β γ δ ε ζ : Type} {e : α ⊕ (β × γ × δ × ε × ζ)} {d : β × γ × δ × ε × ζ} (h : e.isRight = true) :
    e = .inr ((inrOf d e).1, (inrOf d e).2.1, (inrOf d e).2.2.1, (inrOf d e).2.2.2.1, (inrOf d e).2.2.2.2) := by
  cases e <;> simp_all [inrOf]

theorem chunk_eq {s : State} {k : Nat}
    (h : (chunkOperands s 0 (recIn .running k) (getAcc s 0 0).sub (getAcc s 0 0).chunk).isRight = true) :
    chunkOperands s 0 (recIn .running k) (getAcc s 0 0).sub (getAcc s 0 0).chunk =
      .inr ((chunkOf s k).1, (chunkOf s k).2.1, (chunkOf s k).2.2.1, (chunkOf s k).2.2.2.1, (chunkOf s k).2.2.2.2) := by
  unfold chunkOf; exact inr5_eq h

/-- The block of an expert of context 5 with one replica that serves, at 0x70000. -/
def exBlock : List W64 :=
  [0x0000000500000000, 0, 64, 64, 0x0000020000000100, 0, 0, 0, 0x8000000100000000, 0x80000, 0x90000, 0x0000000400014000]

def resv1 : Resv :=
  { id := 1, name := 3, core := 0, ctx := 5, word := 0, asked := [0], at_ := 0, ws := 0, q := none, ticket := 1, granted := none, die := 0 }

def resvs (s : State) (v : Resv) : State := args (s.mapUn (fun u => { u with resvs := [v] })) 1

def pulled : State := resvs (waitsFor (expert task { exp1 with reps := [{ rep1 with slots := [(2, false)] }] }) (.route 1)) { resv1 with granted := some (0, 2) }

def rowOf : State × Row := (pullRow pulled 5 0 0 0).getD (pulled, ⟨[], [], none⟩)

def rep0 (s : State) (r : Rep) : State := args (expert s { exp1 with reps := [r] }) 3 0

def noRep : List Nat → Nat → Bool
  | [], _ => true
  | x :: r, m => !m.testBit x && noRep r (m ||| 1 <<< x)

theorem noRep_ok : ∀ (l : List Nat) (m : Nat), noRep l m = true → l.Nodup ∧ ∀ x ∈ l, m.testBit x = false
  | [], _, _ => ⟨.nil, fun _ h => by cases h⟩
  | x :: r, m, h => by
    simp only [noRep, Bool.and_eq_true, Bool.not_eq_true'] at h
    have ⟨hn, hm⟩ := noRep_ok r _ h.2
    have key : ∀ y ∈ r, m.testBit y = false ∧ y ≠ x := fun y hy => by
      have := hm y hy
      rw [Nat.testBit_or, Bool.or_eq_false_iff, Nat.one_shiftLeft, Nat.testBit_two_pow] at this
      exact ⟨this.1, fun e => by simp [e] at this⟩
    refine ⟨List.nodup_cons.2 ⟨fun hx => (key x hx).2 rfl, hn⟩, fun y hy => ?_⟩
    rcases List.mem_cons.1 hy with rfl | hy
    · exact h.1
    · exact (key y hy).1

theorem nodup_ok {l : List Nat} (h : noRep l 0 = true) : l.Nodup := (noRep_ok l 0 h).1

theorem numbered_ok {s : State} (h : s.others = []) : NumberedCores s := fun n => by
  unfold getCore
  split
  · rename_i e; exact e.symm
  · rw [h]; rfl

/-- A query of context 5 in slot 0 whose packet lies at 0x400 of core 0, with its results at 0x600. -/
def query1 : Query :=
  { Query.fresh with
    gen := 1, ctx := 5, asid := 5, pkt := localAddr 0 0x400, vecWords := [0]
    hdr := BitVec.ofNat 512 (packNat 64 [1, 0x0000010100000000, 1, (localAddr 0 0x600).toNat]) }

def asks (s : State) (q : Query) : State :=
  s.mapUn (fun u => { u with
    queries := [(0, q)], nngraphs := [(0, ⟨5, BitVec.ofNat 1024 (packNat 64 (graphWords.map (·.toNat)))⟩)] })

def batchSt : State :=
  args ((asks task { query1 with st := .running, inHop := true, visited := [0], hop := [(0, none)] }).mapUn (fun u => { u with
    batches := [⟨1, 0, 0, [0], false⟩] })) 1

def measured : State × List (BitVec 32 × Option (BitVec 32)) :=
  measureAll (descOf batchSt (hGraph (getQuery batchSt 0).hdr)) (getQuery batchSt 0) [0] batchSt

def distances : List (BitVec 32 × BitVec 32) := measured.2.map (fun e => (e.1, e.2.getD 0))

def link2 (s : State) (x : Link) (b c : Nat) : State := args { s with out := { s.out with links := [(2, x)], peerauth := 2 } } 2 b c

def linkUp : Link := { Link.fresh with st := .up, peer := 1 }

def flit2 : Flit :=
  { link := 2, chip := 1, window := 0, late := false, addr := 0, bytes := 8, write := false, data := 0, msg := some msg1, dest := 0, kid := 0, told := false, ask := none }

def flitIn (s : State) (f : Flit) : State := { s with out := { s.out with linkIn := [f] } }

def coll7 : Coll := { Coll.fresh with id := 7, tag := 1, members := [0, 1], contribs := [(0, 5), (1, 6)] }

def colls (s : State) (x : Coll) : State := args { s with out := { s.out with colls := [x] } } 7

theorem atIssue_ok {s : State} (h : s.agenda = [] ∧ (s.core.run = .running ∧ s.core.wait = none) ∧
    (nextInt s = none ∧ s.core.ev.pend0B = []) ∧ (s.core.pend = [] ∧ s.core.locks = []) ∧
    s.core.divUntil ≤ s.cycle ∧ s.core.vec.streams = [] ∧ (s.core.fbuf = none ∧ s.core.rreg = none ∧ s.core.freq = none) ∧ s.core.ev.point = none) (h1 : Unpaired s) : AtIssue s :=
  ⟨h.1, h.2.1, h.2.2.1, h.2.2.2.1, h.2.2.2.2.1, h.2.2.2.2.2.1, h.2.2.2.2.2.2.1, h.2.2.2.2.2.2.2, h1⟩

/-- Core 0's slot 1 is evicted, and its reload is at the head of its quad's queue. -/
def reloadSt : State := args (pool (paged (task.mapVec (fun v => { v with s1 := .evicted }))) { Pool.fresh with reloads := [.slots 0] }) 0
/-- What the reload reads. -/
def reloadR : Except State (State × List Byte) :=
  ctxRead (putPool reloadSt 0 { getPool reloadSt 0 with reloads := [] }) 0
    (slotImage (putPool reloadSt 0 { getPool reloadSt 0 with reloads := [] }) 0 1) 512
theorem reloadR_ok : reloadR = .ok ((got (mon, []) reloadR).1, (got (mon, []) reloadR).2) :=
  (got_eq (e := reloadR) (d := (mon, [])) (by decide +kernel)).trans (congrArg Except.ok (pair_eq _))

theorem rungR_ok : vaRead rungW (subqCp rung 5 * 32) 5 (subqAddr rung 5) 64 = .ok (rungR.1, rungR.2) :=
  (got_eq (d := (rungW, [])) (by decide +kernel)).trans (congrArg Except.ok (pair_eq _))

theorem rowOf_ok : pullRow pulled 5 0 0 0 = some (rowOf.1, rowOf.2) :=
  (getD_eq (d := (pulled, ⟨[], [], none⟩)) (by decide +kernel)).trans (congrArg some (pair_eq _))

/-! ### Single steps with results worked out from the rules -/

def after (i : Instr) (s : State) : State := nx s (exec i s)

/-- R90: the sum wraps modulo 2^64. -/
theorem test_add_wraps : (after (.add 3 4 5) (regs mon 0 0xFFFFFFFFFFFFFFFF 3)).x 3 = 2 := by decide +kernel

/-- R83: x0 reads zero and a write to it is lost. -/
theorem test_add_to_x0 : (after (.add 0 4 5) (regs mon 0 7 9)).x 0 = 0 := by decide +kernel

/-- R93: the quotient truncates toward zero. -/
theorem test_div_truncates : divS (-7) 2 = -3 := by decide +kernel

/-- R93: the remainder has the sign of the dividend. -/
theorem test_rem_sign : remS (-7) 2 = -1 := by decide +kernel

/-- R92: the upper half of a signed product; it lands in the third cycle after issue. -/
theorem test_mulh_lands : xAt (after (.mulh 3 4 5) (regs mon 0 (-1) 1)) 3 3 = 0xFFFFFFFFFFFFFFFF ∧
    xAt (after (.mulh 3 4 5) (regs mon 0 (-1) 1)) 2 3 = 0 := by decide +kernel

/-- R100: a taken branch goes to pc + 2 x imm. -/
theorem test_beq_back : (after (.beq 3 4 (-2)) { regs mon 7 7 0 with core := { (regs mon 7 7 0).core with pc := localAddr 0 64 } }).core.pc =
    localAddr 0 60 := by decide +kernel

/-- R157, R158: a store puts the low byte first. -/
theorem test_store_bytes : mread (after (.st .d 5 4 0) (regs mon 0 (localAddr 0 64) 0x8070605040302010)).mem (localKey 0 64) 8 =
    [0x10, 0x20, 0x30, 0x40, 0x50, 0x60, 0x70, 0x80] := by decide +kernel

/-- R84, R102: the caller's x24 is the callee's x8. -/
theorem test_call_window : (after (.call 8) (rawX mon 24 77)).x 8 = 77 := by decide +kernel

/-- R230 to R232: TRAP in task mode enters system mode and saves the next instruction. -/
theorem test_trap_enters : modeOf (after (.trap 9) task).core = 1 ∧ (after (.trap 9) task).core.sys.epc = task.core.issue.npc := by
  decide +kernel

/-- R106, R124: an integer sum of a vector wraps in each element. -/
theorem test_vadd_wraps : elem (vAt (after (.vadd .i8 4 1 2 ⟨0, false⟩) (vset (vset mon 1 0x01FF) 2 0x0102)) 8 4) 8 0 = 1 ∧
    elem (vAt (after (.vadd .i8 4 1 2 ⟨0, false⟩) (vset (vset mon 1 0x01FF) 2 0x0102)) 8 4) 8 1 = 2 := by decide +kernel

/-- R25, R124: 1 + 2 is 3 in FP32. -/
theorem test_vadd_f32 : elem (vAt (after (.vadd .f32 4 1 2 ⟨0, false⟩) (vset (vset mon 1 0x3F800000) 2 0x40000000)) 8 4) 32 0 =
    0x40400000 := by decide +kernel

/-! ### States that meet the hypotheses of each statement -/

theorem test_meets_ScalarResultAndFrame_0 : ∃ (i : Instr) (d : Reg) (w : W64) (s : State), scalarOneCycle s i = some (d, w) ∧ NoPendX s d :=
  ⟨.add 3 4 5, 3, _, regs mon 0 7 9, rfl, (noPend_ok (by decide +kernel))⟩

theorem test_meets_ProductLandsInThreeCycles_0 : ∃ (i : Instr) (d : Reg) (w : W64) (s : State), product s i = some (d, w) ∧ NoPendX s d :=
  ⟨.mulh 3 4 5, 3, _, regs mon 0 7 9, rfl, (noPend_ok (by decide +kernel))⟩

theorem test_meets_DivisionResultAndFrame_0 : ∃ (i : Instr) (d : Reg) (w : W64) (s : State), quotient s i = some (d, w) ∧ NoPendX s d :=
  ⟨.div 3 4 5, 3, _, regs mon 0 7 0, rfl, (noPend_ok (by decide +kernel))⟩

theorem test_meets_DivisionResultAndFrame_0a : ∃ (i : Instr) (d : Reg) (w : W64) (s : State), quotient s i = some (d, w) ∧ NoPendX s d :=
  ⟨.rem 3 4 5, 3, _, regs mon 0 0x8000000000000000 0xFFFFFFFFFFFFFFFF, rfl, (noPend_ok (by decide +kernel))⟩

theorem test_meets_BranchesAndAlign_0 : ∃ a : Reg, a.toNat < 8 :=
  ⟨0, (by decide +kernel)⟩

theorem test_meets_BranchesAndAlign_0a : ∃ a : Reg, a.toNat < 8 :=
  ⟨7, (by decide +kernel)⟩

theorem test_meets_BranchesAndAlign_1 : ∃ d a b : Nat, d < 8 ∧ a < 8 ∧ b < 8 ∧ (d ≠ 0 ∨ b ≠ 0) :=
  ⟨1, 0, 0, (by decide +kernel), (by decide +kernel), (by decide +kernel), (by decide +kernel)⟩

theorem test_meets_BranchesAndAlign_2 : ∃ (a : Reg) (s : State), (s.x a).toNat % 2 = 1 ∧ Plain s ∧ SpillFits s.core.sc ∧ (modeOf s.core = 0 ∨ (modeOf s.core = 1 ∧ s.core.sys.status.toNat / 2 ^ 14 % 2 = 0)) :=
  ⟨3, regs task 65 0 0, (by decide +kernel), (plain_ok (by decide +kernel)), (by unfold SpillFits; decide +kernel), (by decide +kernel)⟩

theorem test_meets_BranchesAndAlign_2a : ∃ (a : Reg) (s : State), (s.x a).toNat % 2 = 1 ∧ Plain s ∧ SpillFits s.core.sc ∧ (modeOf s.core = 0 ∨ (modeOf s.core = 1 ∧ s.core.sys.status.toNat / 2 ^ 14 % 2 = 0)) :=
  ⟨3, status (regs task 65 0 0) 1, (by decide +kernel), (plain_ok (by decide +kernel)), (by unfold SpillFits; decide +kernel), (by decide +kernel)⟩

theorem test_meets_BranchesAndAlign_3 : ∃ (a : Reg) (s : State), (s.x a).toNat % 2 = 1 ∧ Plain s ∧ SpillFits s.core.sc ∧ modeOf s.core = 1 ∧ s.core.sys.status.toNat / 2 ^ 14 % 2 = 1 :=
  ⟨3, regs sysm 65 0 0, (by decide +kernel), (plain_ok (by decide +kernel)), (by unfold SpillFits; decide +kernel), (by decide +kernel), (by decide +kernel)⟩

theorem test_meets_BranchesAndAlign_4 : ∃ (a : Reg) (s : State), (s.x a).toNat % 2 = 1 ∧ Plain s ∧ SpillFits s.core.sc ∧ modeOf s.core = 2 ∧ s.core.sys.status.toNat / 2 ^ 15 % 2 = 0 :=
  ⟨3, regs mon 65 0 0, (by decide +kernel), (plain_ok (by decide +kernel)), (by unfold SpillFits; decide +kernel), (by decide +kernel), (by decide +kernel)⟩

theorem test_meets_BranchesAndAlign_5 : ∃ (i : Instr) (taken : Bool) (imm : W64) (s : State), takenBranch s i = some (taken, imm) :=
  ⟨.beq 3 4 (-2), true, _, regs mon 7 7 0, rfl⟩

theorem test_meets_BranchesAndAlign_5a : ∃ (i : Instr) (taken : Bool) (imm : W64) (s : State), takenBranch s i = some (taken, imm) :=
  ⟨.bz 3 6, false, _, regs mon 7 7 0, rfl⟩

theorem test_meets_BranchesAndAlign_6 : ∃ (a : Reg) (s : State), (s.x a).toNat % 2 = 0 :=
  ⟨4, regs mon 0 64 0, (by decide +kernel)⟩

theorem test_meets_BranchesAndAlign_7 : ∃ (imm : W64) (s : State), s.core.pc.toNat / 2 ^ 62 = 2 :=
  ⟨3, mon, (by decide +kernel)⟩

theorem test_meets_NopAndDelay_0 : ∃ n : Nat, 1 ≤ n ∧ n ≤ 255 :=
  ⟨1, (by decide +kernel), (by decide +kernel)⟩

theorem test_meets_NopAndDelay_0a : ∃ n : Nat, 1 ≤ n ∧ n ≤ 255 :=
  ⟨255, (by decide +kernel), (by decide +kernel)⟩

theorem test_meets_NopAndDelay_1 : ∃ d n : Nat, 1 ≤ d ∧ d ≤ 7 ∧ n ≤ 255 :=
  ⟨1, 0, (by decide +kernel), (by decide +kernel), (by decide +kernel)⟩

theorem test_meets_NopAndDelay_1a : ∃ d n : Nat, 1 ≤ d ∧ d ≤ 7 ∧ n ≤ 255 :=
  ⟨7, 255, (by decide +kernel), (by decide +kernel), (by decide +kernel)⟩

theorem test_meets_NopAndDelay_2 : ∃ (ws : List W16) (n : W64), decodeInstr ws = some (.dly n) :=
  ⟨[0xF921, 0x2001], 1, (by decide +kernel)⟩

theorem test_meets_NopAndDelay_3 : ∃ (n : W64) (s : State), 1 ≤ n.toNat ∧ n.toNat ≤ 255 :=
  ⟨1, mon, (by decide +kernel), (by decide +kernel)⟩

theorem test_meets_NopAndDelay_3a : ∃ (n : W64) (s : State), 1 ≤ n.toNat ∧ n.toNat ≤ 255 :=
  ⟨255, mon, (by decide +kernel), (by decide +kernel)⟩

theorem test_meets_NopAndDelay_4 : ∃ k : Nat, 1 ≤ k ∧ k ≤ 7 :=
  ⟨1, (by decide +kernel), (by decide +kernel)⟩

theorem test_meets_NopAndDelay_4a : ∃ k : Nat, 1 ≤ k ∧ k ≤ 7 :=
  ⟨7, (by decide +kernel), (by decide +kernel)⟩

theorem test_meets_NopAndDelay_5 : ∃ d a b : Nat, d < 8 ∧ a < 8 ∧ b < 8 ∧ (d ≠ 0 ∨ a ≠ 0 ∨ b ≠ 0) :=
  ⟨1, 0, 0, (by decide +kernel), (by decide +kernel), (by decide +kernel), (by decide +kernel)⟩

theorem test_meets_NopAndDelay_5a : ∃ d a b : Nat, d < 8 ∧ a < 8 ∧ b < 8 ∧ (d ≠ 0 ∨ a ≠ 0 ∨ b ≠ 0) :=
  ⟨0, 0, 7, (by decide +kernel), (by decide +kernel), (by decide +kernel), (by decide +kernel)⟩

theorem test_meets_CallOpensWindow_0 : ∃ (i : Instr) (target : W64) (s : State), callTarget s i = some target ∧ (∀ a, i = .callr a → target.toNat % 2 = 0) ∧ Plain s ∧ SpillFits s.core.sc ∧ (s.core.sc.res = 8 → s.core.sc.spillBusy = false) ∧ NoTrace s :=
  ⟨.call 8, _, mon, rfl, (fun a h => by cases h), (plain_ok (by decide +kernel)), (by unfold SpillFits; decide +kernel), (by decide +kernel), (by unfold NoTrace; decide +kernel)⟩

theorem test_meets_CallOpensWindow_0a : ∃ (i : Instr) (target : W64) (s : State), callTarget s i = some target ∧ (∀ a, i = .callr a → target.toNat % 2 = 0) ∧ Plain s ∧ SpillFits s.core.sc ∧ (s.core.sc.res = 8 → s.core.sc.spillBusy = false) ∧ NoTrace s :=
  ⟨.callr 4, _, full 0x8000 (regs mon 0 64 0), rfl, (fun a h => by decide +kernel), (plain_ok (by decide +kernel)), (by unfold SpillFits; decide +kernel), (by decide +kernel), (by unfold NoTrace; decide +kernel)⟩

theorem test_meets_ReturnClosesOrReloadsWindow_0 : ∃ (i : Instr) (s : State), (i = .ret ∨ i = .retShort) ∧ Plain s ∧ WindowBelow s ∧ ((landAll s).x 15).toNat % 2 = 0 :=
  ⟨.ret, called, (by decide +kernel), (plain_ok (by decide +kernel)), (by unfold WindowBelow; decide +kernel), (by decide +kernel)⟩

theorem test_meets_ReturnClosesOrReloadsWindow_0a : ∃ (i : Instr) (s : State), (i = .ret ∨ i = .retShort) ∧ Plain s ∧ WindowBelow s ∧ ((landAll s).x 15).toNat % 2 = 0 :=
  ⟨.retShort, { mon with core := { mon.core with sc := { mon.core.sc with spilled := 1, wsp := 0xFF80 } } }, (by decide +kernel), (plain_ok (by decide +kernel)), (by unfold WindowBelow; decide +kernel), (by decide +kernel)⟩

theorem test_meets_ReturnAfterCallRestoresCaller_0 : ∃ (imm : W64) (s t u : State), Plain s ∧ s.core.pend = [] ∧ SpillFits s.core.sc ∧ s.core.sc.spillBusy = false ∧ s.core.issue.npc.toNat % 2 = 0 ∧ exec (.call imm) s = .next t ∧ exec .ret t = .next u :=
  ⟨8, mon, _, _, (plain_ok (by decide +kernel)), (by decide +kernel), (by unfold SpillFits; decide +kernel), (by decide +kernel), (by decide +kernel), (nx_eq (s := mon) (by decide +kernel)), (nx_eq (s := mon) (by decide +kernel))⟩

theorem test_meets_SystemRegisterRead_0 : ∃ (d : Reg) (imm : W64) (s : State), sysAccess imm.toNat (modeOf s.core) ≠ .none ∧ NoPendX s d :=
  ⟨3, 1, mon, (by decide +kernel), (noPend_ok (by decide +kernel))⟩

theorem test_meets_SystemRegisterWrite_0 : ∃ (i : Instr) (n : Nat) (w v : W64) (s : State), sysNumber i = some n ∧ sysAccess n (modeOf s.core) = .both ∧ (let u := atSysAccess s n; formedWord u n i = some w ∧ writtenWord u n w = some v ∧ (n = 0 → modeOf s.core = 0 → (w ^^^ s.core.sys.status) &&& 0xCE00#64 = 0) ∧ (n = 0x040 ∨ n = 0x041 → s.core.sc.spilled = 0) ∧ (0x060 ≤ n → n ≤ 0x067 → (getQ s.core (n - 0x060)).cmd = [])) :=
  ⟨.srw 3 4, 4, _, _, regs mon 0x2001 0 0, rfl, (by decide +kernel), rfl, rfl, (by decide +kernel), (by decide +kernel), (by decide +kernel)⟩

theorem test_meets_SystemRegisterWrite_0a : ∃ (i : Instr) (n : Nat) (w v : W64) (s : State), sysNumber i = some n ∧ sysAccess n (modeOf s.core) = .both ∧ (let u := atSysAccess s n; formedWord u n i = some w ∧ writtenWord u n w = some v ∧ (n = 0 → modeOf s.core = 0 → (w ^^^ s.core.sys.status) &&& 0xCE00#64 = 0) ∧ (n = 0x040 ∨ n = 0x041 → s.core.sc.spilled = 0) ∧ (0x060 ≤ n → n ≤ 0x067 → (getQ s.core (n - 0x060)).cmd = [])) :=
  ⟨.srw 3 0, 0, _, _, regs task 0x10 0 0, rfl, (by decide +kernel), rfl, rfl, (by decide +kernel), (by decide +kernel), (by decide +kernel)⟩

theorem test_meets_SystemRegisterWrite_0b : ∃ (i : Instr) (n : Nat) (w v : W64) (s : State), sysNumber i = some n ∧ sysAccess n (modeOf s.core) = .both ∧ (let u := atSysAccess s n; formedWord u n i = some w ∧ writtenWord u n w = some v ∧ (n = 0 → modeOf s.core = 0 → (w ^^^ s.core.sys.status) &&& 0xCE00#64 = 0) ∧ (n = 0x040 ∨ n = 0x041 → s.core.sc.spilled = 0) ∧ (0x060 ≤ n → n ≤ 0x067 → (getQ s.core (n - 0x060)).cmd = [])) :=
  ⟨.srw 3 0, 0, _, _, regs sysm 0x4001 0 0, rfl, (by decide +kernel), rfl, rfl, (by decide +kernel), (by decide +kernel), (by decide +kernel)⟩

theorem test_meets_SystemRegisterWrite_0c : ∃ (i : Instr) (n : Nat) (w v : W64) (s : State), sysNumber i = some n ∧ sysAccess n (modeOf s.core) = .both ∧ (let u := atSysAccess s n; formedWord u n i = some w ∧ writtenWord u n w = some v ∧ (n = 0 → modeOf s.core = 0 → (w ^^^ s.core.sys.status) &&& 0xCE00#64 = 0) ∧ (n = 0x040 ∨ n = 0x041 → s.core.sc.spilled = 0) ∧ (0x060 ≤ n → n ≤ 0x067 → (getQ s.core (n - 0x060)).cmd = [])) :=
  ⟨.srw 3 0x012, 0x012, _, _, regs mon 0x505 0 0, rfl, (by decide +kernel), rfl, rfl, (by decide +kernel), (by decide +kernel), (by decide +kernel)⟩

theorem test_meets_SystemRegisterWrite_0d : ∃ (i : Instr) (n : Nat) (w v : W64) (s : State), sysNumber i = some n ∧ sysAccess n (modeOf s.core) = .both ∧ (let u := atSysAccess s n; formedWord u n i = some w ∧ writtenWord u n w = some v ∧ (n = 0 → modeOf s.core = 0 → (w ^^^ s.core.sys.status) &&& 0xCE00#64 = 0) ∧ (n = 0x040 ∨ n = 0x041 → s.core.sc.spilled = 0) ∧ (0x060 ≤ n → n ≤ 0x067 → (getQ s.core (n - 0x060)).cmd = [])) :=
  ⟨.srset 3 0x013, 0x013, _, _, regs sysm 5 0 0, rfl, (by decide +kernel), rfl, rfl, (by decide +kernel), (by decide +kernel), (by decide +kernel)⟩

theorem test_meets_SystemRegisterWrite_0e : ∃ (i : Instr) (n : Nat) (w v : W64) (s : State), sysNumber i = some n ∧ sysAccess n (modeOf s.core) = .both ∧ (let u := atSysAccess s n; formedWord u n i = some w ∧ writtenWord u n w = some v ∧ (n = 0 → modeOf s.core = 0 → (w ^^^ s.core.sys.status) &&& 0xCE00#64 = 0) ∧ (n = 0x040 ∨ n = 0x041 → s.core.sc.spilled = 0) ∧ (0x060 ≤ n → n ≤ 0x067 → (getQ s.core (n - 0x060)).cmd = [])) :=
  ⟨.srw 3 0x040, 0x040, _, _, regs task 0x8000 0 0, rfl, (by decide +kernel), rfl, rfl, (by decide +kernel), (by decide +kernel), (by decide +kernel)⟩

theorem test_meets_SystemRegisterWrite_0f : ∃ (i : Instr) (n : Nat) (w v : W64) (s : State), sysNumber i = some n ∧ sysAccess n (modeOf s.core) = .both ∧ (let u := atSysAccess s n; formedWord u n i = some w ∧ writtenWord u n w = some v ∧ (n = 0 → modeOf s.core = 0 → (w ^^^ s.core.sys.status) &&& 0xCE00#64 = 0) ∧ (n = 0x040 ∨ n = 0x041 → s.core.sc.spilled = 0) ∧ (0x060 ≤ n → n ≤ 0x067 → (getQ s.core (n - 0x060)).cmd = [])) :=
  ⟨.srclr 3 0x061, 0x061, _, _, bound (regs sysm (-1) 0 0) 1, rfl, (by decide +kernel), rfl, rfl, (by decide +kernel), (by decide +kernel), (by decide +kernel)⟩

theorem test_meets_SystemRegisterWrite_1 : ∃ (i : Instr) (w : W64) (s : State), sysNumber i = some 0 ∧ modeOf s.core = 0 ∧ formedWord s 0 i = some w ∧ (w ^^^ s.core.sys.status) &&& 0xCE00#64 ≠ 0 ∧ Plain s ∧ SpillFits s.core.sc :=
  ⟨.srw 3 0, _, regs task 0x400 0 0, (by decide +kernel), (by decide +kernel), rfl, (by decide +kernel), (plain_ok (by decide +kernel)), (by unfold SpillFits; decide +kernel)⟩

theorem test_meets_SystemRegisterWrite_2 : ∃ (i : Instr) (n : Nat) (w : W64) (s : State), sysNumber i = some n ∧ (n = 0x040 ∨ n = 0x041) ∧ formedWord s n i = some w ∧ s.core.sc.spilled ≠ 0 ∧ Plain s ∧ SpillFits s.core.sc ∧ (modeOf s.core = 0 ∨ (modeOf s.core = 1 ∧ s.core.sys.status.toNat / 2 ^ 14 % 2 = 0)) :=
  ⟨.srw 3 0x040, 0x040, _, regs (task.mapSc (fun c => { c with spilled := 1 })) 0x8000 0 0, (by decide +kernel), (by decide +kernel), rfl, (by decide +kernel), (plain_ok (by decide +kernel)), (by unfold SpillFits; decide +kernel), (by decide +kernel)⟩

theorem test_meets_SystemRegisterWrite_2a : ∃ (i : Instr) (n : Nat) (w : W64) (s : State), sysNumber i = some n ∧ (n = 0x040 ∨ n = 0x041) ∧ formedWord s n i = some w ∧ s.core.sc.spilled ≠ 0 ∧ Plain s ∧ SpillFits s.core.sc ∧ (modeOf s.core = 0 ∨ (modeOf s.core = 1 ∧ s.core.sys.status.toNat / 2 ^ 14 % 2 = 0)) :=
  ⟨.srw 3 0x041, 0x041, _, regs (status (task.mapSc (fun c => { c with spilled := 1 })) 1) 0x8000 0 0, (by decide +kernel), (by decide +kernel), rfl, (by decide +kernel), (plain_ok (by decide +kernel)), (by unfold SpillFits; decide +kernel), (by decide +kernel)⟩

theorem test_meets_SystemRegisterWrite_3 : ∃ (i : Instr) (n : Nat) (w : W64) (s : State), sysNumber i = some n ∧ (n = 0x040 ∨ n = 0x041) ∧ formedWord s n i = some w ∧ s.core.sc.spilled ≠ 0 ∧ Plain s ∧ SpillFits s.core.sc ∧ modeOf s.core = 2 ∧ s.core.sys.status.toNat / 2 ^ 15 % 2 = 0 :=
  ⟨.srw 3 0x041, 0x041, _, regs (mon.mapSc (fun c => { c with spilled := 1 })) 0x8000 0 0, (by decide +kernel), (by decide +kernel), rfl, (by decide +kernel), (plain_ok (by decide +kernel)), (by unfold SpillFits; decide +kernel), (by decide +kernel), (by decide +kernel)⟩

theorem test_meets_SystemRegisterWrite_4 : ∃ (i : Instr) (n : Nat) (w : W64) (s : State), sysNumber i = some n ∧ sysAccess n (modeOf s.core) = .read ∧ modeOf s.core ≠ 0 ∧ formedWord s n i = some w :=
  ⟨.srw 3 0x020, 0x020, _, regs sysm 0x8000 0 0, (by decide +kernel), (by decide +kernel), (by decide +kernel), rfl⟩

theorem test_meets_SystemRegisterWrite_4a : ∃ (i : Instr) (n : Nat) (w : W64) (s : State), sysNumber i = some n ∧ sysAccess n (modeOf s.core) = .read ∧ modeOf s.core ≠ 0 ∧ formedWord s n i = some w :=
  ⟨.srw 3 0x020, 0x020, _, regs mon 0x8000 0 0, (by decide +kernel), (by decide +kernel), (by decide +kernel), rfl⟩

theorem test_meets_SystemRegisterRefused_0 : ∃ (i : Instr) (n : Nat) (s : State), sysNumber i = some n ∧ n < 4096 ∧ Plain s ∧ SpillFits s.core.sc ∧ modeOf s.core = 0 ∧ (sysAccess n 0 = .none ∨ (sysAccess n 0 = .read ∧ ∀ d imm, i ≠ .srr d imm)) :=
  ⟨.srw 3 4, 4, task, (by decide +kernel), (by decide +kernel), (plain_ok (by decide +kernel)), (by unfold SpillFits; decide +kernel), (by decide +kernel), (.inl (by decide +kernel))⟩

theorem test_meets_SystemRegisterRefused_0a : ∃ (i : Instr) (n : Nat) (s : State), sysNumber i = some n ∧ n < 4096 ∧ Plain s ∧ SpillFits s.core.sc ∧ modeOf s.core = 0 ∧ (sysAccess n 0 = .none ∨ (sysAccess n 0 = .read ∧ ∀ d imm, i ≠ .srr d imm)) :=
  ⟨.srw 3 0x020, 0x020, task, (by decide +kernel), (by decide +kernel), (plain_ok (by decide +kernel)), (by unfold SpillFits; decide +kernel), (by decide +kernel), (.inr ⟨by decide +kernel, fun _ _ h => by cases h⟩)⟩

theorem test_meets_SoftwareTraps_0 : ∃ (i : Instr) (cause : Nat) (code : W64) (s : State), softwareTrap i = some (cause, code) ∧ Plain s ∧ SpillFits s.core.sc ∧ modeOf s.core = 0 ∧ (getDbg s s.core.pos).brkHalt = false :=
  ⟨.trap 9, _, _, task, rfl, (plain_ok (by decide +kernel)), (by unfold SpillFits; decide +kernel), (by decide +kernel), (by decide +kernel)⟩

theorem test_meets_SoftwareTraps_1 : ∃ (i : Instr) (cause : Nat) (code : W64) (s : State), softwareTrap i = some (cause, code) ∧ Plain s ∧ SpillFits s.core.sc ∧ modeOf s.core = 1 ∧ (getDbg s s.core.pos).brkHalt = false ∧ (cause = 0x0E ∨ s.core.sys.status.toNat / 2 ^ 14 % 2 = 1) :=
  ⟨.trap 9, _, _, status task 1, rfl, (plain_ok (by decide +kernel)), (by unfold SpillFits; decide +kernel), (by decide +kernel), (by decide +kernel), (by decide +kernel)⟩

theorem test_meets_SoftwareTraps_1a : ∃ (i : Instr) (cause : Nat) (code : W64) (s : State), softwareTrap i = some (cause, code) ∧ Plain s ∧ SpillFits s.core.sc ∧ modeOf s.core = 1 ∧ (getDbg s s.core.pos).brkHalt = false ∧ (cause = 0x0E ∨ s.core.sys.status.toNat / 2 ^ 14 % 2 = 1) :=
  ⟨.brk 9, _, _, sysm, rfl, (plain_ok (by decide +kernel)), (by unfold SpillFits; decide +kernel), (by decide +kernel), (by decide +kernel), (by decide +kernel)⟩

theorem test_meets_SoftwareTraps_2 : ∃ (i : Instr) (cause : Nat) (code : W64) (s : State), softwareTrap i = some (cause, code) ∧ Plain s ∧ modeOf s.core = 2 ∧ s.core.sys.status.toNat / 2 ^ 15 % 2 = 1 ∧ (getDbg s s.core.pos).brkHalt = false :=
  ⟨.brk 9, _, _, status mon 0x8002, rfl, (plain_ok (by decide +kernel)), (by decide +kernel), (by decide +kernel), (by decide +kernel)⟩

theorem test_meets_PrivilegedInstructionTraps_0 : ∃ (i : Instr) (m : Nat) (s : State), privilegedIn i = some m ∧ Plain s ∧ SpillFits s.core.sc ∧ modeOf s.core = 0 :=
  ⟨.tret, 1, task, (by decide +kernel), (plain_ok (by decide +kernel)), (by unfold SpillFits; decide +kernel), (by decide +kernel)⟩

theorem test_meets_TrapReturnFromSystem_0 : ∃ (s : State) (link epc : W64) (gate bank : Nat), Plain s ∧ ReturnsFrom s link epc gate bank ∧ WindowBelow s ∧ (link.toNat / 8 % 2 = 0 → epc.toNat % 2 = 0) :=
  ⟨full2 sysm, 0, 0, 10, 14, (plain_ok (by decide +kernel)), (by unfold ReturnsFrom; decide +kernel), (by unfold WindowBelow; decide +kernel), (by decide +kernel)⟩

theorem test_meets_TrapReturnFromSystem_0a : ∃ (s : State) (link epc : W64) (gate bank : Nat), Plain s ∧ ReturnsFrom s link epc gate bank ∧ WindowBelow s ∧ (link.toNat / 8 % 2 = 0 → epc.toNat % 2 = 0) :=
  ⟨full2 (sysm.mapSys (fun r => { r with slink := 8, epc := 1 })), 8, 1, 10, 14, (plain_ok (by decide +kernel)), (by unfold ReturnsFrom; decide +kernel), (by unfold WindowBelow; decide +kernel), (by decide +kernel)⟩

theorem test_meets_TrapReturnFromSystem_0b : ∃ (s : State) (link epc : W64) (gate bank : Nat), Plain s ∧ ReturnsFrom s link epc gate bank ∧ WindowBelow s ∧ (link.toNat / 8 % 2 = 0 → epc.toNat % 2 = 0) :=
  ⟨full2 (status mon 0x8002), 0, 0, 11, 15, (plain_ok (by decide +kernel)), (by unfold ReturnsFrom; decide +kernel), (by unfold WindowBelow; decide +kernel), (by decide +kernel)⟩

theorem test_meets_TrapReturnFromSystem_0c : ∃ (s : State) (link epc : W64) (gate bank : Nat), Plain s ∧ ReturnsFrom s link epc gate bank ∧ WindowBelow s ∧ (link.toNat / 8 % 2 = 0 → epc.toNat % 2 = 0) :=
  ⟨(status mon 0x8002).mapSc (fun c => { c with spilled := 1, wsp := 0xFF80 }), 0, 0, 11, 15, (plain_ok (by decide +kernel)), (by unfold ReturnsFrom; decide +kernel), (by unfold WindowBelow; decide +kernel), (by decide +kernel)⟩

theorem test_meets_TrapReturnFromSystem_1 : ∃ s : State, Plain s ∧ modeOf s.core = 1 ∧ s.core.sys.slink.toNat / 8 % 2 = 0 ∧ s.core.sys.epc.toNat % 2 = 1 ∧ SpillFits s.core.sc ∧ s.core.sys.status.toNat / 2 ^ 14 % 2 = 1 :=
  ⟨full2 (sysm.mapSys (fun r => { r with epc := 1 })), (plain_ok (by decide +kernel)), (by decide +kernel), (by decide +kernel), (by decide +kernel), (by unfold SpillFits; decide +kernel), (by decide +kernel)⟩

theorem test_meets_TrapReturnFromSystem_2 : ∃ s : State, Plain s ∧ 1 ≤ modeOf s.core ∧ s.core.sc.res = 1 ∧ s.core.sc.spilled = 0 ∧ (modeOf s.core = 1 → s.core.sys.epc.toNat % 2 = 0 ∧ s.core.sys.status.toNat / 2 ^ 14 % 2 = 1) ∧ (modeOf s.core = 2 → s.core.sys.monpc.toNat % 2 = 0 ∧ s.core.sys.status.toNat / 2 ^ 15 % 2 = 0) :=
  ⟨sysm, (plain_ok (by decide +kernel)), (by decide +kernel), (by decide +kernel), (by decide +kernel), (by decide +kernel), (by decide +kernel)⟩

theorem test_meets_TrapReturnFromSystem_2a : ∃ s : State, Plain s ∧ 1 ≤ modeOf s.core ∧ s.core.sc.res = 1 ∧ s.core.sc.spilled = 0 ∧ (modeOf s.core = 1 → s.core.sys.epc.toNat % 2 = 0 ∧ s.core.sys.status.toNat / 2 ^ 14 % 2 = 1) ∧ (modeOf s.core = 2 → s.core.sys.monpc.toNat % 2 = 0 ∧ s.core.sys.status.toNat / 2 ^ 15 % 2 = 0) :=
  ⟨mon, (plain_ok (by decide +kernel)), (by decide +kernel), (by decide +kernel), (by decide +kernel), (by decide +kernel), (by decide +kernel)⟩

theorem test_meets_TrapReturnUndoesTrap_0 : ∃ (code : W64) (s t u : State), Plain s ∧ s.core.pend = [] ∧ modeOf s.core = 0 ∧ s.core.sc.res < 8 ∧ s.core.issue.npc.toNat % 2 = 0 ∧ exec (.trap code) s = .next t ∧ exec .tret t = .next u :=
  ⟨9, task, _, _, (plain_ok (by decide +kernel)), (by decide +kernel), (by decide +kernel), (by decide +kernel), (by decide +kernel), (nx_eq (s := task) (by decide +kernel)), (nx_eq (s := task) (by decide +kernel))⟩

theorem test_meets_HaltInMonitorMode_0 : ∃ s : State, modeOf s.core = 2 :=
  ⟨mon, (by decide +kernel)⟩

theorem test_meets_HaltInMonitorMode_1 : ∃ (n : Nat) (s : State), coreAt s s.arg.a = n ∧ (getCore s n).num = n ∧ (getCore s n).pos = s.arg.a ∧ (getCore s n).run = .halted ∧ (getCore s n).former ≠ .halted :=
  ⟨0, args { mon with core := { mon.core with run := .halted, former := .running } } 0, (by decide +kernel), (by decide +kernel), (by decide +kernel), (by decide +kernel), (by decide +kernel)⟩

theorem test_meets_HaltInMonitorMode_2 : ∃ s : State, Plain s ∧ SpillFits s.core.sc ∧ (modeOf s.core = 0 ∨ (modeOf s.core = 1 ∧ s.core.sys.status.toNat / 2 ^ 14 % 2 = 0)) :=
  ⟨task, (plain_ok (by decide +kernel)), (by unfold SpillFits; decide +kernel), (by decide +kernel)⟩

theorem test_meets_HaltInMonitorMode_2a : ∃ s : State, Plain s ∧ SpillFits s.core.sc ∧ (modeOf s.core = 0 ∨ (modeOf s.core = 1 ∧ s.core.sys.status.toNat / 2 ^ 14 % 2 = 0)) :=
  ⟨status task 1, (plain_ok (by decide +kernel)), (by unfold SpillFits; decide +kernel), (by decide +kernel)⟩

theorem test_meets_HaltInMonitorMode_3 : ∃ s : State, Plain s ∧ SpillFits s.core.sc ∧ modeOf s.core = 1 ∧ s.core.sys.status.toNat / 2 ^ 14 % 2 = 1 :=
  ⟨sysm, (plain_ok (by decide +kernel)), (by unfold SpillFits; decide +kernel), (by decide +kernel), (by decide +kernel)⟩

theorem test_meets_LoadFromOwnMemory_0 : ∃ (i : Instr) (d : Reg) (ea : W64) (n : Nat) (s : State), plainLoad s i = some (d, ea, n) ∧ OwnAccess s ea n ∧ OwnReadable s ea n ∧ NoPendX s d :=
  ⟨.ld .h 3 4 0, 3, _, _, data (regs mon 3 (localAddr 0 64) 8) 64 [0x8070605040302010, 0x1122334455667788], rfl, (ownAccess_ok (by decide +kernel)), (ownReadable_ok (by decide +kernel)), (noPend_ok (by decide +kernel))⟩

theorem test_meets_LoadFromOwnMemory_0a : ∃ (i : Instr) (d : Reg) (ea : W64) (n : Nat) (s : State), plainLoad s i = some (d, ea, n) ∧ OwnAccess s ea n ∧ OwnReadable s ea n ∧ NoPendX s d :=
  ⟨.ldDShort 3 4 8, 3, _, _, data (regs mon 3 (localAddr 0 64) 8) 64 [0x8070605040302010, 0x1122334455667788], rfl, (ownAccess_ok (by decide +kernel)), (ownReadable_ok (by decide +kernel)), (noPend_ok (by decide +kernel))⟩

theorem test_meets_InterlockedLoadAndWait_0 : ∃ (i : Instr) (d : Reg) (ea : W64) (n : Nat) (s : State), heldLoad s i = some (d, ea, n) ∧ OwnAccess s ea n ∧ OwnReadable s ea n ∧ NoPendX s d ∧ ((∃ z a, i = .ldf z d a) → s.core.mail.mcast = []) :=
  ⟨.ldaq .device .d 3 4, 3, _, _, data (regs mon 3 (localAddr 0 64) 8) 64 [0x8070605040302010, 0x1122334455667788], rfl, (ownAccess_ok (by decide +kernel)), (ownReadable_ok (by decide +kernel)), (noPend_ok (by decide +kernel)), (fun _ => by decide +kernel)⟩

theorem test_meets_InterlockedLoadAndWait_1 : ∃ (z : Wd) (d a b : Reg) (s : State), OwnAccess s (s.x a) (wdBytes z) ∧ OwnReadable s (s.x a) (wdBytes z) ∧ NoPendX s d ∧ s.core.wait = none ∧ (let old := BitVec.ofNat (8 * wdBytes z) (ofBytes (mread s.mem (ownKey s (s.x a)) (wdBytes z))); old ≠ BitVec.ofNat (8 * wdBytes z) (s.x d).toNat) :=
  ⟨.d, 3, 4, 5, data (regs mon 3 (localAddr 0 64) 8) 64 [0x8070605040302010, 0x1122334455667788], (ownAccess_ok (by decide +kernel)), (ownReadable_ok (by decide +kernel)), (noPend_ok (by decide +kernel)), (by decide +kernel), (by decide +kernel)⟩

theorem test_meets_InterlockedLoadAndWait_2 : ∃ (z : Wd) (d a b : Reg) (s : State), OwnAccess s (s.x a) (wdBytes z) ∧ OwnReadable s (s.x a) (wdBytes z) ∧ NoPendX s d ∧ s.core.wait = none ∧ (let old := BitVec.ofNat (8 * wdBytes z) (ofBytes (mread s.mem (ownKey s (s.x a)) (wdBytes z))); old = BitVec.ofNat (8 * wdBytes z) (s.x d).toNat) :=
  ⟨.w, 3, 4, 5, data (regs mon 0x40302010 (localAddr 0 64) 8) 64 [0x8070605040302010], (ownAccess_ok (by decide +kernel)), (ownReadable_ok (by decide +kernel)), (noPend_ok (by decide +kernel)), (by decide +kernel), (by decide +kernel)⟩

theorem test_meets_StoreToOwnMemory_0 : ∃ (i : Instr) (ea : W64) (n : Nat) (w : W64) (s : State), plainStore s i = some (ea, n, w) ∧ OwnAccess s ea n ∧ s.core.marks = [] ∧ OwnWritable s ea n :=
  ⟨.stx .w 3 4 5, _, _, _, data (regs mon 3 (localAddr 0 64) 8) 64 [0x8070605040302010, 0x1122334455667788], rfl, (ownAccess_ok (by decide +kernel)), (by decide +kernel), (ownWritable_ok (by decide +kernel))⟩

theorem test_meets_StoreReleaseToOwnMemory_0 : ∃ (c : Scope) (z : Sz) (d a : Reg) (s : State), OwnAccess s (s.x a) (szBytes z) ∧ OwnWritable s (s.x a) (szBytes z) ∧ Settled s :=
  ⟨.device, .d, 3, 4, data (regs mon 3 (localAddr 0 64) 8) 64 [0x8070605040302010, 0x1122334455667788], (ownAccess_ok (by decide +kernel)), (ownWritable_ok (by decide +kernel)), (settled_ok (by decide +kernel))⟩

theorem test_meets_AtomicOnOwnMemory_0 : ∃ (i : Instr) (op : AOp) (d : Reg) (ea : W64) (n : Nat) (arg : W64) (s : State), atomicOf s i = some (op, d, ea, n, arg) ∧ d ≠ 0 ∧ OwnAccess s ea n ∧ OwnReadable s ea n ∧ NoPendX s d :=
  ⟨.cas .w 3 4 5, _, 3, _, _, _, data (regs mon 3 (localAddr 0 64) 8) 64 [0x8070605040302010, 0x1122334455667788], rfl, (by decide +kernel), (ownAccess_ok (by decide +kernel)), (ownReadable_ok (by decide +kernel)), (noPend_ok (by decide +kernel))⟩

theorem test_meets_FarAccessLeavesAsPacket_0 : ∃ (i : Instr) (ea : W64) (n : Nat) (body : Body) (s : State), sentAccess s i = some (ea, n, body) ∧ OwnAccess s ea n ∧ CanSend s :=
  ⟨.stf .d 3 4 0, _, _, _, data (regs mon 3 (localAddr 0 64) 8) 64 [0x8070605040302010, 0x1122334455667788], rfl, (ownAccess_ok (by decide +kernel)), (canSend_ok (by decide +kernel))⟩

theorem test_meets_FarAccessLeavesAsPacket_0a : ∃ (i : Instr) (ea : W64) (n : Nat) (body : Body) (s : State), sentAccess s i = some (ea, n, body) ∧ OwnAccess s ea n ∧ CanSend s :=
  ⟨.ldfTagged .d 4 5, _, _, _, data (regs mon 3 (localAddr 0 64) 8) 64 [0x8070605040302010, 0x1122334455667788], rfl, (ownAccess_ok (by decide +kernel)), (canSend_ok (by decide +kernel))⟩

theorem test_meets_FarAccessLeavesAsPacket_0b : ∃ (i : Instr) (ea : W64) (n : Nat) (body : Body) (s : State), sentAccess s i = some (ea, n, body) ∧ OwnAccess s ea n ∧ CanSend s :=
  ⟨.atomAdd .w 0 4 5, _, _, _, data (regs mon 3 (localAddr 0 64) 8) 64 [0x8070605040302010, 0x1122334455667788], rfl, (ownAccess_ok (by decide +kernel)), (canSend_ok (by decide +kernel))⟩

theorem test_meets_MisalignedAccessTraps_0 : ∃ (i : Instr) (ea : W64) (n : Nat) (s : State), scalarAccess s i = some (ea, n) ∧ ea.toNat % n ≠ 0 ∧ Plain s ∧ SpillFits s.core.sc ∧ modeOf s.core = 0 :=
  ⟨.ld .d 3 4 1, _, _, regs task 3 (localAddr 0 64) 8, rfl, (by decide +kernel), (plain_ok (by decide +kernel)), (by unfold SpillFits; decide +kernel), (by decide +kernel)⟩

theorem test_meets_MisalignedAccessTraps_1 : ∃ (i : Instr) (ty : ETy) (d : Reg) (m : Msk) (ea : Nat → W64) (k : Nat) (s : State), (vectorLoad s i = some (ty, d, m, ea) ∨ vectorStore s i = some (ty, d, m, ea)) ∧ UnitOn s ty m k ∧ (∀ j, j < k → ¬ UnitOn s ty m j) ∧ (ea k).toNat % unitBytes ty ≠ 0 ∧ Plain s ∧ SpillFits s.core.sc ∧ modeOf s.core = 0 :=
  ⟨.vld .f32 1 4 0 ⟨0, false⟩, .f32, 1, ⟨0, false⟩, _, 0, regs task 3 (localAddr 0 62) 8, (.inl rfl), (by unfold UnitOn; decide +kernel), (fun j h => by simp at h), (by decide +kernel), (plain_ok (by decide +kernel)), (by unfold SpillFits; decide +kernel), (by decide +kernel)⟩

theorem test_meets_AccessOutsideContextFreezes_0 : ∃ (i : Instr) (ea : W64) (n : Nat) (s : State), scalarAccess s i = some (ea, n) ∧ ea.toNat % n = 0 ∧ ea.toNat / 2 ^ 62 = 2 ∧ ea.toNat / 2 ^ 16 % 2 ^ 21 = 0 ∧ ea.toNat / 2 ^ 37 % 2 ^ 25 ≠ s.core.num ∧ modeOf s.core ≠ 2 ∧ noCtx s.core = false ∧ inRange s (curCtx s.core) (ea.toNat / 2 ^ 37 % 2 ^ 25) = false :=
  ⟨.ld .d 3 4 0, _, _, regs task 3 (localAddr 9 64) 8, rfl, (by decide +kernel), (by decide +kernel), (by decide +kernel), (by decide +kernel), (by decide +kernel), (by decide +kernel), (by decide +kernel)⟩

theorem test_meets_FencesAndFailedStores_0 : ∃ (i : Instr) (c : Scope) (s : State), (i = .fence c ∨ i = .fenceAcq c ∨ i = .fenceRel c) ∧ Settled s :=
  ⟨.fenceRel .device, .device, mon, (by decide +kernel), (settled_ok (by decide +kernel))⟩

theorem test_meets_FencesAndFailedStores_1 : ∃ (i : Instr) (c : Scope) (addr : W64) (s : State), (i = .fence c ∨ i = .fenceAcq c ∨ i = .fenceRel c) ∧ s.core.ev.ferr = some addr ∧ Plain s ∧ SpillFits s.core.sc ∧ modeOf s.core = 0 :=
  ⟨.fence .quad, .quad, 64, task.mapEv (fun e => { e with ferr := some 64 }), (by decide +kernel), (by decide +kernel), (plain_ok (by decide +kernel)), (by unfold SpillFits; decide +kernel), (by decide +kernel)⟩

theorem test_meets_PrefetchDiscardAndFetchFence_0 : ∃ (a b : Reg) (e : TlbEnt) (s : State), a ≠ b ∧ a ≠ 0 ∧ 0 < (s.x b).toNat ∧ (s.x a).toNat + (s.x b).toNat ≤ 2 ^ 52 ∧ s.core.tlb.find? (fun f => f.serves (curAsid s.core) (s.x a).toNat) = some e ∧ permits e .store (inTask s.core) = true ∧ ((s.x a).toNat + (s.x b).toNat - 1) / 2 ^ pageBits e.size = (s.x a).toNat / 2 ^ pageBits e.size ∧ s.mu.excl = [] :=
  ⟨3, 4, ⟨0, 2, 0, 0x100C, 0, false⟩, regs { mon with core := { mon.core with tlb := [⟨0, 2, 0, 0x100C, 0, false⟩] } } 0x100000 64 0, (by decide +kernel), (by decide +kernel), (by decide +kernel), (by decide +kernel), (by decide +kernel), (by decide +kernel), (by decide +kernel), (by decide +kernel)⟩

theorem test_meets_IntegerVectorResult_0 : ∃ (i : Instr) (ty : ETy) (d : Reg) (m : Msk) (f : Nat → Nat) (s : State), integerLane s i = some (ty, d, m, f) ∧ (ty.isI || ty.isN) = true ∧ QuietV s d :=
  ⟨.vadd .i32 1 2 3 ⟨0, false⟩, .i32, 1, _, _, vecs mon, rfl, (by decide +kernel), (quiet_ok (by decide +kernel))⟩

theorem test_meets_CompareSelectMaskAndSum_0 : ∃ (c : Cond) (ty : ETy) (d a b : Reg) (m : Msk) (s : State), (ty.isI || ty.isN) = true ∧ QuietV s d :=
  ⟨.lt, .i16, 4, 1, 2, ⟨3, false⟩, vecs mon, (by decide +kernel), (quiet_ok (by decide +kernel))⟩

theorem test_meets_CompareSelectMaskAndSum_1 : ∃ (ty : ETy) (d a b : Reg) (m : Msk) (s : State), QuietV s d :=
  ⟨.f32, 4, 1, 2, ⟨3, false⟩, vecs mon, (quiet_ok (by decide +kernel))⟩

theorem test_meets_CompareSelectMaskAndSum_2 : ∃ (i : Instr) (d : Reg) (w : W64) (s : State), maskResult s i = some (d, w) ∧ QuietV s d :=
  ⟨.mset 4 3, _, _, regs mon 65 0 0, rfl, (quiet_ok (by decide +kernel))⟩

theorem test_meets_CompareSelectMaskAndSum_3 : ∃ (i : Instr) (d : Reg) (w : W64) (s : State), maskCount s i = some (d, w) ∧ NoPendX s d :=
  ⟨.mfirst 3 1, _, _, vecs mon, rfl, (noPend_ok (by decide +kernel))⟩

theorem test_meets_CompareSelectMaskAndSum_4 : ∃ (ty : ETy) (d a : Reg) (m : Msk) (s : State), (ty.isI || ty.isN) = true ∧ QuietV s d :=
  ⟨.i32, 4, 2, ⟨0, false⟩, vecs mon, (by decide +kernel), (quiet_ok (by decide +kernel))⟩

theorem test_meets_ElementMoves_0 : ∃ (i : Instr) (ty : ETy) (d : Reg) (m : Msk) (f : Nat → Nat) (s : State), moveLane s i = some (ty, d, m, f) ∧ QuietV s d :=
  ⟨.vins .i16 1 3 4, .i16, 1, _, _, vecs (regs mon 0x12345 33 0), rfl, (quiet_ok (by decide +kernel))⟩

theorem test_meets_ElementMoves_0a : ∃ (i : Instr) (ty : ETy) (d : Reg) (m : Msk) (f : Nat → Nat) (s : State), moveLane s i = some (ty, d, m, f) ∧ QuietV s d :=
  ⟨.vperm .i8 4 1 2 ⟨3, true⟩, .i8, 4, _, _, vecs mon, rfl, (quiet_ok (by decide +kernel))⟩

theorem test_meets_ElementMoves_1 : ∃ (ty : ETy) (d a b : Reg) (s : State), NoPendX s d :=
  ⟨.i32, 3, 2, 4, vecs (regs mon 0 17 0), (noPend_ok (by decide +kernel))⟩

theorem test_meets_VectorCompletesAndFrame_0 : ∃ (i : Instr) (vs xs : List Reg) (s : State), vectorResult i = some (vs, xs) ∧ (∀ d ∈ vs, QuietV s d) :=
  ⟨.vdot .i8 4 1 2 ⟨0, false⟩, [4], [], vecs mon, (by decide +kernel), (fun d _ => quiet_ok (by decide +kernel))⟩

theorem test_meets_FloatingPointResult_0 : ∃ (i : Instr) (ty : ETy) (d : Reg) (m : Msk) (ops : List Reg) (s : State), floatOperands i = some (ty, d, m, ops) ∧ ty ∈ [ETy.f32, .f16, .bf16] ∧ QuietV s d ∧ Holds s d :=
  ⟨.vadd .f32 4 1 2 ⟨3, false⟩, .f32, 4, ⟨3, false⟩, [1, 2], vecs mon, (by decide +kernel), (by decide +kernel), (quiet_ok (by decide +kernel)), (holds0_ok (by decide +kernel))⟩

theorem test_meets_FloatingPointResult_1 : ∃ (i : Instr) (ty : ETy) (d : Reg) (m : Msk) (lat : Nat) (f : Nat → Nat × Flags) (s : State), floatLane s i = some (ty, d, m, lat, f) ∧ ty ∈ [ETy.f32, .f16, .bf16] ∧ QuietV s d :=
  ⟨.vadd .f32 4 1 2 ⟨3, false⟩, .f32, 4, ⟨3, false⟩, 2, _, vecs mon, rfl, (by decide +kernel), (quiet_ok (by decide +kernel))⟩

theorem test_meets_FloatingPointResult_1a : ∃ (i : Instr) (ty : ETy) (d : Reg) (m : Msk) (lat : Nat) (f : Nat → Nat × Flags) (s : State), floatLane s i = some (ty, d, m, lat, f) ∧ ty ∈ [ETy.f32, .f16, .bf16] ∧ QuietV s d :=
  ⟨.vfms .bf16 4 1 2 ⟨0, false⟩, .bf16, 4, ⟨0, false⟩, 4, _, vecs mon, rfl, (by decide +kernel), (quiet_ok (by decide +kernel))⟩

theorem test_meets_FloatingPointResult_1b : ∃ (i : Instr) (ty : ETy) (d : Reg) (m : Msk) (lat : Nat) (f : Nat → Nat × Flags) (s : State), floatLane s i = some (ty, d, m, lat, f) ∧ ty ∈ [ETy.f32, .f16, .bf16] ∧ QuietV s d :=
  ⟨.vmul .f16 4 1 2 ⟨0, false⟩, .f16, 4, ⟨0, false⟩, 4, _, vecs mon, rfl, (by decide +kernel), (quiet_ok (by decide +kernel))⟩

theorem test_meets_FloatingPointResult_2 : ∃ (td ts : ETy) (d a : Reg) (m : Msk) (s : State), QuietV s d :=
  ⟨.e2m1, .f32, 4, 1, ⟨3, false⟩, vecs mon, (quiet_ok (by decide +kernel))⟩

theorem test_meets_FloatingPointResult_2a : ∃ (td ts : ETy) (d a : Reg) (m : Msk) (s : State), QuietV s d :=
  ⟨.f32, .i64, 4, 2, ⟨0, false⟩, vecs mon, (quiet_ok (by decide +kernel))⟩

theorem test_meets_FloatingPointResult_3 : ∃ (ty : ETy) (d a : Reg) (m : Msk) (s : State), ty ∈ [ETy.f32, .f16, .bf16] ∧ QuietV s d :=
  ⟨.f32, 4, 1, ⟨3, false⟩, vecs mon, (by decide +kernel), (quiet_ok (by decide +kernel))⟩

theorem test_meets_FloatingPointResult_4 : ∃ (ty : ETy) (d a : Reg) (m : Msk) (s : State), ty ∈ [ETy.f32, .f16, .bf16] ∧ QuietV s d :=
  ⟨.f16, 4, 2, ⟨3, false⟩, vecs mon, (by decide +kernel), (quiet_ok (by decide +kernel))⟩

theorem test_meets_FloatingPointResult_4a : ∃ (ty : ETy) (d a : Reg) (m : Msk) (s : State), ty ∈ [ETy.f32, .f16, .bf16] ∧ QuietV s d :=
  ⟨.bf16, 4, 1, ⟨3, true⟩, vecs mon, (by decide +kernel), (quiet_ok (by decide +kernel))⟩

theorem test_meets_VectorLoadsAndStoresOfOwnMemory_0 : ∃ (i : Instr) (ty : ETy) (d : Reg) (m : Msk) (ea : Nat → W64) (s : State), vectorLoad s i = some (ty, d, m, ea) ∧ (∀ k, UnitOn s ty m k → OwnAccess s (ea k) (unitBytes ty) ∧ OwnReadable s (ea k) (unitBytes ty)) ∧ QuietV s d :=
  ⟨.vldF32Short 1 4 0 ⟨0, false⟩, .f32, 1, ⟨0, false⟩, _, vecs (regs mon 0 (localAddr 0 64) 4), rfl, (vecOwn_ok (fun k h => h.1) (by decide +kernel)), (quiet_ok (by decide +kernel))⟩

theorem test_meets_VectorLoadsAndStoresOfOwnMemory_1 : ∃ (i : Instr) (ty : ETy) (d : Reg) (m : Msk) (ea : Nat → W64) (s : State), vectorStore s i = some (ty, d, m, ea) ∧ (∀ k, UnitOn s ty m k → OwnAccess s (ea k) (unitBytes ty) ∧ OwnWritable s (ea k) (unitBytes ty)) ∧ s.core.marks = [] :=
  ⟨.vsts .f32 1 4 5 ⟨0, false⟩, .f32, 1, ⟨0, false⟩, _, vecs (regs mon 0 (localAddr 0 64) 4), rfl, (vecOwnW_ok (fun k h => h.1) (by decide +kernel)), (by decide +kernel)⟩

theorem test_meets_FrameAndStreamInstructions_0 : ∃ (d : Code3) (s : State), s.core.wait = none ∧ s.core.pend = [] ∧ evictedSlots s.core.vec = [] ∧ (getPool s (quadOf s.core.pos)).claims = [] ∧ (getPool s (quadOf s.core.pos)).reloads = [] ∧ (unmappedIn s.core.vec d.toNat).length ≤ (freeFrames (getPool s (quadOf s.core.pos))).length :=
  ⟨2, frames mon, (by decide +kernel), (by decide +kernel), (by decide +kernel), (by decide +kernel), (by decide +kernel), (by decide +kernel)⟩

theorem test_meets_FrameAndStreamInstructions_0a : ∃ (d : Code3) (s : State), s.core.wait = none ∧ s.core.pend = [] ∧ evictedSlots s.core.vec = [] ∧ (getPool s (quadOf s.core.pos)).claims = [] ∧ (getPool s (quadOf s.core.pos)).reloads = [] ∧ (unmappedIn s.core.vec d.toNat).length ≤ (freeFrames (getPool s (quadOf s.core.pos))).length :=
  ⟨7, mon, (by decide +kernel), (by decide +kernel), (by decide +kernel), (by decide +kernel), (by decide +kernel), (by decide +kernel)⟩

theorem test_meets_FrameAndStreamInstructions_1 : ∃ (d : Code3) (s : State), s.core.pend = [] :=
  ⟨1, frames mon, (by decide +kernel)⟩

theorem test_meets_FrameAndStreamInstructions_2 : ∃ (a : Reg) (b : Code3) (f : Nat) (s : State), s.core.pend = [] ∧ 1 ≤ b.toNat ∧ b.toNat ≤ 3 ∧ s.core.vec.slot b.toNat = .mapped f ∧ (getPool s (quadOf s.core.pos)).takers = [] ∧ (s.x a = BitVec.allOnes 64 ∨ (s.x a).toNat ∈ quadCores s (quadOf s.core.pos)) :=
  ⟨3, 1, 5, frames (regs mon (-1) 0 0), (by decide +kernel), (by decide +kernel), (by decide +kernel), (by decide +kernel), (by decide +kernel), (by decide +kernel)⟩

theorem test_meets_FrameAndStreamInstructions_3 : ∃ (a : Reg) (b : Code3) (s : State), s.core.pend = [] ∧ s.core.vec.slot b.toNat = .unmapped ∧ (s.x a = BitVec.allOnes 64 ∨ (s.x a).toNat ∈ quadCores s (quadOf s.core.pos)) :=
  ⟨3, 2, frames (regs mon 3 0 0), (by decide +kernel), (by decide +kernel), (by decide +kernel)⟩

theorem test_meets_FrameAndStreamInstructions_4 : ∃ (d : Reg) (b : Code3) (o : Offer) (f : Nat) (s : State), s.core.wait = none ∧ s.core.pend = [] ∧ 1 ≤ b.toNat ∧ b.toNat ≤ 3 ∧ (getPool s (quadOf s.core.pos)).offers.find? (fun p => p.target == none || p.target == some s.core.num) = some o ∧ o.frame = some f :=
  ⟨3, 1, ⟨0, some 9, 0, 2, none, 256⟩, 9, mon.mapUn (fun u => { u with pools := [(0, { Pool.fresh with offers := [⟨0, some 9, 0, 2, none, 256⟩] })] }), (by decide +kernel), (by decide +kernel), (by decide +kernel), (by decide +kernel), (by decide +kernel), (by decide +kernel)⟩

theorem test_meets_FrameAndStreamInstructions_5 : ∃ (d : Reg) (s : State), NoPendX s d ∧ d ≠ 0 :=
  ⟨3, frames mon, (noPend_ok (by decide +kernel)), (by decide +kernel)⟩

theorem test_meets_FrameAndStreamInstructions_6 : ∃ (d a : Reg) (f : Nat) (s : State), s.core.vec.s3 = .mapped f ∧ OwnBlock s (s.x a) 8 4 ∧ (let w (i : Nat) : Nat := blockWord s (s.x a) 8 i; w 1 / 2 ^ 32 % 2 ^ 16 ≠ 0 ∧ w 1 / 2 ^ 48 ≠ 0 ∧ w 3 % 2 ^ 16 ≠ 0 ∧ w 3 / 2 ^ 17 = 0) :=
  ⟨24, 4, 7, data (frames (regs mon 0 (localAddr 0 64) 0)) 64 [localAddr 0 256, 0x1000400000040, 0, 1], (by decide +kernel), (ownBlock_ok (by decide +kernel)), (by decide +kernel), (by decide +kernel), (by decide +kernel), (by decide +kernel)⟩

theorem test_meets_FrameAndStreamInstructions_7 : ∃ (d a : Reg) (x : Stream) (s : State), NoPendX s d ∧ tget s.core.vec.streams a.toNat = some x :=
  ⟨3, 24, stream1, mon.mapVec (fun v => { v with streams := [(24, stream1)] }), (noPend_ok (by decide +kernel)), (by decide +kernel)⟩

theorem test_meets_FrameAndStreamInstructions_8 : ∃ (d a : Reg) (s : State), NoPendX s d ∧ tget s.core.vec.streams a.toNat = none :=
  ⟨3, 24, mon, (noPend_ok (by decide +kernel)), (by decide +kernel)⟩

theorem test_meets_SendsLeaveAsMessages_0 : ∃ (i : Instr) (cls : Nat) (w : W512) (xa xb : W64) (att : Option Att) (s : State), sending s i = some (cls, w, xa, xb, att) ∧ SendOk s cls xa xb ∧ xa.toNat / 2 ^ 25 % 2 ^ 7 = 0 ∧ (∀ from_ off, att = some (.read from_ off) → AttachOk s xa from_ off) ∧ MayReach s (xa.toNat % 2 ^ 25) ∧ interfaceFull s = false ∧ CanSend s :=
  ⟨.send .req 1 3 4, 0, _, _, _, _, vecs (regs mon 1 0x100 0), rfl, (by unfold SendOk HandlerOk; decide +kernel), (by decide +kernel), (fun f o h => by simp at h), (by unfold MayReach; decide +kernel), (by decide +kernel), (canSend_ok (by decide +kernel))⟩

theorem test_meets_SendsLeaveAsMessages_0a : ∃ (i : Instr) (cls : Nat) (w : W512) (xa xb : W64) (att : Option Att) (s : State), sending s i = some (cls, w, xa, xb, att) ∧ SendOk s cls xa xb ∧ xa.toNat / 2 ^ 25 % 2 ^ 7 = 0 ∧ (∀ from_ off, att = some (.read from_ off) → AttachOk s xa from_ off) ∧ MayReach s (xa.toNat % 2 ^ 25) ∧ interfaceFull s = false ∧ CanSend s :=
  ⟨.sendb 1 3 4, 2, _, _, _, _, vset (regs mon 0x1000000000001 0x100 0) 1 (0x40000000000000000000000000000000 ||| 0x8000000000000080), rfl, (by unfold SendOk HandlerOk; decide +kernel), (by decide +kernel), (fun f o h => by cases h; unfold AttachOk; exact ⟨by decide +kernel, by decide +kernel, by decide +kernel, fun i hi => ownLines_ok (n := 2) (by decide +kernel) i hi⟩), (by unfold MayReach; decide +kernel), (by decide +kernel), (canSend_ok (by decide +kernel))⟩

theorem test_meets_SendsLeaveAsMessages_1 : ∃ (c : MCls) (d a b : Reg) (g : Group) (s : State), SendOk s (mclsCode c) (s.x a) (s.x b) ∧ (s.x a).toNat / 2 ^ 16 % 2 ^ 16 = 0 ∧ tget s.un.groups ((s.x a).toNat % 2 ^ 16) = some g ∧ g.kind = 1 ∧ g.live = true ∧ g.ctx = ctxNum s.core ∧ (∀ n ∈ g.members, n < nCores) ∧ inInterface s < 8 ∧ inInterface s + g.members.length ≤ 8 ∧ CanSend s :=
  ⟨.req, 1, 3, 4, ⟨1, 256, true, [0, 2]⟩, groups (vecs (regs mon 7 0x100 0)) [(7, ⟨1, 256, true, [0, 2]⟩)], (by unfold SendOk HandlerOk; decide +kernel), (by decide +kernel), (by decide +kernel), (by decide +kernel), (by decide +kernel), (by decide +kernel), (by decide +kernel), (by decide +kernel), (by decide +kernel), (canSend_ok (by decide +kernel))⟩

theorem test_meets_DoneDispatchesOrIdles_0 : ∃ (i : Instr) (s : State), (i = .done ∨ i = .doneShort) ∧ CanEnd s ∧ ∃ m r, candidates s.core.mail = m :: r :=
  ⟨.done, inbox task [msg1], (by decide +kernel), (canEnd_ok (ready_ok (by decide +kernel)) (by decide +kernel) (by unfold NoTrace; decide +kernel) (by decide +kernel)), msg1, [], (by decide +kernel)⟩

theorem test_meets_DoneDispatchesOrIdles_1 : ∃ (i : Instr) (s : State), (i = .done ∨ i = .doneShort) ∧ CanEnd s ∧ candidates s.core.mail = [] ∧ s.core.mail.deque = [] ∧ victims s = [] :=
  ⟨.doneShort, task, (by decide +kernel), (canEnd_ok (ready_ok (by decide +kernel)) (by decide +kernel) (by unfold NoTrace; decide +kernel) (by decide +kernel)), (by decide +kernel), (by decide +kernel), (by decide +kernel)⟩

theorem test_meets_InboxAndQueueInstructions_0 : ∃ s : State, (s.core.mail.inbox ≠ [] ∨ pendingInts s.core ≠ []) :=
  ⟨inbox mon [msg1], (by decide +kernel)⟩

theorem test_meets_InboxAndQueueInstructions_0a : ∃ s : State, (s.core.mail.inbox ≠ [] ∨ pendingInts s.core ≠ []) :=
  ⟨mon.mapEv (fun e => { e with p80 := true }), (by decide +kernel)⟩

theorem test_meets_InboxAndQueueInstructions_1 : ∃ s : State, s.core.mail.inbox = [] ∧ pendingInts s.core = [] :=
  ⟨mon, (by decide +kernel), (by decide +kernel)⟩

theorem test_meets_InboxAndQueueInstructions_2 : ∃ (d a : Reg) (s : State), NoPendX s d ∧ (s.x a).toNat ≤ 2 :=
  ⟨3, 4, inbox (regs mon 0 0 0) [msg1], (noPend_ok (by decide +kernel)), (by decide +kernel)⟩

theorem test_meets_InboxAndQueueInstructions_2a : ∃ (d a : Reg) (s : State), NoPendX s d ∧ (s.x a).toNat ≤ 2 :=
  ⟨3, 4, inbox (regs mon 0 2 0) [msg1], (noPend_ok (by decide +kernel)), (by decide +kernel)⟩

theorem test_meets_InboxAndQueueInstructions_3 : ∃ (d a b : Reg) (s : State), NoPendX s d ∧ HandlerOk (s.x b) 0 :=
  ⟨3, 4, 5, regs mon 0 9 0x100, (noPend_ok (by decide +kernel)), (by unfold HandlerOk; decide +kernel)⟩

theorem test_meets_InboxAndQueueInstructions_3a : ∃ (d a b : Reg) (s : State), NoPendX s d ∧ HandlerOk (s.x b) 0 :=
  ⟨3, 4, 5, (regs mon 0 99 0x100).mapMail (fun m => { m with tags := (List.range 64).map (fun k => (BitVec.ofNat 16 k, 0x100)) }), (noPend_ok (by decide +kernel)), (by unfold HandlerOk; decide +kernel)⟩

theorem test_meets_InboxAndQueueInstructions_4 : ∃ (d a : Reg) (s : State), NoPendX s d :=
  ⟨3, 4, regs mon 0 9 0, (noPend_ok (by decide +kernel))⟩

theorem test_meets_InboxAndQueueInstructions_5 : ∃ (q : Code3) (a : Reg) (s : State), (getQ s.core q.toNat).kind ≠ 0 ∧ (getQ s.core q.toNat).cmd.length < 16 ∧ Ready s :=
  ⟨1, 3, bound mon 1, (by decide +kernel), (by decide +kernel), (ready_ok (by decide +kernel))⟩

theorem test_meets_InboxAndQueueInstructions_6 : ∃ (d : Reg) (q : Code3) (w : W64) (r : List W64) (s : State), NoPendX s d ∧ (getQ s.core q.toNat).kind ≠ 0 ∧ (getQ s.core q.toNat).res = w :: r :=
  ⟨3, 1, 5, [6], bound mon 1, (noPend_ok (by decide +kernel)), (by decide +kernel), (by decide +kernel)⟩

theorem test_meets_InboxAndQueueInstructions_7 : ∃ (d : Reg) (q : Code3) (s : State), NoPendX s d ∧ (getQ s.core q.toNat).kind ≠ 0 :=
  ⟨3, 1, bound mon 1, (noPend_ok (by decide +kernel)), (by decide +kernel)⟩

theorem test_meets_InboxAndQueueInstructions_8 : ∃ (i : Instr) (d : Reg) (q : Code3) (s : State), (i = .qw q d ∨ i = .qr d q ∨ i = .qtry d q) ∧ (getQ s.core q.toNat).kind = 0 ∧ Plain s ∧ SpillFits s.core.sc ∧ modeOf s.core = 0 :=
  ⟨.qr 3 2, 3, 2, bound task 1, (.inr (.inl rfl)), (by decide +kernel), (plain_ok (by decide +kernel)), (by unfold SpillFits; decide +kernel), (by decide +kernel)⟩

theorem test_meets_GroupInstructions_0 : ∃ (d a b : Reg) (s : State), NoPendX s d ∧ GroupOk s (s.x a) (s.x b) ∧ ∃ g, g < 4096 ∧ tget s.un.groups g = none ∧ (∀ h, h < g → tget s.un.groups h ≠ none) :=
  ⟨3, 4, 5, data (regs task 0 0x201 (localAddr 0 64)) 64 [0x100000000], (noPend_ok (by decide +kernel)), ⟨(by decide +kernel),(by decide +kernel),(by decide +kernel),ownBlock_ok (by decide +kernel),(by decide +kernel),(by decide +kernel),(by decide +kernel),(by decide +kernel),(by decide +kernel),(by decide +kernel)⟩, 0, (by decide +kernel), (by decide +kernel), (fun h hh => absurd hh (Nat.not_lt_zero h))⟩

theorem test_meets_GroupInstructions_1 : ∃ (d a b : Reg) (s : State), NoPendX s d ∧ GroupOk s (s.x a) (s.x b) ∧ (∀ g, g < 4096 → tget s.un.groups g ≠ none) :=
  ⟨3, 4, 5, groups (data (regs task 0 0x201 (localAddr 0 64)) 64 [0x100000000]) ((List.range 4096).map (fun k => (k, ⟨1, 5, true, [0]⟩))), (noPend_ok (by decide +kernel)), ⟨(by decide +kernel),(by decide +kernel),(by decide +kernel),ownBlock_ok (by decide +kernel),(by decide +kernel),(by decide +kernel),(by decide +kernel),(by decide +kernel),(by decide +kernel),(by decide +kernel)⟩, (allTaken_ok (f := fun _ => ⟨1, 5, true, [0]⟩) rfl)⟩

theorem test_meets_GroupInstructions_2 : ∃ (a : Reg) (g : Group) (s : State), tget s.un.groups (s.x a).toNat = some g ∧ (s.x a).toNat < 4096 ∧ g.live = true ∧ g.kind ≤ 2 ∧ g.ctx = ctxNum s.core :=
  ⟨3, ⟨1, 5, true, [0, 1]⟩, groups (regs task 3 0 0) [(3, ⟨1, 5, true, [0, 1]⟩)], (by decide +kernel), (by decide +kernel), (by decide +kernel), (by decide +kernel), (by decide +kernel)⟩

theorem test_meets_GroupInstructions_3 : ∃ (d a b : Reg) (s : State), NoPendX s d ∧ (s.x a).toNat < 4096 ∧ ∃ g, tget s.un.groups (s.x a).toNat = some g ∧ g.ctx = ctxNum s.core :=
  ⟨3, 4, 5, groups (regs task 0 3 0) [(3, ⟨1, 5, true, [0, 1]⟩)], (noPend_ok (by decide +kernel)), (by decide +kernel), ⟨1, 5, true, [0, 1]⟩, (by decide +kernel), (by decide +kernel)⟩

theorem test_meets_GroupInstructions_3a : ∃ (d a b : Reg) (s : State), NoPendX s d ∧ (s.x a).toNat < 4096 ∧ ∃ g, tget s.un.groups (s.x a).toNat = some g ∧ g.ctx = ctxNum s.core :=
  ⟨3, 4, 5, groups (regs task 0 3 3) [(3, ⟨1, 5, true, [0, 1]⟩)], (noPend_ok (by decide +kernel)), (by decide +kernel), ⟨1, 5, true, [0, 1]⟩, (by decide +kernel), (by decide +kernel)⟩

theorem test_meets_GroupInstructions_4 : ∃ (d a b : Reg) (s : State), NoPendX s d ∧ (s.x a).toNat < 4096 ∧ (∀ g, tget s.un.groups (s.x a).toNat = some g → g.ctx ≠ ctxNum s.core) :=
  ⟨3, 4, 5, groups (regs task 0 4095 0) [(4095, ⟨1, 6, true, [0, 1]⟩)], (noPend_ok (by decide +kernel)), (by decide +kernel), (fun g h => by rw [← Option.some.inj h]; decide +kernel)⟩

theorem test_meets_GroupInstructions_5 : ∃ (d a : Reg) (g : Nat) (grp : Group) (s : State), NoPendX s d ∧ s.core.wait = none ∧ noCtx s.core = false ∧ inRange s (curCtx s.core) (s.x a).toNat = true ∧ (s.x a).toNat < nCores ∧ (getCore s (s.x a).toNat).pos = s.core.pos ^^^ 1 ∧ pairOf s s.core.num = none ∧ pairOf s (s.x a).toNat = none ∧ s.un.groups.find? (fun e => e.2.kind == 3 && !e.2.live && e.2.ctx == ctxNum s.core && e.2.members == [(s.x a).toNat, s.core.num]) = some (g, grp) :=
  ⟨3, 4, 2, ⟨3, 5, false, [1, 0]⟩, groups (mate (regs task 0 1 0) 1 .waiting) [(2, ⟨3, 5, false, [1, 0]⟩)], (noPend_ok (by decide +kernel)), (by decide +kernel), (by decide +kernel), (by decide +kernel), (by decide +kernel), (by decide +kernel), (by decide +kernel), (by decide +kernel), (by decide +kernel)⟩

theorem test_meets_GroupInstructions_6 : ∃ (d a : Reg) (c g : Nat) (s : State), NoPendX s d ∧ s.core.wait = some ⟨c, .paired g⟩ :=
  ⟨3, 4, 0, 2, waitsFor task (.paired 2), (noPend_ok (by decide +kernel)), (by decide +kernel)⟩

theorem test_meets_GroupInstructions_7 : ∃ (g m : Nat) (grp : Group) (s : State), s.core.wait = none ∧ s.core.pend = [] ∧ s.core.mail.mcast = [] ∧ pairOf s s.core.num = some (g, grp) ∧ partnerOf s s.core.num = some (g, m) ∧ (getPair s g).lead = [] ∧ (getPair s g).follow = [] ∧ (if leads s s.core.num m then (getPair s g).followAt else (getPair s g).leadAt) = some (2 ^ 20) :=
  ⟨2, 1, ⟨3, 5, true, [0, 1]⟩, (groups (mate task 1 .waiting) [(2, ⟨3, 5, true, [0, 1]⟩)]).mapUn (fun u => { u with pairs := [(2, { PairSt.fresh with followAt := some (2 ^ 20) })] }), (by decide +kernel), (by decide +kernel), (by decide +kernel), (by decide +kernel), (by decide +kernel), (by decide +kernel), (by decide +kernel), (by decide +kernel)⟩

theorem test_meets_GroupInstructions_8 : ∃ (c g : Nat) (s : State), s.core.wait = some ⟨c, .paired g⟩ :=
  ⟨0, 2, waitsFor task (.paired 2), (by decide +kernel)⟩

theorem test_meets_BarrierInstructions_0 : ∃ (d a b : Reg) (c : Scope) (s : State), NoPendX s d ∧ BarName s (s.x a) c ∧ (let id := (s.x a).toNat; (let w := (s.x b).toNat; (let x := getBar s id; w / 2 ^ 58 % 2 ^ 3 = 0 ∧ w / 2 ^ 24 % 2 ^ 24 = 0 ∧ (x.count = 0 ∨ (x.ctx = ctxNum s.core ∧ (x.broken = true ∨ (x.arr = 0 ∧ x.carried = 0)))) ∧ x.waiting = [] ∧ w / 2 ^ 63 = 1 ∧ w % 2 ^ 24 ≠ 0))) :=
  ⟨3, 4, 5, .cluster, regs mon 0 3 0x8000000000000004, (noPend_ok (by decide +kernel)), (by unfold BarName; decide +kernel), (by decide +kernel), (by decide +kernel), (by decide +kernel), (by decide +kernel), (by decide +kernel), (by decide +kernel)⟩

theorem test_meets_BarrierInstructions_0a : ∃ (d a b : Reg) (c : Scope) (s : State), NoPendX s d ∧ BarName s (s.x a) c ∧ (let id := (s.x a).toNat; (let w := (s.x b).toNat; (let x := getBar s id; w / 2 ^ 58 % 2 ^ 3 = 0 ∧ w / 2 ^ 24 % 2 ^ 24 = 0 ∧ (x.count = 0 ∨ (x.ctx = ctxNum s.core ∧ (x.broken = true ∨ (x.arr = 0 ∧ x.carried = 0)))) ∧ x.waiting = [] ∧ w / 2 ^ 63 = 1 ∧ w % 2 ^ 24 ≠ 0))) :=
  ⟨3, 4, 5, .device, regs mon 0 0x8000 0x8000000000000004, (noPend_ok (by decide +kernel)), (by unfold BarName; decide +kernel), (by decide +kernel), (by decide +kernel), (by decide +kernel), (by decide +kernel), (by decide +kernel), (by decide +kernel)⟩

theorem test_meets_BarrierInstructions_1 : ∃ (d a b : Reg) (c : Scope) (s : State), NoPendX s d ∧ BarName s (s.x a) c ∧ (let id := (s.x a).toNat; (let w := (s.x b).toNat; (let x := getBar s id; w / 2 ^ 58 % 2 ^ 3 = 0 ∧ w / 2 ^ 24 % 2 ^ 24 = 0 ∧ (x.count = 0 ∨ (x.ctx = ctxNum s.core ∧ (x.broken = true ∨ (x.arr = 0 ∧ x.carried = 0)))) ∧ x.waiting = [] ∧ w / 2 ^ 63 = 0))) :=
  ⟨3, 4, 5, .cluster, barrier3 (regs mon 0 3 0) { Barrier.fresh with ctx := 256, count := 2, broken := true }, (noPend_ok (by decide +kernel)), (by unfold BarName; decide +kernel), (by decide +kernel), (by decide +kernel), (by decide +kernel), (by decide +kernel), (by decide +kernel)⟩

theorem test_meets_BarrierInstructions_2 : ∃ (d a b : Reg) (c : Scope) (s : State), NoPendX s d ∧ BarName s (s.x a) c ∧ Settled s ∧ (let id := (s.x a).toNat; (let x := getBar s id; BarOk s id ∧ NotHeld s id ∧ x.carried < x.count ∧ (s.x b).toNat < 2 ∧ (s.x b).toNat = x.phase.toNat % 2)) :=
  ⟨3, 4, 5, .cluster, barrier3 (regs mon 0 3 0) { Barrier.fresh with ctx := 256, count := 2 }, (noPend_ok (by decide +kernel)), (by unfold BarName; decide +kernel), (settled_ok (by decide +kernel)), (barOk_ok (by decide +kernel)), (notHeld_ok (by decide +kernel)), (by decide +kernel), (by decide +kernel), (by decide +kernel)⟩

theorem test_meets_BarrierInstructions_3 : ∃ (d a b : Reg) (c : Scope) (s : State), NoPendX s d ∧ BarName s (s.x a) c ∧ Settled s ∧ (let id := (s.x a).toNat; (let x := getBar s id; BarOk s id ∧ NotHeld s id ∧ x.carried < x.count ∧ (s.x b).toNat < 2 ∧ (s.x b).toNat = x.phase.toNat % 2 ∧ x.arr + 1 = x.count)) :=
  ⟨3, 4, 5, .cluster, barrier3 (regs mon 0 3 0) { Barrier.fresh with ctx := 256, count := 2, arr := 1 }, (noPend_ok (by decide +kernel)), (by unfold BarName; decide +kernel), (settled_ok (by decide +kernel)), (barOk_ok (by decide +kernel)), (notHeld_ok (by decide +kernel)), (by decide +kernel), (by decide +kernel), (by decide +kernel), (by decide +kernel)⟩

theorem test_meets_BarrierInstructions_4 : ∃ (d a b : Reg) (c : Scope) (s : State), NoPendX s d ∧ BarName s (s.x a) c ∧ Settled s ∧ (let id := (s.x a).toNat; (let x := getBar s id; BarOk s id ∧ NotHeld s id ∧ x.carried < x.count ∧ (s.x b).toNat < 2 ∧ (s.x b).toNat = x.phase.toNat % 2 ∧ x.arr + 1 ≠ x.count)) :=
  ⟨3, 4, 5, .cluster, barrier3 (regs mon 0 3 0) { Barrier.fresh with ctx := 256, count := 2 }, (noPend_ok (by decide +kernel)), (by unfold BarName; decide +kernel), (settled_ok (by decide +kernel)), (barOk_ok (by decide +kernel)), (notHeld_ok (by decide +kernel)), (by decide +kernel), (by decide +kernel), (by decide +kernel), (by decide +kernel)⟩

theorem test_meets_BarrierInstructions_5 : ∃ (d a b : Reg) (c : Scope) (s : State), NoPendX s d ∧ BarName s (s.x a) c ∧ s.core.wait = none ∧ BarOk s (s.x a).toNat ∧ (s.x b).toNat < 2 ^ 32 ∧ (let n := ((getBar s (s.x a).toNat).phase - (s.x b).setWidth 32).toNat; 1 ≤ n ∧ n < 2 ^ 31) :=
  ⟨3, 4, 5, .cluster, barrier3 (regs mon 0 3 2) { Barrier.fresh with ctx := 256, count := 2, phase := 3 }, (noPend_ok (by decide +kernel)), (by unfold BarName; decide +kernel), (by decide +kernel), (barOk_ok (by decide +kernel)), (by decide +kernel), (by decide +kernel), (by decide +kernel)⟩

theorem test_meets_BarrierInstructions_6 : ∃ (d a : Reg) (c : Scope) (s : State), NoPendX s d ∧ BarName s (s.x a) c ∧ Settled s ∧ BarOk s (s.x a).toNat ∧ NotHeld s (s.x a).toNat ∧ (let x := getBar s (s.x a).toNat; 1 < x.count ∧ x.carried < x.count) :=
  ⟨3, 4, .cluster, barrier3 (regs mon 0 3 0) { Barrier.fresh with ctx := 256, count := 2 }, (noPend_ok (by decide +kernel)), (by unfold BarName; decide +kernel), (settled_ok (by decide +kernel)), (barOk_ok (by decide +kernel)), (notHeld_ok (by decide +kernel)), (by decide +kernel), (by decide +kernel)⟩

theorem test_meets_BarrierInstructions_7 : ∃ (d a b : Reg) (c : Scope) (s : State), NoPendX s d ∧ BarName s (s.x a) c ∧ (s.x b).toNat ≤ 1 ∧ (let x := getBar s (s.x a).toNat; InTime s (s.x a).toNat ∧ x.count ≠ 0 ∧ x.ctx = ctxNum s.core) :=
  ⟨3, 4, 5, .cluster, barrier3 (regs mon 0 3 0) { Barrier.fresh with ctx := 256, count := 2 }, (noPend_ok (by decide +kernel)), (by unfold BarName; decide +kernel), (by decide +kernel), (inTime_ok (by decide +kernel)), (by decide +kernel), (by decide +kernel)⟩

theorem test_meets_BarrierInstructions_7a : ∃ (d a b : Reg) (c : Scope) (s : State), NoPendX s d ∧ BarName s (s.x a) c ∧ (s.x b).toNat ≤ 1 ∧ (let x := getBar s (s.x a).toNat; InTime s (s.x a).toNat ∧ x.count ≠ 0 ∧ x.ctx = ctxNum s.core) :=
  ⟨3, 4, 5, .cluster, barrier3 (regs mon 0 3 1) { Barrier.fresh with ctx := 256, count := 2 }, (noPend_ok (by decide +kernel)), (by unfold BarName; decide +kernel), (by decide +kernel), (inTime_ok (by decide +kernel)), (by decide +kernel), (by decide +kernel)⟩

theorem test_meets_BarrierInstructions_8 : ∃ (d a b : Reg) (c : Scope) (s : State), NoPendX s d ∧ BarName s (s.x a) c ∧ (s.x b).toNat ≤ 1 ∧ (let x := getBar s (s.x a).toNat; (x.count = 0 ∨ x.ctx ≠ ctxNum s.core)) :=
  ⟨3, 4, 5, .cluster, regs mon 0 3 0, (noPend_ok (by decide +kernel)), (by unfold BarName; decide +kernel), (by decide +kernel), (by decide +kernel)⟩

theorem test_meets_RecordsAndTheirStatus_0 : ∃ (i : Instr) (d : Reg) (ea : W64) (gang : Bool) (ms : List Nat) (s : State), submitting s i = some (d, ea, gang, ms) ∧ ea.toNat % 128 = 0 ∧ shapeOut s (myCluster s) ea = false ∧ OwnBlock s ea 8 16 ∧ recordBad (recordIn s ea) gang = false ∧ Ready s ∧ ∃ k, recEntry s (myCluster s) = some k ∧ liveRecs s (myCluster s) < 1024 :=
  ⟨.mtsub 3 4, 3, _, false, [], data (regs mon 0 (localAddr 0 0x400) 1) 0x400 (tileWords false), rfl, (by decide +kernel), (by decide +kernel), (ownBlock_ok (by decide +kernel)), (by decide +kernel), (ready_ok (by decide +kernel)), 0, (by decide +kernel), (by decide +kernel)⟩

theorem test_meets_RecordsAndTheirStatus_0a : ∃ (i : Instr) (d : Reg) (ea : W64) (gang : Bool) (ms : List Nat) (s : State), submitting s i = some (d, ea, gang, ms) ∧ ea.toNat % 128 = 0 ∧ shapeOut s (myCluster s) ea = false ∧ OwnBlock s ea 8 16 ∧ recordBad (recordIn s ea) gang = false ∧ Ready s ∧ ∃ k, recEntry s (myCluster s) = some k ∧ liveRecs s (myCluster s) < 1024 :=
  ⟨.mgang 3 4 5, 3, _, true, [0, 1], groups (data (regs mon 0 (localAddr 0 0x400) 1) 0x400 (tileWords true)) [(1, ⟨0, 256, true, [0, 1]⟩)], rfl, (by decide +kernel), (by decide +kernel), (ownBlock_ok (by decide +kernel)), (by decide +kernel), (ready_ok (by decide +kernel)), 0, (by decide +kernel), (by decide +kernel)⟩

theorem test_meets_RecordsAndTheirStatus_1 : ∃ (i : Instr) (d : Reg) (ea : W64) (gang : Bool) (ms : List Nat) (s : State), submitting s i = some (d, ea, gang, ms) ∧ ea.toNat % 128 = 0 ∧ shapeOut s (myCluster s) ea = false ∧ OwnBlock s ea 8 16 ∧ recordBad (recordIn s ea) gang = false ∧ Ready s ∧ 1024 ≤ liveRecs s (myCluster s) :=
  ⟨.mtsub 3 4, 3, _, false, [], recs (data (regs mon 0 (localAddr 0 0x400) 1) 0x400 (tileWords false)) ((List.range 1024).map (fun k => (k, { rec1 with st := .pending }))), rfl, (by decide +kernel), (by decide +kernel), (ownBlock_ok (by decide +kernel)), (by decide +kernel), (ready_ok (by decide +kernel)), (by decide +kernel)⟩

theorem test_meets_RecordsAndTheirStatus_2 : ∃ (d a b : Reg) (slot : Nat) (s : State), NoPendX s d ∧ (s.x a).toNat < 4 ∧ tget s.core.handles (s.x a).toNat = some slot ∧ (s.x b).toNat = 0 :=
  ⟨3, 4, 5, 2, handle (regs mon 0 0 0) 0 2, (noPend_ok (by decide +kernel)), (by decide +kernel), (by decide +kernel), (by decide +kernel)⟩

theorem test_meets_RecordsAndTheirStatus_3 : ∃ (d a b : Reg) (slot : Nat) (s : State), NoPendX s d ∧ (s.x a).toNat < 4 ∧ tget s.core.handles (s.x a).toNat = some slot ∧ 1 ≤ (s.x b).toNat ∧ (s.x b).toNat ≤ 2 :=
  ⟨3, 4, 5, 2, handle (regs mon 0 0 2) 0 2, (noPend_ok (by decide +kernel)), (by decide +kernel), (by decide +kernel), (by decide +kernel), (by decide +kernel)⟩

theorem test_meets_RecordsAndTheirStatus_4 : ∃ (d a b : Reg) (slot : Nat) (s : State), NoPendX s d ∧ (s.x a).toNat < 4 ∧ tget s.core.handles (s.x a).toNat = some slot ∧ mmasOf s (myCluster s) slot = 0 :=
  ⟨3, 4, 5, 2, handle (regs mon 0 0 2) 0 2, (noPend_ok (by decide +kernel)), (by decide +kernel), (by decide +kernel), (by decide +kernel)⟩

theorem test_meets_RecordsAndTheirStatus_5 : ∃ (d a b : Reg) (s : State), NoPendX s d ∧ NamesTicket (s.x a) ∧ NoTicket s (s.x a) ∧ (s.x b).toNat ≤ 2 :=
  ⟨3, 4, 5, regs mon 0 0x8000000000000401 0, (noPend_ok (by decide +kernel)), (by unfold NamesTicket; decide +kernel), (by unfold NoTicket; decide +kernel), (by decide +kernel)⟩

theorem test_meets_RecordsAndTheirStatus_6 : ∃ (d a b : Reg) (s : State), NoPendX s d ∧ NamesTicket (s.x a) ∧ ∃ i r, recOf s (myCluster s) ((s.x a).toNat % 2 ^ 32) = some (i, r) ∧ (s.x b).toNat ≤ 2 :=
  ⟨3, 4, 5, recs (regs mon 0 0x8000000000000401 0) [(1, rec1)], (noPend_ok (by decide +kernel)), (by unfold NamesTicket; decide +kernel), 1, rec1, (by decide +kernel), (by decide +kernel)⟩

theorem test_meets_RecordsAndTheirStatus_6a : ∃ (d a b : Reg) (s : State), NoPendX s d ∧ NamesTicket (s.x a) ∧ ∃ i r, recOf s (myCluster s) ((s.x a).toNat % 2 ^ 32) = some (i, r) ∧ (s.x b).toNat ≤ 2 :=
  ⟨3, 4, 5, recs (regs mon 0 0x8000000000000401 2) [(1, rec1)], (noPend_ok (by decide +kernel)), (by unfold NamesTicket; decide +kernel), 1, rec1, (by decide +kernel), (by decide +kernel)⟩

theorem test_meets_RecordsAndTheirStatus_7 : ∃ (d a b : Reg) (s : State), NoPendX s d ∧ NamesTicket (s.x a) ∧ ∃ i r, recOf s (myCluster s) ((s.x a).toNat % 2 ^ 32) = some (i, r) ∧ (s.x b).toNat ≤ 2 ∧ recState s (myCluster s) i r ∈ [3, 4, 6, 15] :=
  ⟨3, 4, 5, recs (regs mon 0 0x8000000000000401 0) [(1, rec1)], (noPend_ok (by decide +kernel)), (by unfold NamesTicket; decide +kernel), 1, rec1, (by decide +kernel), (by decide +kernel), (by decide +kernel)⟩

theorem test_meets_AccumulatorInstructions_0 : ∃ (d a : Reg) (h : Nat) (s : State), NoPendX s d ∧ h < 4 ∧ (s.x a).toNat = 2 ^ 9 + h ∧ tget s.core.handles h = none ∧ ∃ slot, reserveSlot s (myCluster s) = some slot :=
  ⟨3, 4, 1, regs mon 0 0x201 0, (noPend_ok (by decide +kernel)), (by decide +kernel), (by decide +kernel), (by decide +kernel), 0, (by decide +kernel)⟩

theorem test_meets_AccumulatorInstructions_1 : ∃ (d a : Reg) (h : Nat) (s : State), NoPendX s d ∧ h < 4 ∧ (s.x a).toNat = 2 ^ 9 + h ∧ tget s.core.handles h = none ∧ reserveSlot s (myCluster s) = none :=
  ⟨3, 4, 1, accs (regs mon 0 0x201 0) ((List.range 32).map (fun k => (k, { Acc.fresh with st := .busy }))), (noPend_ok (by decide +kernel)), (by decide +kernel), (by decide +kernel), (by decide +kernel), (by decide +kernel)⟩

theorem test_meets_AccumulatorInstructions_2 : ∃ (d a : Reg) (h : Nat) (s : State), NoPendX s d ∧ h < 4 ∧ ∃ slot, (s.x a).toNat = 2 ^ 8 + h ∧ tget s.core.handles h = some slot ∧ mmasOf s (myCluster s) slot = 0 :=
  ⟨3, 4, 1, handle (regs mon 0 0x101 0) 1 2, (noPend_ok (by decide +kernel)), (by decide +kernel), 2, (by decide +kernel), (by decide +kernel), (by decide +kernel)⟩

theorem test_meets_AccumulatorInstructions_3 : ∃ (d a : Reg) (h : Nat) (s : State), NoPendX s d ∧ h < 4 ∧ ∃ slot, (s.x a).toNat = h ∧ tget s.core.handles h = some slot ∧ mmasOf s (myCluster s) slot = 0 :=
  ⟨3, 4, 1, handle (regs mon 0 1 0) 1 2, (noPend_ok (by decide +kernel)), (by decide +kernel), 2, (by decide +kernel), (by decide +kernel), (by decide +kernel)⟩

theorem test_meets_AccumulatorInstructions_4 : ∃ (d a : Reg) (s : State), NoPendX s d ∧ NamesTicket (s.x a) ∧ NoTicket s (s.x a) :=
  ⟨3, 4, regs mon 0 0x8000000000000401 0, (noPend_ok (by decide +kernel)), (by unfold NamesTicket; decide +kernel), (by unfold NoTicket; decide +kernel)⟩

theorem test_meets_AccumulatorInstructions_5 : ∃ (d a : Reg) (s : State), NoPendX s d ∧ NamesTicket (s.x a) ∧ ∃ i slot r, Serves s (s.x a) i slot r ∧ (getAcc s (myCluster s) slot).st = .kept :=
  ⟨3, 4, accs (recs (regs mon 0 0x8000000000000401 0) [(1, rec1)]) [(0, { Acc.fresh with st := .kept, owner := 0x401 })], (noPend_ok (by decide +kernel)), (by unfold NamesTicket; decide +kernel), 1, 0, rec1, (by unfold Serves; decide +kernel), (by decide +kernel)⟩

theorem test_meets_AccumulatorInstructions_6 : ∃ (ty : ETy) (d a b : Reg) (slot : Nat) (s : State), (s.x d).toNat < 4 ∧ tget s.core.handles (s.x d).toNat = some slot ∧ (getEng s (myCluster s) (slot / 4)).mmas.length < 2 :=
  ⟨.f16, 3, 8, 16, 2, handle (vecs (regs mon 0 0 0)) 0 2, (by decide +kernel), (by decide +kernel), (by decide +kernel)⟩

theorem test_meets_AccumulatorInstructions_6a : ∃ (ty : ETy) (d a b : Reg) (slot : Nat) (s : State), (s.x d).toNat < 4 ∧ tget s.core.handles (s.x d).toNat = some slot ∧ (getEng s (myCluster s) (slot / 4)).mmas.length < 2 :=
  ⟨.e4m3, 3, 8, 16, 2, handle (vecs (regs mon 0 0 0)) 0 2, (by decide +kernel), (by decide +kernel), (by decide +kernel)⟩

theorem test_meets_AccumulatorInstructions_7 : ∃ (d a b : Reg) (slot : Nat) (s : State), NoPendX s d ∧ s.core.wait = none ∧ (s.x a).toNat < 4 ∧ tget s.core.handles (s.x a).toNat = some slot ∧ mmasOf s (myCluster s) slot = 0 ∧ OwnBlock s (s.x b) 8 2 ∧ (let tgt := BitVec.ofNat 128 (blockWord s (s.x b) 8 0 + blockWord s (s.x b) 8 1 * 2 ^ 64); OwnTarget s tgt) :=
  ⟨3, 4, 5, 0, handle (data (regs mon 0 0 (localAddr 0 0x40)) 0x40 [0x1000000000000000, 0x80]) 0 0, (noPend_ok (by decide +kernel)), (by decide +kernel), (by decide +kernel), (by decide +kernel), (by decide +kernel), (ownBlock_ok (by decide +kernel)), (ownTarget_ok (by decide +kernel))⟩

theorem test_meets_AccumulatorInstructions_8 : ∃ (d a b : Reg) (s : State), NoPendX s d ∧ s.core.wait = none ∧ NamesTicket (s.x a) ∧ NoTicket s (s.x a) :=
  ⟨3, 4, 5, regs mon 0 0x8000000000000401 0, (noPend_ok (by decide +kernel)), (by decide +kernel), (by unfold NamesTicket; decide +kernel), (by unfold NoTicket; decide +kernel)⟩

theorem test_meets_AccumulatorInstructions_9 : ∃ (d a b : Reg) (s : State), NoPendX s d ∧ s.core.wait = none ∧ NamesTicket (s.x a) ∧ ∃ i slot r, Serves s (s.x a) i slot r ∧ (getAcc s (myCluster s) slot).st = .faulted ∧ s.x b = 0 :=
  ⟨3, 4, 5, accs (recs (regs mon 0 0x8000000000000401 0) [(1, rec1)]) [(0, { Acc.fresh with st := .faulted, owner := 0x401 })], (noPend_ok (by decide +kernel)), (by decide +kernel), (by unfold NamesTicket; decide +kernel), 1, 0, rec1, (by unfold Serves; decide +kernel), (by decide +kernel), (by decide +kernel)⟩

theorem test_meets_CopyInstructions_0 : ∃ (i : Instr) (q : Code3) (a : Reg) (kind : Nat) (fenced : Bool) (s : State), posting i = some (q, a, kind, fenced) ∧ (getQ s.core q.toNat).kind = 1 ∧ (getQ s.core q.toNat).cmd.length < 16 ∧ OwnBlock s (s.x a) 8 6 ∧ blockBad kind (copyBlock s (s.x a)) s.core.sys.cpydefh = false ∧ Ready s ∧ (fenced = true → Settled s) :=
  ⟨.cpy 1 4, 1, 4, 0, false, data (regs (bound mon 1) 0 (localAddr 0 0x40) 0) 0x40 [localAddr 0 0x800, localAddr 0 0x1000, 256, 0, 0, 0], rfl, (by decide +kernel), (by decide +kernel), (ownBlock_ok (by decide +kernel)), (by decide +kernel), (ready_ok (by decide +kernel)), (fun h => by cases h)⟩

theorem test_meets_CopyInstructions_0a : ∃ (i : Instr) (q : Code3) (a : Reg) (kind : Nat) (fenced : Bool) (s : State), posting i = some (q, a, kind, fenced) ∧ (getQ s.core q.toNat).kind = 1 ∧ (getQ s.core q.toNat).cmd.length < 16 ∧ OwnBlock s (s.x a) 8 6 ∧ blockBad kind (copyBlock s (s.x a)) s.core.sys.cpydefh = false ∧ Ready s ∧ (fenced = true → Settled s) :=
  ⟨.cpyf 1 4, 1, 4, 0, true, data (regs (bound mon 1) 0 (localAddr 0 0x40) 0) 0x40 [localAddr 0 0x800, localAddr 0 0x1000, 256, 0, 0, 0], rfl, (by decide +kernel), (by decide +kernel), (ownBlock_ok (by decide +kernel)), (by decide +kernel), (ready_ok (by decide +kernel)), (fun _ => settled_ok (by decide +kernel))⟩

theorem test_meets_CopyInstructions_0b : ∃ (i : Instr) (q : Code3) (a : Reg) (kind : Nat) (fenced : Bool) (s : State), posting i = some (q, a, kind, fenced) ∧ (getQ s.core q.toNat).kind = 1 ∧ (getQ s.core q.toNat).cmd.length < 16 ∧ OwnBlock s (s.x a) 8 6 ∧ blockBad kind (copyBlock s (s.x a)) s.core.sys.cpydefh = false ∧ Ready s ∧ (fenced = true → Settled s) :=
  ⟨.gath 1 4, 1, 4, 1, false, data (regs (bound mon 1) 0 (localAddr 0 0x40) 0) 0x40 [localAddr 0 0x800, localAddr 0 0x1000, 0x10001, 0x0001300000000000, 0, 0], rfl, (by decide +kernel), (by decide +kernel), (ownBlock_ok (by decide +kernel)), (by decide +kernel), (ready_ok (by decide +kernel)), (fun h => by cases h)⟩

theorem test_meets_CopyInstructions_0c : ∃ (i : Instr) (q : Code3) (a : Reg) (kind : Nat) (fenced : Bool) (s : State), posting i = some (q, a, kind, fenced) ∧ (getQ s.core q.toNat).kind = 1 ∧ (getQ s.core q.toNat).cmd.length < 16 ∧ OwnBlock s (s.x a) 8 6 ∧ blockBad kind (copyBlock s (s.x a)) s.core.sys.cpydefh = false ∧ Ready s ∧ (fenced = true → Settled s) :=
  ⟨.scat 1 4, 1, 4, 2, false, data (regs (bound mon 1) 0 (localAddr 0 0x40) 0) 0x40 [localAddr 0 0x800, localAddr 0 0x1000, 0x10001, 0x0001300000000000, 0, 0], rfl, (by decide +kernel), (by decide +kernel), (ownBlock_ok (by decide +kernel)), (by decide +kernel), (ready_ok (by decide +kernel)), (fun h => by cases h)⟩

theorem test_meets_CopyInstructions_1 : ∃ (d a b : Reg) (s : State), NoPendX s d ∧ (s.x a).toNat < 2 ^ 32 ∧ (s.x b).toNat ≤ 64 ∧ xferOf s (myCluster s) (s.x a).toNat = none :=
  ⟨3, 4, 5, regs mon 0 0x40 0, (noPend_ok (by decide +kernel)), (by decide +kernel), (by decide +kernel), (by decide +kernel)⟩

theorem test_meets_CopyInstructions_2 : ∃ (d a b : Reg) (s : State), NoPendX s d ∧ (s.x a).toNat < 2 ^ 32 ∧ (s.x b).toNat ≤ 64 ∧ ∃ k x, xferOf s (myCluster s) (s.x a).toNat = some (k, x) :=
  ⟨3, 4, 5, (regs mon 0 0x40 0).mapUn (fun u => { u with xfers := [(0, { Xfer.fresh with gen := 1, st := .done })] }), (noPend_ok (by decide +kernel)), (by decide +kernel), (by decide +kernel), 0, { Xfer.fresh with gen := 1, st := .done }, (by decide +kernel)⟩

theorem test_meets_CopyInstructions_2a : ∃ (d a b : Reg) (s : State), NoPendX s d ∧ (s.x a).toNat < 2 ^ 32 ∧ (s.x b).toNat ≤ 64 ∧ ∃ k x, xferOf s (myCluster s) (s.x a).toNat = some (k, x) :=
  ⟨3, 4, 5, (regs mon 0 0x40 64).mapUn (fun u => { u with xfers := [(0, { Xfer.fresh with gen := 1, st := .done })] }), (noPend_ok (by decide +kernel)), (by decide +kernel), (by decide +kernel), 0, { Xfer.fresh with gen := 1, st := .done }, (by decide +kernel)⟩

theorem test_meets_KernelInstructions_0 : ∃ (d a b : Reg) (h : BitVec 32) (s : State), NoPendX s d ∧ ForkOk (s.x b) ∧ serviceKernel s.core = some h ∧ 16 ≤ s.core.mail.deque.length :=
  ⟨3, 4, 5, 0x105, (working (regs mon 0 0 0x100)).mapMail (fun m => { m with deque := List.replicate 16 item1 }), (noPend_ok (by decide +kernel)), (forkOk_ok (by decide +kernel)), (by decide +kernel), (by decide +kernel)⟩

theorem test_meets_KernelInstructions_1 : ∃ (d a b : Reg) (h : BitVec 32) (s : State), NoPendX s d ∧ ForkOk (s.x b) ∧ serviceKernel s.core = some h ∧ s.core.mail.deque.length < 16 ∧ (let off := (s.x b).toNat / 2 ^ 32 % 2 ^ 16; (let used := (s.x b).toNat / 2 ^ 63 = 1; (used → CounterReadable s off))) :=
  ⟨3, 4, 5, 0x105, working (vecs (regs mon 0 0 0x8000004000000100)), (noPend_ok (by decide +kernel)), (forkOk_ok (by decide +kernel)), (by decide +kernel), (by decide +kernel), (fun _ => ownReadable_ok (by decide +kernel))⟩

theorem test_meets_KernelInstructions_1a : ∃ (d a b : Reg) (h : BitVec 32) (s : State), NoPendX s d ∧ ForkOk (s.x b) ∧ serviceKernel s.core = some h ∧ s.core.mail.deque.length < 16 ∧ (let off := (s.x b).toNat / 2 ^ 32 % 2 ^ 16; (let used := (s.x b).toNat / 2 ^ 63 = 1; (used → CounterReadable s off))) :=
  ⟨3, 4, 5, 0x105, working (vecs (regs mon 0 0 0x100)), (noPend_ok (by decide +kernel)), (forkOk_ok (by decide +kernel)), (by decide +kernel), (by decide +kernel), (fun h => absurd h (by decide +kernel))⟩

theorem test_meets_KernelInstructions_2 : ∃ (a b : Reg) (h : BitVec 32) (k : Nat) (m : Msg) (s : State), ForkOk (s.x b) ∧ (s.x b).toNat / 2 ^ 63 = 0 ∧ s.core.mail.insvc = some m ∧ m.origin = .wake h ∧ kerOf s h = some k ∧ 1 ≤ (getKer s k).live ∧ Settled s ∧ modeOf s.core ≠ 2 ∧ s.core.sys.status.toNat / 2 ^ 14 % 2 = 0 ∧ s.core.sys.status.toNat / 2 ^ 6 % 2 = 0 ∧ s.core.sc.spillBusy = false ∧ NoTrace s ∧ overflowOf s s.core = [] ∧ s.un.dues = [] ∧ candidates s.core.mail = [] ∧ s.core.mail.deque = [] :=
  ⟨4, 5, 0x105, 5, { msg1 with origin := .wake 0x105 }, kers (working (vecs (regs task 0 0 0x100))) [(5, { Kernel.fresh with gen := 1, st := .running, ctx := 5, live := 1 })], (forkOk_ok (by decide +kernel)), (by decide +kernel), (by decide +kernel), (by decide +kernel), (by decide +kernel), (by decide +kernel), (settled_ok (by decide +kernel)), (by decide +kernel), (by decide +kernel), (by decide +kernel), (by decide +kernel), (by unfold NoTrace; decide +kernel), (by decide +kernel), (by decide +kernel), (by decide +kernel), (by decide +kernel)⟩

theorem test_meets_KernelInstructions_3 : ∃ (d a : Reg) (s : State), NoPendX s d ∧ (s.x a).toNat % 8 = 0 ∧ (s.x a).toNat < 2 ^ 16 ∧ CounterReadable s (s.x a).toNat ∧ ofBytes (mread s.mem (counterKey s (s.x a).toNat) 8) = 0 :=
  ⟨3, 4, regs mon 0 0x40 0, (noPend_ok (by decide +kernel)), (by decide +kernel), (by decide +kernel), (ownReadable_ok (by decide +kernel)), (by decide +kernel)⟩

theorem test_meets_KernelInstructions_4 : ∃ (d a : Reg) (s : State), NoPendX s d ∧ (s.x a).toNat % 8 = 0 ∧ (s.x a).toNat < 2 ^ 16 ∧ CounterReadable s (s.x a).toNat ∧ ofBytes (mread s.mem (counterKey s (s.x a).toNat) 8) ≠ 0 :=
  ⟨3, 4, data (regs mon 0 0x40 0) 0x40 [1], (noPend_ok (by decide +kernel)), (by decide +kernel), (by decide +kernel), (ownReadable_ok (by decide +kernel)), (by decide +kernel)⟩

theorem test_meets_KernelInstructions_5 : ∃ (d a : Reg) (s : State), NoPendX s d ∧ (s.x a).toNat % 8 = 0 ∧ (s.x a).toNat < 2 ^ 16 ∧ CounterReadable s (s.x a).toNat ∧ ∃ b : Reg, HandlerOk (s.x b) 0 ∧ ofBytes (mread s.mem (counterKey s (s.x a).toNat) 8) ≠ 0 :=
  ⟨3, 4, data (regs mon 0 0x40 0x100) 0x40 [1], (noPend_ok (by decide +kernel)), (by decide +kernel), (by decide +kernel), (ownReadable_ok (by decide +kernel)), 5, (by unfold HandlerOk; decide +kernel), (by decide +kernel)⟩

theorem test_meets_KernelInstructions_6 : ∃ (d a : Reg) (s : State), NoPendX s d ∧ Settled s ∧ (s.x a).toNat % 64 = 0 ∧ OwnBlock s (s.x a) 8 8 ∧ launchBad s (nodeAt s (s.x a)) = false ∧ ∃ k, kerSlot s = some k :=
  ⟨3, 4, data (regs task 0 (localAddr 0 0x40) 0) 0x40 [0, 0x0000FFFF00000000 * 0, 0x100, 2, 0, 0, 0, 0], (noPend_ok (by decide +kernel)), (settled_ok (by decide +kernel)), (by decide +kernel), (ownBlock_ok (by decide +kernel)), (by decide +kernel), 0, (by decide +kernel)⟩

theorem test_meets_KernelInstructions_7 : ∃ (d a : Reg) (s : State), NoPendX s d ∧ Settled s ∧ (s.x a).toNat % 64 = 0 ∧ OwnBlock s (s.x a) 8 8 ∧ launchBad s (nodeAt s (s.x a)) = false ∧ kerSlot s = none :=
  ⟨3, 4, kers (data (regs task 0 (localAddr 0 0x40) 0) 0x40 [0, 0, 0x100, 2, 0, 0, 0, 0]) ((List.range 256).map (fun k => (k, { Kernel.fresh with gen := 1, st := .running }))), (noPend_ok (by decide +kernel)), (settled_ok (by decide +kernel)), (by decide +kernel), (ownBlock_ok (by decide +kernel)), (by decide +kernel), (by decide +kernel)⟩

theorem test_meets_KernelInstructions_8 : ∃ (d a : Reg) (s : State), NoPendX s d ∧ s.x a ≠ 0 ∧ (s.x a).toNat < 2 ^ 32 ∧ serviceKernel s.core ≠ some ((s.x a).setWidth 32) ∧ kerOf s ((s.x a).setWidth 32) = none :=
  ⟨3, 4, regs mon 0 0x105 0, (noPend_ok (by decide +kernel)), (by decide +kernel), (by decide +kernel), (by decide +kernel), (by decide +kernel)⟩

theorem test_meets_KernelInstructions_9 : ∃ (d a : Reg) (s : State), NoPendX s d ∧ s.x a ≠ 0 ∧ (s.x a).toNat < 2 ^ 32 ∧ serviceKernel s.core ≠ some ((s.x a).setWidth 32) ∧ ∃ k, kerOf s ((s.x a).setWidth 32) = some k ∧ (getKer s k).st = .complete :=
  ⟨3, 4, kers (regs mon 0 0x105 0) [(5, { Kernel.fresh with gen := 1, st := .complete })], (noPend_ok (by decide +kernel)), (by decide +kernel), (by decide +kernel), (by decide +kernel), 5, (by decide +kernel), (by decide +kernel)⟩

theorem test_meets_ExpertInstructions_0 : ∃ (i : Instr) (d : Reg) (c : Nat) (w : W64) (s : State), askingExpert i = some d ∧ NoPendX s d ∧ s.core.wait = some ⟨c, .routed w false⟩ ∧ (∀ d' a b, i = .exretire d' a b → (s.x b).toNat ≤ 15) :=
  ⟨.exroute 3 4 5, 3, 0, 7, waitsFor task (.routed 7 false), rfl, (noPend_ok (by decide +kernel)), (by decide +kernel), (fun _ _ _ h => by cases h)⟩

theorem test_meets_ExpertInstructions_0a : ∃ (i : Instr) (d : Reg) (c : Nat) (w : W64) (s : State), askingExpert i = some d ∧ NoPendX s d ∧ s.core.wait = some ⟨c, .routed w false⟩ ∧ (∀ d' a b, i = .exretire d' a b → (s.x b).toNat ≤ 15) :=
  ⟨.exretire 3 4 5, 3, 0, 7, waitsFor (regs task 0 3 2) (.routed 7 false), rfl, (noPend_ok (by decide +kernel)), (by decide +kernel), (fun _ _ _ h => by cases h; decide +kernel)⟩

theorem test_meets_ExpertInstructions_1 : ∃ (d a b : Reg) (s : State), NoPendX s d ∧ s.core.wait = none ∧ routeBad (s.x b) = false ∧ OwnName s (s.x a).toNat ∧ (let c := getCopy s (s.x a).toNat (dieOf s.core.pos); c.st ≠ .live) :=
  ⟨3, 4, 5, expert (regs task 0 3 0) { exp1 with st := .joining }, (noPend_ok (by decide +kernel)), (by decide +kernel), (by decide +kernel), (ownName_ok (by decide +kernel)), (by decide +kernel)⟩

theorem test_meets_ExpertInstructions_2 : ∃ (d a b : Reg) (s : State), NoPendX s d ∧ s.core.wait = none ∧ routeBad (s.x b) = false ∧ OwnName s (s.x a).toNat ∧ (let c := getCopy s (s.x a).toNat (dieOf s.core.pos); c.st = .live ∧ servingReps c = []) :=
  ⟨3, 4, 5, expert (regs task 0 3 0) { exp1 with reps := [] }, (noPend_ok (by decide +kernel)), (by decide +kernel), (by decide +kernel), (ownName_ok (by decide +kernel)), (by decide +kernel), (by decide +kernel)⟩

theorem test_meets_ExpertInstructions_3 : ∃ (d a b : Reg) (s : State), NoPendX s d ∧ s.core.wait = none ∧ routeBad (s.x b) = false ∧ OwnName s (s.x a).toNat ∧ (let c := getCopy s (s.x a).toNat (dieOf s.core.pos); c.st = .live ∧ servingReps c ≠ [] ∧ (getLog s 3).mode = 0) :=
  ⟨3, 4, 5, expert (regs task 0 3 0) exp1, (noPend_ok (by decide +kernel)), (by decide +kernel), (by decide +kernel), (ownName_ok (by decide +kernel)), (by decide +kernel), (by decide +kernel), (by decide +kernel)⟩

theorem test_meets_ExpertInstructions_4 : ∃ (d a b : Reg) (s : State), NoPendX s d ∧ s.core.wait = none ∧ (s.x b).toNat = 2 ^ 63 ∧ OwnName s ((s.x a).toNat % 2 ^ 32) ∧ (let e := (s.x a).toNat % 2 ^ 32; receiptOpen (getExp s e) (s.x a) = true) :=
  ⟨3, 4, 5, expert (regs task 0 0x0002000000000003 0x8000000000000000) { exp1 with reps := [{ rep1 with slots := [(2, false)] }] }, (noPend_ok (by decide +kernel)), (by decide +kernel), (by decide +kernel), (ownName_ok (by decide +kernel)), (by decide +kernel)⟩

theorem test_meets_ExpertInstructions_5 : ∃ (d a : Reg) (s : State), NoPendX s d ∧ s.core.wait = none ∧ OwnName s (s.x a).toNat ∧ grow s (s.x a).toNat = none :=
  ⟨3, 4, expert (regs task 0 3 0) exp1, (noPend_ok (by decide +kernel)), (by decide +kernel), (ownName_ok (by decide +kernel)), (by decide +kernel)⟩

theorem test_meets_ExpertInstructions_6 : ∃ (d a : Reg) (s : State), NoPendX s d ∧ s.core.wait = none ∧ OwnName s (s.x a).toNat ∧ ∃ k u, grow s (s.x a).toNat = some (k, u) ∧ NoPendX u d :=
  ⟨3, 4, expert (regs task 0 3 0) { exp1 with reps := [rep1, { rep1 with st := .retired }] }, (noPend_ok (by decide +kernel)), (by decide +kernel), (ownName_ok (by decide +kernel)), 1, ((grow (expert (regs task 0 3 0) { exp1 with reps := [rep1, { rep1 with st := .retired }] }) 3).getD (0, task)).2, (by decide +kernel), (noPend_ok (by decide +kernel))⟩

theorem test_meets_ExpertInstructions_7 : ∃ (d a b : Reg) (s : State), NoPendX s d ∧ s.core.wait = none ∧ OwnName s (s.x a).toNat ∧ (s.x b).toNat ≤ 15 ∧ (let x := getExp s (s.x a).toNat; x.st ≠ .live) :=
  ⟨3, 4, 5, expert (regs task 0 3 0) { exp1 with st := .joining }, (noPend_ok (by decide +kernel)), (by decide +kernel), (ownName_ok (by decide +kernel)), (by decide +kernel), (by decide +kernel)⟩

theorem test_meets_ExpertInstructions_8 : ∃ (d a b : Reg) (s : State), NoPendX s d ∧ s.core.wait = none ∧ OwnName s (s.x a).toNat ∧ (s.x b).toNat ≤ 15 ∧ (let x := getExp s (s.x a).toNat; (let k := (s.x b).toNat; x.st = .live ∧ (k ∉ servingReps x ∨ (servingReps x).length < 2))) :=
  ⟨3, 4, 5, expert (regs task 0 3 0) exp1, (noPend_ok (by decide +kernel)), (by decide +kernel), (ownName_ok (by decide +kernel)), (by decide +kernel), (by decide +kernel), (by decide +kernel)⟩

theorem test_meets_ExpertInstructions_9 : ∃ (d a b : Reg) (s : State), NoPendX s d ∧ s.core.wait = none ∧ OwnName s (s.x a).toNat ∧ (s.x b).toNat ≤ 15 ∧ (let x := getExp s (s.x a).toNat; (let k := (s.x b).toNat; x.st = .live ∧ k ∈ servingReps x ∧ 2 ≤ (servingReps x).length)) :=
  ⟨3, 4, 5, expert (regs task 0 3 1) { exp1 with reps := [rep1, rep1] }, (noPend_ok (by decide +kernel)), (by decide +kernel), (ownName_ok (by decide +kernel)), (by decide +kernel), (by decide +kernel), (by decide +kernel), (by decide +kernel)⟩

theorem test_meets_ExpertInstructions_10 : ∃ (d a b : Reg) (s : State), NoPendX s d ∧ s.core.wait = none ∧ OwnName s (s.x a).toNat ∧ (let e := (s.x a).toNat; (let x := getExp s e; (s.x b).toNat % 64 = 0 ∧ x.owner = s.core.num ∧ x.st = .joining ∧ allCopies s e (fun c => c.st == .joining) = true ∧ quiet x = true ∧ contributions x = [] ∧ x.glen % 64 = 0 ∧ OwnLines s (s.x b) (x.glen / 64) ∧ inRange s (ctxNum s.core) s.core.num = true ∧ s.core.num < nCores ∧ s.core.run ≠ .disabled ∧ tget s.mu.away (ctxNum s.core * 8192 + s.core.num) = none)) :=
  ⟨3, 4, 5, expert (regs task 0 3 (localAddr 0 0x40)) { exp1 with st := .joining, reps := [] }, (noPend_ok (by decide +kernel)), (by decide +kernel), (ownName_ok (by decide +kernel)), (by decide +kernel), (by decide +kernel), (by decide +kernel), (by decide +kernel), (by decide +kernel), (by decide +kernel), (by decide +kernel), (ownLines_ok (by decide +kernel)), (by decide +kernel), (by decide +kernel), (by decide +kernel), (by decide +kernel)⟩

theorem test_meets_ExpertInstructions_11 : ∃ (d a b : Reg) (c : Nat) (s : State), NoPendX s d ∧ s.core.wait = some ⟨c, .update⟩ ∧ OwnName s (s.x a).toNat ∧ (let e := (s.x a).toNat; (let x := getExp s e; (s.x b).toNat % 64 = 0 ∧ x.owner = s.core.num ∧ x.st = .updating ∧ OwnLines s (s.x b) (x.wlen / 64) ∧ allCopies s e (fun c => c.st == .updating) = true ∧ quiet x = true ∧ x.pub = true ∧ (∀ r ∈ x.reps, r.job ≠ 1))) :=
  ⟨3, 4, 5, 0, waitsFor (expert (regs task 0 3 (localAddr 0 0x40)) { exp1 with st := .updating, pub := true }) .update, (noPend_ok (by decide +kernel)), (by decide +kernel), (ownName_ok (by decide +kernel)), (by decide +kernel), (by decide +kernel), (by decide +kernel), (ownLines_ok (by decide +kernel)), (by decide +kernel), (by decide +kernel), (by decide +kernel), (by decide +kernel)⟩

theorem test_meets_ExpertInstructions_12 : ∃ (d a b : Reg) (s : State), NoPendX s d ∧ s.core.wait = none ∧ (s.x b).toNat ≤ 16 ∧ NoName s (s.x a).toNat :=
  ⟨3, 4, 5, expert (regs task 0 2 16) exp1, (noPend_ok (by decide +kernel)), (by decide +kernel), (by decide +kernel), (by unfold NoName; decide +kernel)⟩

theorem test_meets_ExpertInstructions_13 : ∃ (d a b : Reg) (s : State), NoPendX s d ∧ s.core.wait = none ∧ (s.x b).toNat ≤ 16 ∧ OwnName s (s.x a).toNat :=
  ⟨3, 4, 5, expert (regs task 0 3 0) exp1, (noPend_ok (by decide +kernel)), (by decide +kernel), (by decide +kernel), (ownName_ok (by decide +kernel))⟩

theorem test_meets_ExpertInstructions_13a : ∃ (d a b : Reg) (s : State), NoPendX s d ∧ s.core.wait = none ∧ (s.x b).toNat ≤ 16 ∧ OwnName s (s.x a).toNat :=
  ⟨3, 4, 5, expert (regs task 0 3 16) exp1, (noPend_ok (by decide +kernel)), (by decide +kernel), (by decide +kernel), (ownName_ok (by decide +kernel))⟩

theorem test_meets_QueryAndHeapInstructions_0 : ∃ (d a b : Reg) (n k : Nat) (s : State), NoPendX s d ∧ s.core.marks = [] ∧ n ≤ k ∧ 1 ≤ k ∧ k ≤ 8 ∧ (s.x a).toNat % 8 = 0 ∧ (s.x a).toNat % 2 ^ 16 + 8 + 8 * k ≤ 0x10000 ∧ OwnBlock s (s.x a) 8 (1 + n) ∧ blockWord s (s.x a) 8 0 = k * 16 + n ∧ (let new := (s.x b).toNat; nanCode .f32 (new / 2 ^ 32) = true) :=
  ⟨3, 4, 5, 1, 2, data (regs mon 0 (localAddr 0 0x40) 0x7FC0000000000005) 0x40 [0x21, 0x3F80000000000001], (noPend_ok (by decide +kernel)), (by decide +kernel), (by decide +kernel), (by decide +kernel), (by decide +kernel), (by decide +kernel), (by decide +kernel), (ownBlock_ok (by decide +kernel)), (by decide +kernel), (by decide +kernel)⟩

theorem test_meets_QueryAndHeapInstructions_1 : ∃ (d a b : Reg) (n k : Nat) (s : State), NoPendX s d ∧ s.core.marks = [] ∧ n ≤ k ∧ 1 ≤ k ∧ k ≤ 8 ∧ (s.x a).toNat % 8 = 0 ∧ (s.x a).toNat % 2 ^ 16 + 8 + 8 * k ≤ 0x10000 ∧ OwnBlock s (s.x a) 8 (1 + n) ∧ blockWord s (s.x a) 8 0 = k * 16 + n ∧ (let new := (s.x b).toNat; nanCode .f32 (new / 2 ^ 32) = false ∧ n < k) :=
  ⟨3, 4, 5, 1, 2, data (regs mon 0 (localAddr 0 0x40) 0x4000000000000005) 0x40 [0x21, 0x3F80000000000001], (noPend_ok (by decide +kernel)), (by decide +kernel), (by decide +kernel), (by decide +kernel), (by decide +kernel), (by decide +kernel), (by decide +kernel), (ownBlock_ok (by decide +kernel)), (by decide +kernel), (by decide +kernel), (by decide +kernel)⟩

theorem test_meets_QueryAndHeapInstructions_2 : ∃ (d a b : Reg) (n k : Nat) (s : State), NoPendX s d ∧ s.core.marks = [] ∧ n ≤ k ∧ 1 ≤ k ∧ k ≤ 8 ∧ (s.x a).toNat % 8 = 0 ∧ (s.x a).toNat % 2 ^ 16 + 8 + 8 * k ≤ 0x10000 ∧ OwnBlock s (s.x a) 8 (1 + n) ∧ blockWord s (s.x a) 8 0 = k * 16 + n ∧ (let new := (s.x b).toNat; nanCode .f32 (new / 2 ^ 32) = false ∧ n = k ∧ heapLt (blockWord s (s.x a) 8 1) new = true) :=
  ⟨3, 4, 5, 1, 1, data (regs mon 0 (localAddr 0 0x40) 0x4000000000000005) 0x40 [0x11, 0x3F80000000000001], (noPend_ok (by decide +kernel)), (by decide +kernel), (by decide +kernel), (by decide +kernel), (by decide +kernel), (by decide +kernel), (by decide +kernel), (ownBlock_ok (by decide +kernel)), (by decide +kernel), (by decide +kernel), (by decide +kernel), (by decide +kernel)⟩

theorem test_meets_QueryAndHeapInstructions_3 : ∃ (d a b : Reg) (n k : Nat) (s : State), NoPendX s d ∧ s.core.marks = [] ∧ n ≤ k ∧ 1 ≤ k ∧ k ≤ 8 ∧ (s.x a).toNat % 8 = 0 ∧ (s.x a).toNat % 2 ^ 16 + 8 + 8 * k ≤ 0x10000 ∧ OwnBlock s (s.x a) 8 (1 + n) ∧ blockWord s (s.x a) 8 0 = k * 16 + n ∧ (let new := (s.x b).toNat; nanCode .f32 (new / 2 ^ 32) = false ∧ n = k ∧ heapLt (blockWord s (s.x a) 8 1) new = false) :=
  ⟨3, 4, 5, 1, 1, data (regs mon 0 (localAddr 0 0x40) 0x3F00000000000005) 0x40 [0x11, 0x3F80000000000001], (noPend_ok (by decide +kernel)), (by decide +kernel), (by decide +kernel), (by decide +kernel), (by decide +kernel), (by decide +kernel), (by decide +kernel), (ownBlock_ok (by decide +kernel)), (by decide +kernel), (by decide +kernel), (by decide +kernel), (by decide +kernel)⟩

theorem test_meets_QueryAndHeapInstructions_4 : ∃ (q : Code3) (a : Reg) (s : State), (getQ s.core q.toNat).kind = 3 ∧ (getQ s.core q.toNat).cmd.length < 16 ∧ Ready s ∧ (s.x a).toNat % 64 = 0 ∧ OwnBlock s (s.x a) 8 8 ∧ headerWrong s (ctxNum s.core) (packetAt s (s.x a)) = false :=
  ⟨1, 4, data (regs (graph0 (bound mon 3)) 0 (localAddr 0 0x40) 0) 0x40 packetWords, (by decide +kernel), (by decide +kernel), (ready_ok (by decide +kernel)), (by decide +kernel), (ownBlock_ok (by decide +kernel)), (by decide +kernel)⟩

theorem test_meets_QueryAndHeapInstructions_5 : ∃ (q : Code3) (a b : Reg) (first count : Nat) (s : State), (getQ s.core q.toNat).kind = 3 ∧ (getQ s.core q.toNat).cmd.length < 16 ∧ Ready s ∧ (s.x a).toNat < 2 ^ 32 ∧ (s.x b).toNat = first + count * 2 ^ 8 ∧ first < 32 ∧ 1 ≤ count ∧ count ≤ 16 ∧ first + count ≤ 32 :=
  ⟨1, 4, 5, 0, 1, regs (bound mon 3) 0 0x40 0x100, (by decide +kernel), (by decide +kernel), (ready_ok (by decide +kernel)), (by decide +kernel), (by decide +kernel), (by decide +kernel), (by decide +kernel), (by decide +kernel), (by decide +kernel)⟩

theorem test_meets_QueryAndHeapInstructions_6 : ∃ (d a : Reg) (s : State), NoPendX s d ∧ (s.x a).toNat < 2 ^ 32 ∧ (let found := queryOf s (ctxNum s.core) ((s.x a).setWidth 32); found = none) :=
  ⟨3, 4, regs mon 0 0x40 0, (noPend_ok (by decide +kernel)), (by decide +kernel), (by decide +kernel)⟩

theorem test_meets_QueryAndHeapInstructions_7 : ∃ (d a : Reg) (s : State), NoPendX s d ∧ (s.x a).toNat < 2 ^ 32 ∧ (let found := queryOf s (ctxNum s.core) ((s.x a).setWidth 32); ∃ k, found = some k ∧ (getQuery s k).st = .cancelled) :=
  ⟨3, 4, queries (regs mon 0 0x40 0) [(0, { Query.fresh with gen := 1, st := .cancelled })], (noPend_ok (by decide +kernel)), (by decide +kernel), 0, (by decide +kernel), (by decide +kernel)⟩

theorem test_meets_QueryAndHeapInstructions_8 : ∃ (d a : Reg) (s : State), NoPendX s d ∧ (s.x a).toNat < 2 ^ 32 ∧ (let found := queryOf s (ctxNum s.core) ((s.x a).setWidth 32); ∃ k, found = some k ∧ ((getQuery s k).st = .done ∨ (getQuery s k).st = .faulted)) :=
  ⟨3, 4, queries (regs mon 0 0x40 0) [(0, { Query.fresh with gen := 1, st := .done })], (noPend_ok (by decide +kernel)), (by decide +kernel), 0, (by decide +kernel), (by decide +kernel)⟩

theorem test_meets_QueryAndHeapInstructions_8a : ∃ (d a : Reg) (s : State), NoPendX s d ∧ (s.x a).toNat < 2 ^ 32 ∧ (let found := queryOf s (ctxNum s.core) ((s.x a).setWidth 32); ∃ k, found = some k ∧ ((getQuery s k).st = .done ∨ (getQuery s k).st = .faulted)) :=
  ⟨3, 4, queries (regs mon 0 0x40 0) [(0, { Query.fresh with gen := 1, st := .faulted })], (noPend_ok (by decide +kernel)), (by decide +kernel), 0, (by decide +kernel), (by decide +kernel)⟩

theorem test_meets_QueryAndHeapInstructions_9 : ∃ (d a : Reg) (s : State), NoPendX s d ∧ (s.x a).toNat < 2 ^ 32 ∧ (let found := queryOf s (ctxNum s.core) ((s.x a).setWidth 32); ∃ k, found = some k ∧ (getQuery s k).st ∈ [QuerySt.reading, .ready, .suspended] ∧ s.un.collects = []) :=
  ⟨3, 4, queries (regs mon 0 0x40 0) [(0, { Query.fresh with gen := 1, st := .reading })], (noPend_ok (by decide +kernel)), (by decide +kernel), 0, (by decide +kernel), (by decide +kernel), (by decide +kernel)⟩

theorem test_meets_QueryAndHeapInstructions_9a : ∃ (d a : Reg) (s : State), NoPendX s d ∧ (s.x a).toNat < 2 ^ 32 ∧ (let found := queryOf s (ctxNum s.core) ((s.x a).setWidth 32); ∃ k, found = some k ∧ (getQuery s k).st ∈ [QuerySt.reading, .ready, .suspended] ∧ s.un.collects = []) :=
  ⟨3, 4, queries (regs mon 0 0x40 0) [(0, { Query.fresh with gen := 1, st := .ready })], (noPend_ok (by decide +kernel)), (by decide +kernel), 0, (by decide +kernel), (by decide +kernel), (by decide +kernel)⟩

theorem test_meets_QueryAndHeapInstructions_9b : ∃ (d a : Reg) (s : State), NoPendX s d ∧ (s.x a).toNat < 2 ^ 32 ∧ (let found := queryOf s (ctxNum s.core) ((s.x a).setWidth 32); ∃ k, found = some k ∧ (getQuery s k).st ∈ [QuerySt.reading, .ready, .suspended] ∧ s.un.collects = []) :=
  ⟨3, 4, queries (regs mon 0 0x40 0) [(0, { Query.fresh with gen := 1, st := .suspended })], (noPend_ok (by decide +kernel)), (by decide +kernel), 0, (by decide +kernel), (by decide +kernel), (by decide +kernel)⟩

theorem test_meets_QueryAndHeapInstructions_10 : ∃ (d a : Reg) (s : State), NoPendX s d ∧ (s.x a).toNat < 2 ^ 32 ∧ (let found := queryOf s (ctxNum s.core) ((s.x a).setWidth 32); ∃ k, found = some k ∧ (getQuery s k).st = .running) :=
  ⟨3, 4, queries (regs mon 0 0x40 0) [(0, { Query.fresh with gen := 1, st := .running })], (noPend_ok (by decide +kernel)), (by decide +kernel), 0, (by decide +kernel), (by decide +kernel)⟩

theorem test_meets_QueryAndHeapInstructions_11 : ∃ (d a : Reg) (s : State), NoPendX s d ∧ (s.x a).toNat < 2 ^ 32 ∧ (let found := queryOf s (ctxNum s.core) ((s.x a).setWidth 32); ∃ k, found = some k ∧ (getQuery s k).st = .completing) :=
  ⟨3, 4, queries (regs mon 0 0x40 0) [(0, { Query.fresh with gen := 1, st := .completing })], (noPend_ok (by decide +kernel)), (by decide +kernel), 0, (by decide +kernel), (by decide +kernel)⟩

theorem test_meets_QueryAndHeapInstructions_12 : ∃ (d a b : Reg) (s : State), NoPendX s d ∧ 1 ≤ modeOf s.core ∧ (s.x a).toNat ≤ 63 ∧ ∃ g, tget s.un.nngraphs (s.x a).toNat = some g ∧ g.ctx ≠ ctxNum s.core :=
  ⟨3, 4, 5, (regs mon 0 0 0).mapUn (fun u => { u with nngraphs := [(0, ⟨5, 0⟩)] }), (noPend_ok (by decide +kernel)), (by decide +kernel), (by decide +kernel), ⟨5, 0⟩, (by decide +kernel), (by decide +kernel)⟩

theorem test_meets_QueryAndHeapInstructions_13 : ∃ (d a b : Reg) (s : State), NoPendX s d ∧ 1 ≤ modeOf s.core ∧ (s.x a).toNat ≤ 63 ∧ (∀ g, tget s.un.nngraphs (s.x a).toNat = some g → g.ctx = ctxNum s.core) ∧ graphUsed s (s.x a).toNat = true :=
  ⟨3, 4, 5, queries (regs mon 0 0 0) [(0, { Query.fresh with gen := 1, st := .ready })], (noPend_ok (by decide +kernel)), (by decide +kernel), (by decide +kernel), (noneAll_ok (by decide +kernel)), (by decide +kernel)⟩

theorem test_meets_QueryAndHeapInstructions_14 : ∃ (d a b : Reg) (s : State), NoPendX s d ∧ 1 ≤ modeOf s.core ∧ (s.x a).toNat ≤ 63 ∧ (∀ g, tget s.un.nngraphs (s.x a).toNat = some g → g.ctx = ctxNum s.core) ∧ graphUsed s (s.x a).toNat = false ∧ s.x b = 0 :=
  ⟨3, 4, 5, regs mon 0 1 0, (noPend_ok (by decide +kernel)), (by decide +kernel), (by decide +kernel), (noneAll_ok (by decide +kernel)), (by decide +kernel), (by decide +kernel)⟩

theorem test_meets_QueryAndHeapInstructions_15 : ∃ (d a b : Reg) (s : State), NoPendX s d ∧ 1 ≤ modeOf s.core ∧ (s.x a).toNat ≤ 63 ∧ (∀ g, tget s.un.nngraphs (s.x a).toNat = some g → g.ctx = ctxNum s.core) ∧ graphUsed s (s.x a).toNat = false ∧ (let desc := BitVec.ofNat 1024 (packNat 64 ((List.range 16).map (blockWord s (s.x b) 8))); s.x b ≠ 0 ∧ (s.x b).toNat % 64 = 0 ∧ OwnBlock s (s.x b) 8 16 ∧ graphBad desc = false) :=
  ⟨3, 4, 5, data (regs mon 0 1 (localAddr 0 0x40)) 0x40 graphWords, (noPend_ok (by decide +kernel)), (by decide +kernel), (by decide +kernel), (noneAll_ok (by decide +kernel)), (by decide +kernel), (by decide +kernel), (by decide +kernel), (ownBlock_ok (by decide +kernel)), (by decide +kernel)⟩

theorem test_meets_QueryAndHeapInstructions_16 : ∃ (d a b : Reg) (s : State), NoPendX s d ∧ (s.x a).toNat < 2 ^ 32 ∧ (s.x b).toNat ≤ 2 ∧ (let found := queryOf s (ctxNum s.core) ((s.x a).setWidth 32); found = none) :=
  ⟨3, 4, 5, regs mon 0 0x40 1, (noPend_ok (by decide +kernel)), (by decide +kernel), (by decide +kernel), (by decide +kernel)⟩

theorem test_meets_QueryAndHeapInstructions_17 : ∃ (d a b : Reg) (s : State), NoPendX s d ∧ (s.x a).toNat < 2 ^ 32 ∧ (s.x b).toNat ≤ 2 ∧ (let found := queryOf s (ctxNum s.core) ((s.x a).setWidth 32); ∃ k, found = some k) :=
  ⟨3, 4, 5, queries (regs mon 0 0x40 0) [(0, { Query.fresh with gen := 1, st := .done })], (noPend_ok (by decide +kernel)), (by decide +kernel), (by decide +kernel), 0, (by decide +kernel)⟩

theorem test_meets_QueryAndHeapInstructions_17a : ∃ (d a b : Reg) (s : State), NoPendX s d ∧ (s.x a).toNat < 2 ^ 32 ∧ (s.x b).toNat ≤ 2 ∧ (let found := queryOf s (ctxNum s.core) ((s.x a).setWidth 32); ∃ k, found = some k) :=
  ⟨3, 4, 5, queries (regs mon 0 0x40 1) [(0, { Query.fresh with gen := 1, st := .done })], (noPend_ok (by decide +kernel)), (by decide +kernel), (by decide +kernel), 0, (by decide +kernel)⟩

theorem test_meets_QueryAndHeapInstructions_17b : ∃ (d a b : Reg) (s : State), NoPendX s d ∧ (s.x a).toNat < 2 ^ 32 ∧ (s.x b).toNat ≤ 2 ∧ (let found := queryOf s (ctxNum s.core) ((s.x a).setWidth 32); ∃ k, found = some k) :=
  ⟨3, 4, 5, queries (regs mon 0 0x40 2) [(0, { Query.fresh with gen := 1, st := .done })], (noPend_ok (by decide +kernel)), (by decide +kernel), (by decide +kernel), 0, (by decide +kernel)⟩

theorem test_meets_PlacementAndCollectives_0 : ∃ (d : Reg) (s : State), NoPendX s d ∧ s.core.task.mov = true :=
  ⟨3, mon.mapCore (fun c => { c with task := { c.task with mov := true } }), (noPend_ok (by decide +kernel)), (by decide +kernel)⟩

theorem test_meets_PlacementAndCollectives_1 : ∃ (d : Reg) (s : State), NoPendX s d ∧ s.core.task.mov = false :=
  ⟨3, mon, (noPend_ok (by decide +kernel)), (by decide +kernel)⟩

theorem test_meets_PlacementAndCollectives_2 : ∃ (d : Reg) (s : State), NoPendX s d :=
  ⟨3, mon, (noPend_ok (by decide +kernel))⟩

theorem test_meets_PlacementAndCollectives_3 : ∃ (d a : Reg) (s : State), NoPendX s d ∧ s.x a = BitVec.allOnes 64 :=
  ⟨3, 4, regs mon 0 (-1) 0, (noPend_ok (by decide +kernel)), (by decide +kernel)⟩

theorem test_meets_PlacementAndCollectives_4 : ∃ (d a : Reg) (s : State), NoPendX s d ∧ (s.x a).toNat < 2 ^ 25 ∧ (ctxNum s.core = 256 ∨ inRange s (ctxNum s.core) (s.x a).toNat = true) ∧ coreHere s (s.x a).toNat = true :=
  ⟨3, 4, regs task 0 2 0, (noPend_ok (by decide +kernel)), (by decide +kernel), (by decide +kernel), (by decide +kernel)⟩

theorem test_meets_PlacementAndCollectives_5 : ∃ (d a : Reg) (s : State), NoPendX s d ∧ (s.x a).toNat < 2 ^ 25 ∧ (ctxNum s.core = 256 ∨ inRange s (ctxNum s.core) (s.x a).toNat = true) ∧ coreHere s (s.x a).toNat = false :=
  ⟨3, 4, regs mon 0 0x10000 0, (noPend_ok (by decide +kernel)), (by decide +kernel), (by decide +kernel), (by decide +kernel)⟩

theorem test_meets_PlacementAndCollectives_6 : ∃ (i : Instr) (d a b : Reg) (kind id c : Nat) (x : Coll) (v : W512) (s : State), collective i = some (d, a, b, kind) ∧ s.core.wait = some ⟨c, .coll id b⟩ ∧ s.out.colls.find? (fun y => y.id == id) = some x ∧ x.failed = none ∧ x.result = some v ∧ QuietV s d :=
  ⟨.aredSum 3 4 5, 3, 4, 5, 0, 7, 0, { Coll.fresh with id := 7, tag := 1, members := [0, 1], result := some 9 }, 9, let s := waitsFor mon (.coll 7 5); { s with out := { s.out with colls := [{ Coll.fresh with id := 7, tag := 1, members := [0, 1], result := some 9 }] } }, rfl, (by decide +kernel), (by decide +kernel), (by decide +kernel), (by decide +kernel), (quiet_ok (by decide +kernel))⟩

theorem test_meets_PlacementAndCollectives_7 : ∃ (i : Instr) (d a b : Reg) (kind : Nat) (g : Group) (s : State), collective i = some (d, a, b, kind) ∧ Settled s ∧ (s.x b).toNat / 2 ^ 32 = 0 ∧ (s.x b).toNat / 2 ^ 12 % 2 ^ 4 = 0 ∧ CollGroup s g (s.x b) ∧ (kind = 3 → (s.x d).toNat % 64 = 0 ∧ (s.x d).toNat / 2 ^ 62 = 2 ∧ (s.x d).toNat / 2 ^ 16 % 2 ^ 21 = 0 ∧ (s.x d).toNat / 2 ^ 37 % 2 ^ 25 = s.core.num ∧ (s.x d).toNat % 2 ^ 16 + 64 * g.members.length ≤ 0x10000) :=
  ⟨.aredMax 3 4 5, 3, 4, 5, 1, ⟨1, 256, true, [0, 1]⟩, groups (vecs (regs mon 0 0 2)) [(2, ⟨1, 256, true, [0, 1]⟩)], rfl, (settled_ok (by decide +kernel)), (by decide +kernel), (by decide +kernel), (collGroup_ok (by decide +kernel)), (fun h => by cases h)⟩

theorem test_meets_PlacementAndCollectives_7a : ∃ (i : Instr) (d a b : Reg) (kind : Nat) (g : Group) (s : State), collective i = some (d, a, b, kind) ∧ Settled s ∧ (s.x b).toNat / 2 ^ 32 = 0 ∧ (s.x b).toNat / 2 ^ 12 % 2 ^ 4 = 0 ∧ CollGroup s g (s.x b) ∧ (kind = 3 → (s.x d).toNat % 64 = 0 ∧ (s.x d).toNat / 2 ^ 62 = 2 ∧ (s.x d).toNat / 2 ^ 16 % 2 ^ 21 = 0 ∧ (s.x d).toNat / 2 ^ 37 % 2 ^ 25 = s.core.num ∧ (s.x d).toNat % 2 ^ 16 + 64 * g.members.length ≤ 0x10000) :=
  ⟨.agath 3 4 5, 3, 4, 5, 3, ⟨1, 256, true, [0, 1]⟩, groups (vecs (regs mon (localAddr 0 0x400) 0 2)) [(2, ⟨1, 256, true, [0, 1]⟩)], rfl, (settled_ok (by decide +kernel)), (by decide +kernel), (by decide +kernel), (collGroup_ok (by decide +kernel)), (fun _ => by decide +kernel)⟩

theorem test_meets_TranslationAndContextInstructions_0 : ∃ (a b : Reg) (s : State), 1 ≤ modeOf s.core ∧ Settled s ∧ (s.x b).toNat / 2 ^ 32 % 2 ^ 26 = 0 ∧ (s.x b).toNat / 2 ^ 59 % 2 ^ 3 ≤ 4 ∧ s.net = [] ∧ s.mu.parked = [] ∧ s.mu.excl = [] :=
  ⟨4, 5, regs mon 0 0x40000 0, (by decide +kernel), (settled_ok (by decide +kernel)), (by decide +kernel), (by decide +kernel), (by decide +kernel), (by decide +kernel), (by decide +kernel)⟩

theorem test_meets_TranslationAndContextInstructions_1 : ∃ (d a b : Reg) (s : State), NoPendX s d ∧ 1 ≤ modeOf s.core ∧ (s.x b).toNat < 2 ^ 9 :=
  ⟨3, 4, 5, regs (paged mon) 0 0x40000 5, (noPend_ok (by decide +kernel)), (by decide +kernel), (by decide +kernel)⟩

theorem test_meets_TranslationAndContextInstructions_1a : ∃ (d a b : Reg) (s : State), NoPendX s d ∧ 1 ≤ modeOf s.core ∧ (s.x b).toNat < 2 ^ 9 :=
  ⟨3, 4, 5, regs (mon) 0 0x40000 5, (noPend_ok (by decide +kernel)), (by decide +kernel), (by decide +kernel)⟩

theorem test_meets_TranslationAndContextInstructions_2 : ∃ (d a b : Reg) (s : State), NoPendX s d ∧ 1 ≤ modeOf s.core ∧ (s.x b).toNat / 2 ^ 8 % 2 ^ 54 = 0 ∧ (let asid := (s.x b).toNat % 2 ^ 8; (let w := walkVa s asid (s.x a); (let mine (f : TlbEnt) : Bool := f.pin && (f.asid == asid || decide (f.w0.toNat / 2 ^ 6 % 2 = 1)); (s.x b).toNat / 2 ^ 63 = 1 ∧ w.ok = false))) :=
  ⟨3, 4, 5, regs (mon) 0 0x40000 0x8000000000000005, (noPend_ok (by decide +kernel)), (by decide +kernel), (by decide +kernel), (by decide +kernel), (by decide +kernel)⟩

theorem test_meets_TranslationAndContextInstructions_3 : ∃ (d a b : Reg) (s : State), NoPendX s d ∧ 1 ≤ modeOf s.core ∧ (s.x b).toNat / 2 ^ 8 % 2 ^ 54 = 0 ∧ (let asid := (s.x b).toNat % 2 ^ 8; (let w := walkVa s asid (s.x a); (let mine (f : TlbEnt) : Bool := f.pin && (f.asid == asid || decide (f.w0.toNat / 2 ^ 6 % 2 = 1)); (let same (f : TlbEnt) : Bool := mine f && f.size == w.size && f.vpage == (entOf asid (s.x a).toNat w).vpage; (let l := getCtlb s (myCluster s); (s.x b).toNat / 2 ^ 63 = 1 ∧ w.ok = true ∧ (s.x b).toNat / 2 ^ 62 % 2 = 0 ∧ l.any same = true))))) :=
  ⟨3, 4, 5, regs (ctlbOf (paged mon) true) 0 0x40000 0x8000000000000005, (noPend_ok (by decide +kernel)), (by decide +kernel), (by decide +kernel), (by decide +kernel), (by decide +kernel), (by decide +kernel), (by decide +kernel)⟩

theorem test_meets_TranslationAndContextInstructions_4 : ∃ (d a b : Reg) (s : State), NoPendX s d ∧ 1 ≤ modeOf s.core ∧ (s.x b).toNat / 2 ^ 8 % 2 ^ 54 = 0 ∧ (let asid := (s.x b).toNat % 2 ^ 8; (let w := walkVa s asid (s.x a); (let mine (f : TlbEnt) : Bool := f.pin && (f.asid == asid || decide (f.w0.toNat / 2 ^ 6 % 2 = 1)); (let l := getCtlb s (myCluster s); (s.x b).toNat / 2 ^ 63 = 1 ∧ w.ok = true ∧ (s.x b).toNat / 2 ^ 62 % 2 = 0 ∧ l.all (fun f => !f.pin) = true)))) :=
  ⟨3, 4, 5, regs (ctlbOf (paged mon) false) 0 0x40000 0x8000000000000005, (noPend_ok (by decide +kernel)), (by decide +kernel), (by decide +kernel), (by decide +kernel), (by decide +kernel), (by decide +kernel), (by decide +kernel)⟩

theorem test_meets_TranslationAndContextInstructions_5 : ∃ (d a b : Reg) (s : State), NoPendX s d ∧ 1 ≤ modeOf s.core ∧ (s.x b).toNat / 2 ^ 8 % 2 ^ 54 = 0 ∧ (let asid := (s.x b).toNat % 2 ^ 8; (let w := walkVa s asid (s.x a); (let mine (f : TlbEnt) : Bool := f.pin && (f.asid == asid || decide (f.w0.toNat / 2 ^ 6 % 2 = 1)); (let hit (f : TlbEnt) : Bool := mine f && (s.x a).toNat / 2 ^ pageBits f.size == f.vpage; (let l := getCtlb s (myCluster s); (s.x b).toNat / 2 ^ 62 = 0 ∧ l.any hit = false))))) :=
  ⟨3, 4, 5, regs (paged mon) 0 0x40000 5, (noPend_ok (by decide +kernel)), (by decide +kernel), (by decide +kernel), (by decide +kernel), (by decide +kernel)⟩

theorem test_meets_TranslationAndContextInstructions_6 : ∃ (d a b : Reg) (s : State), NoPendX s d ∧ 1 ≤ modeOf s.core ∧ (s.x b).toNat / 2 ^ 8 % 2 ^ 54 = 0 ∧ (let asid := (s.x b).toNat % 2 ^ 8; (let w := walkVa s asid (s.x a); (let mine (f : TlbEnt) : Bool := f.pin && (f.asid == asid || decide (f.w0.toNat / 2 ^ 6 % 2 = 1)); (let hit (f : TlbEnt) : Bool := mine f && (s.x a).toNat / 2 ^ pageBits f.size == f.vpage; (let l := getCtlb s (myCluster s); (s.x b).toNat / 2 ^ 62 = 0 ∧ l.any hit = true))))) :=
  ⟨3, 4, 5, regs (ctlbOf (paged mon) true) 0 0x40000 5, (noPend_ok (by decide +kernel)), (by decide +kernel), (by decide +kernel), (by decide +kernel), (by decide +kernel)⟩

theorem test_meets_TranslationAndContextInstructions_7 : ∃ (d a b : Reg) (s : State), NoPendX s d ∧ 1 ≤ modeOf s.core ∧ (s.x b).toNat / 2 ^ 8 % 2 ^ 54 = 0 ∧ (let asid := (s.x b).toNat % 2 ^ 8; (let w := walkVa s asid (s.x a); (let mine (f : TlbEnt) : Bool := f.pin && (f.asid == asid || decide (f.w0.toNat / 2 ^ 6 % 2 = 1)); (let same (f : TlbEnt) : Bool := mine f && f.size == w.size && f.vpage == (entOf asid (s.x a).toNat w).vpage; (s.x b).toNat / 2 ^ 62 = 3 ∧ w.ok = true ∧ (∀ cl, cl / 32 = myCluster s / 32 → (getCtlb s cl).any same = true ∨ (getCtlb s cl).all (fun f => !f.pin) = true))))) :=
  ⟨3, 4, 5, regs (ctlbOf (paged mon) false) 0 0x40000 0xC000000000000005, (noPend_ok (by decide +kernel)), (by decide +kernel), (by decide +kernel), (by decide +kernel), (by decide +kernel), (fun cl _ => ctlb_ok (p := fun l => l.any _ = true ∨ l.all (fun f => !f.pin) = true) (l := [⟨5, 0, 2, 0x3F, 0, false⟩]) rfl (.inr rfl) (.inr (by decide +kernel)) cl)⟩

theorem test_meets_TranslationAndContextInstructions_7a : ∃ (d a b : Reg) (s : State), NoPendX s d ∧ 1 ≤ modeOf s.core ∧ (s.x b).toNat / 2 ^ 8 % 2 ^ 54 = 0 ∧ (let asid := (s.x b).toNat % 2 ^ 8; (let w := walkVa s asid (s.x a); (let mine (f : TlbEnt) : Bool := f.pin && (f.asid == asid || decide (f.w0.toNat / 2 ^ 6 % 2 = 1)); (let same (f : TlbEnt) : Bool := mine f && f.size == w.size && f.vpage == (entOf asid (s.x a).toNat w).vpage; (s.x b).toNat / 2 ^ 62 = 3 ∧ w.ok = true ∧ (∀ cl, cl / 32 = myCluster s / 32 → (getCtlb s cl).any same = true ∨ (getCtlb s cl).all (fun f => !f.pin) = true))))) :=
  ⟨3, 4, 5, regs (ctlbOf (paged mon) true) 0 0x40000 0xC000000000000005, (noPend_ok (by decide +kernel)), (by decide +kernel), (by decide +kernel), (by decide +kernel), (by decide +kernel), (fun cl _ => ctlb_ok (p := fun l => l.any _ = true ∨ l.all (fun f => !f.pin) = true) (l := [⟨5, 0, 2, 0x3F, 0, true⟩]) rfl (.inr rfl) (.inl (by decide +kernel)) cl)⟩

theorem test_meets_TranslationAndContextInstructions_8 : ∃ (d a b : Reg) (s : State), NoPendX s d ∧ 1 ≤ modeOf s.core ∧ (s.x b).toNat / 2 ^ 8 % 2 ^ 54 = 0 ∧ (let asid := (s.x b).toNat % 2 ^ 8; (let w := walkVa s asid (s.x a); (let mine (f : TlbEnt) : Bool := f.pin && (f.asid == asid || decide (f.w0.toNat / 2 ^ 6 % 2 = 1)); (s.x b).toNat / 2 ^ 62 = 1))) :=
  ⟨3, 4, 5, regs (ctlbOf (paged mon) true) 0 0x40000 0x4000000000000005, (noPend_ok (by decide +kernel)), (by decide +kernel), (by decide +kernel), (by decide +kernel)⟩

theorem test_meets_TranslationAndContextInstructions_9 : ∃ (a b : Reg) (s : State), modeOf s.core = 2 ∧ Unpaired s ∧ (let c := (s.x a).toNat; (s.x a = BitVec.allOnes 64 ∨ (c < 256 ∧ ctxLife s c = 1 ∧ inRange s c s.core.num = true ∧ ctxNum s.core ≠ c)) ∧ noCtx s.core = false) :=
  ⟨4, 5, regs (status task 2) 0 (-1) 7, (by decide +kernel), (by unfold Unpaired; decide +kernel), (by decide +kernel), (by decide +kernel)⟩

theorem test_meets_TranslationAndContextInstructions_10 : ∃ (a b : Reg) (s : State), modeOf s.core = 2 ∧ Unpaired s ∧ (let c := (s.x a).toNat; (s.x a = BitVec.allOnes 64 ∨ (c < 256 ∧ ctxLife s c = 1 ∧ inRange s c s.core.num = true ∧ ctxNum s.core ≠ c)) ∧ noCtx s.core = true ∧ s.x a ≠ BitVec.allOnes 64) :=
  ⟨4, 5, regs (ctx5 mon) 0 5 0, (by decide +kernel), (by unfold Unpaired; decide +kernel), (by decide +kernel), (by decide +kernel), (by decide +kernel)⟩

theorem test_meets_TranslationAndContextInstructions_11 : ∃ (a b : Reg) (s : State), modeOf s.core = 2 ∧ Unpaired s ∧ (let c := (s.x a).toNat; (s.x a = BitVec.allOnes 64 ∨ (c < 256 ∧ ctxLife s c = 1 ∧ inRange s c s.core.num = true ∧ ctxNum s.core ≠ c)) ∧ noCtx s.core = true ∧ s.x a = BitVec.allOnes 64) :=
  ⟨4, 5, regs mon 0 (-1) 0, (by decide +kernel), (by unfold Unpaired; decide +kernel), (by decide +kernel), (by decide +kernel), (by decide +kernel)⟩

theorem test_meets_WaitAndInterruptEvents_0 : ∃ (i : Instr) (n : Nat) (s : State), Named s n ∧ (getCore s n).run = .waiting ∧ waitMet s n = true ∧ (i = .waitComplete ∨ i = .waitaTimeout ∨ (i = .waitaWake ∧ ∃ w ∈ s.mu.watches, w.1 = n) ∨ (i = .waitaPoll ∧ ∀ w ∈ s.mu.watches, w.1 ≠ n) ∨ i = .loadReply) :=
  ⟨.waitComplete, 0, runs mon .waiting, (by unfold Named; decide +kernel), (by decide +kernel), (by decide +kernel), (.inl rfl)⟩

theorem test_meets_WaitAndInterruptEvents_0a : ∃ (i : Instr) (n : Nat) (s : State), Named s n ∧ (getCore s n).run = .waiting ∧ waitMet s n = true ∧ (i = .waitComplete ∨ i = .waitaTimeout ∨ (i = .waitaWake ∧ ∃ w ∈ s.mu.watches, w.1 = n) ∨ (i = .waitaPoll ∧ ∀ w ∈ s.mu.watches, w.1 ≠ n) ∨ i = .loadReply) :=
  ⟨.waitaTimeout, 0, runs mon .waiting, (by unfold Named; decide +kernel), (by decide +kernel), (by decide +kernel), (.inr (.inl rfl))⟩

theorem test_meets_WaitAndInterruptEvents_0b : ∃ (i : Instr) (n : Nat) (s : State), Named s n ∧ (getCore s n).run = .waiting ∧ waitMet s n = true ∧ (i = .waitComplete ∨ i = .waitaTimeout ∨ (i = .waitaWake ∧ ∃ w ∈ s.mu.watches, w.1 = n) ∨ (i = .waitaPoll ∧ ∀ w ∈ s.mu.watches, w.1 ≠ n) ∨ i = .loadReply) :=
  ⟨.waitaWake, 0, let s := runs mon .waiting; { s with mu := { s.mu with watches := [(0, 64)] } }, (by unfold Named; decide +kernel), (by decide +kernel), (by decide +kernel), (.inr (.inr (.inl ⟨rfl, (0, 64), by decide +kernel, rfl⟩)))⟩

theorem test_meets_WaitAndInterruptEvents_0c : ∃ (i : Instr) (n : Nat) (s : State), Named s n ∧ (getCore s n).run = .waiting ∧ waitMet s n = true ∧ (i = .waitComplete ∨ i = .waitaTimeout ∨ (i = .waitaWake ∧ ∃ w ∈ s.mu.watches, w.1 = n) ∨ (i = .waitaPoll ∧ ∀ w ∈ s.mu.watches, w.1 ≠ n) ∨ i = .loadReply) :=
  ⟨.waitaPoll, 0, runs mon .waiting, (by unfold Named; decide +kernel), (by decide +kernel), (by decide +kernel), (.inr (.inr (.inr (.inl ⟨rfl, by decide +kernel⟩))))⟩

theorem test_meets_WaitAndInterruptEvents_0d : ∃ (i : Instr) (n : Nat) (s : State), Named s n ∧ (getCore s n).run = .waiting ∧ waitMet s n = true ∧ (i = .waitComplete ∨ i = .waitaTimeout ∨ (i = .waitaWake ∧ ∃ w ∈ s.mu.watches, w.1 = n) ∨ (i = .waitaPoll ∧ ∀ w ∈ s.mu.watches, w.1 ≠ n) ∨ i = .loadReply) :=
  ⟨.loadReply, 0, runs mon .waiting, (by unfold Named; decide +kernel), (by decide +kernel), (by decide +kernel), (.inr (.inr (.inr (.inr rfl))))⟩

theorem test_meets_WaitAndInterruptEvents_1 : ∃ (n : Nat) (s : State), s.arg.a = n ∧ NumberedCores s ∧ n ∈ quadCores s (quadOf (getCore s n).pos) ∧ (getCore s n).standing = .waiting ∧ (getCore s n).wait.map (·.what) = some .align ∧ evictedSlots (getCore s n).vec = [] ∧ (∀ m ∈ quadCores s (quadOf (getCore s n).pos), m ≠ n → (getCore s m).standing = .running → curAsid (getCore s m) ≠ curAsid (getCore s n)) ∧ (∀ m ∈ quadCores s (quadOf (getCore s n).pos), NoDebug (focus s m)) :=
  ⟨0, runs (waitsFor mon .align) .waiting, (by decide +kernel), (numbered_ok rfl), (by decide +kernel), (by decide +kernel), (by decide +kernel), (by decide +kernel), (by decide +kernel), (by unfold NoDebug; decide +kernel)⟩

theorem test_meets_WaitAndInterruptEvents_2 : ∃ (n : Nat) (s : State), Named s n ∧ (getCore s n).ev.sliceRem = 1 ∧ (getCore s n).ev.sliceLen ≠ 0 ∧ noCtx (getCore s n) = false ∧ modeOf (getCore s n) ≠ 2 ∧ (getCore s n).run ∈ [Run.idle, .running, .waiting] :=
  ⟨0, (task).mapEv (fun e => { e with sliceRem := 1, sliceLen := 5 }), (by unfold Named; decide +kernel), (by decide +kernel), (by decide +kernel), (by decide +kernel), (by decide +kernel), (by decide +kernel)⟩

theorem test_meets_WaitAndInterruptEvents_3 : ∃ (n off : Nat) (s : State), Named s n ∧ n < 2 ^ 25 ∧ off < 2 ^ 16 ∧ off % 32 = 0 ∧ (getCore s n).freq = some (localAddr n off) ∧ isPoisoned s (lineKeyOf (localKey n off)) = false :=
  ⟨0, 64, mon.mapCore (fun c => { c with freq := some (localAddr 0 64) }), (by unfold Named; decide +kernel), (by decide +kernel), (by decide +kernel), (by decide +kernel), (by decide +kernel), (by decide +kernel)⟩

theorem test_meets_WaitAndInterruptEvents_4 : ∃ (n : Nat) (s : State), Named s n :=
  ⟨0, mon, (by unfold Named; decide +kernel)⟩

theorem test_meets_WaitAndInterruptEvents_5 : ∃ (n k c : Nat) (s : State), Named s n ∧ (let f := focus s n; (let q := quadOf f.core.pos; (let lim := f.core.sys.framewait.toNat % 2 ^ 32; f.core.wait = some ⟨c, .take⟩ ∧ (getPool s q).takers.find? (fun w => w.1 == n) = some (n, k) ∧ k < 4 ∧ lim ≠ 0 ∧ c + lim ≤ s.cycle ∧ f.core.run = .waiting ∧ Unpaired f ∧ f.core.mail.mcast = [] ∧ WindowOk f.core.sc ∧ SpillFits f.core.sc ∧ modeOf f.core = 0))) :=
  ⟨0, 1, 0, at_ (pool (runs (waitsFor (task.mapSys (fun r => { r with framewait := 5 })) .take) .waiting) { Pool.fresh with takers := [(0, 1)] }) 5, (by unfold Named; decide +kernel), (by decide +kernel), (by decide +kernel), (by decide +kernel), (by decide +kernel), (by decide +kernel), (by decide +kernel), (by unfold Unpaired; decide +kernel), (by decide +kernel), (windowOk_ok (by decide +kernel)), (by unfold SpillFits; decide +kernel), (by decide +kernel)⟩

theorem test_meets_WaitAndInterruptEvents_6 : ∃ (id c : Nat) (s : State), s.arg.a = id ∧ (getBar s id).tlim ≠ 0 ∧ (getBar s id).broken = false ∧ (getBar s id).clock = some c ∧ c + (getBar s id).tlim ≤ s.cycle :=
  ⟨3, 0, at_ (args (barrier3 mon { Barrier.fresh with ctx := 256, count := 2, tlim := 5, clock := some 0 }) 3) 5, (by decide +kernel), (by decide +kernel), (by decide +kernel), (by decide +kernel), (by decide +kernel)⟩

theorem test_meets_WaitAndInterruptEvents_7 : ∃ (n : Nat) (s : State), Named s n ∧ (let f := focus s n; Plain f ∧ SpillFits f.core.sc ∧ f.core.run = .running ∧ f.core.ev.point = none ∧ f.core.mail.mcast = [] ∧ s.arg.b = 0x80 ∧ nextInt f = some 0x80 ∧ unacked f n = []) :=
  ⟨0, args ((task).mapEv (fun e => { e with p80 := true })) 0 0x80, (by unfold Named; decide +kernel), (plain_ok (by decide +kernel)), (by unfold SpillFits; decide +kernel), (by decide +kernel), (by decide +kernel), (by decide +kernel), (by decide +kernel), (by decide +kernel), (by decide +kernel)⟩

theorem test_meets_WaitAndInterruptEvents_8 : ∃ (n : Nat) (s : State), Named s n ∧ (let f := focus s n; Plain f ∧ SpillFits f.core.sc ∧ f.core.run = .running ∧ f.core.ev.point = none ∧ f.core.mail.mcast = [] ∧ ∃ w, s.arg.b = 0x83 ∧ nextInt f = some 0x83 ∧ f.core.ev.p83 = some w) :=
  ⟨0, args ((task).mapEv (fun e => { e with p83 := some 9 })) 0 0x83, (by unfold Named; decide +kernel), (plain_ok (by decide +kernel)), (by unfold SpillFits; decide +kernel), (by decide +kernel), (by decide +kernel), (by decide +kernel), 9, (by decide +kernel), (by decide +kernel), (by decide +kernel)⟩

theorem test_meets_WaitAndInterruptEvents_9 : ∃ (n : Nat) (s : State), Named s n ∧ (let f := focus s n; Plain f ∧ SpillFits f.core.sc ∧ f.core.run = .running ∧ f.core.ev.point = none ∧ f.core.mail.mcast = [] ∧ ∃ x r, s.arg.b = 0x84 ∧ nextInt f = some 0x84 ∧ f.core.ev.notices = x :: r) :=
  ⟨0, args ((sysm).mapEv (fun e => { e with notices := [⟨1, 2⟩] })) 0 0x84, (by unfold Named; decide +kernel), (plain_ok (by decide +kernel)), (by unfold SpillFits; decide +kernel), (by decide +kernel), (by decide +kernel), (by decide +kernel), ⟨1, 2⟩, [], (by decide +kernel), (by decide +kernel), (by decide +kernel)⟩

theorem test_meets_WaitAndInterruptEvents_10 : ∃ (n : Nat) (s : State), Named s n ∧ (let f := focus s n; Plain f ∧ SpillFits f.core.sc ∧ f.core.run = .running ∧ f.core.ev.point = none ∧ f.core.mail.mcast = [] ∧ s.arg.b = 0x81 ∧ nextInt f = some 0x81) :=
  ⟨0, args (((status task 0x200).mapMail (fun m => { m with insvc := some msg1 })).mapEv (fun e => { e with p81 := true })) 0 0x81, (by unfold Named; decide +kernel), (plain_ok (by decide +kernel)), (by unfold SpillFits; decide +kernel), (by decide +kernel), (by decide +kernel), (by decide +kernel), (by decide +kernel), (by decide +kernel)⟩

theorem test_meets_WaitAndInterruptEvents_11 : ∃ (n : Nat) (s : State), Named s n ∧ (let f := focus s n; Plain f ∧ SpillFits f.core.sc ∧ f.core.run = .running ∧ f.core.ev.point = none ∧ f.core.mail.mcast = [] ∧ ∃ h id r, s.arg.b = 0x82 ∧ nextInt f = some 0x82 ∧ f.core.mail.cpyq = (h, id) :: r) :=
  ⟨0, args ((status task 0x20).mapMail (fun m => { m with cpyq := [(0x100, 7)] })) 0 0x82, (by unfold Named; decide +kernel), (plain_ok (by decide +kernel)), (by unfold SpillFits; decide +kernel), (by decide +kernel), (by decide +kernel), (by decide +kernel), 0x100, 7, [], (by decide +kernel), (by decide +kernel), (by decide +kernel)⟩

theorem test_meets_MessageAndPoolEvents_0 : ∃ (dest : Nat) (p : Packet) (m : Msg) (s : State), findPacket s s.arg.a = some p ∧ p.body = .msg dest m none ∧ m.far = false ∧ m.origin = .plain ∧ m.attaching = false ∧ tget s.mu.parked dest = none ∧ s.mu.portStop = [] ∧ FirstToArrive s dest m.age ∧ TakesMessage s p.ctx dest m.cls :=
  ⟨0, { pk0 with body := .msg 0 msg1 none }, msg1, flies mon { pk0 with body := .msg 0 msg1 none }, (by decide +kernel), (by decide +kernel), (by decide +kernel), (by decide +kernel), (by decide +kernel), (by decide +kernel), (by decide +kernel), (first_ok (by decide +kernel)), (takes_ok (by decide +kernel))⟩

theorem test_meets_MessageAndPoolEvents_1 : ∃ (dest q off at_ age by_ lines : Nat) (p : Packet) (m : Msg) (s : State), findPacket s s.arg.a = some p ∧ p.body = .attach dest age by_ (localAddr q at_) off (64 * lines) ∧ q ≠ dest ∧ at_ % 64 = 0 ∧ at_ + 64 * lines ≤ 2 ^ 16 ∧ off % 64 = 0 ∧ off + 64 * lines ≤ 2 ^ 16 ∧ Reached s p.ctx q ∧ Reached s p.ctx dest ∧ HomeHears s p dest ∧ Clean s q at_ (64 * lines) ∧ NoneLate s dest ∧ s.net.takeWhile (fun x => x.id != p.id) = [] ∧ heldAtPort s p (.loc dest) = none ∧ membersFor s p.ctx dest = [dest] ∧ (getCore s dest).num = dest ∧ m ∈ (getCore s dest).mail.inbox ∧ m.age = age ∧ m.attaching = true ∧ (∀ x ∈ (getCore s dest).mail.inbox, x.age = age → x = m) :=
  ⟨0, 1, 128, 64, 1, 1, 2, { pk0 with body := .attach 0 1 1 (localAddr 1 64) 128 (64 * 2) }, { msg1 with attaching := true }, flies (inbox mon [{ msg1 with attaching := true }]) { pk0 with body := .attach 0 1 1 (localAddr 1 64) 128 (64 * 2) }, (by decide +kernel), (by decide +kernel), (by decide +kernel), (by decide +kernel), (by decide +kernel), (by decide +kernel), (by decide +kernel), (reached_ok (by decide +kernel)), (reached_ok (by decide +kernel)), (.inl (by decide +kernel)), (clean_ok (by decide +kernel)), (noneLate_ok (by decide +kernel)), (by decide +kernel), (by decide +kernel), (by decide +kernel), (by decide +kernel), (by decide +kernel), (by decide +kernel), (by decide +kernel), (by decide +kernel)⟩

theorem test_meets_MessageAndPoolEvents_2 : ∃ (n : Nat) (p : Packet) (r : List Packet) (dest : Nat) (m : Msg) (s : State), Named s n ∧ (getCore s n).mail.mcast = p :: r ∧ p.body = .msg dest m none ∧ dest < nCores ∧ p.toPeer = false ∧ inInterface (focus s n) < 8 ∧ partnerOf s n = none :=
  ⟨0, { pk0 with src := .core 0, body := .msg 1 msg1 none }, [], 1, msg1, mon.mapMail (fun m => { m with mcast := [{ pk0 with src := .core 0, body := .msg 1 msg1 none }] }), (by unfold Named; decide +kernel), (by decide +kernel), (by decide +kernel), (by decide +kernel), (by decide +kernel), (by decide +kernel), (by decide +kernel)⟩

theorem test_meets_MessageAndPoolEvents_3 : ∃ (p : Packet) (n : Nat) (err : Option W64) (s : State), s.net.find? (fun q => q.id == s.arg.a) = some p ∧ p.st = .acked err ∧ p.src = .core n ∧ (getCore s n).num = n ∧ partnerOf s n = none ∧ (getCore s n).marks = [] ∧ s.un.dues = [] ∧ tget s.un.kept (p.ctx * 8192 + n) = none ∧ (getCore s n).ev.doneBelow ≤ p.id :=
  ⟨{ pk0 with src := .core 0, st := .acked none }, 0, none, flies mon { pk0 with src := .core 0, st := .acked none }, (by decide +kernel), (by decide +kernel), (by decide +kernel), (by decide +kernel), (by decide +kernel), (by decide +kernel), (by decide +kernel), (by decide +kernel), (by decide +kernel)⟩

theorem test_meets_MessageAndPoolEvents_3a : ∃ (p : Packet) (n : Nat) (err : Option W64) (s : State), s.net.find? (fun q => q.id == s.arg.a) = some p ∧ p.st = .acked err ∧ p.src = .core n ∧ (getCore s n).num = n ∧ partnerOf s n = none ∧ (getCore s n).marks = [] ∧ s.un.dues = [] ∧ tget s.un.kept (p.ctx * 8192 + n) = none ∧ (getCore s n).ev.doneBelow ≤ p.id :=
  ⟨{ pk0 with src := .core 0, st := .acked (some 64) }, 0, (some 64), flies mon { pk0 with src := .core 0, st := .acked (some 64) }, (by decide +kernel), (by decide +kernel), (by decide +kernel), (by decide +kernel), (by decide +kernel), (by decide +kernel), (by decide +kernel), (by decide +kernel), (by decide +kernel)⟩

theorem test_meets_MessageAndPoolEvents_4 : ∃ (n q : Nat) (s : State), Named s n ∧ s.arg.b = q ∧ (getQ (getCore s n) q).cmd = [] ∧ (let kind := s.arg.w.toNat % 2 ^ 4; (let unit := s.arg.w.toNat / 2 ^ 16 % 2 ^ 16; (kind = 0 ∨ (kind ∈ [1, 2, 4] ∧ unit = 0) ∨ (kind = 3 ∧ unit < 12) ∨ (kind = 5 ∧ unit < 4096)))) :=
  ⟨0, 1, args mon 0 1 0 false 0x50003, (by unfold Named; decide +kernel), (by decide +kernel), (by decide +kernel), (by decide +kernel)⟩

theorem test_meets_MessageAndPoolEvents_5 : ∃ (n q k : Nat) (ws : List W64) (s : State), Named s n ∧ s.arg.b = q ∧ (getQ (getCore s n) q).owed = [(k, ws)] ∧ ws ≠ [] ∧ (getQ (getCore s n) q).res.length + ws.length ≤ 16 :=
  ⟨0, 1, 7, [9], args ((bound mon 1).mapMail (fun m => { m with q := [(1, { QReg.fresh with kind := 1, res := [5], owed := [(7, [9])] })] })) 0 1, (by unfold Named; decide +kernel), (by decide +kernel), (by decide +kernel), (by decide +kernel), (by decide +kernel)⟩

theorem test_meets_MessageAndPoolEvents_6 : ∃ (n : Nat) (i : Item) (r : List Item) (s : State), Named s n ∧ (getCore s n).run = .idle ∧ candidates (getCore s n).mail = [] ∧ (getCore s n).mail.deque = i :: r ∧ Unpaired (focus s n) ∧ evictedSlots (getCore s n).vec = [] :=
  ⟨0, item1, [], runs (mon.mapMail (fun m => { m with deque := [item1] })) .idle, (by unfold Named; decide +kernel), (by decide +kernel), (by decide +kernel), (by decide +kernel), (by unfold Unpaired; decide +kernel), (by decide +kernel)⟩

theorem test_meets_MessageAndPoolEvents_7 : ∃ (j : JoinWait) (s : State), s.un.joins.filter (fun k => k.core == s.arg.a) = [j] ∧ j.due = true ∧ FirstToArrive s j.core 0 ∧ TakesMessage s j.ctx j.core 0 :=
  ⟨⟨256, 0, 0x40, 0x100, true⟩, mon.mapUn (fun u => { u with joins := [⟨256, 0, 0x40, 0x100, true⟩] }), (by decide +kernel), (by decide +kernel), (first_ok (by decide +kernel)), (takes_ok (by decide +kernel))⟩

theorem test_meets_MessageAndPoolEvents_8 : ∃ (quad n set : Nat) (r : List (Nat × Nat)) (s : State), s.arg.a = quad ∧ (getPool s quad).claims = (n, set) :: r ∧ (getPool s quad).reloads = [] ∧ evictedSlots (getCore s n).vec = [] ∧ (getCore s n).num = n ∧ (unmappedIn (getCore s n).vec set).length ≤ (freeFrames (getPool s quad)).length :=
  ⟨0, 0, 2, [], pool mon { Pool.fresh with claims := [(0, 2)] }, (by decide +kernel), (by decide +kernel), (by decide +kernel), (by decide +kernel), (by decide +kernel), (by decide +kernel)⟩

theorem test_meets_MessageAndPoolEvents_9 : ∃ (quad n k : Nat) (r : List Reload) (v : State) (l : List Byte) (s : State), s.arg.a = quad ∧ (getPool s quad).reloads = .slots n :: r ∧ (getCore s n).num = n ∧ evictedSlots (getCore s n).vec = [k] ∧ 1 ≤ (freeFrames (getPool s quad)).length ∧ ctxRead (putPool s quad { getPool s quad with reloads := r }) n (slotImage (putPool s quad { getPool s quad with reloads := r }) n k) 512 = .ok (v, l) :=
  ⟨0, 0, 1, [], (got (mon, []) reloadR).1, (got (mon, []) reloadR).2, reloadSt, (by decide +kernel), (by decide +kernel), (by decide +kernel), (by decide +kernel), (by decide +kernel), reloadR_ok⟩

theorem test_meets_MessageAndPoolEvents_10 : ∃ (quad n k f b : Nat) (u : State) (s : State), s.arg.a = quad ∧ (getPool s quad).stallSince = some b ∧ b + 64 ≤ s.cycle ∧ (getPool s quad).writing = [] ∧ poolStuck s quad = true ∧ victimOf s quad = some n ∧ (getPool s quad).offers = [] ∧ k ∈ [1, 2, 3] ∧ (getCore s n).vec.slot k = .mapped f ∧ (∀ j, j ≠ k → ∀ g, (getCore s n).vec.slot j ≠ .mapped g) ∧ (getCore s n).pend = [] ∧ ctxWrite s n (slotImage s n k) (frameBytes s quad f) = .ok u :=
  ⟨0, 0, 1, 5, 0, (got stuck (ctxWrite stuck 0 (slotImage stuck 0 1) (frameBytes stuck 0 5))), stuck, (by decide +kernel), (by decide +kernel), (by decide +kernel), (by decide +kernel), (by decide +kernel), (by decide +kernel), (by decide +kernel), (by decide +kernel), (by decide +kernel), (oneSlot_ok (by decide +kernel)), (by decide +kernel), (got_eq (d := stuck) (by decide +kernel))⟩

theorem test_meets_MessageAndPoolEvents_11 : ∃ (quad : Nat) (s : State), s.arg.a = quad ∧ (getPool s quad).writing ≠ [] :=
  ⟨0, pool mon { Pool.fresh with writing := [5] }, (by decide +kernel), (by decide +kernel)⟩

theorem test_meets_MessageAndPoolEvents_12 : ∃ s : State, s.arg.b = 8 ∧ ∃ k, s.arg.a = 0x10000 + 8 * k ∧ k < 256 :=
  ⟨args mon 0x10028 8 0 false 0x20001, (by decide +kernel), 5, (by decide +kernel), (by decide +kernel)⟩

theorem test_meets_MessageAndPoolEvents_13 : ∃ s : State, s.arg.b = 8 ∧ s.arg.a = 0x15000 :=
  ⟨args mon 0x15000 8 0 false 5, (by decide +kernel), (by decide +kernel)⟩

theorem test_meets_MessageAndPoolEvents_14 : ∃ s : State, s.arg.b = 8 ∧ ∃ d, s.arg.a = 0x15300 + 8 * d ∧ d < 4 :=
  ⟨args mon 0x15308 8 0 false 7, (by decide +kernel), 1, (by decide +kernel), (by decide +kernel)⟩

theorem test_meets_MemoryAndHostEvents_0 : ∃ (p : Packet) (n off m : Nat) (l : List Byte) (s : State), findPacket s s.arg.a = some p ∧ p.body = .store (.loc n) (cellsAt (localKey n off) l) ∧ p.src = .core m ∧ Reached s p.ctx n ∧ HomeHears s p n ∧ l ≠ [] ∧ off + l.length ≤ 2 ^ 16 ∧ heldAtPort s p (.loc n) = none :=
  ⟨{ pk0 with body := .store (.loc 0) (cellsAt (localKey 0 64) [1, 2]) }, 0, 64, 1, [1, 2], flies mon { pk0 with body := .store (.loc 0) (cellsAt (localKey 0 64) [1, 2]) }, (by decide +kernel), (by decide +kernel), (by decide +kernel), (reached_ok (by decide +kernel)), (.inl (by decide +kernel)), (by decide +kernel), (by decide +kernel), (by decide +kernel)⟩

theorem test_meets_MemoryAndHostEvents_1 : ∃ (p : Packet) (n off m k : Nat) (op : AOp) (expect arg : W64) (s : State), findPacket s s.arg.a = some p ∧ p.body = .atomic (.loc n) (localKey n off) k op expect arg ∧ p.src = .core m ∧ Reached s p.ctx n ∧ HomeHears s p n ∧ (k = 4 ∨ k = 8) ∧ off % k = 0 ∧ off < 2 ^ 16 ∧ Whole s n off k ∧ heldAtPort s p (.loc n) = none :=
  ⟨{ pk0 with body := .atomic (.loc 0) (localKey 0 64) 8 .add 0 5 }, 0, 64, 1, 8, .add, 0, 5, flies mon { pk0 with body := .atomic (.loc 0) (localKey 0 64) 8 .add 0 5 }, (by decide +kernel), (by decide +kernel), (by decide +kernel), (reached_ok (by decide +kernel)), (.inl (by decide +kernel)), (by decide +kernel), (by decide +kernel), (by decide +kernel), (whole_ok (by decide +kernel)), (by decide +kernel)⟩

theorem test_meets_MemoryAndHostEvents_2 : ∃ (p : Packet) (h kid m : Nat) (c : Bool) (cells : List Host.Cell) (s : State), findPacket s s.arg.a = some p ∧ p.body = .store (.hbm h c kid) cells ∧ h ≠ p.die ∧ p.src = .core m ∧ s.mu.excl = [] ∧ s.mu.hostHeld = [] ∧ (∀ x ∈ cells, stackStOf s x.1 = .up) ∧ heardAll s h p.die p.stamp = true :=
  ⟨{ pk0 with body := .store (.hbm 1 false 0) [(3 * 2 ^ 36 + 64, 7)] }, 1, 0, 1, false, [(3 * 2 ^ 36 + 64, 7)], flies mon { pk0 with body := .store (.hbm 1 false 0) [(3 * 2 ^ 36 + 64, 7)] }, (by decide +kernel), (by decide +kernel), (by decide +kernel), (by decide +kernel), (by decide +kernel), (by decide +kernel), (by decide +kernel), (by decide +kernel)⟩

theorem test_meets_MemoryAndHostEvents_3 : ∃ (die : Nat) (s : State), s.arg.a = die ∧ die < 4 ∧ (getDie s die).beatDue = true ∧ (getDie s die).lastBeat + 256 ≤ s.cycle :=
  ⟨0, at_ (args (die0 mon { Die.fresh with beatDue := true }) 0) 256, (by decide +kernel), (by decide +kernel), (by decide +kernel), (by decide +kernel)⟩

theorem test_meets_MemoryAndHostEvents_4 : ∃ (p : Packet) (s : State), s.net.find? (fun q => q.die == s.arg.a && q.body == .beat s.arg.b) = some p ∧ bridgeAhead s s.arg.a s.arg.b (s.net.takeWhile (fun q => q.id != p.id)) = false ∧ (∀ q ∈ s.net, q.id = p.id → q = p) :=
  ⟨{ pk0 with body := .beat 1 }, args { mon with net := [{ pk0 with body := .beat 1 }] } 0 1, (by decide +kernel), (by decide +kernel), (by decide +kernel)⟩

theorem test_meets_MemoryAndHostEvents_5 : ∃ (n : Nat) (s : State), s.arg.a = n ∧ (let x := getStack s n; x.st = .up ∧ s.arg.b % 4 ≠ x.ratio) :=
  ⟨0, args mon 0 2, (by decide +kernel), (by decide +kernel), (by decide +kernel)⟩

theorem test_meets_MemoryAndHostEvents_6 : ∃ (n : Nat) (s : State), s.arg.a = n ∧ (let x := getStack s n; x.st = .pending ∧ NoneSwitches s) :=
  ⟨0, args (stack0 mon { Stack.fresh with st := .pending }) 0, (by decide +kernel), (by decide +kernel), (by unfold NoneSwitches; decide +kernel)⟩

theorem test_meets_MemoryAndHostEvents_7 : ∃ (n : Nat) (s : State), s.arg.a = n ∧ (let x := getStack s n; (x.st = .up ∨ x.st = .pending) ∧ NoneSwitches s) :=
  ⟨0, args (stack0 mon { Stack.fresh with st := .pending }) 0, (by decide +kernel), (by decide +kernel), (by unfold NoneSwitches; decide +kernel)⟩

theorem test_meets_MemoryAndHostEvents_7a : ∃ (n : Nat) (s : State), s.arg.a = n ∧ (let x := getStack s n; (x.st = .up ∨ x.st = .pending) ∧ NoneSwitches s) :=
  ⟨0, args (stack0 mon { Stack.fresh with st := .up }) 0, (by decide +kernel), (by decide +kernel), (by unfold NoneSwitches; decide +kernel)⟩

theorem test_meets_MemoryAndHostEvents_8 : ∃ (n : Nat) (s : State), s.arg.a = n ∧ (let x := getStack s n; x.st = .retraining ∧ s.arg.f = true) :=
  ⟨0, args (stack0 mon { Stack.fresh with st := .retraining }) 0 0 0 true, (by decide +kernel), (by decide +kernel), (by decide +kernel)⟩

theorem test_meets_MemoryAndHostEvents_9 : ∃ (n : Nat) (s : State), s.arg.a = n ∧ (let x := getStack s n; x.st = .retraining ∧ s.arg.f = false ∧ 2 ≤ x.tries ∧ (getCore s (noticeCore s (n / 3))).ev.notices = []) :=
  ⟨0, args (stack0 mon { Stack.fresh with st := .retraining, tries := 2 }) 0, (by decide +kernel), (by decide +kernel), (by decide +kernel), (by decide +kernel), (by decide +kernel)⟩

theorem test_meets_MemoryAndHostEvents_10 : ∃ (n : Nat) (s : State), s.arg.a = n ∧ (let x := getStack s n; x.interval + 32000000 ≤ s.out.time) :=
  ⟨0, { mon with out := { mon.out with time := 32000000 } }, (by decide +kernel), (by decide +kernel)⟩

theorem test_meets_MemoryAndHostEvents_11 : ∃ (n : Nat) (s : State), s.arg.a = n ∧ (let x := getStack s n; 4096 ≤ tgetD x.acts (rowKey s.arg.b s.arg.c) 0 ∧ tget x.busy s.arg.b = none) :=
  ⟨0, args (stack0 mon { Stack.fresh with acts := [(rowKey 2 3, 4096)] }) 0 2 3, (by decide +kernel), (by decide +kernel), (by decide +kernel)⟩

theorem test_meets_MemoryAndHostEvents_12 : ∃ (n : Nat) (s : State), s.arg.a = n ∧ (let x := getStack s n; ∃ c, tget x.busy s.arg.b = some c ∧ c + 1536 ≤ s.cycle) :=
  ⟨0, at_ (args (stack0 mon { Stack.fresh with busy := [(2, 0)] }) 0 2) 1536, (by decide +kernel), 0, (by decide +kernel), (by decide +kernel)⟩

theorem test_meets_MemoryAndHostEvents_13 : ∃ s : State, hostUp s = true ∧ hdmOf s s.arg.a = none :=
  ⟨args (hostOn mon) 64 8, (by decide +kernel), (by decide +kernel)⟩

theorem test_meets_MemoryAndHostEvents_14 : ∃ s : State, hostUp s = true ∧ ∃ h u place key, hdmOf s s.arg.a = some h ∧ h.hctl.toNat / 2 ^ 62 % 2 = 1 ∧ hostResolve s h s.arg.a .store = .ok (u, place, key) ∧ place ≠ .aperture ∧ (let cells := cellsAt key (bytesOf s.arg.line.toNat s.arg.b); placeThere u place cells = true ∧ writeReady u place cells ((homeOf u place).getD 0) Clock.zero = true) :=
  ⟨hostSt, (by decide +kernel), ⟨0, 0x200000, 0, 0xC000000000000505⟩, ((got (mon, .aperture, 0) (hostResolve hostSt ⟨0, 0x200000, 0, 0xC000000000000505⟩ 0x40000 .store)).1), .hbm 0 false 0, 0x40000, (by decide +kernel), (by decide +kernel), (got_eq (d := (mon, .aperture, 0)) (by decide +kernel)), (by decide +kernel), (by decide +kernel), (by decide +kernel)⟩

theorem test_meets_MemoryAndHostEvents_15 : ∃ s : State, hostUp s = true ∧ ∃ h cause, hdmOf s s.arg.a = some h ∧ h.hctl.toNat / 2 ^ 62 % 2 = 1 ∧ hostResolve s h s.arg.a .store = .error (.cause cause) :=
  ⟨(let s := hostSt; { s with mu := { s.mu with root := [], ctlb := [] } }), (by decide +kernel), ⟨0, 0x200000, 0, 0xC000000000000505⟩, 5, (by decide +kernel), (by decide +kernel), (by decide +kernel)⟩

theorem test_meets_MemoryAndHostEvents_16 : ∃ s : State, hostUp s = true ∧ ∃ h cause, hdmOf s s.arg.a = some h ∧ hostResolve s h s.arg.a .load = .error (.cause cause) :=
  ⟨(let s := hostSt; { s with mu := { s.mu with root := [], ctlb := [] } }), (by decide +kernel), ⟨0, 0x200000, 0, 0xC000000000000505⟩, 5, (by decide +kernel), (by decide +kernel)⟩

theorem test_meets_MemoryAndHostEvents_17 : ∃ s : State, hostUp s = true ∧ ∃ h u v place key l c, hdmOf s s.arg.a = some h ∧ hostResolve s h s.arg.a .load = .ok (u, place, key) ∧ readHome u ((homeOf u place).getD 0) place key s.arg.b = .ok (v, l, c) :=
  ⟨hostSt, (by decide +kernel), ⟨0, 0x200000, 0, 0xC000000000000505⟩, ((got (mon, .aperture, 0) (hostResolve hostSt ⟨0, 0x200000, 0, 0xC000000000000505⟩ 0x40000 .load)).1), (got (mon, [], Clock.zero) (readHome ((got (mon, .aperture, 0) (hostResolve hostSt ⟨0, 0x200000, 0, 0xC000000000000505⟩ 0x40000 .load)).1) ((homeOf ((got (mon, .aperture, 0) (hostResolve hostSt ⟨0, 0x200000, 0, 0xC000000000000505⟩ 0x40000 .load)).1) (.hbm 0 false 0)).getD 0) (.hbm 0 false 0) 0x40000 8)).1, .hbm 0 false 0, 0x40000, (got (mon, [], Clock.zero) (readHome ((got (mon, .aperture, 0) (hostResolve hostSt ⟨0, 0x200000, 0, 0xC000000000000505⟩ 0x40000 .load)).1) ((homeOf ((got (mon, .aperture, 0) (hostResolve hostSt ⟨0, 0x200000, 0, 0xC000000000000505⟩ 0x40000 .load)).1) (.hbm 0 false 0)).getD 0) (.hbm 0 false 0) 0x40000 8)).2.1, (got (mon, [], Clock.zero) (readHome ((got (mon, .aperture, 0) (hostResolve hostSt ⟨0, 0x200000, 0, 0xC000000000000505⟩ 0x40000 .load)).1) ((homeOf ((got (mon, .aperture, 0) (hostResolve hostSt ⟨0, 0x200000, 0, 0xC000000000000505⟩ 0x40000 .load)).1) (.hbm 0 false 0)).getD 0) (.hbm 0 false 0) 0x40000 8)).2.2, (by decide +kernel), (got_eq (d := (mon, .aperture, 0)) (by decide +kernel)), (got_eq (d := (mon, [], Clock.zero)) (by decide +kernel))⟩

theorem test_meets_MemoryAndHostEvents_18 : ∃ s : State, hostUp s = true ∧ ∃ v l, ctxLife s s.arg.a = 1 ∧ (∀ b ∈ s.un.doorbells, b.tail.isSome = true) ∧ (∀ l ∈ s.mu.rdc, l.2.stale = false) ∧ (let cp := subqCp s s.arg.a; (let b : Bell := ⟨s.arg.a, s.cycle, subqAddr s s.arg.a, cp, none⟩; (let u := raiseFloor s cp (chipClock s); (let w := { u with un := { u.un with doorbells := u.un.doorbells ++ [b] } }; vaRead w (cp * 32) s.arg.a (subqAddr s s.arg.a) 64 = .ok (v, l))))) :=
  ⟨rung, (by decide +kernel), rungR.1, rungR.2, (by decide +kernel), (by decide +kernel), (by decide +kernel), rungR_ok⟩

theorem test_meets_MemoryAndHostEvents_19 : ∃ (l : L2Line) (s : State), tget s.mu.l2 (lineKeyOf (hostKey s.arg.a)) = some l :=
  ⟨⟨0, true, 0⟩, let s := args mon 0; { s with mu := { s.mu with l2 := [(lineKeyOf (hostKey 0), ⟨0, true, 0⟩)] } }, (by decide +kernel)⟩

theorem test_meets_MemoryAndHostEvents_20 : ∃ s : State, s.mu.snooped.Nodup ∧ lineKeyOf s.arg.a ∈ s.mu.snooped :=
  ⟨let s := args mon 0x40; { s with mu := { s.mu with snooped := [lineKeyOf 0x40] } }, (by decide +kernel), (by decide +kernel)⟩

theorem test_meets_MemoryAndHostEvents_21 : ∃ (e : TlbEnt) (s : State), getWalks s s.arg.a = [⟨s.arg.b, s.arg.w.toNat, some e⟩] ∧ (∀ f ∈ getCtlb s s.arg.a, f.asid = e.asid → f.size = e.size → f.vpage ≠ e.vpage) :=
  ⟨⟨5, 0, 2, 0x3F, 0, false⟩, let s := args (ctx5 mon) 0 5 0 false 0x40000; { s with mu := { s.mu with walks := [(0, [⟨5, 0x40000, some ⟨5, 0, 2, 0x3F, 0, false⟩⟩])] } }, (by decide +kernel), (by decide +kernel)⟩

theorem test_meets_MemoryAndHostEvents_22 : ∃ (k off : Nat) (s : State), s.arg.a = k ∧ s.arg.b = off ∧ off < 64 ∧ s.arg.c = 1 ∧ (let x := tgetD s.mu.keys k KeySt.fresh; (let got := x.have_ ||| (1#64 <<< off); got ≠ BitVec.allOnes 64)) :=
  ⟨1, 2, args mon 1 2 1, (by decide +kernel), (by decide +kernel), (by decide +kernel), (by decide +kernel), (by decide +kernel)⟩

theorem test_meets_MemoryAndHostEvents_23 : ∃ (k off : Nat) (s : State), s.arg.a = k ∧ s.arg.b = off ∧ off < 64 ∧ s.arg.c = 1 ∧ (let x := tgetD s.mu.keys k KeySt.fresh; (let got := x.have_ ||| (1#64 <<< off); got = BitVec.allOnes 64)) :=
  ⟨1, 2, let s := args mon 1 2 1; { s with mu := { s.mu with keys := [(1, { KeySt.fresh with have_ := ~~~4 })] } }, (by decide +kernel), (by decide +kernel), (by decide +kernel), (by decide +kernel), (by decide +kernel)⟩

theorem test_meets_ContextStartAndDebugEvents_0 : ∃ s : State, s.arg.w.toNat % 4 = 1 ∧ LifeWritable s s.arg.a :=
  ⟨args mon 5 0 0 false 0x501, (by decide +kernel), (by unfold LifeWritable; decide +kernel)⟩

theorem test_meets_ContextStartAndDebugEvents_1 : ∃ s : State, LifeWritable s s.arg.a ∧ evictedOffers s s.arg.a = [] ∧ (∀ g ∈ s.un.graphs, g.2.ctx ≠ s.arg.a) ∧ (∀ n ∈ residents s s.arg.a, (getCore s n).num = n) :=
  ⟨args task 5, (by unfold LifeWritable; decide +kernel), (by decide +kernel), (by decide +kernel), (by decide +kernel)⟩

theorem test_meets_ContextStartAndDebugEvents_2 : ∃ (n : Nat) (j : SwJob) (s : State), Named s n ∧ (getCore s n).run = .switching ∧ (getCore s n).job = some j ∧ ∃ u, j.saving = true ∧ saveReady (focus s n) j = true ∧ saveImage j (focus s n) = .ok u :=
  ⟨0, ⟨true, none, 0, 0, false⟩, switching (paged task) ⟨true, none, 0, 0, false⟩, (by unfold Named; decide +kernel), (by decide +kernel), (by decide +kernel), (got mon (saveImage ⟨true, none, 0, 0, false⟩ (focus (switching (paged task) ⟨true, none, 0, 0, false⟩) 0))), (by decide +kernel), (by decide +kernel), (got_eq (d := mon) (by decide +kernel))⟩

theorem test_meets_ContextStartAndDebugEvents_3 : ∃ (n : Nat) (j : SwJob) (s : State), Named s n ∧ (getCore s n).run = .switching ∧ (getCore s n).job = some j ∧ ∃ c, j.saving = false ∧ j.load = some c ∧ c < 256 ∧ ctxLife s c = 1 ∧ inRange s c n = true ∧ ∃ u, tget s.un.kept (c * 8192 + n) = none ∧ restoreImage c j.began (focus s n) = .ok u :=
  ⟨0, ⟨false, (some 5), 0, 0, false⟩, switching (ctx5 mon) ⟨false, some 5, 0, 0, false⟩, (by unfold Named; decide +kernel), (by decide +kernel), (by decide +kernel), 5, (by decide +kernel), (by decide +kernel), (by decide +kernel), (by decide +kernel), (by decide +kernel), (restored (switching (ctx5 mon) ⟨false, some 5, 0, 0, false⟩)), (by decide +kernel), (got_eq (by decide +kernel))⟩

theorem test_meets_ContextStartAndDebugEvents_4 : ∃ (n : Nat) (j : SwJob) (s : State), Named s n ∧ (getCore s n).run = .switching ∧ (getCore s n).job = some j ∧ ∃ c, j.saving = false ∧ j.load = some c ∧ c < 256 ∧ ctxLife s c = 1 ∧ inRange s c n = true ∧ ∃ k u v im, tget s.un.kept (c * 8192 + n) = some k ∧ k.former ≠ .idle ∧ restoreImage c j.began (focus s n) = .ok u ∧ imageOf (focus s n) c n = .ok (v, im) ∧ savedHandles im = [] :=
  ⟨0, ⟨false, (some 5), 0, 0, false⟩, (switching (ctx5 mon) ⟨false, some 5, 0, 0, false⟩).mapUn (fun u => { u with kept := [(5 * 8192, { Core.reset 0 with former := .running })] }), (by unfold Named; decide +kernel), (by decide +kernel), (by decide +kernel), 5, (by decide +kernel), (by decide +kernel), (by decide +kernel), (by decide +kernel), (by decide +kernel), { Core.reset 0 with former := .running }, (restored ((switching (ctx5 mon) ⟨false, some 5, 0, 0, false⟩).mapUn (fun u => { u with kept := [(5 * 8192, { Core.reset 0 with former := .running })] }))), (imageIn ((switching (ctx5 mon) ⟨false, some 5, 0, 0, false⟩).mapUn (fun u => { u with kept := [(5 * 8192, { Core.reset 0 with former := .running })] }))).1, (imageIn ((switching (ctx5 mon) ⟨false, some 5, 0, 0, false⟩).mapUn (fun u => { u with kept := [(5 * 8192, { Core.reset 0 with former := .running })] }))).2, (by decide +kernel), (by decide +kernel), (got_eq (d := mon) (by decide +kernel)), (imageIn_eq (by decide +kernel)), (by decide +kernel)⟩

theorem test_meets_ContextStartAndDebugEvents_5 : ∃ s : State, s.core.run = .reset ∧ s.arg.f = true :=
  ⟨runs (args mon 0 0 0 true) .reset, (by decide +kernel), (by decide +kernel)⟩

theorem test_meets_ContextStartAndDebugEvents_5a : ∃ s : State, s.core.run = .reset ∧ s.arg.f = true :=
  ⟨runs (args mon 0 6 5 true) .reset, (by decide +kernel), (by decide +kernel)⟩

theorem test_meets_ContextStartAndDebugEvents_6 : ∃ s : State, s.core.run = .reset ∧ s.arg.f = true ∧ s.core.num < nCores ∧ BandLeft (s.arg.w.toNat % 2 ^ 32) (s.arg.w.toNat / 2 ^ 32) :=
  ⟨runs (args mon 0 0 0 true 20) .reset, (by decide +kernel), (by decide +kernel), (by decide +kernel), (by unfold BandLeft; decide +kernel)⟩

theorem test_meets_ContextStartAndDebugEvents_6a : ∃ s : State, s.core.run = .reset ∧ s.arg.f = true ∧ s.core.num < nCores ∧ BandLeft (s.arg.w.toNat % 2 ^ 32) (s.arg.w.toNat / 2 ^ 32) :=
  ⟨let s := runs (args mon 7 1 4 true (10 + 2 ^ 32 * 0)) .reset; { s with out := { s.out with links := [(2, { Link.fresh with en := true })], boot := { s.out.boot with keep := true, digest := 7 } } }, (by decide +kernel), (by decide +kernel), (by decide +kernel), (by unfold BandLeft; decide +kernel)⟩

theorem test_meets_ContextStartAndDebugEvents_7 : ∃ s : State, s.core.run = .reset ∧ s.arg.f = false :=
  ⟨runs (args mon 0) .reset, (by decide +kernel), (by decide +kernel)⟩

theorem test_meets_ContextStartAndDebugEvents_8 : ∃ s : State, BandLeft s.arg.a s.arg.b ∧ NoneSwitches s :=
  ⟨args mon 20 5, (by unfold BandLeft; decide +kernel), (by unfold NoneSwitches; decide +kernel)⟩

theorem test_meets_ContextStartAndDebugEvents_9 : ∃ s : State, s.arg.f = false ∧ ¬ BandLeft s.arg.a s.arg.b ∧ (getCore s (noticeCore s 0)).ev.notices = [] :=
  ⟨args mon 12 5, (by decide +kernel), (by unfold BandLeft; decide +kernel), (by decide +kernel)⟩

theorem test_meets_ContextStartAndDebugEvents_10 : ∃ (n : Nat) (s : State), coreAt s s.arg.a = n ∧ (getCore s n).num = n ∧ (getCore s n).pos = s.arg.a ∧ (getCore s n).run = .running ∧ (getCore s n).wait = none :=
  ⟨0, mon, (by decide +kernel), (by decide +kernel), (by decide +kernel), (by decide +kernel), (by decide +kernel)⟩

theorem test_meets_ContextStartAndDebugEvents_11 : ∃ (n : Nat) (s : State), coreAt s s.arg.a = n ∧ (getCore s n).num = n ∧ (getCore s n).pos = s.arg.a ∧ (getCore s n).run = .halted :=
  ⟨0, runs mon .halted, (by decide +kernel), (by decide +kernel), (by decide +kernel), (by decide +kernel)⟩

theorem test_meets_ContextStartAndDebugEvents_12 : ∃ (n : Nat) (s : State), coreAt s s.arg.a = n ∧ (getCore s n).num = n ∧ (getCore s n).pos = s.arg.a :=
  ⟨0, mon, (by decide +kernel), (by decide +kernel), (by decide +kernel)⟩

theorem test_meets_ContextStartAndDebugEvents_13 : ∃ (n : Nat) (s : State), coreAt s s.arg.a = n ∧ (getCore s n).num = n ∧ (getCore s n).pos = s.arg.a ∧ ((getCore s n).run = .halted ∨ (getCore s n).run = .frozen) ∧ ∃ r : Reg, (getDbg s s.arg.a).sel.toNat % 2 ^ 16 = 16 * r.toNat :=
  ⟨0, dbg0 (args (runs mon .halted) 0 0 0 false 9) { Dbg.fresh with sel := 0x30 }, (by decide +kernel), (by decide +kernel), (by decide +kernel), (by decide +kernel), 3, (by decide +kernel)⟩

theorem test_meets_ContextStartAndDebugEvents_14 : ∃ (n : Nat) (s : State), coreAt s s.arg.a = n ∧ (getCore s n).num = n ∧ (getCore s n).pos = s.arg.a ∧ ((getCore s n).run = .halted ∨ (getCore s n).run = .frozen) ∧ (getDbg s s.arg.a).sel.toNat % 4 = 3 :=
  ⟨0, dbg0 (args (runs mon .halted) 0 0 0 false 9) { Dbg.fresh with sel := 3 }, (by decide +kernel), (by decide +kernel), (by decide +kernel), (by decide +kernel), (by decide +kernel)⟩

theorem test_meets_ContextStartAndDebugEvents_15 : ∃ s : State, (getLog s (s.arg.a % 4)).mode ≠ 1 :=
  ⟨args mon 0 0 0 false 1, (by decide +kernel)⟩

theorem test_meets_ContextStartAndDebugEvents_16 : ∃ s : State, (getLog s (s.arg.a % 4)).mode = 2 ∧ replayWaits s (s.arg.a % 4) s.arg.b = true ∧ tget (getLog s (s.arg.a % 4)).waitSince s.arg.b = none :=
  ⟨runs (inbox (log0 (mon) { LogSt.fresh with mode := 2, runs := [(0, (5, 1))] }) [msg1]) .idle, (by decide +kernel), (by decide +kernel), (by decide +kernel)⟩

theorem test_meets_ContextStartAndDebugEvents_17 : ∃ s : State, (getLog s (s.arg.a % 4)).mode = 2 ∧ replayWaits s (s.arg.a % 4) s.arg.b = true ∧ ∃ c, tget (getLog s (s.arg.a % 4)).waitSince s.arg.b = some c ∧ (getLog s (s.arg.a % 4)).stall = false ∧ c + 2 ^ 24 ≤ s.cycle ∧ (getCore s (noticeCore s (unitDie s (s.arg.a % 4) s.arg.b % 4))).ev.notices = [] :=
  ⟨at_ (runs (inbox (log0 (mon) { LogSt.fresh with mode := 2, runs := [(0, (5, 1))], stall := false, waitSince := [(0, 0)] }) [msg1]) .idle) (2 ^ 24), (by decide +kernel), (by decide +kernel), 0, (by decide +kernel), (by decide +kernel), (by decide +kernel), (by decide +kernel)⟩

theorem test_meets_ContextStartAndDebugEvents_18 : ∃ s : State, s.arg.f = false :=
  ⟨args mon 0, (by decide +kernel)⟩

theorem test_meets_ContextStartAndDebugEvents_19 : ∃ s : State, s.arg.f = true ∧ s.arg.b = 0x050 :=
  ⟨args mon 0 0x50 0 true 7, (by decide +kernel), (by decide +kernel)⟩

theorem test_meets_ContextStartAndDebugEvents_20 : ∃ s : State, 1000 ≤ s.arg.a ∧ s.arg.a ≤ 3300 ∧ BandLeft s.arg.b s.arg.c :=
  ⟨args mon 1200 20 5, (by decide +kernel), (by decide +kernel), (by unfold BandLeft; decide +kernel)⟩

theorem test_meets_GraphEvents_0 : ∃ (cp : Nat) (u v w : State) (l : List Subq) (es : List Entry) (e : Entry) (q : Subq) (s : State), s.arg.a = cp ∧ admitted s cp < 64 ∧ subqHeads cp (rungBells (readBells s cp) cp) (readBells s cp) = .ok (u, l) ∧ allEntries cp l u = .ok (v, es) ∧ bestBy entryFirst (es.filter (fun f => !switchBars v f.ctx f.batch)) = some e ∧ l.find? (fun p => p.ctx == e.ctx) = some q ∧ takeEntry v cp q e = .ok w ∧ e.bad = true :=
  ⟨0, (heads badEntry).1, (ents badEntry).1, (took badEntry), (heads badEntry).2, (ents badEntry).2, (pickE badEntry), (pickQ badEntry), badEntry, (by decide +kernel), (by decide +kernel), (heads_eq (by decide +kernel)), (ents_eq (by decide +kernel)), (pickE_eq (by decide +kernel)), (pickQ_eq (by decide +kernel)), (took_eq (by decide +kernel)), (by decide +kernel)⟩

theorem test_meets_GraphEvents_1 : ∃ (cp : Nat) (u v w : State) (l : List Subq) (es : List Entry) (e : Entry) (q : Subq) (s : State), s.arg.a = cp ∧ admitted s cp < 64 ∧ subqHeads cp (rungBells (readBells s cp) cp) (readBells s cp) = .ok (u, l) ∧ allEntries cp l u = .ok (v, es) ∧ bestBy entryFirst (es.filter (fun f => !switchBars v f.ctx f.batch)) = some e ∧ l.find? (fun p => p.ctx == e.ctx) = some q ∧ takeEntry v cp q e = .ok w ∧ ∃ x hs, e.bad = false ∧ readHeaders cp e.ctx e.graph e.nodes 0 { w with nextId := w.nextId + 1 } = .ok (x, hs, none) ∧ (∀ i h, hs[i]? = some h → headerBad { Node.fresh with hdr := h } e.nodes i = false ∧ layerBad { Node.fresh with hdr := h } = false) :=
  ⟨0, (heads goodEntry).1, (ents goodEntry).1, (took goodEntry), (heads goodEntry).2, (ents goodEntry).2, (pickE goodEntry), (pickQ goodEntry), goodEntry, (by decide +kernel), (by decide +kernel), (heads_eq (by decide +kernel)), (ents_eq (by decide +kernel)), (pickE_eq (by decide +kernel)), (pickQ_eq (by decide +kernel)), (took_eq (by decide +kernel)), (hdrs goodEntry).1, (hdrs goodEntry).2.1, (by decide +kernel), (hdrs_eq (by decide +kernel)), (headers_ok (by decide +kernel))⟩

theorem test_meets_GraphEvents_2 : ∃ (cp g i p r k : Nat) (x : Graph) (u : State) (l : List Byte) (s : State), s.arg.a = cp ∧ bestBy nodeFirst (readyNodes s cp) = some (g, p, r, i) ∧ i < 4096 ∧ tget s.un.graphs g = some x ∧ kerSlot s = some k ∧ cpRead s x.cp x.ctx (x.addr + BitVec.ofNat 64 (64 * i + 16)) 48 = .got u l false ∧ (let n : Node := { x.node i with body := BitVec.ofNat 384 (ofBytes l) }; n.kind = 0 ∧ n.layer = 0xFFFF ∧ bodyBad (setNode u g i (fun _ => n)) x.ctx n = false) :=
  ⟨0, 9, 0, 3, 0, 0, graphOf [(0, kernelNode)], _, _, nodeReady, (by decide +kernel), (by decide +kernel), (by decide +kernel), (by decide +kernel), (by decide +kernel), (read_eq (s := nodeReady) (by decide +kernel)), (by decide +kernel), (by decide +kernel), (by decide +kernel)⟩

theorem test_meets_GraphEvents_3 : ∃ (k : Nat) (s : State), s.arg.a = k ∧ (getKer s k).st = .waking ∧ (getKer s k).wakes = 0 :=
  ⟨5, args (kers mon [(5, { Kernel.fresh with gen := 1, st := .waking })]) 5, (by decide +kernel), (by decide +kernel), (by decide +kernel)⟩

theorem test_meets_GraphEvents_4 : ∃ (g i k : Nat) (x : Graph) (m : Node) (s : State), s.arg.a = g ∧ s.arg.b = i ∧ i < 4096 ∧ tget s.un.graphs g = some x ∧ x.ended = none ∧ (x.node i).st = .running ∧ (x.node i).succs = [k] ∧ k ≠ i ∧ tget x.nodes k = some m ∧ m.kind ≠ 3 ∧ m.waits = 1 ∧ m.st = .pending ∧ (x.node i).kind = 0 ∧ kerOver s (x.node i).job = true :=
  ⟨9, 0, 1, twoNodes (runningNode 0 0x105), waitingNode, args (graph9 (kers mon [(5, { Kernel.fresh with gen := 1, st := .complete })]) (twoNodes (runningNode 0 0x105))) 9, (by decide +kernel), (by decide +kernel), (by decide +kernel), (by decide +kernel), (by decide +kernel), (by decide +kernel), (by decide +kernel), (by decide +kernel), (by decide +kernel), (by decide +kernel), (by decide +kernel), (by decide +kernel), (by decide +kernel), (by decide +kernel)⟩

theorem test_meets_GraphEvents_5 : ∃ (g i k : Nat) (x : Graph) (m : Node) (s : State), s.arg.a = g ∧ s.arg.b = i ∧ i < 4096 ∧ tget s.un.graphs g = some x ∧ x.ended = none ∧ (x.node i).st = .running ∧ (x.node i).succs = [k] ∧ k ≠ i ∧ tget x.nodes k = some m ∧ m.kind ≠ 3 ∧ m.waits = 1 ∧ m.st = .pending ∧ (x.node i).kind = 1 ∧ (x.node i).job = 2 ^ 32 :=
  ⟨9, 0, 1, twoNodes (runningNode 1 (2 ^ 32)), waitingNode, args (graph9 mon (twoNodes (runningNode 1 (2 ^ 32)))) 9, (by decide +kernel), (by decide +kernel), (by decide +kernel), (by decide +kernel), (by decide +kernel), (by decide +kernel), (by decide +kernel), (by decide +kernel), (by decide +kernel), (by decide +kernel), (by decide +kernel), (by decide +kernel), (by decide +kernel), (by decide +kernel)⟩

theorem test_meets_GraphEvents_6 : ∃ (g i k : Nat) (x : Graph) (m : Node) (s : State), s.arg.a = g ∧ s.arg.b = i ∧ i < 4096 ∧ tget s.un.graphs g = some x ∧ x.ended = none ∧ (x.node i).st = .running ∧ (x.node i).succs = [k] ∧ k ≠ i ∧ tget x.nodes k = some m ∧ m.kind ≠ 3 ∧ m.waits = 1 ∧ m.st = .pending ∧ ∃ u, (x.node i).kind = 4 ∧ nodePred s x (x.node i) = .is u true :=
  ⟨9, 0, 1, twoNodes { runningNode 4 0 with body := 0x40000 }, waitingNode, args (graph9 (paged task) (twoNodes { runningNode 4 0 with body := 0x40000 })) 9, (by decide +kernel), (by decide +kernel), (by decide +kernel), (by decide +kernel), (by decide +kernel), (by decide +kernel), (by decide +kernel), (by decide +kernel), (by decide +kernel), (by decide +kernel), (by decide +kernel), (by decide +kernel), _, (by decide +kernel), (pred_eq (s := mon) (by decide +kernel))⟩

theorem test_meets_GraphEvents_7 : ∃ (g i c : Nat) (x : Graph) (s : State), s.arg.a = g ∧ s.arg.b = i ∧ tget s.un.graphs g = some x ∧ x.ended = none ∧ (x.node i).st = .running ∧ (x.node i).kind = 4 ∧ (x.node i).limit = some c ∧ c ≤ s.out.time :=
  ⟨9, 0, 5, twoNodes { runningNode 4 0 with limit := some 5 }, at_ (args (graph9 task (twoNodes { runningNode 4 0 with limit := some 5 })) 9) 10, (by decide +kernel), (by decide +kernel), (by decide +kernel), (by decide +kernel), (by decide +kernel), (by decide +kernel), (by decide +kernel), (by decide +kernel)⟩

theorem test_meets_GraphEvents_8 : ∃ (g code i n off : Nat) (x : Graph) (s : State), s.arg.a = g ∧ tget s.un.graphs g = some x ∧ x.ended = some (code, i) ∧ (∀ p ∈ x.nodes, p.2.st ≠ .running) ∧ x.alone = false ∧ x.status = localAddr n off ∧ off % 8 = 0 ∧ off < 2 ^ 16 ∧ Reached s x.ctx n ∧ WritesAtOnce s x.cp n :=
  ⟨9, 7, 0, 0, 0x80, { twoNodes waitingNode with ended := some (7, 0) }, args (graph9 task { twoNodes waitingNode with ended := some (7, 0) }) 9, (by decide +kernel), (by decide +kernel), (by decide +kernel), (by decide +kernel), (by decide +kernel), (by decide +kernel), (by decide +kernel), (by decide +kernel), (reached_ok (by decide +kernel)), (writesAtOnce_ok (by decide +kernel))⟩

theorem test_meets_GraphEvents_9 : ∃ (g i : Nat) (x : Graph) (s : State), s.arg.a = g ∧ s.arg.b = i ∧ tget s.un.graphs g = some x ∧ (x.node i).st = .running ∧ (x.node i).kind = 7 ∧ (x.node i).job = 0 ∧ (x.node i).word 1 = 0 ∧ switchFree s g x (x.node i).layer (BitVec.ofNat 32 ((x.node i).word 0).toNat) = true :=
  ⟨9, 0, twoNodes { runningNode 7 0 with body := 4 }, args (graph9 task (twoNodes { runningNode 7 0 with body := 4 })) 9, (by decide +kernel), (by decide +kernel), (by decide +kernel), (by decide +kernel), (by decide +kernel), (by decide +kernel), (by decide +kernel), (by decide +kernel)⟩

theorem test_meets_GraphEvents_10 : ∃ (g i : Nat) (x : Graph) (s : State), s.arg.a = g ∧ s.arg.b = i ∧ tget s.un.graphs g = some x ∧ (x.node i).st = .running ∧ (x.node i).kind = 7 ∧ (x.node i).job = 2 ^ 32 ∧ x.ended = none ∧ i ∉ (x.node i).succs ∧ (∀ b ∈ s.un.barriers, b.2.ctx ≠ x.ctx) :=
  ⟨9, 0, twoNodes { runningNode 7 (2 ^ 32) with body := 4 }, args (graph9 task (twoNodes { runningNode 7 (2 ^ 32) with body := 4 })) 9, (by decide +kernel), (by decide +kernel), (by decide +kernel), (by decide +kernel), (by decide +kernel), (by decide +kernel), (by decide +kernel), (by decide +kernel), (by decide +kernel)⟩

theorem test_meets_TileAndCopyEvents_0 : ∃ (cl i k slot : Nat) (r : TileRec) (rest : List (Nat × TileRec)) (s : State), s.arg.a = cl ∧ pausedHere s cl = none ∧ (getLog s 2).mode = 0 ∧ (readyRecs s cl).filter (fun p => (slotFor s cl p.2).isSome) = (i, r) :: rest ∧ nextShare r = some k ∧ slotFor s cl r = some (slot, false) :=
  ⟨0, 0, 0, 0, recIn .ready 32, [], recs task [(0, recIn .ready 32)], (by decide +kernel), (by decide +kernel), (by decide +kernel), (by decide +kernel), (by decide +kernel), (by decide +kernel)⟩

theorem test_meets_TileAndCopyEvents_1 : ∃ (cl i : Nat) (r : TileRec) (s : State), s.arg.a = cl ∧ recOf s cl s.arg.b = some (i, r) ∧ r.st = .ready ∧ r.readyAt + 65536 ≤ s.cycle :=
  ⟨0, 0, recIn .ready 32, at_ (args (recs task [(0, recIn .ready 32)]) 0 0x400) 65536, (by decide +kernel), (by decide +kernel), (by decide +kernel), (by decide +kernel)⟩

theorem test_meets_TileAndCopyEvents_2 : ∃ (cl slot i : Nat) (r : TileRec) (v : State) (av bv : List (List FV)) (sa sb : Option (List (Option Int))) (s : State), s.arg.a = cl ∧ s.arg.b = slot ∧ (let x := getAcc s cl slot; x.st = .busy ∧ (getEng s cl (slot / 4)).frozen = false ∧ (getEng s cl (slot / 4)).run = some slot ∧ recOf s cl x.owner = some (i, r) ∧ (x.chunk ≠ 0 ∨ rAcck r.words ≠ 2) ∧ chunkOperands s cl r x.sub x.chunk = .inr (v, av, bv, sa, sb) ∧ (x.chunk + 1) * 32 < rK r.words) :=
  ⟨0, 0, 0, recIn .running 64, (chunkOf (chunked 64) 64).1, (chunkOf (chunked 64) 64).2.1, (chunkOf (chunked 64) 64).2.2.1, (chunkOf (chunked 64) 64).2.2.2.1, (chunkOf (chunked 64) 64).2.2.2.2, chunked 64, (by decide +kernel), (by decide +kernel), (by decide +kernel), (by decide +kernel), (by decide +kernel), (by decide +kernel), (by decide +kernel), (chunk_eq (by decide +kernel)), (by decide +kernel)⟩

theorem test_meets_TileAndCopyEvents_3 : ∃ (cl slot i : Nat) (r : TileRec) (v : State) (av bv : List (List FV)) (sa sb : Option (List (Option Int))) (s : State), s.arg.a = cl ∧ s.arg.b = slot ∧ (let x := getAcc s cl slot; x.st = .busy ∧ (getEng s cl (slot / 4)).frozen = false ∧ (getEng s cl (slot / 4)).run = some slot ∧ recOf s cl x.owner = some (i, r) ∧ (x.chunk ≠ 0 ∨ rAcck r.words ≠ 2) ∧ chunkOperands s cl r x.sub x.chunk = .inr (v, av, bv, sa, sb) ∧ rK r.words ≤ (x.chunk + 1) * 32 ∧ rDrain r.words = true) :=
  ⟨0, 0, 0, recIn .running 32, (chunkOf (chunked 32) 32).1, (chunkOf (chunked 32) 32).2.1, (chunkOf (chunked 32) 32).2.2.1, (chunkOf (chunked 32) 32).2.2.2.1, (chunkOf (chunked 32) 32).2.2.2.2, chunked 32, (by decide +kernel), (by decide +kernel), (by decide +kernel), (by decide +kernel), (by decide +kernel), (by decide +kernel), (by decide +kernel), (chunk_eq (by decide +kernel)), (by decide +kernel), (by decide +kernel)⟩

theorem test_meets_TileAndCopyEvents_4 : ∃ (cl e : Nat) (j : MmaJob) (rest : List MmaJob) (s : State), s.arg.a = cl ∧ s.arg.b = e ∧ (getEng s cl e).frozen = false ∧ (getEng s cl e).mmas = j :: rest :=
  ⟨0, 0, ⟨0, 0, 0, .f16, 0, 0, 0⟩, [], mon.mapUn (fun u => { u with engines := [(0, { Engine.fresh with mmas := [⟨0, 0, 0, .f16, 0, 0, 0⟩] })] }), (by decide +kernel), (by decide +kernel), (by decide +kernel), (by decide +kernel)⟩

theorem test_meets_TileAndCopyEvents_5 : ∃ (cl slot i : Nat) (r : TileRec) (u : State) (fl : Flags) (s : State), s.arg.a = cl ∧ s.arg.b = slot ∧ (let x := getAcc s cl slot; x.st = .draining ∧ (getEng s cl (slot / 4)).frozen = false ∧ recOf s cl x.owner = some (i, r) ∧ x.sub ∈ r.finished ∧ drainGo cl r.ctx r.asid x.words x.target (drainCore r x.target x.sub) (rN r.words) (rM r.words - x.row) s x.row x.flags = .done u fl) :=
  ⟨0, 0, 0, { recIn .running 32 with finished := [0] }, _, _, drained, (by decide +kernel), (by decide +kernel), (by decide +kernel), (by decide +kernel), (by decide +kernel), (by decide +kernel), (done_eq (s := mon) (by decide +kernel))⟩

theorem test_meets_TileAndCopyEvents_6 : ∃ (n off cl ticket : Nat) (p : Packet) (s : State), findPacket s s.arg.a = some p ∧ p.body = .shape (.loc n) (localKey n off) cl ticket ∧ Reached s p.ctx n ∧ HomeHears s p n ∧ off % 8 = 0 ∧ off < 2 ^ 16 ∧ Whole s n off 8 ∧ heldAtPort s p (.loc n) = none ∧ recOf s cl ticket = none ∧ (let w := ofBytes (mread s.mem (localKey n off) 8); w / 2 ^ 48 % 2 ^ 10 ≠ 0) :=
  ⟨0, 64, 0, 0x400, { pk0 with body := .shape (.loc 0) (localKey 0 64) 0 0x400 }, flies (data mon 64 [0x1000000000000]) { pk0 with body := .shape (.loc 0) (localKey 0 64) 0 0x400 }, (by decide +kernel), (by decide +kernel), (reached_ok (by decide +kernel)), (.inl (by decide +kernel)), (by decide +kernel), (by decide +kernel), (whole_ok (by decide +kernel)), (by decide +kernel), (by decide +kernel), (by decide +kernel)⟩

theorem test_meets_TileAndCopyEvents_7 : ∃ (n : Nat) (v : W64) (r : List W64) (s : State), Named s n ∧ Plain (focus s n) ∧ SpillFits (getCore s n).sc ∧ modeOf (getCore s n) = 0 ∧ (getCore s n).run = .running ∧ (getCore s n).mail.mcast = [] ∧ (getCore s n).ev.pend0B = v :: r :=
  ⟨0, 9, [], (task).mapEv (fun e => { e with pend0B := [9] }), (by unfold Named; decide +kernel), (plain_ok (by decide +kernel)), (by unfold SpillFits; decide +kernel), (by decide +kernel), (by decide +kernel), (by decide +kernel), (by decide +kernel)⟩

theorem test_meets_TileAndCopyEvents_8 : ∃ (cl slot : Nat) (s : State), s.arg.a = cl ∧ s.arg.b = slot ∧ copierFrozen s cl = false ∧ (let x := getXfer s cl slot; (∀ p ∈ s.un.xfers, p.2.forWhom = x.forWhom → p.2.st = .reading → x.seq ≤ p.2.seq) ∧ x.st = .reading ∧ x.flagged = false ∧ x.kind = 0) :=
  ⟨0, 0, args (xfer0 task ({ copying false 0 with st := .reading })) 0 0, (by decide +kernel), (by decide +kernel), (by decide +kernel), (by decide +kernel), (by decide +kernel), (by decide +kernel), (by decide +kernel)⟩

theorem test_meets_TileAndCopyEvents_9 : ∃ (cl slot : Nat) (s : State), s.arg.a = cl ∧ s.arg.b = slot ∧ copierFrozen s cl = false ∧ (let x := getXfer s cl slot; (∀ p ∈ s.un.xfers, p.2.forWhom = x.forWhom → p.2.st = .reading → x.seq ≤ p.2.seq) ∧ ∃ n off, x.st = .reading ∧ x.flagged = true ∧ x.blockAddr = localAddr n off ∧ off % 8 = 0 ∧ off + 48 ≤ 2 ^ 16 ∧ Reached s x.ctx n ∧ Clean s n off 48 ∧ (let b := BitVec.ofNat 384 (ofBytes (mread s.mem (localKey n off) 48)); blockBad 0 b x.handler = false)) :=
  ⟨0, 0, data (args (xfer0 task ({ copying false 0 with st := .reading, flagged := true, blockAddr := localAddr 0 0x40 })) 0 0) 0x40 [localAddr 0 0x800, localAddr 0 0x1000, 256, 0, 0, 0], (by decide +kernel), (by decide +kernel), (by decide +kernel), (by decide +kernel), 0, 0x40, (by decide +kernel), (by decide +kernel), (by decide +kernel), (by decide +kernel), (by decide +kernel), (reached_ok (by decide +kernel)), (clean_ok (by decide +kernel)), (by decide +kernel)⟩

theorem test_meets_TileAndCopyEvents_10 : ∃ (cl slot m so n d : Nat) (s : State), s.arg.a = cl ∧ s.arg.b = slot ∧ LocalCopy s cl slot m so n d ∧ WritesAtOnce s (cl / 32) n ∧ copyNext s cl = some slot ∧ (let x := getXfer s cl slot; x.doneB < bLen x.block) :=
  ⟨0, 0, 0, 0x800, 0, 0x1000, args (xfer0 task (copying false 0)) 0 0, (by decide +kernel), (by decide +kernel), (localCopy_ok (by decide +kernel) ⟨reached_ok (by decide +kernel), reached_ok (by decide +kernel)⟩ (by decide +kernel)), (writesAtOnce_ok (by decide +kernel)), (by decide +kernel), (by decide +kernel)⟩

theorem test_meets_TileAndCopyEvents_11 : ∃ (cl slot c q : Nat) (s : State), s.arg.a = cl ∧ s.arg.b = slot ∧ copierFrozen s cl = false ∧ (let x := getXfer s cl slot; x.st = .running ∧ x.kind = 0 ∧ bLen x.block ≤ x.doneB ∧ x.forWhom = .core c q ∧ x.cause = 0 ∧ bUir 0 x.block = false ∧ x.peerWin = none ∧ bFlg 0 x.block = false) :=
  ⟨0, 0, 0, 1, args (xfer0 task (copying false 256)) 0 0, (by decide +kernel), (by decide +kernel), (by decide +kernel), (by decide +kernel), (by decide +kernel), (by decide +kernel), (by decide +kernel), (by decide +kernel), (by decide +kernel), (by decide +kernel), (by decide +kernel)⟩

theorem test_meets_TileAndCopyEvents_12 : ∃ (cl slot c q : Nat) (s : State), s.arg.a = cl ∧ s.arg.b = slot ∧ copierFrozen s cl = false ∧ (let x := getXfer s cl slot; x.st = .running ∧ x.kind = 0 ∧ bLen x.block ≤ x.doneB ∧ x.forWhom = .core c q ∧ x.cause = 0 ∧ bUir 0 x.block = false ∧ x.peerWin = none ∧ ∃ n off, bFlg 0 x.block = true ∧ bFlag x.block = localAddr n off ∧ off % 4 = 0 ∧ off < 2 ^ 16 ∧ Reached s x.ctx n ∧ WritesAtOnce s (cl / 32) n) :=
  ⟨0, 0, 0, 1, args (xfer0 task (copying true 256)) 0 0, (by decide +kernel), (by decide +kernel), (by decide +kernel), (by decide +kernel), (by decide +kernel), (by decide +kernel), (by decide +kernel), (by decide +kernel), (by decide +kernel), (by decide +kernel), 0, 0x40, (by decide +kernel), (by decide +kernel), (by decide +kernel), (by decide +kernel), (reached_ok (by decide +kernel)), (writesAtOnce_ok (by decide +kernel))⟩

theorem test_meets_TileAndCopyEvents_13 : ∃ (cl slot n q : Nat) (s : State), s.arg.a = cl ∧ s.arg.b = slot ∧ (let x := getXfer s cl slot; x.st = .completing ∧ x.flagged = true ∧ x.forWhom = .core n q ∧ x.cause = 0 ∧ (getCore s n).num = n ∧ copierFrozen s cl = false ∧ (∀ p ∈ s.un.xfers, p.2.st = .completing → x.endSeq ≤ p.2.endSeq) ∧ noCtx (getCore s n) = false ∧ curCtx (getCore s n) = x.ctx ∧ (getCore s n).mail.cpyq.length < 64) :=
  ⟨0, 0, 0, 1, args (xfer0 task ({ copying false 256 with st := .completing, flagged := true })) 0 0, (by decide +kernel), (by decide +kernel), (by decide +kernel), (by decide +kernel), (by decide +kernel), (by decide +kernel), (by decide +kernel), (by decide +kernel), (by decide +kernel), (by decide +kernel), (by decide +kernel), (by decide +kernel)⟩

theorem test_meets_TileAndCopyEvents_14 : ∃ (cl slot k e n d : Nat) (s : State), s.arg.a = cl ∧ s.arg.b = slot ∧ s.arg.c = k ∧ copierFrozen s cl = false ∧ (let x := getXfer s cl slot; (let m := rowOwner x.block (e % 2 ^ 32); (let so := gOff x.block + e % 2 ^ 32 % gPer x.block * gRow x.block; x.st = .running ∧ x.kind = 1 ∧ x.rows.find? (fun f => f / 2 ^ 32 == k) = some e ∧ bDst x.block = localAddr n d ∧ gOff x.block % 64 = 0 ∧ d % 64 = 0 ∧ so + gRow x.block ≤ 2 ^ 16 ∧ d + (k + 1) * gRow x.block ≤ 2 ^ 16 ∧ copyNext s cl = some slot ∧ subArrives s cl slot m = some s ∧ rowSent s cl slot k = none ∧ Reached s x.ctx m ∧ Clean s m so (gRow x.block)))) :=
  ⟨0, 0, 0, 1, 0, 0x2000, args (xfer0 task gathering) 0 0 0, (by decide +kernel), (by decide +kernel), (by decide +kernel), (by decide +kernel), (by decide +kernel), (by decide +kernel), (by decide +kernel), (by decide +kernel), (by decide +kernel), (by decide +kernel), (by decide +kernel), (by decide +kernel), (by decide +kernel), (by decide +kernel), (by decide +kernel), (reached_ok (by decide +kernel)), (clean_ok (by decide +kernel))⟩

theorem test_meets_TileAndCopyEvents_15 : ∃ (cl slot k e n d : Nat) (s : State), s.arg.a = cl ∧ s.arg.b = slot ∧ s.arg.c = k ∧ copierFrozen s cl = false ∧ (let x := getXfer s cl slot; (let m := rowOwner x.block (e % 2 ^ 32); (let so := gOff x.block + e % 2 ^ 32 % gPer x.block * gRow x.block; x.st = .running ∧ x.kind = 1 ∧ x.rows.find? (fun f => f / 2 ^ 32 == k) = some e ∧ bDst x.block = localAddr n d ∧ gOff x.block % 64 = 0 ∧ d % 64 = 0 ∧ so + gRow x.block ≤ 2 ^ 16 ∧ d + (k + 1) * gRow x.block ≤ 2 ^ 16 ∧ copyNext s cl = some slot ∧ subArrives s cl slot m = some s ∧ ∃ p l, rowSent s cl slot k = some (p, l) ∧ l.length = gRow x.block ∧ Reached s x.ctx n ∧ WritesAtOnce s (cl / 32) n))) :=
  ⟨0, 0, 0, 1, 0, 0x2000, args { xfer0 task gathering with net := [{ pk0 with src := .engine 0 0, body := .row 0 0 0 (List.replicate (gRow gathering.block) 7) }] } 0 0 0, (by decide +kernel), (by decide +kernel), (by decide +kernel), (by decide +kernel), (by decide +kernel), (by decide +kernel), (by decide +kernel), (by decide +kernel), (by decide +kernel), (by decide +kernel), (by decide +kernel), (by decide +kernel), (by decide +kernel), (by decide +kernel), { pk0 with src := .engine 0 0, body := .row 0 0 0 (List.replicate (gRow gathering.block) 7) }, (List.replicate (gRow gathering.block) 7), (by decide +kernel), (by decide +kernel), (reached_ok (by decide +kernel)), (writesAtOnce_ok (by decide +kernel))⟩

theorem test_meets_TileAndCopyEvents_16 : ∃ (n : Nat) (r : Reg) (x : Stream) (s : State), Named s n ∧ s.arg.b = r.toNat ∧ tget (getCore s n).vec.streams r.toNat = some x ∧ x.dir = false ∧ x.fetched.length < 4 ∧ (x.ahead x.fetched.length).over = false ∧ OwnAccess (focus s n) (x.ahead x.fetched.length).addr 64 ∧ OwnReadable (focus s n) (x.ahead x.fetched.length).addr 64 :=
  ⟨0, 24, stream1, args (mon.mapVec (fun v => { v with streams := [(24, stream1)] })) 0 24, (by unfold Named; decide +kernel), (by decide +kernel), (by decide +kernel), (by decide +kernel), (by decide +kernel), (by decide +kernel), (ownAccess_ok (by decide +kernel)), (ownReadable_ok (by decide +kernel))⟩

theorem test_meets_ExpertAndPlacementEvents_0 : ∃ (n : Nat) (s : State), s.arg.a = n ∧ fld s.arg.w 0 0 = 1 ∧ (getExp s n).st = .free ∧ ∃ y, expertFrom s (s.arg.w &&& (ones 51 6 ||| 1)) = some y :=
  ⟨3, args (hbm (paged (ctx5 mon)) 0x70000 exBlock) 3 0 0 false 0x70001, (by decide +kernel), (by decide +kernel), (by decide +kernel), _, (getD_eq (d := Expert.fresh) (by decide +kernel))⟩

theorem test_meets_ExpertAndPlacementEvents_1 : ∃ (n : Nat) (s : State), s.arg.a = n ∧ fld s.arg.w 0 0 = 1 ∧ (getExp s n).st = .free ∧ expertFrom s (s.arg.w &&& (ones 51 6 ||| 1)) = none :=
  ⟨3, args (paged (ctx5 mon)) 3 0 0 false 0x70001, (by decide +kernel), (by decide +kernel), (by decide +kernel), (by decide +kernel)⟩

theorem test_meets_ExpertAndPlacementEvents_2 : ∃ (n : Nat) (s : State), s.arg.a = n ∧ fld s.arg.w 0 0 = 0 ∧ (getExp s n).st = .live ∧ (∀ r ∈ (getExp s n).reps, r.st = .retired ∧ r.hop = false) :=
  ⟨3, args (expert task { exp1 with reps := [{ rep1 with st := .retired }] }) 3, (by decide +kernel), (by decide +kernel), (by decide +kernel), (by decide +kernel)⟩

theorem test_meets_ExpertAndPlacementEvents_3 : ∃ (e d : Nat) (s : State), s.arg.a = e ∧ s.arg.b = d ∧ (getExp s e).st ≠ .free :=
  ⟨3, 2, args (expert task exp1) 3 2, (by decide +kernel), (by decide +kernel), (by decide +kernel)⟩

theorem test_meets_ExpertAndPlacementEvents_4 : ∃ (v : Resv) (s : State), Waits s s.arg.a v ∧ v.granted = none ∧ (let e := fld v.name 15 0; (let r := (getExp s e).rep v.at_; (let c := getCopy s e (dieOf (getCore s r.first).pos); c.st = .live ∧ c.ws = v.ws ∧ r.st = .serving ∧ r.infl < r.nslot ∧ rowLen v.word ≤ r.rsz * 64))) :=
  ⟨resv1, resvs (expert task exp1) resv1, (by unfold Waits; decide +kernel), (by decide +kernel), (by decide +kernel), (by decide +kernel), (by decide +kernel), (by decide +kernel), (by decide +kernel)⟩

theorem test_meets_ExpertAndPlacementEvents_5 : ∃ (v : Resv) (r slot n : Nat) (u : State) (row : Row) (s : State), Waits s s.arg.a v ∧ v.granted = some (r, slot) ∧ v.q = none ∧ pullRow s v.ctx v.core v.die v.word = some (u, row) ∧ row.lost = none ∧ v.core < nCores ∧ (getCore u v.core).wait = some ⟨n, .route v.id⟩ ∧ (∀ p ∈ u.net, p.id ≠ u.nextId) :=
  ⟨{ resv1 with granted := some (0, 2) }, 0, 2, 0, rowOf.1, rowOf.2, pulled, (by unfold Waits; decide +kernel), (by decide +kernel), (by decide +kernel), rowOf_ok, (by decide +kernel), (by decide +kernel), (by decide +kernel), (by decide +kernel)⟩

theorem test_meets_ExpertAndPlacementEvents_6 : ∃ (e : Nat) (s : State), s.arg.a = e ∧ (let x := getExp s e; x.st = .live ∧ x.lastEval < s.cycle / 4096 ∧ x.growT = 0 ∧ x.shrinkT = 0) :=
  ⟨3, at_ (args (expert task exp1) 3) 4096, (by decide +kernel), (by decide +kernel), (by decide +kernel), (by decide +kernel), (by decide +kernel)⟩

theorem test_meets_ExpertAndPlacementEvents_7 : ∃ (e : Nat) (s : State), s.arg.a = e ∧ (let x := getExp s e; (let y := { x with lastEval := s.cycle / 4096, sinceGrow := min 17 (x.sinceGrow + 1), sinceRetire := min 17 (x.sinceRetire + 1) }; (let sv := servingReps x; x.st = .live ∧ x.lastEval < s.cycle / 4096 ∧ x.growT = 0 ∧ x.shrinkT ≠ 0 ∧ 8 * (sv.map (fun k => (x.rep k).infl)).sum ≤ x.shrinkT * (sv.map (fun k => (x.rep k).nslot)).sum ∧ 2 ≤ sv.length ∧ 16 < y.sinceGrow ∧ (∃ b : BitVec 16, ∀ j ∈ sv, ((x.rep j).cseq - b).toNat < 2 ^ 15)))) :=
  ⟨3, at_ (args (expert task { exp1 with shrinkT := 8, reps := [rep1, { rep1 with cseq := 1 }], nseq := 2 }) 3) 4096, (by decide +kernel), (by decide +kernel), (by decide +kernel), (by decide +kernel), (by decide +kernel), (by decide +kernel), (by decide +kernel), (by decide +kernel), ⟨0, by decide +kernel⟩⟩

theorem test_meets_ExpertAndPlacementEvents_8 : ∃ (e k : Nat) (s : State), s.arg.a = e ∧ s.arg.b = k ∧ ((getExp s e).rep k).st = .filling ∧ (getExp s e).pub = false ∧ ((getExp s e).rep k).job = 2 ^ 32 ∧ ((getExp s e).rep k).fillWs = (getExp s e).ws ∧ ((getExp s e).rep k).zeroed = true :=
  ⟨3, 0, rep0 task { rep1 with st := .filling, job := 2 ^ 32, zeroed := true }, (by decide +kernel), (by decide +kernel), (by decide +kernel), (by decide +kernel), (by decide +kernel), (by decide +kernel), (by decide +kernel)⟩

theorem test_meets_ExpertAndPlacementEvents_9 : ∃ (e k : Nat) (s : State), s.arg.a = e ∧ s.arg.b = k ∧ ((getExp s e).rep k).st = .filling ∧ (getExp s e).pub = false ∧ 2 ^ 32 < ((getExp s e).rep k).job :=
  ⟨3, 0, rep0 task { rep1 with st := .filling, job := 2 ^ 32 + 5, zeroed := true }, (by decide +kernel), (by decide +kernel), (by decide +kernel), (by decide +kernel), (by decide +kernel)⟩

theorem test_meets_ExpertAndPlacementEvents_10 : ∃ (e k slot : Nat) (s : State), s.arg.a = e ∧ s.arg.b = k ∧ (let x := getExp s e; (let r := x.rep k; (let cl := clusterOf (getCore s r.first).pos; r.st = .draining ∧ r.slots = [] ∧ (∀ d, d < 4 → ((getCopy s e d).rep k).st = .draining) ∧ xferSlot s cl = some slot))) :=
  ⟨3, 0, 0, rep0 task { rep1 with st := .draining }, (by decide +kernel), (by decide +kernel), (by decide +kernel), (by decide +kernel), (by decide +kernel), (by decide +kernel)⟩

theorem test_meets_ExpertAndPlacementEvents_11 : ∃ (e k : Nat) (s : State), s.arg.a = e ∧ s.arg.b = k ∧ ((getExp s e).rep k).st = .handing ∧ 2 ^ 32 ≤ ((getExp s e).rep k).job :=
  ⟨3, 0, rep0 task { rep1 with st := .handing, job := 2 ^ 32 }, (by decide +kernel), (by decide +kernel), (by decide +kernel), (by decide +kernel)⟩

theorem test_meets_ExpertAndPlacementEvents_12 : ∃ (die : Nat) (s : State), s.arg.a = die ∧ (let v := tgetD s.out.subround die 0; v % 8 = 0 ∧ v / 8 < s.cycle / 4194304 ∧ (dieCores s die).Nodup) :=
  ⟨0, at_ mon 4194304, (by decide +kernel), (by decide +kernel), (by decide +kernel), (by decide +kernel)⟩

theorem test_meets_ExpertAndPlacementEvents_12a : ∃ (die : Nat) (s : State), s.arg.a = die ∧ (let v := tgetD s.out.subround die 0; v % 8 = 0 ∧ v / 8 < s.cycle / 4194304 ∧ (dieCores s die).Nodup) :=
  ⟨3, at_ (args { mon with out := { mon.out with silEn := 7 } } 3) 4194304, (by decide +kernel), (by decide +kernel), (by decide +kernel), (by decide +kernel)⟩

theorem test_meets_ExpertAndPlacementEvents_13 : ∃ (die : Nat) (s : State), s.arg.a = die ∧ NumberedCores s ∧ (∀ e ∈ s.out.swaps, e.die ≠ die) ∧ (let v := tgetD s.out.subround die 0; (let ps := (subroundPairs die (v % 8)).map (fun p => (coreAt s p.1, coreAt s p.2)); 1 ≤ v % 8 ∧ v % 8 ≤ 4 ∧ (ps.flatMap (fun p => [p.1, p.2])).Nodup)) :=
  ⟨0, { mon with out := { mon.out with subround := [(0, 9)] } }, (by decide +kernel), (numbered_ok rfl), (by decide +kernel), (by decide +kernel), (by decide +kernel), (nodup_ok (by decide +kernel))⟩

theorem test_meets_ExpertAndPlacementEvents_13a : ∃ (die : Nat) (s : State), s.arg.a = die ∧ NumberedCores s ∧ (∀ e ∈ s.out.swaps, e.die ≠ die) ∧ (let v := tgetD s.out.subround die 0; (let ps := (subroundPairs die (v % 8)).map (fun p => (coreAt s p.1, coreAt s p.2)); 1 ≤ v % 8 ∧ v % 8 ≤ 4 ∧ (ps.flatMap (fun p => [p.1, p.2])).Nodup)) :=
  ⟨0, { mon with out := { mon.out with subround := [(0, 12)] } }, (by decide +kernel), (numbered_ok rfl), (by decide +kernel), (by decide +kernel), (by decide +kernel), (nodup_ok (by decide +kernel))⟩

theorem test_meets_ExpertAndPlacementEvents_14 : ∃ (n : Nat) (e : Exchange) (s : State), s.arg.a = n ∧ s.out.swaps.find? (fun e => e.a == n || e.b == n) = some e ∧ e.a ≠ e.b ∧ (getCore s e.a).num = e.a ∧ (getCore s e.b).num = e.b ∧ crossReady s e.a = true ∧ crossReady s e.b = true :=
  ⟨1, ⟨0, 1, 0⟩, args { mon with out := { mon.out with swaps := [⟨0, 1, 0⟩] } } 1, (by decide +kernel), (by decide +kernel), (by decide +kernel), (by decide +kernel), (by decide +kernel), (by decide +kernel), (by decide +kernel)⟩

theorem test_meets_ExpertAndPlacementEvents_15 : ∃ (n : Nat) (f : Forward) (s : State), s.arg.a = n ∧ s.out.forwards.find? (fun f => f.num == n) = some f ∧ f.until_ ≤ s.cycle ∧ s.net = [] :=
  ⟨0, ⟨0, 5, 0, 0⟩, { mon with out := { mon.out with forwards := [⟨0, 5, 0, 0⟩] } }, (by decide +kernel), (by decide +kernel), (by decide +kernel), (by decide +kernel)⟩

theorem test_meets_SearchLinkAndCollectiveEvents_0 : ∃ (k : Nat) (u : State) (l : List Byte) (s : State), s.arg.a = k ∧ (getQuery s k).st = .reading ∧ queryFrozen s k = false ∧ engReads s (stackCluster (k / 64)) (getQuery s k).ctx (getQuery s k).asid (leaAdd (getQuery s k).pkt 0x40) (vecBytes (ngDim (descOf s (hGraph (getQuery s k).hdr))) (hFmt (getQuery s k).hdr)) = .got u l false :=
  ⟨0, _, _, asks task { query1 with st := .reading }, (by decide +kernel), (by decide +kernel), (by decide +kernel), (read_eq (s := mon) (by decide +kernel))⟩

theorem test_meets_SearchLinkAndCollectiveEvents_1 : ∃ (stack : Nat) (p : Nat × Query) (s : State), s.arg.a = stack ∧ enginesUsed s stack < 8 ∧ bestBy queryFirst (readyQueries s stack) = some p :=
  ⟨0, (0, { query1 with st := .ready }), asks task { query1 with st := .ready }, (by decide +kernel), (by decide +kernel), (by decide +kernel)⟩

theorem test_meets_SearchLinkAndCollectiveEvents_2 : ∃ (b : Batch) (u v : State) (ms : List (BitVec 32 × BitVec 32)) (s : State), s.un.batches.find? (fun c => c.id == s.arg.a) = some b ∧ b.adj = false ∧ (∀ c ∈ s.un.batches.takeWhile (fun c => c.id != s.arg.a), c.stack ≠ b.stack) ∧ (let q := getQuery s b.query; (let d := descOf s (hGraph q.hdr); gateReads s b.stack (768 + s.arg.a) (b.ids.map (fun n => (recordAt d n, vlenOf d))) = .ok u ∧ measureAll d q b.ids u = (v, ms.map (fun e => (e.1, some e.2))))) :=
  ⟨⟨1, 0, 0, [0], false⟩, batchSt, measured.1, distances, batchSt, (by decide +kernel), (by decide +kernel), (by decide +kernel), rfl, (by decide +kernel)⟩

theorem test_meets_SearchLinkAndCollectiveEvents_3 : ∃ (k : Nat) (s : State), s.arg.a = k ∧ (getQuery s k).st = .running ∧ queryFrozen s k = false ∧ (getQuery s k).inHop = false ∧ (getQuery s k).cancel = false ∧ ctxLife s (getQuery s k).ctx ≠ 2 ∧ (getQuery s k).visited = [] :=
  ⟨0, asks task { query1 with st := .running }, (by decide +kernel), (by decide +kernel), (by decide +kernel), (by decide +kernel), (by decide +kernel), (by decide +kernel), (by decide +kernel)⟩

theorem test_meets_SearchLinkAndCollectiveEvents_4 : ∃ (k : Nat) (s : State), s.arg.a = k ∧ (getQuery s k).st = .running ∧ queryFrozen s k = false ∧ (getQuery s k).inHop = false ∧ (getQuery s k).cancel = false ∧ ctxLife s (getQuery s k).ctx ≠ 2 ∧ (getQuery s k).visited ≠ [] ∧ (holdsBackQuery s k (getQuery s k) = true ∨ outranked s k (getQuery s k) = true) :=
  ⟨0, asks (stack0 task { Stack.fresh with st := .retraining }) { query1 with st := .running, visited := [0], cand := [⟨0, 0⟩] }, (by decide +kernel), (by decide +kernel), (by decide +kernel), (by decide +kernel), (by decide +kernel), (by decide +kernel), (by decide +kernel), (by decide +kernel)⟩

theorem test_meets_SearchLinkAndCollectiveEvents_5 : ∃ (k : Nat) (s : State), s.arg.a = k ∧ (getQuery s k).st = .running ∧ queryFrozen s k = false ∧ (getQuery s k).inHop = false ∧ (getQuery s k).cancel = false ∧ ctxLife s (getQuery s k).ctx ≠ 2 ∧ (getQuery s k).visited ≠ [] ∧ holdsBackQuery s k (getQuery s k) = false ∧ outranked s k (getQuery s k) = false ∧ ((getQuery s k).cand = [] ∨ (getQuery s k).exp = hBudget (getQuery s k).hdr) :=
  ⟨0, asks task { query1 with st := .running, visited := [0] }, (by decide +kernel), (by decide +kernel), (by decide +kernel), (by decide +kernel), (by decide +kernel), (by decide +kernel), (by decide +kernel), (by decide +kernel), (by decide +kernel), (by decide +kernel)⟩

theorem test_meets_SearchLinkAndCollectiveEvents_5a : ∃ (k : Nat) (s : State), s.arg.a = k ∧ (getQuery s k).st = .running ∧ queryFrozen s k = false ∧ (getQuery s k).inHop = false ∧ (getQuery s k).cancel = false ∧ ctxLife s (getQuery s k).ctx ≠ 2 ∧ (getQuery s k).visited ≠ [] ∧ holdsBackQuery s k (getQuery s k) = false ∧ outranked s k (getQuery s k) = false ∧ ((getQuery s k).cand = [] ∨ (getQuery s k).exp = hBudget (getQuery s k).hdr) :=
  ⟨0, asks task { query1 with st := .running, visited := [0], cand := [⟨0, 0⟩], exp := 1 }, (by decide +kernel), (by decide +kernel), (by decide +kernel), (by decide +kernel), (by decide +kernel), (by decide +kernel), (by decide +kernel), (by decide +kernel), (by decide +kernel), (by decide +kernel)⟩

theorem test_meets_SearchLinkAndCollectiveEvents_6 : ∃ (k : Nat) (s : State), s.arg.a = k ∧ (getQuery s k).st = .running ∧ queryFrozen s k = false ∧ (getQuery s k).inHop = false ∧ (getQuery s k).cancel = false ∧ ctxLife s (getQuery s k).ctx ≠ 2 ∧ ∃ c r, (getQuery s k).visited ≠ [] ∧ (getQuery s k).cand = c :: r ∧ searchOver (getQuery s k) = false ∧ holdsBackQuery s k (getQuery s k) = false ∧ outranked s k (getQuery s k) = false :=
  ⟨0, asks task { query1 with st := .running, visited := [0], cand := [⟨0, 0⟩] }, (by decide +kernel), (by decide +kernel), (by decide +kernel), (by decide +kernel), (by decide +kernel), (by decide +kernel), ⟨0, 0⟩, [], (by decide +kernel), (by decide +kernel), (by decide +kernel), (by decide +kernel), (by decide +kernel)⟩

theorem test_meets_SearchLinkAndCollectiveEvents_7 : ∃ (k : Nat) (s : State), s.arg.a = k ∧ (getQuery s k).st = .suspended ∧ holdsBackQuery s k (getQuery s k) = false :=
  ⟨0, asks task { query1 with st := .suspended }, (by decide +kernel), (by decide +kernel), (by decide +kernel)⟩

theorem test_meets_SearchLinkAndCollectiveEvents_8 : ∃ (k n off : Nat) (s : State), s.arg.a = k ∧ (getQuery s k).st = .completing ∧ queryFrozen s k = false ∧ (getQuery s k).cause = 0 ∧ hFlag (getQuery s k).hdr = 0 ∧ hRes (getQuery s k).hdr = localAddr n off ∧ off % 8 = 0 ∧ off + 8 * hK (getQuery s k).hdr ≤ 2 ^ 16 ∧ Reached s (getQuery s k).ctx n ∧ WritesAtOnce s (k / 64 / 3) n ∧ (getQuery s k).released = false :=
  ⟨0, 0, 0x600, asks task { query1 with st := .completing, found := [⟨0, 0⟩] }, (by decide +kernel), (by decide +kernel), (by decide +kernel), (by decide +kernel), (by decide +kernel), (by decide +kernel), (by decide +kernel), (by decide +kernel), (reached_ok (by decide +kernel)), (writesAtOnce_ok (by decide +kernel)), (by decide +kernel)⟩

theorem test_meets_SearchLinkAndCollectiveEvents_9 : ∃ (k : Nat) (s : State), s.arg.a = k ∧ (getQuery s k).st = .ready ∧ effPrio (getQuery s k) < 63 ∧ 65536 * ((getQuery s k).raised + 1) ≤ (getQuery s k).waited + (s.out.time - (getQuery s k).readyAt) :=
  ⟨0, let s := asks task { query1 with st := .ready }; { s with out := { s.out with time := 65536 } }, (by decide +kernel), (by decide +kernel), (by decide +kernel), (by decide +kernel)⟩

theorem test_meets_SearchLinkAndCollectiveEvents_10 : ∃ (stack p w : Nat) (s : State), s.arg.a = stack ∧ s.arg.b = p ∧ tget (getStack s stack).open_ p = some w ∧ w + (getStack s stack).window ≤ s.out.time :=
  ⟨0, 3, 0, let s := args (stack0 mon { Stack.fresh with open_ := [(3, 0)] }) 0 3; { s with out := { s.out with time := 64 } }, (by decide +kernel), (by decide +kernel), (by decide +kernel), (by decide +kernel)⟩

theorem test_meets_SearchLinkAndCollectiveEvents_11 : ∃ (stack p r w n : Nat) (s : State), s.arg.a = stack ∧ s.arg.b = p ∧ p < 64 ∧ (getStack s stack).starve ≠ 0 ∧ (tget (getStack s stack).open_ p).isSome = true ∧ (getStack s stack).held = [(heldKey r p, w + 1)] ∧ tget (getStack s stack).bursts (heldKey r p) = some (n + 1) ∧ w + (getStack s stack).starve * (getStack s stack).window ≤ s.out.time :=
  ⟨0, 3, 7, 0, 1, let s := args (stack0 mon { Stack.fresh with open_ := [(3, 0)], held := [(heldKey 7 3, 1)], bursts := [(heldKey 7 3, 2)] }) 0 3; { s with out := { s.out with time := 4096 } }, (by decide +kernel), (by decide +kernel), (by decide +kernel), (by decide +kernel), (by decide +kernel), (by decide +kernel), (by decide +kernel), (by decide +kernel)⟩

theorem test_meets_SearchLinkAndCollectiveEvents_12 : ∃ (i c : Nat) (s : State), s.arg.a = i ∧ s.arg.c = c ∧ (getLink s i).st = .training ∧ s.arg.b ≤ 1 ∧ (24 ≤ i ∨ fld s.out.peerauth (c % 4096) (c % 4096) = 1) :=
  ⟨2, 1, link2 mon { Link.fresh with st := .training } 0 1, (by decide +kernel), (by decide +kernel), (by decide +kernel), (by decide +kernel), (by decide +kernel)⟩

theorem test_meets_SearchLinkAndCollectiveEvents_12a : ∃ (i c : Nat) (s : State), s.arg.a = i ∧ s.arg.c = c ∧ (getLink s i).st = .training ∧ s.arg.b ≤ 1 ∧ (24 ≤ i ∨ fld s.out.peerauth (c % 4096) (c % 4096) = 1) :=
  ⟨2, 1, link2 mon { Link.fresh with st := .training } 1 1, (by decide +kernel), (by decide +kernel), (by decide +kernel), (by decide +kernel), (by decide +kernel)⟩

theorem test_meets_SearchLinkAndCollectiveEvents_13 : ∃ (i c : Nat) (s : State), s.arg.a = i ∧ s.arg.c = c ∧ (getLink s i).st = .training ∧ (s.arg.b = 2 ∨ (s.arg.b ≤ 1 ∧ i < 24 ∧ fld s.out.peerauth (c % 4096) (c % 4096) = 0)) :=
  ⟨2, 1, link2 mon { Link.fresh with st := .training } 2 1, (by decide +kernel), (by decide +kernel), (by decide +kernel), (by decide +kernel)⟩

theorem test_meets_SearchLinkAndCollectiveEvents_13a : ∃ (i c : Nat) (s : State), s.arg.a = i ∧ s.arg.c = c ∧ (getLink s i).st = .training ∧ (s.arg.b = 2 ∨ (s.arg.b ≤ 1 ∧ i < 24 ∧ fld s.out.peerauth (c % 4096) (c % 4096) = 0)) :=
  ⟨2, 3, link2 mon { Link.fresh with st := .training } 0 3, (by decide +kernel), (by decide +kernel), (by decide +kernel), (by decide +kernel)⟩

theorem test_meets_SearchLinkAndCollectiveEvents_14 : ∃ (i c : Nat) (s : State), s.arg.a = i ∧ s.arg.c = c ∧ (getLink s i).st = .training ∧ (s.arg.b = 3 ∨ (s.arg.b = 4 ∧ 2 ≤ (getLink s i).tries)) :=
  ⟨2, 1, link2 mon { Link.fresh with st := .training } 3 1, (by decide +kernel), (by decide +kernel), (by decide +kernel), (by decide +kernel)⟩

theorem test_meets_SearchLinkAndCollectiveEvents_14a : ∃ (i c : Nat) (s : State), s.arg.a = i ∧ s.arg.c = c ∧ (getLink s i).st = .training ∧ (s.arg.b = 3 ∨ (s.arg.b = 4 ∧ 2 ≤ (getLink s i).tries)) :=
  ⟨2, 1, link2 mon { Link.fresh with st := .training, tries := 2 } 4 1, (by decide +kernel), (by decide +kernel), (by decide +kernel), (by decide +kernel)⟩

theorem test_meets_SearchLinkAndCollectiveEvents_15 : ∃ (i : Nat) (s : State), s.arg.a = i ∧ Carries (getLink s i) :=
  ⟨2, link2 mon linkUp 0 0, (by decide +kernel), (.inl (by decide +kernel))⟩

theorem test_meets_SearchLinkAndCollectiveEvents_16 : ∃ (i : Nat) (s : State), s.arg.a = i ∧ (getLink s i).st = .retraining ∧ s.arg.b ≤ 1 :=
  ⟨2, link2 mon { linkUp with st := .retraining } 1 0, (by decide +kernel), (by decide +kernel), (by decide +kernel)⟩

theorem test_meets_SearchLinkAndCollectiveEvents_17 : ∃ (i : Nat) (s : State), s.arg.a = i ∧ (getLink s i).st = .retraining ∧ 2 ≤ s.arg.b ∧ 2 ≤ (getLink s i).tries :=
  ⟨2, link2 mon { linkUp with st := .retraining, tries := 2 } 2 0, (by decide +kernel), (by decide +kernel), (by decide +kernel), (by decide +kernel)⟩

theorem test_meets_SearchLinkAndCollectiveEvents_18 : ∃ (i : Nat) (f : Flit) (s : State), s.arg.a = i ∧ (getLink s i).frozen = false ∧ Carries (getLink s i) ∧ s.out.linkIn.find? (fun g => g.link == i) = some f ∧ i < 24 ∧ f.chip ≠ (getLink s i).peer :=
  ⟨2, { flit2 with chip := 7 }, flitIn (link2 mon linkUp 0 0) { flit2 with chip := 7 }, (by decide +kernel), (by decide +kernel), (.inl (by decide +kernel)), (by decide +kernel), (by decide +kernel), (by decide +kernel)⟩

theorem test_meets_SearchLinkAndCollectiveEvents_19 : ∃ (i : Nat) (f : Flit) (s : State), s.arg.a = i ∧ (getLink s i).frozen = false ∧ Carries (getLink s i) ∧ s.out.linkIn.find? (fun g => g.link == i) = some f ∧ ∃ m, f.chip = (getLink s i).peer ∧ f.late = false ∧ f.msg = some m :=
  ⟨2, flit2, flitIn (link2 mon linkUp 0 0) flit2, (by decide +kernel), (by decide +kernel), (.inl (by decide +kernel)), (by decide +kernel), msg1, (by decide +kernel), (by decide +kernel), (by decide +kernel)⟩

theorem test_meets_SearchLinkAndCollectiveEvents_20 : ∃ (i : Nat) (f : Flit) (s : State), s.arg.a = i ∧ (getLink s i).frozen = false ∧ Carries (getLink s i) ∧ s.out.linkIn.find? (fun g => g.link == i) = some f ∧ f.chip = (getLink s i).peer ∧ f.late = false ∧ f.missed s = false ∧ f.msg = none ∧ f.ask = none ∧ f.bytes ≠ 0 ∧ f.write = true ∧ (∀ q ∈ s.net, q.id ≠ s.nextId) :=
  ⟨2, { flit2 with msg := none, write := true, bytes := 8, addr := 0x8000000000000600, data := 5 }, flitIn (link2 mon linkUp 0 0) { flit2 with msg := none, write := true, bytes := 8, addr := 0x8000000000000600, data := 5 }, (by decide +kernel), (by decide +kernel), (.inl (by decide +kernel)), (by decide +kernel), (by decide +kernel), (by decide +kernel), (by decide +kernel), (by decide +kernel), (by decide +kernel), (by decide +kernel), (by decide +kernel), (fun q h => by cases h)⟩

theorem test_meets_SearchLinkAndCollectiveEvents_21 : ∃ (i : Nat) (s : State), s.arg.a = i ∧ (getLink s i).frozen = true :=
  ⟨2, link2 mon { Link.fresh with st := .quarantined, frozen := true } 0 0, (by decide +kernel), (by decide +kernel)⟩

theorem test_meets_SearchLinkAndCollectiveEvents_22 : ∃ (i : Nat) (s : State), s.arg.a = i ∧ (getLink s i).frozen = false ∧ s.arg.f = true ∧ (getLink s i).st = .down :=
  ⟨2, args mon 2 0 0 true, (by decide +kernel), (by decide +kernel), (by decide +kernel), (by decide +kernel)⟩

theorem test_meets_SearchLinkAndCollectiveEvents_23 : ∃ (i : Nat) (s : State), s.arg.a = i ∧ (getLink s i).frozen = false ∧ s.arg.f = false :=
  ⟨2, args mon 2, (by decide +kernel), (by decide +kernel), (by decide +kernel)⟩

theorem test_meets_SearchLinkAndCollectiveEvents_24 : ∃ (i : Nat) (s : State), s.arg.a = i ∧ (getLink s i).st = .quarantined :=
  ⟨2, link2 mon { Link.fresh with st := .quarantined } 0 0, (by decide +kernel), (by decide +kernel)⟩

theorem test_meets_SearchLinkAndCollectiveEvents_25 : ∃ (s : State), 1 ≤ fld s.arg.w 4 0 ∧ fld s.arg.w 4 0 ≤ 16 ∧ (∀ p ∈ s.out.links, p.1 < 24 → ¬ Carries p.2) :=
  ⟨args mon 0 0 0 false 1, (by decide +kernel), (by decide +kernel), (fun p h => by cases h)⟩

theorem test_meets_SearchLinkAndCollectiveEvents_25a : ∃ (s : State), 1 ≤ fld s.arg.w 4 0 ∧ fld s.arg.w 4 0 ≤ 16 ∧ (∀ p ∈ s.out.links, p.1 < 24 → ¬ Carries p.2) :=
  ⟨args mon 0 0 0 false 16, (by decide +kernel), (by decide +kernel), (fun p h => by cases h)⟩

theorem test_meets_SearchLinkAndCollectiveEvents_25b : ∃ (s : State), 1 ≤ fld s.arg.w 4 0 ∧ fld s.arg.w 4 0 ≤ 16 ∧ (∀ p ∈ s.out.links, p.1 < 24 → ¬ Carries p.2) :=
  ⟨args { mon with out := { mon.out with links := [(24, linkUp)] } } 0 0 0 false 3, (by decide +kernel), (by decide +kernel), (fun p h hp => by cases h with | head => exact absurd hp (by decide) | tail _ h => cases h)⟩

theorem test_meets_SearchLinkAndCollectiveEvents_26 : ∃ (s : State), (fld s.arg.w 4 0 = 0 ∨ 16 < fld s.arg.w 4 0 ∨ ∃ p ∈ s.out.links, p.1 < 24 ∧ Carries p.2) :=
  ⟨args mon 0 0 0 false 0, (.inl (by decide +kernel))⟩

theorem test_meets_SearchLinkAndCollectiveEvents_26a : ∃ (s : State), (fld s.arg.w 4 0 = 0 ∨ 16 < fld s.arg.w 4 0 ∨ ∃ p ∈ s.out.links, p.1 < 24 ∧ Carries p.2) :=
  ⟨args mon 0 0 0 false 17, (.inr (.inl (by decide +kernel)))⟩

theorem test_meets_SearchLinkAndCollectiveEvents_26b : ∃ (s : State), (fld s.arg.w 4 0 = 0 ∨ 16 < fld s.arg.w 4 0 ∨ ∃ p ∈ s.out.links, p.1 < 24 ∧ Carries p.2) :=
  ⟨args (link2 mon linkUp 0 0) 0 0 0 false 3, (.inr (.inr ⟨(2, linkUp), .head _, by decide, .inl rfl⟩))⟩

theorem test_meets_SearchLinkAndCollectiveEvents_27 : ∃ (s : State), fld s.arg.w 0 0 = 1 :=
  ⟨args mon 0 0 0 false 1, (by decide +kernel)⟩

theorem test_meets_SearchLinkAndCollectiveEvents_28 : ∃ (x : Coll) (n : Nat) (s : State), s.arg.b = n ∧ getColl s s.arg.a = some x ∧ n ∈ x.members ∧ n ∉ x.arrived ∧ n < nCores ∧ (tget x.contribs n).isSome = true :=
  ⟨coll7, 0, colls mon coll7, (by decide +kernel), (by decide +kernel), (by decide +kernel), (by decide +kernel), (by decide +kernel), (by decide +kernel)⟩

theorem test_meets_SearchLinkAndCollectiveEvents_29 : ∃ (x : Coll) (n : Nat) (s : State), s.arg.b = n ∧ getColl s s.arg.a = some x ∧ n ∈ x.members ∧ n ∉ x.arrived ∧ nCores ≤ n ∧ writesFrom s (n / nCores) = false :=
  ⟨{ coll7 with members := [0, 9000] }, 9000, let s := colls mon { coll7 with members := [0, 9000] }; { s with arg := { s.arg with b := 9000 } }, (by decide +kernel), (by decide +kernel), (by decide +kernel), (by decide +kernel), (by decide +kernel), (by decide +kernel)⟩

theorem test_meets_SearchLinkAndCollectiveEvents_30 : ∃ (x : Coll) (n : Nat) (s : State), getColl s s.arg.a = some x ∧ x.result = none ∧ x.failed = none ∧ x.ports = [] ∧ n ∈ x.members ∧ n < nCores ∧ n ∉ x.taken ∧ ∃ f, collFails s x = some f :=
  ⟨{ coll7 with mixed := true }, 0, colls mon { coll7 with mixed := true }, (by decide +kernel), (by decide +kernel), (by decide +kernel), (by decide +kernel), (by decide +kernel), (by decide +kernel), (by decide +kernel), 0, (by decide +kernel)⟩

theorem test_meets_SearchLinkAndCollectiveEvents_31 : ∃ (x : Coll) (n : Nat) (s : State), getColl s s.arg.a = some x ∧ x.result = none ∧ x.failed = none ∧ x.ports = [] ∧ n ∈ x.members ∧ n < nCores ∧ n ∉ x.taken ∧ collFails s x = none ∧ (∀ m ∈ x.members, m ∈ x.arrived) ∧ x.kind ≠ 3 :=
  ⟨{ coll7 with arrived := [0, 1] }, 0, colls mon { coll7 with arrived := [0, 1] }, (by decide +kernel), (by decide +kernel), (by decide +kernel), (by decide +kernel), (by decide +kernel), (by decide +kernel), (by decide +kernel), (by decide +kernel), (by decide +kernel), (by decide +kernel)⟩

theorem test_meets_SearchLinkAndCollectiveEvents_32 : ∃ (n since id : Nat) (b : Reg) (x : Coll) (s : State), s.arg.a = n ∧ (getCore s n).wait = some ⟨since, .coll id b⟩ ∧ getColl s id = some x ∧ x.failed = none ∧ x.result = none ∧ (getCore s n).sys.btimeout.toNat ≠ 0 ∧ since + (getCore s n).sys.btimeout.toNat ≤ s.cycle :=
  ⟨0, 0, 7, 5, coll7, at_ (args (waitsFor ((colls mon coll7).mapSys (fun r => { r with btimeout := 5 })) (.coll 7 5)) 0) 5, (by decide +kernel), (by decide +kernel), (by decide +kernel), (by decide +kernel), (by decide +kernel), (by decide +kernel), (by decide +kernel)⟩

theorem test_meets_StepRunsDecoded_0 : ∃ (off : Nat) (d : Decoded) (s : State), AtIssue s ∧ s.core.num < nCores ∧ s.core.pc = localAddr s.core.num off ∧ off % 2 = 0 ∧ off + d.len ≤ 2 ^ 16 ∧ Whole s s.core.num off d.len ∧ decode (wordsAt s (localKey s.core.num off)) = .ok d ∧ usesEvicted s d.instr = false :=
  ⟨0, ⟨.nop, 4, 0, 0x1803, 1⟩, data mon 0 [0x1803F920], (atIssue_ok (by decide +kernel) (by unfold Unpaired; decide +kernel)), (by decide +kernel), (by decide +kernel), (by decide +kernel), (by decide +kernel), (whole_ok (by decide +kernel)), (by decide +kernel), (by decide +kernel)⟩

theorem test_meets_StepRunsDecoded_1 : ∃ (i : Instr) (u v : State), u.core.wait = none ∧ v.core.issue.mark = .done ∧ v.core.run = .running ∧ NoDebug v ∧ v.core.vec.streams = [] ∧ Unpaired v ∧ v.core.ev.reloadOwed = [] :=
  ⟨.nop, mon, nx mon (exec .nop mon), (by decide +kernel), (by decide +kernel), (by decide +kernel), (by unfold NoDebug; decide +kernel), (by decide +kernel), (by unfold Unpaired; decide +kernel), (by decide +kernel)⟩

theorem test_meets_StepRunsDecoded_2 : ∃ (i : Instr) (u v : State), u.core.wait = none ∧ v.core.issue.mark = .done ∧ v.core.run = .running ∧ NoDebug v ∧ v.core.vec.streams = [] ∧ Unpaired v ∧ v.core.ev.reloadOwed = [] :=
  ⟨.nop, mon, nx mon (exec .nop mon), (by decide +kernel), (by decide +kernel), (by decide +kernel), (by unfold NoDebug; decide +kernel), (by decide +kernel), (by unfold Unpaired; decide +kernel), (by decide +kernel)⟩

theorem test_meets_ResetValues_0 : ∃ n, n < nCores :=
  ⟨0, (by decide +kernel)⟩

theorem test_meets_ResetValues_0a : ∃ n, n < nCores :=
  ⟨8191, (by decide +kernel)⟩

theorem test_meets_ResetValues_1 : ∃ n, n < nCores :=
  ⟨8191, (by decide +kernel)⟩

theorem test_meets_ResetValues_2 : ∃ i, i < 25 :=
  ⟨0, (by decide +kernel)⟩

theorem test_meets_ResetValues_2a : ∃ i, i < 25 :=
  ⟨24, (by decide +kernel)⟩

theorem test_meets_MemoryStaysCanonical_0 : ∃ s t : State, Memory.wf s.mem = true ∧ step s = .next t :=
  ⟨(data mon 0 [0x1803F920]), _, (by decide +kernel), (nx_eq (s := mon) (by decide +kernel))⟩

theorem test_meets_StepNeverStops_0 : ∃ s : State, AgendaOk s :=
  ⟨mon, (fun _ _ h => by cases h)⟩

theorem test_meets_DecodingUndoesEncoding_0 : ∃ i : Instr, WellFormed i = true ∧ isEvent i = false :=
  ⟨.add 3 4 5, (by decide +kernel), (by decide +kernel)⟩

theorem test_meets_DecodingUndoesEncoding_0a : ∃ i : Instr, WellFormed i = true ∧ isEvent i = false :=
  ⟨.mclrTicket 3 4, (by decide +kernel), (by decide +kernel)⟩

theorem test_meets_DecodingUndoesEncoding_1 : ∃ i : Instr, isEvent i = true :=
  ⟨.saveComplete, (by decide +kernel)⟩

theorem test_meets_DecodingUndoesEncoding_2 : ∃ (ws : List W16) (d : Decoded), decode ws = .ok d :=
  ⟨[0xF920, 0x1803], ⟨.nop, 4, 0, 0x1803, 1⟩, (by decide +kernel)⟩

end Sys2Proof.Machine.Tests
end

/-! Every step answers a next state (00_scope R5, 04_core R76, 09_context R230). An instruction ends in `finish`, which has
an answer for every effect, and an event is a state at once; what the turn of a core and the schedule add to them keeps
the answer. The one entry that could stop the machine names a core the chip does not hold. -/
namespace Sys2Proof.Machine

/-- A next state is answered: neither a fault nor a refusal. -/
def Answers (o : Host.Outcome State Fault Refusal) : Prop := ∃ t, o = .next t

theorem stepSafe_iff_answers (s : State) : StepSafe s ↔ Answers (step s) := Iff.rfl

@[simp] theorem answers_next (s : State) : Answers (.next s) := ⟨s, rfl⟩

@[simp] theorem not_answers_fault (f : Fault) : ¬ Answers (.fault f) := by rintro ⟨_, ⟨⟩⟩

/-! ### Instructions and events -/

/-- A result, a trap, a wait, a frozen core and an instruction that is over each have a next state (04_core R89). -/
theorem finish_answers (s : State) (r : Eff) : Answers (finish s r) := by
  cases r with
  | ok t => exact answers_next _
  | error e => cases e <;> exact answers_next _

/-- The meaning of an encoded instruction is an effect that `finish` turns into an answer. `cases hi` discards the events
here, and the encoded instructions in `exec_event_answers`. -/
theorem exec_eq_finish {i : Instr} (hi : isEvent i = false) (s : State) : ∃ r, exec i s = finish s r := by
  unfold exec
  cases i <;> cases hi <;> exact ⟨_, rfl⟩

theorem exec_event_answers {i : Instr} (hi : isEvent i = true) (s : State) : Answers (exec i s) := by
  cases i <;> cases hi <;> exact answers_next _

theorem exec_answers (i : Instr) (s : State) : Answers (exec i s) := by
  cases hi : isEvent i with
  | true => exact exec_event_answers hi s
  | false =>
    obtain ⟨r, hr⟩ := exec_eq_finish hi s
    exact hr ▸ finish_answers s r

/-! ### Events that stand before the device -/

theorem runEvent_answers (e : Happening) (s : State) : Answers (runEvent e s) := by
  obtain ⟨t, ht⟩ := exec_answers e.1 { s with arg := e.2 }
  simp [runEvent, ht]

theorem firstEvent_answers {s : State} {l : List Happening} {o : Host.Outcome State Fault Refusal}
    (h : firstEvent s l = some o) : Answers o := by
  induction l with
  | nil => cases h
  | cons e l ih =>
    obtain ⟨t, ht⟩ := runEvent_answers e s
    simp only [firstEvent, ht] at h
    split at h
    · exact ih h
    · cases h
      exact answers_next t

theorem settleEvents_answers (n : Nat) (s : State) : Answers (settleEvents n s) := by
  induction n generalizing s with
  | zero => exact answers_next s
  | succ n ih =>
    cases h : firstEvent s (fairEvents s) with
    | none => simp [settleEvents, h]
    | some o =>
      obtain ⟨t, rfl⟩ := firstEvent_answers h
      simpa [settleEvents, h] using ih t

/-! ### The turn of a core -/

theorem breathe_answers (before s : State) : Answers (breathe before s) := by
  obtain ⟨t, ht⟩ := settleEvents_answers (8 * (s.cycle / 64 - before.cycle / 64)) s
  simp [breathe, ht]

theorem issueTurn_answers (s : State) : Answers (issueTurn s) := by
  unfold issueTurn
  cases prepare s with
  | ends t => exact answers_next _
  | runs b u i =>
    obtain ⟨v, hv⟩ := exec_answers i u
    simp only [hv]
    split
    · exact answers_next _
    · split
      · exact breathe_answers _ _
      · exact answers_next _

/-- A turn for an event answers when what happens in its place, where no event stands, does. -/
theorem eventTurn_answers {s : State} {otherwise : State → Host.Outcome State Fault Refusal}
    (ho : Answers (otherwise s)) : Answers (eventTurn s otherwise) := by
  unfold eventTurn
  cases h : firstEvent s (fairEvents s) with
  | none => exact ho
  | some o =>
    obtain ⟨t, rfl⟩ := firstEvent_answers h
    exact answers_next _

theorem turn_answers (s : State) : Answers (turn s) := by
  unfold turn
  cases turning s with
  | took t => exact answers_next t
  | issues t => exact issueTurn_answers t
  | events t => exact eventTurn_answers (answers_next (pause t))
  | eventsFirst t => exact eventTurn_answers (issueTurn_answers t)

/-! ### The schedule -/

/-- A step answers exactly when its entry of the schedule, if it gives a core the turn, names a core of the chip. -/
theorem stepSafe_iff_agendaOk (s : State) : StepSafe s ↔ AgendaOk s := by
  rw [stepSafe_iff_answers]
  unfold step scheduled
  match h : s.agenda with
  | [] => simp [AgendaOk, h, turn_answers]
  | .pass k :: l => simp [AgendaOk, h]
  | .run n :: l =>
    by_cases hn : n < nCores
    · simp [AgendaOk, h, hn, turn_answers]
    · simp [AgendaOk, h, hn]
  | .event i a :: l =>
    cases hi : isEvent i with
    | true => simp [AgendaOk, h, hi, runEvent_answers]
    | false => simp [AgendaOk, h, hi]

/-- Settles O59: a schedule that names cores of the chip is all a step needs, since every instruction and every event
answers. -/
theorem stepNeverStops : Obligations.StepNeverStops := by
  unfold Obligations.StepNeverStops
  exact fun s hs => (stepSafe_iff_agendaOk s).2 hs

end Sys2Proof.Machine

/-! What the state after reset holds (01_machine R12, 04_core R76, 09_context R226 and R229, 23_link R426). The tables of
that state are empty, so every core, register, byte and link reads as its table's default; the lemmas say which value that
is, once per reading. -/
namespace Sys2Proof.Machine

/-! ### A core at reset -/

/-- The core in focus is core 0 and the table of the others is empty. -/
@[simp] theorem getCore_reset (n : Nat) : getCore State.reset n = Core.reset n := by
  by_cases h : n = 0
  · subst h
    rfl
  · exact if_neg h

@[simp] theorem Scalars.get_reset (r : Reg) : Scalars.reset.get r = 0 := by
  simp [Scalars.get, Scalars.reset]

/-- STATUS.MODE (R226). -/
theorem modeOf_reset (n : Nat) : modeOf (Core.reset n) = 2 := by
  show fld 2 1 0 = 2
  decide

/-- ASID.NOCTX (R229). -/
theorem noCtx_reset (n : Nat) : noCtx (Core.reset n) = true := by
  show (fld 0x10000 16 16 == 1) = true
  decide

/-- ASID.ASID (R229). -/
theorem curAsid_reset (n : Nat) : curAsid (Core.reset n) = 0 := by
  show fld 0x10000 7 0 = 0
  decide

/-! ### Links at reset -/

@[simp] theorem getLink_reset (i : Nat) : getLink State.reset i = Link.fresh := tgetD_nil i _

/-- Settles O57: each clause reads a field of the reset core, a byte of the empty memory, a fresh link or a register of
the device. -/
theorem resetValues : Obligations.ResetValues := by
  unfold Obligations.ResetValues
  refine ⟨fun n _ => ?core, mget_nil, rfl, fun i _ => ?link, rfl, rfl, rfl⟩
  case core =>
    rw [getCore_reset]
    exact ⟨rfl, rfl, rfl, modeOf_reset n, noCtx_reset n, curAsid_reset n, rfl, Scalars.get_reset⟩
  case link =>
    rw [getLink_reset]
    exact ⟨rfl, rfl⟩

end Sys2Proof.Machine

/-! Vector registers and the results on their way to them (05_vector R106, R107; 03_encoding R59 to R61). -/
namespace Sys2Proof.Machine

/-! ### Slots -/

/-- Whether a register keeps what is written, and what shares its frame, depends on the slots alone (R107). -/
theorem holds_congr {s t : State} {r : Reg} (h : ∀ k, t.core.vec.slot k = s.core.vec.slot k) : Holds t r ↔ Holds s r := by
  simp only [Holds, h]

theorem sameFrame_congr {s t : State} {q r : Reg} (h : ∀ k, t.core.vec.slot k = s.core.vec.slot k) :
    SameFrame t q r ↔ SameFrame s q r := by
  simp only [SameFrame, h]

theorem v_of_not_holds {s : State} {r : Reg} (h : ¬ Holds s r) : s.v r = 0 := by
  obtain ⟨h0, hm⟩ := not_or.1 h
  simp only [State.v, vget, if_neg h0]
  split
  · exact absurd ⟨_, ‹_›⟩ hm
  · rfl

/-! ### A register written -/

@[simp] theorem vset_slot (s : State) (r : Reg) (w : W512) (k : Nat) :
    (vset s r w).core.vec.slot k = s.core.vec.slot k := by
  unfold vset
  split
  · rfl
  · split <;> rfl

theorem v_vset_self {s : State} {r : Reg} (w : W512) (h : Holds s r) : (vset s r w).v r = w := by
  by_cases h0 : slotOf r = 0
  · exact v_vset_own_self s r w h0
  · obtain ⟨f, hf⟩ := h.resolve_left h0
    simp [State.v, vset, vget, h0, hf, tgetD_tputD_self]

/-- Within one quad a frame and a place in it name one register of the frame table. -/
theorem frameKey_inj {quad f g q r : Nat} (h : frameKey quad f q = frameKey quad g r) : f = g ∧ q % 8 = r % 8 := by
  simp only [frameKey] at h
  omega

theorem v_vset_ne {s : State} {q r : Reg} (w : W512) (hne : r ≠ q) (hf : ¬ SameFrame s r q) :
    (vset s q w).v r = s.v r := by
  have hn : r.toNat ≠ q.toNat := fun e => hne (BitVec.eq_of_toNat_eq e)
  by_cases hq : slotOf q = 0
  · by_cases hr : slotOf r = 0
    · simp only [State.v, vset, vget, hq, hr, if_true, tgetD_tputD_ne _ _ _ hn]
    · simp only [State.v, vset, vget, hq, hr, if_true, if_false]
      rfl
  · cases hs : s.core.vec.slot (slotOf q) with
    | unmapped => simp only [vset, hq, hs, if_false]
    | evicted => simp only [vset, hq, hs, if_false]
    | mapped f =>
      by_cases hr : slotOf r = 0
      · simp only [State.v, vset, vget, hq, hs, hr, if_true, if_false]
      · cases hs' : s.core.vec.slot (slotOf r) with
        | unmapped => simp only [State.v, vset, vget, hq, hs, hr, hs', if_false]
        | evicted => simp only [State.v, vset, vget, hq, hs, hr, hs', if_false]
        | mapped g =>
          have hk : frameKey (quadOf s.core.pos) g r.toNat ≠ frameKey (quadOf s.core.pos) f q.toNat := fun e => by
            obtain ⟨rfl, h8⟩ := frameKey_inj e
            have hslot : slotOf r ≠ slotOf q := fun e' => by simp only [slotOf] at e'; omega
            exact hf ⟨hslot, h8, g, hs', hs⟩
          simp only [State.v, vset, vget, hq, hs, hr, hs', if_false, tgetD_tputD_ne _ _ _ hk]

/-- A write to a vector register changes the registers of slot 0 or the table of frames. -/
theorem vset_changes (s : State) (r : Reg) (w : W512) : ∃ own frames, vset s r w =
    { s with core := { s.core with vec := { s.core.vec with own := own } }, un := { s.un with frames := frames } } := by
  unfold vset
  split
  · exact ⟨_, s.un.frames, rfl⟩
  · split
    · exact ⟨s.core.vec.own, _, rfl⟩
    · exact ⟨s.core.vec.own, s.un.frames, rfl⟩

theorem lockAt_changes (s : State) (place lat : Nat) : ∃ locks, lockAt s place lat =
    { s with core := { s.core with locks := locks } } := by
  unfold lockAt
  split
  · exact ⟨s.core.locks, rfl⟩
  · exact ⟨_, rfl⟩

/-! ### Results that land -/

@[simp] theorem Pend.apply_slot (s : State) (p : Pend) (k : Nat) :
    (p.apply s).core.vec.slot k = s.core.vec.slot k := by
  cases p <;> simp [Pend.apply]

/-- A pending result that goes neither to register `r` nor to another one in the same frame. -/
def Passes (s : State) (r : Reg) (p : Pend) : Prop := ∀ q, q = r ∨ SameFrame s q r → p.same (.v q 0 0) = false

theorem passes_of_quietV {s : State} {r : Reg} (h : QuietV s r) : ∀ p ∈ s.core.pend, Passes s r p :=
  fun p hp q hq => h q hq p hp

theorem passes_congr {s t : State} {r : Reg} {p : Pend} (h : ∀ k, t.core.vec.slot k = s.core.vec.slot k) :
    Passes t r p ↔ Passes s r p := by
  simp only [Passes, sameFrame_congr h]

theorem Passes.v_apply {s : State} {r : Reg} {p : Pend} (h : Passes s r p) : (p.apply s).v r = s.v r := by
  cases p with
  | x q w l => rfl
  | v q w l =>
    have hq : q ≠ r ∧ ¬ SameFrame s q r := by
      rw [← not_or]
      exact fun e => by simpa [Pend.same] using h q e
    obtain ⟨hne, hf⟩ := hq
    refine v_vset_ne w (Ne.symm hne) fun ⟨hs, h8, f, hr, hq⟩ => hf ⟨Ne.symm hs, h8.symm, f, hq, hr⟩

@[simp] theorem foldl_apply_slot (l : List Pend) (s : State) (k : Nat) :
    (l.foldl Pend.apply s).core.vec.slot k = s.core.vec.slot k := by
  induction l generalizing s with
  | nil => rfl
  | cons p l ih => rw [List.foldl_cons, ih, Pend.apply_slot]

theorem v_foldl_apply {l : List Pend} {s : State} {r : Reg} (h : ∀ p ∈ l, Passes s r p) :
    (l.foldl Pend.apply s).v r = s.v r := by
  induction l generalizing s with
  | nil => rfl
  | cons p l ih =>
    rw [List.foldl_cons, ih fun q hq => (passes_congr (p.apply_slot s)).2 (h q (List.mem_cons_of_mem _ hq)),
      (h p List.mem_cons_self).v_apply]

theorem vAt_of_quiet {t : State} {r : Reg} (h : QuietV t r) (n : Nat) : vAt t n r = t.v r :=
  v_foldl_apply fun p hp => passes_of_quietV h p (List.mem_of_mem_filter hp)

theorem vAt_of_not_holds {t : State} {r : Reg} (h : ¬ Holds t r) (n : Nat) : vAt t n r = 0 :=
  v_of_not_holds (mt (holds_congr (foldl_apply_slot _ _)).1 h)

/-- A result that is due is in its register once no other one goes there. -/
theorem vAt_of_due {t : State} {r : Reg} {w : W512} {l n : Nat} {before after : List Pend} (hr : Holds t r)
    (hp : t.core.pend = before ++ .v r w l :: after) (ha : ∀ p ∈ after, Passes t r p) (hl : l ≤ n) :
    vAt t n r = w := by
  simp only [vAt, landDue, hp, List.filter_append, List.filter_cons, Pend.lands, hl, decide_true, if_true, List.foldl_append,
    List.foldl_cons]
  rw [v_foldl_apply, Pend.apply, v_vset_self]
  · exact (holds_congr fun k => by simp).2 hr
  · exact fun p hp => (passes_congr fun k => by simp).2 (ha p (List.mem_of_mem_filter hp))

theorem pendInsert_split (p : Pend) (l : List Pend) :
    ∃ before after, l = before ++ after ∧ pendInsert p l = before ++ p :: after := by
  induction l with
  | nil => exact ⟨[], [], rfl, rfl⟩
  | cons q l ih =>
    obtain ⟨b, a, rfl, h⟩ := ih
    unfold pendInsert
    split
    · exact ⟨[], q :: (b ++ a), rfl, rfl⟩
    · exact ⟨q :: b, a, rfl, by rw [h]; rfl⟩

/-! ### Flags (02_numbers R34) -/

theorem raise_eq_mapSys (s : State) (f : Flags) :
    raise s f = s.mapSys (fun r => { r with fflags := r.fflags ||| f.zeroExtend 64 }) := by
  unfold raise
  split
  next h =>
    subst h
    simp [State.mapSys]
  next => rfl

/-! ### The end of a vector instruction -/

/-- What a vector instruction that ends in `t` leaves: flags `fl` are raised, and from the cycle `due` on register `d` holds `val`. -/
structure WritesV (s t : State) (d : Reg) (fl : Flags) (due : Nat) (val : W512) : Prop where
  pc : t.core.pc = s.core.issue.npc
  frame : VectorFrame s t [] [d]
  flags : t.core.sys.fflags = s.core.sys.fflags ||| fl.zeroExtend 64
  value : ∀ n, due ≤ n → (Holds s d → vAt t n d = val) ∧ (¬ Holds s d → vAt t n d = 0)

/-- A result of fixed latency: the register changes when it lands. -/
theorem writesV_setVL {s : State} {d : Reg} (hq : QuietV s d) (fl : Flags) (val : W512) (lat : Nat) :
    WritesV s (retire (setVL (raise s fl) d val lat)) d fl (s.cycle + lat) val := by
  rw [raise_eq_mapSys, setVL_clear (s.mapSys _) d val lat (hq d (.inl rfl))]
  constructor
  case pc => rfl
  case flags => rfl
  case frame =>
    exact ⟨fun _ _ => rfl, fun _ _ => rfl, ⟨_, rfl⟩, ⟨rfl, rfl, rfl, rfl, rfl⟩,
      ⟨rfl, rfl, rfl, rfl, rfl, rfl, rfl, rfl, rfl, rfl, rfl, rfl⟩, fun _ => rfl, rfl, rfl, rfl, rfl, rfl, _, rfl⟩
  case value =>
    intro n hn
    obtain ⟨before, after, hl, hi⟩ := pendInsert_split (.v d val (s.cycle + lat)) s.core.pend
    refine ⟨fun hd => vAt_of_due ?_ hi (fun p hp => ?_) hn, fun hd => vAt_of_not_holds ?_ n⟩
    · exact hd
    · exact passes_of_quietV hq p (hl ▸ List.mem_append_right _ hp)
    · exact hd

/-- An interlocked result: the register holds it when the instruction ends. -/
theorem writesV_setVI {s : State} {d : Reg} (hq : QuietV s d) (fl : Flags) (val : W512) (lat : Nat) :
    WritesV s (retire (setVI (raise s fl) d val lat)) d fl s.cycle val := by
  rw [raise_eq_mapSys, setVI_clear (s.mapSys _) d val lat (hq d (.inl rfl))]
  generalize hu : s.mapSys _ = u
  have hv : ∀ r, r ≠ d → ¬ SameFrame u r d → (vset u d val).v r = u.v r := fun _ => v_vset_ne val
  have hd : Holds u d → (vset u d val).v d = val := v_vset_self val
  obtain ⟨own, frames, hw⟩ := vset_changes u d val
  obtain ⟨locks, hl⟩ := lockAt_changes (vset u d val) (vPlace d) lat
  rw [hl]
  rw [hw] at hv hd ⊢
  subst hu
  constructor
  case pc => rfl
  case flags => rfl
  case frame =>
    refine ⟨fun _ _ => rfl, fun r hr => ?vectors, ⟨_, rfl⟩, ⟨rfl, rfl, rfl, rfl, rfl⟩,
      ⟨rfl, rfl, rfl, rfl, rfl, rfl, rfl, rfl, rfl, rfl, rfl, rfl⟩, fun _ => rfl, rfl, rfl, rfl, rfl, rfl, _, rfl⟩
    obtain ⟨hne, hf⟩ := hr d (List.mem_singleton_self d)
    exact hv r hne hf
  case value =>
    refine fun n _ => ⟨fun h => (vAt_of_quiet ?_ n).trans (hd h), fun h => vAt_of_not_holds ?_ n⟩
    · exact hq
    · exact h

/-! ### Vector instructions between registers -/

/-- The two ways in which a vector instruction between registers ends: with a result of fixed latency or with an interlocked one
(R59). -/
inductive VectorEnd (s : State) (d : Reg) : Host.Outcome State Fault Refusal → Prop
  | fixed (fl : Flags) (val : W512) (lat : Nat) : VectorEnd s d (finish s (.ok (setVL (raise s fl) d val lat)))
  | held (fl : Flags) (val : W512) (lat : Nat) : VectorEnd s d (finish s (.ok (setVI (raise s fl) d val lat)))

theorem VectorEnd.writesV {s : State} {d : Reg} {o : Host.Outcome State Fault Refusal} (h : VectorEnd s d o)
    (hq : QuietV s d) : ∃ t fl due val, o = .next t ∧ WritesV s t d fl due val := by
  cases h with
  | fixed fl val lat => exact ⟨_, _, _, _, rfl, writesV_setVL hq fl val lat⟩
  | held fl val lat => exact ⟨_, _, _, _, rfl, writesV_setVI hq fl val lat⟩

/-- `cases h` leaves the instructions that `vectorResult` lists. -/
theorem vectorEnd_of_vectorResult {i : Instr} {vs xs : List Reg} (h : vectorResult i = some (vs, xs)) (s : State) :
    ∃ d, vs = [d] ∧ xs = [] ∧ VectorEnd s d (exec i s) := by
  cases i <;> cases h <;> refine ⟨_, rfl, rfl, ?_⟩
  case vdiv | vrcp | vrsq | vexp2 | vlog2 | vscan | vsxpack | vsxunpack => exact .held _ _ _
  all_goals exact .fixed _ _ _

/-- Settles O30: each of these instructions ends in one write of its destination, and that write keeps the frame. -/
theorem vectorCompletesAndFrame : Obligations.VectorCompletesAndFrame := by
  unfold Obligations.VectorCompletesAndFrame
  intro i vs xs s h hq
  obtain ⟨d, rfl, rfl, hend⟩ := vectorEnd_of_vectorResult h s
  obtain ⟨t, fl, due, val, ht, hw⟩ := hend.writesV (hq d (List.mem_singleton_self d))
  exact ⟨t, ht, hw.pc, hw.frame⟩

end Sys2Proof.Machine

/-! Elements of a vector register and of a result under a mask (05_vector R106, R109; 02_numbers R34). -/
namespace Sys2Proof.Machine

/-! ### Elements -/

theorem elem_lt {n : Nat} (v : BitVec n) (w i : Nat) : elem v w i < 2 ^ w := Nat.mod_lt _ (Nat.two_pow_pos w)

/-- An element that lies inside the register reads the number the register was made of. -/
theorem elem_ofNat {n w i : Nat} (x : Nat) (h : (i + 1) * w ≤ n) :
    elem (BitVec.ofNat n x) w i = x / 2 ^ (i * w) % 2 ^ w := by
  rw [Nat.add_mul, Nat.one_mul] at h
  rw [elem, BitVec.toNat_ofNat, Nat.shiftRight_eq_div_pow]
  refine Nat.eq_of_testBit_eq fun j => ?_
  simp only [Nat.testBit_mod_two_pow, Nat.testBit_div_two_pow]
  by_cases hj : j < w
  · have : j + i * w < n := by omega
    simp [this]
  · simp [hj]

theorem packNat_elem (w : Nat) (l : List Nat) (i : Nat) :
    packNat w l / 2 ^ (i * w) % 2 ^ w = l.getD i 0 % 2 ^ w := by
  induction l generalizing i with
  | nil => simp [packNat]
  | cons e l ih =>
    cases i with
    | zero => simp [packNat]
    | succ i =>
      have hdiv : packNat w (e :: l) / 2 ^ w = packNat w l := by
        rw [packNat, Nat.add_mul_div_left _ _ (Nat.two_pow_pos w), Nat.div_eq_of_lt (Nat.mod_lt _ (Nat.two_pow_pos w)),
          Nat.zero_add]
      rw [Nat.succ_mul, Nat.add_comm, Nat.pow_add, ← Nat.div_div_eq_div_mul, hdiv, ih, List.getD_cons_succ]

theorem elem_fits {w i : Nat} (hi : i < 512 / w) : (i + 1) * w ≤ 512 :=
  Nat.le_trans (Nat.mul_le_mul_right w hi) (Nat.div_mul_le_self 512 w)

theorem elem_pack {w i : Nat} (l : List Nat) (hi : i < 512 / w) : elem (pack w l) w i = l.getD i 0 % 2 ^ w :=
  (elem_ofNat _ (elem_fits hi)).trans (packNat_elem w l i)

/-- A register made of one number that fits an element holds it in element 0 and zero above. -/
theorem elem_ofNat_of_lt {w i x : Nat} (hx : x < 2 ^ w) (hi : i < 512 / w) :
    elem (BitVec.ofNat 512 x) w i = if i = 0 then x else 0 := by
  rw [elem_ofNat x (elem_fits hi)]
  split
  next h => rw [h, Nat.zero_mul, Nat.pow_zero, Nat.div_one, Nat.mod_eq_of_lt hx]
  next h =>
    have : 2 ^ w ≤ 2 ^ (i * w) := Nat.pow_le_pow_right Nat.two_pos (Nat.le_mul_of_pos_left w (Nat.pos_of_ne_zero h))
    rw [Nat.div_eq_of_lt (Nat.lt_of_lt_of_le hx this), Nat.zero_mod]

/-! ### Masks -/

/-- One more element at the end of a merged list, with its flags when the mask is on. -/
theorem maskMerge_concat (s : State) (m : Msk) (w : Nat) (old : W512) (l : List (Nat × Flags)) (x : Nat × Flags) :
    maskMerge s m w old (l ++ [x]) =
      ((maskMerge s m w old l).1 ++ [if mskOn s m w l.length || m.ag then x.1 else elem old w l.length],
        if mskOn s m w l.length then (maskMerge s m w old l).2 ||| x.2 else (maskMerge s m w old l).2) := by
  simp only [maskMerge, List.zipIdx_append, List.foldl_append, List.zipIdx_cons, List.zipIdx_nil, List.foldl_cons,
    List.foldl_nil, Nat.zero_add]
  cases mskOn s m w l.length <;> cases m.ag <;> simp

theorem onFlags_succ (s : State) (m : Msk) (w n : Nat) (f : Nat → Nat × Flags) :
    onFlags s m w (n + 1) f = if mskOn s m w n then onFlags s m w n f ||| (f n).2 else onFlags s m w n f := by
  simp only [onFlags, List.range_succ, List.foldl_append, List.foldl_cons, List.foldl_nil]

/-- The first `n` elements of a result under a mask: those of `underMask`, with the flags of the on ones. -/
theorem maskMerge_range (s : State) (m : Msk) (w : Nat) (d : Reg) (n : Nat) (f : Nat → Nat × Flags) :
    maskMerge s m w (s.v d) ((List.range n).map f) =
      ((List.range n).map (underMask s m w d fun k => (f k).1), onFlags s m w n f) := by
  induction n with
  | zero => rfl
  | succ n ih =>
    simp only [List.range_succ, List.map_append, List.map_cons, List.map_nil, maskMerge_concat, ih, List.length_map,
      List.length_range, onFlags_succ, underMask]

theorem map2_eq (s : State) (t : ETy) (d a b : Reg) (m : Msk) (f : Nat → Nat → Nat × Flags) :
    map2 s t d a b m f = maskMerge s m (tyWidth t) (s.v d) ((List.range (512 / tyWidth t)).map fun k =>
      f (elem (s.v a) (tyWidth t) k) (elem (s.v b) (tyWidth t) k)) := by
  simp only [map2, elems, List.zipWith_map, List.zipWith_self]

theorem map1_eq (s : State) (t : ETy) (d a : Reg) (m : Msk) (f : Nat → Nat × Flags) :
    map1 s t d a m f = maskMerge s m (tyWidth t) (s.v d) ((List.range (512 / tyWidth t)).map fun k =>
      f (elem (s.v a) (tyWidth t) k)) := by
  simp only [map1, elems, List.map_map]
  rfl

/-! ### Results by lanes -/

/-- An instruction completes with `n` lanes in register `d`, `lat` cycles after it issues: under the mask lane `k` is `(f k).1`, the
elements above them are zero, and the flags of the on lanes are raised. -/
def GivesLanes (s : State) (o : Host.Outcome State Fault Refusal) (d : Reg) (m : Msk) (w n lat : Nat)
    (f : Nat → Nat × Flags) : Prop :=
  ∃ t, o = .next t ∧ t.core.pc = s.core.issue.npc ∧ VectorFrame s t [] [d] ∧
    t.core.sys.fflags = s.core.sys.fflags ||| (onFlags s m w n f).zeroExtend 64 ∧
    ∀ c, s.cycle + lat ≤ c → GivesV s t c d w fun k => if k < n then underMask s m w d (fun j => (f j).1) k else 0

theorem underMask_lt {s : State} {m : Msk} {w : Nat} {d : Reg} {f : Nat → Nat} {k : Nat} (h : f k < 2 ^ w) :
    underMask s m w d f k < 2 ^ w := by
  unfold underMask
  split
  · exact h
  · exact elem_lt _ _ _

theorem elem_pack_range {w n i : Nat} {g : Nat → Nat} (hg : ∀ k, g k < 2 ^ w) (hi : i < 512 / w) :
    elem (pack w ((List.range n).map g)) w i = if i < n then g i else 0 := by
  rw [elem_pack _ hi, List.getD_eq_getElem?_getD, List.getElem?_map]
  split
  next h => rw [List.getElem?_range h, Option.map_some, Option.getD_some, Nat.mod_eq_of_lt (hg i)]
  next h => rw [List.getElem?_eq_none (by simpa using h), Option.map_none, Option.getD_none, Nat.zero_mod]

/-- A register that holds packed lanes under the mask gives them. -/
theorem WritesV.givesLanes {s t : State} {d : Reg} {m : Msk} {w n lat : Nat} {f : Nat → Nat × Flags}
    (hw : WritesV s t d (onFlags s m w n f) (s.cycle + lat)
      (pack w ((List.range n).map (underMask s m w d fun k => (f k).1))))
    (hf : ∀ k, (f k).1 < 2 ^ w) : GivesLanes s (.next t) d m w n lat f := by
  refine ⟨t, rfl, hw.pc, hw.frame, hw.flags, fun c hc => ⟨fun hd i hi => ?_, (hw.value c hc).2⟩⟩
  rw [(hw.value c hc).1 hd]
  exact elem_pack_range (fun k => underMask_lt (hf k)) hi

theorem givesLanes_vecL {s : State} {d : Reg} {m : Msk} {w n : Nat} {f : Nat → Nat × Flags} (hq : QuietV s d)
    (hf : ∀ k, (f k).1 < 2 ^ w) (lat : Nat) :
    GivesLanes s (finish s (vecL s d lat w (maskMerge s m w (s.v d) ((List.range n).map f)))) d m w n lat f := by
  rw [maskMerge_range]
  exact (writesV_setVL hq _ _ lat).givesLanes hf

theorem givesLanes_vecI {s : State} {d : Reg} {m : Msk} {w n : Nat} {f : Nat → Nat × Flags} (hq : QuietV s d)
    (hf : ∀ k, (f k).1 < 2 ^ w) (lat : Nat) :
    GivesLanes s (finish s (vecI s d lat w (maskMerge s m w (s.v d) ((List.range n).map f)))) d m w n 0 f := by
  rw [maskMerge_range]
  exact (writesV_setVI hq _ _ lat).givesLanes hf

end Sys2Proof.Machine

/-! Rounded codes fit their type (02_numbers R25, R35), and what a NaN rounds to (R26, R36). -/
namespace Sys2Proof.Machine

/-! ### Codes of a format -/

/-- The codes a format's rounding delivers have no more bits than the format. -/
structure Fmt.Fits (f : Fmt) : Prop where
  sign : 2 ^ (f.bits - 1) + 2 ^ (f.bits - 1) = 2 ^ f.bits
  largest : f.maxMag < 2 ^ (f.bits - 1)
  infinity : (2 ^ f.eb - 1) * 2 ^ f.fb < 2 ^ (f.bits - 1)
  nan : f.canon < 2 ^ f.bits

theorem fits_of_fmtOf {t : ETy} {f : Fmt} (h : fmtOf t = some f) : f.Fits ∧ f.bits = tyWidth t := by
  cases t <;> cases h <;> exact ⟨⟨by decide, by decide, by decide, by decide⟩, rfl⟩

theorem Fmt.Fits.signed_lt {f : Fmt} (hf : f.Fits) {mag : Nat} (h : mag < 2 ^ (f.bits - 1)) (neg : Bool) :
    (if neg then 2 ^ (f.bits - 1) else 0) + mag < 2 ^ f.bits := by
  have := hf.sign
  cases neg
  · simp only [Bool.false_eq_true, if_false]
    omega
  · simp only [if_true]
    omega

theorem rndFin_lt {f : Fmt} (hf : f.Fits) (d : Dy) (mode : RM) : (rndFin f d mode).1 < 2 ^ f.bits := by
  unfold rndFin
  extract_lets _ _ _ _ _ _ _ _ _ _ mag
  split
  next =>
    refine hf.signed_lt ?_ d.neg
    split
    · exact hf.infinity
    · exact hf.largest
  next h =>
    split
    · exact Nat.two_pow_pos _
    · exact hf.signed_lt (Nat.lt_of_le_of_lt (Nat.le_of_not_lt h) hf.largest) d.neg

theorem rndF_lt {f : Fmt} (hf : f.Fits) (x : FV) (mode : RM) : (rndF f x mode).1 < 2 ^ f.bits := by
  unfold rndF
  cases x with
  | nan sig =>
    dsimp only
    split
    · exact Nat.two_pow_pos _
    · exact hf.nan
  | inf neg =>
    dsimp only
    split
    · exact hf.signed_lt hf.infinity neg
    · exact hf.signed_lt hf.largest neg
  | fin d =>
    dsimp only
    split
    · dsimp only
      split
      · exact Nat.two_pow_pos _
      · exact hf.signed_lt (Nat.two_pow_pos _) d.neg
    · exact rndFin_lt hf d mode

theorem rndInt_lt (signed : Bool) (w : Nat) (x : FV) (mode : RM) : (rndInt signed w x mode).1 < 2 ^ w := by
  have code (i : Int) : (i % 2 ^ w).toNat < 2 ^ w := by
    have := Int.emod_lt_of_pos i (show (0 : Int) < 2 ^ w from by positivity)
    have hc : ((2 ^ w : Nat) : Int) = 2 ^ w := by push_cast; rfl
    omega
  unfold rndInt
  cases x with
  | nan _ => exact Nat.two_pow_pos w
  | inf _ => exact code _
  | fin d =>
    dsimp only
    split
    · exact Nat.two_pow_pos w
    · exact code _

theorem rnd_eq_rndF {t : ETy} {f : Fmt} (h : fmtOf t = some f) (x : FV) (mode : RM) : rnd t x mode = rndF f x mode := by
  cases t <;> cases h <;> rfl

theorem rnd_lt (t : ETy) (x : FV) (mode : RM) : (rnd t x mode).1 < 2 ^ tyWidth t := by
  cases h : fmtOf t with
  | some f =>
    obtain ⟨hf, hw⟩ := fits_of_fmtOf h
    rw [rnd_eq_rndF h, ← hw]
    exact rndF_lt hf x mode
  | none => cases t <;> cases h <;> exact rndInt_lt _ _ x mode

theorem roundedTo_lt (t : ETy) (mode : RM) (r : FV × Flags) : (roundedTo t mode r).1 < 2 ^ tyWidth t := rnd_lt t r.1 mode

end Sys2Proof.Machine

/-! The arithmetic of the model is the exact arithmetic of the rules, and a NaN operand makes every result a NaN
(02_numbers R36, 05_vector R124, R125). -/
namespace Sys2Proof.Machine

/-! ### Exact sums and products -/

/-- A scaled value with its sign. -/
theorem toCommon_eq (z : Dy) (e : Int) :
    z.toCommon e = (if z.neg then -1 else 1) * ((z.m * 2 ^ (z.e - e).toNat : Nat) : Int) := by
  unfold Dy.toCommon
  push_cast
  cases z.neg <;> simp

theorem dyAdd_eq_exactSum (x y : Dy) (mode : RM) : x.add y mode = exactSum mode x y := by
  unfold Dy.add exactSum
  simp only [toCommon_eq, ne_eq, ite_not, ← apply_ite Dy.zero]
  rfl

theorem fAdd_eq_exactAdd (a b : FV) (mode : RM) : fAdd a b mode = exactAdd mode a b := by
  cases a <;> cases b <;> simp [fAdd, nanOf, exactAdd, dyAdd_eq_exactSum]

theorem fMul_eq_exactMul (a b : FV) : fMul a b = exactMul a b := by
  cases a <;> cases b <;> simp [fMul, nanOf, exactMul, Dy.mul]

theorem negate_eq_turned (a : FV) : a.negate = turned a := by cases a <;> rfl

/-! ### NaN operands -/

theorem exactAdd_isNaN {a b : FV} (mode : RM) (h : a.isNaN = true ∨ b.isNaN = true) :
    (exactAdd mode a b).1.isNaN = true := by
  cases a <;> cases b <;> simp_all [exactAdd, FV.isNaN]

theorem exactMul_isNaN {a b : FV} (h : a.isNaN = true ∨ b.isNaN = true) : (exactMul a b).1.isNaN = true := by
  cases a <;> cases b <;> simp_all [exactMul, FV.isNaN]

theorem exactFused_isNaN {a b c : FV} (mode : RM) (h : a.isNaN = true ∨ b.isNaN = true ∨ c.isNaN = true) :
    (exactFused mode a b c).1.isNaN = true := by
  refine exactAdd_isNaN mode ?_
  rcases h with h | h | h
  · exact .inl (exactMul_isNaN (.inl h))
  · exact .inl (exactMul_isNaN (.inr h))
  · exact .inr h

/-- Without a NaN operand a fused operation is the product and the sum with the flags of both; with one, what the sum adds is NV
for a signalling addend. -/
theorem fFma_eq_exactFused (a b c : FV) (mode : RM) : fFma a b c mode = exactFused mode a b c := by
  simp only [fFma, exactFused, fAdd_eq_exactAdd, fMul_eq_exactMul]
  cases h : nanOf a b with
  | none => rfl
  | some fl =>
    have hp : exactMul a b = (.nan false, fl) := by
      rw [← fMul_eq_exactMul]
      unfold fMul
      rw [h]
    rw [hp]
    cases c with
    | nan q => cases q <;> simp [exactAdd]
    | inf q => simp [exactAdd]
    | fin z => simp [exactAdd]

@[simp] theorem turned_isNaN (a : FV) : (turned a).isNaN = a.isNaN := by cases a <;> rfl

theorem fDiv_isNaN {a b : FV} (h : a.isNaN = true ∨ b.isNaN = true) : (fDiv a b).1.isNaN = true := by
  cases a <;> cases b <;> simp_all [fDiv, nanOf, FV.isNaN]

theorem isNaN_iff (a : FV) : a.isNaN = true ↔ ∃ q, a = .nan q := by cases a <;> simp [FV.isNaN]

/-! ### The types f32, f16 and bf16 -/

theorem eq_of_mem_floats {ty : ETy} (h : ty ∈ [ETy.f32, .f16, .bf16]) : ty = .f32 ∨ ty = .f16 ∨ ty = .bf16 := by
  simpa using h

theorem isF_of_mem {ty : ETy} (h : ty ∈ [ETy.f32, .f16, .bf16]) : ty.isF = true := by
  rcases eq_of_mem_floats h with rfl | rfl | rfl <;> rfl

/-- A code whose exponent is all ones and whose fraction is not zero denotes a NaN (R26). -/
theorem decInf_isNaN {f : Fmt} {code : Nat} (he : code / 2 ^ f.fb % 2 ^ f.eb = 2 ^ f.eb - 1) (hf : code % 2 ^ f.fb ≠ 0) :
    (decInf f code).isNaN = true := by
  unfold decInf
  rw [Nat.shiftRight_eq_div_pow code f.fb, if_pos he, if_neg hf]
  rfl

theorem dec_isNaN {ty : ETy} (h : ty ∈ [ETy.f32, .f16, .bf16]) {code : Nat} (hc : nanCode ty code = true) (xval : Nat) :
    (dec ty code xval).isNaN = true := by
  rcases eq_of_mem_floats h with rfl | rfl | rfl <;>
  · simp only [nanCode, Bool.and_eq_true, decide_eq_true_eq] at hc
    exact decInf_isNaN hc.1 hc.2

theorem rnd_isNaN {ty : ETy} (h : ty ∈ [ETy.f32, .f16, .bf16]) {x : FV} (hx : x.isNaN = true) (mode : RM) :
    (rnd ty x mode).1 = canonicalNaN ty := by
  obtain ⟨q, rfl⟩ := (isNaN_iff x).1 hx
  rcases eq_of_mem_floats h with rfl | rfl | rfl <;> rfl

end Sys2Proof.Machine

/-! Floating-point vector instructions by lanes (05_vector R124, R125, R131; 02_numbers R36). -/
namespace Sys2Proof.Machine

section Lanes

variable {s : State} {t : ETy} {d a b : Reg} {m : Msk}

/-! ### Functions of one, two and three operands -/

theorem map1_fp1 (op : FV → FR) : map1 s t d a m (fp1 t (frm s) op) =
    maskMerge s m (tyWidth t) (s.v d) ((List.range (512 / tyWidth t)).map fun k =>
      roundedTo t (frm s) (op (laneValue s t a k))) := map1_eq s t d a m _

theorem map2_fp2 (op : FV → FV → FR) : map2 s t d a b m (fp2 t (frm s) op) =
    maskMerge s m (tyWidth t) (s.v d) ((List.range (512 / tyWidth t)).map fun k =>
      roundedTo t (frm s) (op (laneValue s t a k) (laneValue s t b k))) := map2_eq s t d a b m _

theorem fma3_eq (negP negD : Bool) : fma3 s t d a b m negP negD =
    maskMerge s m (tyWidth t) (s.v d) ((List.range (512 / tyWidth t)).map fun k =>
      roundedTo t (frm s) (exactFused (frm s)
        (if negP then turned (laneValue s t a k) else laneValue s t a k) (laneValue s t b k)
        (if negD then turned (laneValue s t d k) else laneValue s t d k))) := by
  simp only [fma3, elems, List.zip_map', List.zipWith_map, List.zipWith_self, fFma_eq_exactFused, negate_eq_turned]
  rfl

/-- A function of one operand with a result of fixed latency. -/
theorem givesLanes_fp1L (hq : QuietV s d) (op : FV → FR) (lat : Nat) :
    GivesLanes s (finish s (vecL s d lat (tyWidth t) (map1 s t d a m (fp1 t (frm s) op)))) d m (tyWidth t)
      (512 / tyWidth t) lat fun k => roundedTo t (frm s) (op (laneValue s t a k)) := by
  rw [map1_fp1]
  exact givesLanes_vecL hq (fun _ => roundedTo_lt ..) lat

/-- A function of one operand with an interlocked result. -/
theorem givesLanes_fp1I (hq : QuietV s d) (op : FV → FR) (lat : Nat) :
    GivesLanes s (finish s (vecI s d lat (tyWidth t) (map1 s t d a m (fp1 t (frm s) op)))) d m (tyWidth t)
      (512 / tyWidth t) 0 fun k => roundedTo t (frm s) (op (laneValue s t a k)) := by
  rw [map1_fp1]
  exact givesLanes_vecI hq (fun _ => roundedTo_lt ..) lat

theorem givesLanes_fp2L (hq : QuietV s d) (op : FV → FV → FR) (lat : Nat) :
    GivesLanes s (finish s (vecL s d lat (tyWidth t) (map2 s t d a b m (fp2 t (frm s) op)))) d m (tyWidth t)
      (512 / tyWidth t) lat fun k => roundedTo t (frm s) (op (laneValue s t a k) (laneValue s t b k)) := by
  rw [map2_fp2]
  exact givesLanes_vecL hq (fun _ => roundedTo_lt ..) lat

theorem givesLanes_fp2I (hq : QuietV s d) (op : FV → FV → FR) (lat : Nat) :
    GivesLanes s (finish s (vecI s d lat (tyWidth t) (map2 s t d a b m (fp2 t (frm s) op)))) d m (tyWidth t)
      (512 / tyWidth t) 0 fun k => roundedTo t (frm s) (op (laneValue s t a k) (laneValue s t b k)) := by
  rw [map2_fp2]
  exact givesLanes_vecI hq (fun _ => roundedTo_lt ..) lat

theorem givesLanes_fma3 (hq : QuietV s d) (negP negD : Bool) :
    GivesLanes s (finish s (vecL s d 4 (tyWidth t) (fma3 s t d a b m negP negD))) d m (tyWidth t) (512 / tyWidth t) 4
      fun k => roundedTo t (frm s) (exactFused (frm s)
        (if negP then turned (laneValue s t a k) else laneValue s t a k) (laneValue s t b k)
        (if negD then turned (laneValue s t d k) else laneValue s t d k)) := by
  rw [fma3_eq]
  exact givesLanes_vecL hq (fun _ => roundedTo_lt ..) 4

/-! ### Sums and products (R124, R125) -/

theorem arith2_of_isF (h : t.isF = true) (f : FV → FV → FR) (g : Int → Int → Int) :
    arith2 s t f g = fp2 t (frm s) f := by
  funext x y
  simp only [arith2, h, if_true]

theorem givesLanes_vadd (h : t.isF = true) (hq : QuietV s d) :
    GivesLanes s (exec (.vadd t d a b m) s) d m (tyWidth t) (512 / tyWidth t) 2 fun k =>
      roundedTo t (frm s) (exactAdd (frm s) (laneValue s t a k) (laneValue s t b k)) := by
  change GivesLanes s (execVadd t d a b m s) _ _ _ _ _ _
  simp only [execVadd, arith2_of_isF h, fAdd_eq_exactAdd]
  exact givesLanes_fp2L hq _ 2

theorem givesLanes_vsub (h : t.isF = true) (hq : QuietV s d) :
    GivesLanes s (exec (.vsub t d a b m) s) d m (tyWidth t) (512 / tyWidth t) 2 fun k =>
      roundedTo t (frm s) (exactAdd (frm s) (laneValue s t a k) (turned (laneValue s t b k))) := by
  change GivesLanes s (execVsub t d a b m s) _ _ _ _ _ _
  simp only [execVsub, arith2_of_isF h, fAdd_eq_exactAdd, negate_eq_turned]
  exact givesLanes_fp2L hq (fun x y => exactAdd (frm s) x (turned y)) 2

theorem givesLanes_vmul (h : t.isF = true) (hq : QuietV s d) :
    GivesLanes s (exec (.vmul t d a b m) s) d m (tyWidth t) (512 / tyWidth t) 4 fun k =>
      roundedTo t (frm s) (exactMul (laneValue s t a k) (laneValue s t b k)) := by
  change GivesLanes s (execVmul t d a b m s) _ _ _ _ _ _
  simp only [execVmul, arith2_of_isF h, funext₂ fMul_eq_exactMul]
  exact givesLanes_fp2L hq exactMul 4

theorem floatLane_givesLanes {i : Instr} {lat : Nat} {f : Nat → Nat × Flags} (h : floatLane s i = some (t, d, m, lat, f))
    (ht : t.isF = true) (hq : QuietV s d) :
    GivesLanes s (exec i s) d m (tyWidth t) (512 / tyWidth t) lat f := by
  cases i <;> cases h
  case vadd | vaddF32Short => exact givesLanes_vadd ht hq
  case vsub => exact givesLanes_vsub ht hq
  case vmul | vmulF32Short => exact givesLanes_vmul ht hq
  case vfma | vfmaF32Short => exact givesLanes_fma3 hq false false
  case vfms => exact givesLanes_fma3 hq false true
  case vfnma => exact givesLanes_fma3 hq true false

/-! ### Every lane of the register -/

/-- Lanes that fill the register leave nothing above them. -/
theorem GivesLanes.all {o : Host.Outcome State Fault Refusal} {w lat : Nat} {f : Nat → Nat × Flags}
    (h : GivesLanes s o d m w (512 / w) lat f) :
    ∃ u, o = .next u ∧ u.core.pc = s.core.issue.npc ∧ VectorFrame s u [] [d] ∧
      u.core.sys.fflags = s.core.sys.fflags ||| (onFlags s m w (512 / w) f).zeroExtend 64 ∧
      ∀ n, s.cycle + lat ≤ n → GivesV s u n d w (underMask s m w d fun k => (f k).1) := by
  obtain ⟨u, ho, hpc, hframe, hfl, hg⟩ := h
  refine ⟨u, ho, hpc, hframe, hfl, fun n hn => ⟨fun hd k hk => ?_, (hg n hn).2⟩⟩
  exact ((hg n hn).1 hd k hk).trans (if_pos hk)

/-! ### NaN operands (R36) -/

theorem givesLanes_vabs (h : t.isF = true) (hq : QuietV s d) :
    GivesLanes s (exec (.vabs t d a m) s) d m (tyWidth t) (512 / tyWidth t) 2 fun k =>
      roundedTo t (frm s) (fAbs (laneValue s t a k)) := by
  change GivesLanes s (execVabs t d a m s) _ _ _ _ _ _
  simp only [execVabs, h, if_true]
  exact givesLanes_fp1L hq fAbs 2

theorem givesLanes_vneg (h : t.isF = true) (hq : QuietV s d) :
    GivesLanes s (exec (.vneg t d a m) s) d m (tyWidth t) (512 / tyWidth t) 2 fun k =>
      roundedTo t (frm s) (fNeg (laneValue s t a k)) := by
  change GivesLanes s (execVneg t d a m s) _ _ _ _ _ _
  simp only [execVneg, h, if_true]
  exact givesLanes_fp1L hq fNeg 2

/-- A function of one operand gives a NaN for a NaN in a lane when it gives one for NaNs of both kinds. -/
theorem isNaN_of_operand {op : FV → FR} (hop : ∀ q, (op (.nan q)).1.isNaN = true) (k : Nat)
    (h : ∃ r ∈ [a], (laneValue s t r k).isNaN = true) : (op (laneValue s t a k)).1.isNaN = true := by
  obtain ⟨q, hq⟩ := (isNaN_iff (laneValue s t a k)).1 (by simpa using h)
  rw [hq]
  exact hop q

/-- Every operation of `floatOperands` rounds one exact value in each lane, within four cycles, and that value is a NaN when one of
the operands is. -/
theorem floatOperands_givesLanes {i : Instr} {ops : List Reg} (h : floatOperands i = some (t, d, m, ops))
    (ht : t.isF = true) (hq : QuietV s d) : ∃ (lat : Nat) (v : Nat → FR), lat ≤ 4 ∧
      GivesLanes s (exec i s) d m (tyWidth t) (512 / tyWidth t) lat (fun k => roundedTo t (frm s) (v k)) ∧
      ∀ k, (∃ r ∈ ops, (laneValue s t r k).isNaN = true) → (v k).1.isNaN = true := by
  cases i <;> cases h
  case vadd | vaddF32Short =>
    exact ⟨2, _, by decide, givesLanes_vadd ht hq, fun k h => exactAdd_isNaN _ (by simpa using h)⟩
  case vsub => exact ⟨2, _, by decide, givesLanes_vsub ht hq, fun k h => exactAdd_isNaN _ (by simpa using h)⟩
  case vmul | vmulF32Short =>
    exact ⟨4, _, by decide, givesLanes_vmul ht hq, fun k h => exactMul_isNaN (by simpa using h)⟩
  case vdiv => exact ⟨0, _, by decide, givesLanes_fp2I hq fDiv 14, fun k h => fDiv_isNaN (by simpa using h)⟩
  case vfma | vfmaF32Short =>
    exact ⟨4, _, by decide, givesLanes_fma3 hq false false, fun k h => exactFused_isNaN _ (by simpa using h)⟩
  case vfms =>
    exact ⟨4, _, by decide, givesLanes_fma3 hq false true, fun k h => exactFused_isNaN _ (by simpa using h)⟩
  case vfnma =>
    exact ⟨4, _, by decide, givesLanes_fma3 hq true false, fun k h => exactFused_isNaN _ (by simpa using h)⟩
  case vabs => exact ⟨2, _, by decide, givesLanes_vabs ht hq, isNaN_of_operand (op := fAbs) fun _ => rfl⟩
  case vneg => exact ⟨2, _, by decide, givesLanes_vneg ht hq, isNaN_of_operand (op := fNeg) fun _ => rfl⟩
  case vrcp => exact ⟨0, _, by decide, givesLanes_fp1I hq fRcp 8, isNaN_of_operand (op := fRcp) fun _ => rfl⟩
  case vrsq => exact ⟨0, _, by decide, givesLanes_fp1I hq fRsq 8, isNaN_of_operand (op := fRsq) fun _ => rfl⟩
  case vexp2 => exact ⟨0, _, by decide, givesLanes_fp1I hq fExp2 10, isNaN_of_operand (op := fExp2) fun _ => rfl⟩
  case vlog2 => exact ⟨0, _, by decide, givesLanes_fp1I hq fLog2 10, isNaN_of_operand (op := fLog2) fun _ => rfl⟩

/-- Where the lane's value is a NaN an on element becomes the canonical NaN, and an off one keeps its value outside agnostic mode. -/
theorem GivesLanes.nan {o : Host.Outcome State Fault Refusal} {lat : Nat} {v : Nat → FR} {nanIn : Nat → Prop}
    (h : GivesLanes s o d m (tyWidth t) (512 / tyWidth t) lat fun k => roundedTo t (frm s) (v k))
    (ht : t ∈ [ETy.f32, .f16, .bf16]) (hd : Holds s d) (hlat : lat ≤ 4) (hv : ∀ k, nanIn k → (v k).1.isNaN = true) :
    ∃ u, o = .next u ∧ u.core.pc = s.core.issue.npc ∧ ∀ n, s.cycle + 4 ≤ n → ∀ k, k < 512 / tyWidth t →
      (mskOn s m (tyWidth t) k = true → nanIn k → elem (vAt u n d) (tyWidth t) k = canonicalNaN t) ∧
      (mskOn s m (tyWidth t) k = false → m.ag = false →
        elem (vAt u n d) (tyWidth t) k = elem (s.v d) (tyWidth t) k) := by
  obtain ⟨u, ho, hpc, -, -, hg⟩ := h.all
  refine ⟨u, ho, hpc, fun n hn k hk => ?_⟩
  rw [(hg n (by omega)).1 hd k hk]
  refine ⟨fun hon hnan => ?_, fun hoff hag => ?_⟩
  · simp only [underMask, hon, Bool.true_or, if_true]
    exact rnd_isNaN ht (hv k hnan) (frm s)
  · simp only [underMask, hoff, hag, Bool.or_false, Bool.false_eq_true, if_false]

/-! ### Conversions (R131) -/

/-- VCVT converts as many elements as the wider type has. -/
theorem givesLanes_vcvt (ts : ETy) (hq : QuietV s d) :
    GivesLanes s (exec (.vcvt t ts d a m) s) d m (tyWidth t) (512 / max (tyWidth t) (tyWidth ts)) 3 fun k =>
      rnd t (dec ts (elem (s.v a) (tyWidth ts) k) (xval s)) (frm s) := by
  rw [Nat.max_comm]
  exact givesLanes_vecL hq (fun _ => rnd_lt ..) 3

end Lanes
end Sys2Proof.Machine

/-! Sums in tree order (02_numbers R38, R39; 05_vector R129, R130). -/
namespace Sys2Proof.Machine

/-! ### The pairwise tree, level by level -/

theorem pairUp_map_range {α : Type} (f : α → α → α) (g : Nat → α) (n : Nat) :
    pairUp f ((List.range (2 * n)).map g) = (List.range n).map fun j => f (g (2 * j)) (g (2 * j + 1)) := by
  induction n generalizing g with
  | zero => rfl
  | succ n ih =>
    rw [Nat.mul_succ, List.range_succ_eq_map (n := 2 * n + 1), List.range_succ_eq_map (n := 2 * n),
      List.range_succ_eq_map (n := n)]
    simp only [List.map_cons, List.map_map, pairUp]
    exact congrArg _ (ih fun k => g (k + 2))

theorem treeGo_singleton {α : Type} (f : α → α → α) (x : α) (n : Nat) : treeGo f n [x] = [x] := by
  induction n with
  | zero => rfl
  | succ n ih => exact ih

section Trees

variable (op : Nat × Flags → Nat × Flags → Nat × Flags) (leaf : Nat → Nat)

/-- `k` levels over the 2^k trees of height `h` that stand side by side from lane `c` on give the tree of height `h + k`; more
levels change nothing. -/
theorem treeGo_laneTrees (c h k extra : Nat) :
    treeGo op (k + extra) ((List.range (2 ^ k)).map fun j => laneTree op leaf h (c + j * 2 ^ h)) =
      [laneTree op leaf (h + k) c] := by
  induction k generalizing h with
  | zero => simp [treeGo_singleton]
  | succ k ih =>
    rw [Nat.add_right_comm, treeGo, Nat.pow_succ, Nat.mul_comm, pairUp_map_range, ← Nat.add_assoc, Nat.add_right_comm,
      ← ih (h + 1)]
    refine congrArg _ (List.map_congr_left fun j _ => ?_)
    rw [laneTree, Nat.pow_succ]
    congr 2 <;> ring

/-- The leaves of the reduction as a list, from lane `c` on. -/
theorem treeGo_leaves (c k extra : Nat) :
    treeGo op (k + extra) ((List.range (2 ^ k)).map fun j => (leaf (c + j), 0)) = [laneTree op leaf k c] := by
  have h := treeGo_laneTrees op leaf c 0 k extra
  simpa only [laneTree, Nat.pow_zero, Nat.mul_one, Nat.zero_add] using h

/-! ### Codes of a tree fit when its leaves do -/

variable {op leaf}

theorem laneTree_lt {w : Nat} (hop : ∀ x y, (op x y).1 < 2 ^ w) (hleaf : ∀ k, leaf k < 2 ^ w) (h i : Nat) :
    (laneTree op leaf h i).1 < 2 ^ w := by
  cases h with
  | zero => exact hleaf i
  | succ h => exact hop _ _

/-- One size more: its tree is taken where `len` has the bit, and combined after what stands before it. -/
theorem laneTrees_succ (len h i : Nat) (acc : Option (Nat × Flags)) : laneTrees op leaf len (h + 1) i acc =
    if len / 2 ^ h % 2 = 1 then
      laneTrees op leaf len h (i + 2 ^ h) (some (acc.elim (laneTree op leaf h i) fun x => op x (laneTree op leaf h i)))
    else laneTrees op leaf len h i acc := by
  cases acc <;> rfl

theorem laneTrees_lt {w : Nat} (hop : ∀ x y, (op x y).1 < 2 ^ w) (hleaf : ∀ k, leaf k < 2 ^ w) (len h i : Nat)
    (acc : Option (Nat × Flags)) (ha : ∀ x ∈ acc, x.1 < 2 ^ w) : ∀ x ∈ laneTrees op leaf len h i acc, x.1 < 2 ^ w := by
  induction h generalizing i acc with
  | zero => exact ha
  | succ h ih =>
    rw [laneTrees_succ]
    split
    · refine ih _ _ fun x hx => ?_
      cases hx
      cases acc with
      | none => exact laneTree_lt hop hleaf h i
      | some y => exact hop _ _
    · exact ih _ _ ha

/-! ### The running sum -/

/-- Some tree is taken when `len` has a bit among the sizes that are left. -/
theorem laneTrees_isSome (len h i : Nat) (acc : Option (Nat × Flags)) (hs : acc.isSome = true ∨ len % 2 ^ h ≠ 0) :
    (laneTrees op leaf len h i acc).isSome = true := by
  induction h generalizing i acc with
  | zero => simpa [laneTrees, Nat.mod_one] using hs
  | succ h ih =>
    rw [laneTrees_succ]
    split
    · exact ih _ _ (.inl rfl)
    next hbit =>
      refine ih _ _ (hs.imp_right fun hne => ?_)
      rwa [Nat.mod_pow_succ, Nat.mod_two_ne_one.1 hbit, Nat.mul_zero, Nat.add_zero] at hne

/-- Sizes above the length take no tree. -/
theorem laneTrees_of_lt {len h : Nat} (hlt : len < 2 ^ h) (i : Nat) (acc : Option (Nat × Flags)) :
    laneTrees op leaf len (h + 1) i acc = laneTrees op leaf len h i acc := by
  rw [laneTrees_succ, Nat.div_eq_of_lt hlt]
  rfl

end Trees

theorem runUp_concat {α : Type} (f : α → α → α) (l : List α) (x : α) :
    runUp f (l ++ [x]) = some ((runUp f l).elim x fun y => f y x) := by
  cases l with
  | nil => rfl
  | cons y l => simp [runUp]

/-! ### The model's reductions of a floating-point sum -/

section Sum

variable {s : State} {t : ETy} {a : Reg} {m : Msk}

theorem redOp_sum (h : t.isF = true) : redOp s t .sum = sumStep t (frm s) := by
  funext x y
  simp only [redOp, arith2_of_isF h, fAdd_eq_exactAdd]
  rfl

theorem redIn_sum (h : t.isF = true) :
    redIn s t .sum a m = (List.range (512 / tyWidth t)).map fun k => (sumLeaf s t a m k, 0) := by
  simp only [redIn, redId, h, if_true]
  rfl

theorem sumStep_lt (mode : RM) (x y : Nat × Flags) : (sumStep t mode x y).1 < 2 ^ tyWidth t := roundedTo_lt ..

theorem tyWidth_pos (t : ETy) : 0 < tyWidth t := by cases t <;> decide

theorem sumLeaf_lt (k : Nat) : sumLeaf s t a m k < 2 ^ tyWidth t := by
  unfold sumLeaf
  split
  · exact elem_lt _ _ _
  · exact Nat.pow_lt_pow_right Nat.one_lt_two (Nat.sub_lt (tyWidth_pos t) Nat.one_pos)

/-- The value of a tree over 2^k leaves from lane `c` on. -/
theorem treeVal_leaves (h : t.isF = true) (c : Nat) {k : Nat} (hk : k ≤ 7) :
    treeVal s t .sum ((List.range (2 ^ k)).map fun j => (sumLeaf s t a m (c + j), 0)) =
      laneTree (sumStep t (frm s)) (sumLeaf s t a m) k c := by
  obtain ⟨extra, he⟩ := Nat.exists_eq_add_of_le hk
  rw [treeVal, redOp_sum h, he, treeGo_leaves]
  rfl

theorem lanes_eq_two_pow_treeLevels (h : t ∈ [ETy.f32, .f16, .bf16]) :
    512 / tyWidth t = 2 ^ treeLevels t ∧ treeLevels t ≤ 5 := by
  rcases eq_of_mem_floats h with rfl | rfl | rfl <;> decide

theorem treeVal_redIn (h : t ∈ [ETy.f32, .f16, .bf16]) :
    treeVal s t .sum (redIn s t .sum a m) = laneTree (sumStep t (frm s)) (sumLeaf s t a m) (treeLevels t) 0 := by
  obtain ⟨hn, hle⟩ := lanes_eq_two_pow_treeLevels h
  rw [redIn_sum (isF_of_mem h), hn, ← treeVal_leaves (isF_of_mem h) 0 (by omega)]
  simp only [Nat.zero_add]

/-! ### The scan -/

theorem take_drop_map_range {α : Type} (g : Nat → α) {c n total : Nat} (h : c + n ≤ total) :
    (((List.range total).map g).drop c).take n = (List.range n).map fun j => g (c + j) := by
  refine List.ext_getElem (by simp; omega) fun j _ _ => ?_
  simp

/-- One size of a scan: the tree of 2^e lanes is taken where `len` has the bit; the pair is the next lane and the trees so far. -/
def scanStep (s : State) (t : ETy) (k : RKind) (l : List (Nat × Flags)) (len : Nat) (acc : Nat × List (Nat × Flags))
    (e : Nat) : Nat × List (Nat × Flags) :=
  if (len >>> e) % 2 = 1 then (acc.1 + 2 ^ e, acc.2 ++ [treeVal s t k ((l.drop acc.1).take (2 ^ e))]) else acc

theorem scanEl_eq (k : RKind) (l : List (Nat × Flags)) (i : Nat) : scanEl s t k l i =
    (runUp (redOp s t k) ((List.range 8).reverse.foldl (scanStep s t k l (i + 1)) (0, [])).2).getD (redId t k, 0) := by
  unfold scanEl scanStep
  extract_lets parts
  cases parts.2 <;> rfl

/-- Taking the sizes below 2^h in falling order is `laneTrees`, as long as the lanes suffice. -/
theorem runUp_scanStep (h : t.isF = true) (len e : Nat) (he : e ≤ 8) (c : Nat) (ps : List (Nat × Flags))
    (hc : c + len % 2 ^ e ≤ 512 / tyWidth t) :
    runUp (sumStep t (frm s))
        ((List.range e).reverse.foldl (scanStep s t .sum (redIn s t .sum a m) len) (c, ps)).2 =
      laneTrees (sumStep t (frm s)) (sumLeaf s t a m) len e c (runUp (sumStep t (frm s)) ps) := by
  induction e generalizing c ps with
  | zero => rfl
  | succ e ih =>
    rw [List.range_succ, List.reverse_append, List.reverse_singleton, List.singleton_append, List.foldl_cons, laneTrees_succ,
      scanStep, Nat.shiftRight_eq_div_pow]
    rw [Nat.mod_pow_succ] at hc
    split
    next hbit =>
      rw [hbit, Nat.mul_one] at hc
      rw [ih (by omega) _ _ (by omega), runUp_concat, redIn_sum h, take_drop_map_range _ (by omega),
        treeVal_leaves h c (by omega)]
    next hbit => exact ih (by omega) _ _ (by omega)

theorem scanEl_eq_laneTrees (h : t ∈ [ETy.f32, .f16, .bf16]) {i : Nat} (hi : i < 512 / tyWidth t) :
    scanEl s t .sum (redIn s t .sum a m) i =
      (laneTrees (sumStep t (frm s)) (sumLeaf s t a m) (i + 1) 7 0 none).getD (0, 0) := by
  have hlt : i + 1 < 2 ^ 7 := by
    obtain ⟨hn, hle⟩ := lanes_eq_two_pow_treeLevels h
    have : 2 ^ treeLevels t ≤ 2 ^ 5 := Nat.pow_le_pow_right Nat.two_pos hle
    omega
  have hrun := runUp_scanStep (s := s) (a := a) (m := m) (isF_of_mem h) (i + 1) 8 (by decide) 0 []
    (by rw [Nat.mod_eq_of_lt (by omega)]; omega)
  rw [scanEl_eq, redOp_sum (isF_of_mem h), hrun, laneTrees_of_lt hlt]
  obtain ⟨x, hx⟩ := Option.isSome_iff_exists.1
    (laneTrees_isSome (op := sumStep t (frm s)) (leaf := sumLeaf s t a m) (i + 1) 7 0 none
      (.inr (by rw [Nat.mod_eq_of_lt hlt]; omega)))
  change (laneTrees _ _ _ _ _ none).getD _ = _
  rw [hx]
  rfl

end Sum

/-! ### Sums and scans as instructions -/

section Sum

variable {s : State} {t : ETy} {d a : Reg} {m : Msk}

/-- VRED.sum leaves the value of the whole tree in element 0 (R129). -/
theorem exec_vred_sum (h : t ∈ [ETy.f32, .f16, .bf16]) (hq : QuietV s d) :
    let r := laneTree (sumStep t (frm s)) (sumLeaf s t a m) (treeLevels t) 0
    ∃ u, exec (.vred .sum t d a m) s = .next u ∧ WritesV s u d r.2 (s.cycle + 6) (BitVec.ofNat 512 r.1) := by
  rw [← treeVal_redIn h]
  exact ⟨_, rfl, writesV_setVL hq _ _ 6⟩

/-- VSCAN.sum leaves in each lane the trees of the lanes up to it (R130). -/
theorem givesLanes_vscan_sum (h : t ∈ [ETy.f32, .f16, .bf16]) (hq : QuietV s d) :
    GivesLanes s (exec (.vscan .sum t d a m) s) d m (tyWidth t) (512 / tyWidth t) 0 fun k =>
      (laneTrees (sumStep t (frm s)) (sumLeaf s t a m) (k + 1) 7 0 none).getD (0, 0) := by
  have hscan : (List.range (512 / tyWidth t)).map (scanEl s t .sum (redIn s t .sum a m)) =
      (List.range (512 / tyWidth t)).map fun k =>
        (laneTrees (sumStep t (frm s)) (sumLeaf s t a m) (k + 1) 7 0 none).getD (0, 0) :=
    List.map_congr_left fun i hi => scanEl_eq_laneTrees h (List.mem_range.1 hi)
  change GivesLanes s (finish s (vecI s d 10 (tyWidth t) (maskMerge s m (tyWidth t) (s.v d) _))) _ _ _ _ _ _
  rw [hscan]
  refine givesLanes_vecI hq (fun k => ?_) 10
  cases hx : laneTrees (sumStep t (frm s)) (sumLeaf s t a m) (k + 1) 7 0 none with
  | none => exact Nat.two_pow_pos _
  | some x => exact laneTrees_lt (sumStep_lt _) sumLeaf_lt (k + 1) 7 0 none (fun _ h => nomatch h) x hx

end Sum

/-- Settles O31, clause by clause: what the lanes of an instruction are, and that the canonical NaN is what a NaN rounds to. -/
theorem floatingPointResult : Obligations.FloatingPointResult := by
  unfold Obligations.FloatingPointResult
  refine ⟨?nan, ?lanes, ?convert, ?reduce, ?scan⟩
  case nan =>
    intro i ty d m ops s hi hty hq hd
    obtain ⟨lat, v, hlat, hlanes, hnan⟩ := floatOperands_givesLanes hi (isF_of_mem hty) hq
    exact hlanes.nan hty hd hlat fun k ⟨r, hr, hc⟩ => hnan k ⟨r, hr, dec_isNaN hty hc 0⟩
  case lanes =>
    intro i ty d m lat f s hi hty hq
    exact (floatLane_givesLanes hi (isF_of_mem hty) hq).all
  case convert =>
    intro td ts d a m s hq
    exact givesLanes_vcvt ts hq
  case reduce =>
    intro ty d a m s hty hq
    obtain ⟨u, hu, hw⟩ := exec_vred_sum (a := a) (m := m) hty hq
    refine ⟨u, hu, hw.pc, hw.frame, hw.flags, fun n hn => ⟨fun hd k hk => ?_, (hw.value n hn).2⟩⟩
    rw [(hw.value n hn).1 hd]
    exact elem_ofNat_of_lt (laneTree_lt (sumStep_lt _) sumLeaf_lt _ _) hk
  case scan =>
    intro ty d a m s hty hq
    exact (givesLanes_vscan_sum hty hq).all

end Sys2Proof.Machine

/-! Scalar arithmetic: what the model computes is the value the rules state (04_core R90 to R99). -/
namespace Sys2Proof.Machine

/-! ### Bit fields -/

theorem fld_eq {n : Nat} (w : BitVec n) (hi lo : Nat) : fld w hi lo = w.toNat / 2 ^ lo % 2 ^ (hi + 1 - lo) := by
  rw [fld, Nat.shiftRight_eq_div_pow]

/-! ### Counting bits (R95) -/

theorem firstOne_eq {bit : Nat → Bool} {k : Nat} (hk : k ≤ 64) (below : ∀ j, j < k → bit j = false)
    (at_k : k < 64 → bit k = true) : firstOne bit = k := by
  unfold firstOne
  rcases Nat.lt_or_ge k 64 with h | h
  · rw [List.find?_range_eq_some.2 ⟨at_k h, List.mem_range.2 h, fun j hj => by simp [below j hj]⟩, Option.getD_some]
  · rw [List.find?_range_eq_none.2 fun j hj => by simp [below j (by omega)], Option.getD_none]
    omega

theorem firstOne_msb (x : W64) : firstOne (fun i => x.getMsbD i) = leadingZeros x := by
  have hlt : ∀ j, j < 64 → x.getMsbD j = x.toNat.testBit (63 - j) := fun j hj => by
    simp [BitVec.getMsbD, BitVec.getLsbD, hj]
  unfold leadingZeros bitLen
  by_cases h0 : x.toNat = 0
  · rw [if_pos h0]
    exact firstOne_eq (Nat.le_refl _) (fun j hj => by simp [hlt j hj, h0]) (fun h => absurd h (by decide))
  · have hlog : x.toNat.log2 < 64 := (Nat.log2_lt h0).2 x.isLt
    rw [if_neg h0]
    refine firstOne_eq (Nat.sub_le _ _) (fun j hj => ?_) (fun hk => ?_)
    · rw [hlt j (by omega)]
      exact Nat.testBit_lt_two_pow ((Nat.log2_lt h0).1 (by omega))
    · rw [hlt _ hk, show 63 - (64 - (x.toNat.log2 + 1)) = x.toNat.log2 by omega]
      exact Nat.testBit_log2 h0

theorem ctzNat_spec (v k : Nat) : ctzNat v k ≤ k ∧ (∀ j, j < ctzNat v k → v.testBit j = false) ∧
    (ctzNat v k < k → v.testBit (ctzNat v k) = true) := by
  induction k generalizing v with
  | zero => simp [ctzNat]
  | succ k ih =>
    obtain ⟨hle, hbelow, hat⟩ := ih (v / 2)
    unfold ctzNat
    split
    next h => exact ⟨Nat.zero_le _, fun j hj => absurd hj (Nat.not_lt_zero j), fun _ => by simp [Nat.testBit_zero, h]⟩
    next h =>
      refine ⟨by omega, fun j hj => ?_, fun hk => ?_⟩
      · cases j with
        | zero => simp [Nat.testBit_zero, h]
        | succ j => rw [Nat.testBit_succ]; exact hbelow j (by omega)
      · rw [Nat.add_comm 1, Nat.testBit_succ]
        exact hat (by omega)

theorem firstOne_lsb (x : W64) : firstOne (fun i => x.getLsbD i) = ctzNat x.toNat 64 := by
  obtain ⟨hle, hbelow, hat⟩ := ctzNat_spec x.toNat 64
  exact firstOne_eq hle hbelow hat

theorem popCount_eq_countP (v k : Nat) : popCount v k = (List.range k).countP (fun i => v.testBit i) := by
  induction k generalizing v with
  | zero => rfl
  | succ k ih =>
    rw [popCount, ih, List.range_succ_eq_map, List.countP_cons, List.countP_map, Nat.add_comm]
    congr 1
    · refine List.countP_congr fun i _ => ?_
      simp [Nat.testBit_succ]
    · rcases Nat.mod_two_eq_zero_or_one v with h | h <;> simp [Nat.testBit_zero, h]

theorem revNat_lt (v k : Nat) : revNat v k < 2 ^ k := by
  induction k generalizing v with
  | zero => exact Nat.one_pos
  | succ k ih =>
    have := ih (v / 2)
    rcases Nat.mod_two_eq_zero_or_one v with h | h <;> rw [revNat, h, Nat.pow_succ] <;> omega

theorem testBit_revNat (v k i : Nat) : (revNat v k).testBit i = (decide (i < k) && v.testBit (k - 1 - i)) := by
  induction k generalizing v with
  | zero => simp [revNat]
  | succ k ih =>
    rw [revNat, Nat.mul_comm, Nat.testBit_two_pow_mul_add _ (revNat_lt _ _)]
    split
    next h =>
      rw [ih, show k + 1 - 1 - i = k - 1 - i + 1 by omega, Nat.testBit_succ]
      simp [h, Nat.lt_succ_of_lt h]
    next h =>
      by_cases he : i = k
      · subst he
        simp [Nat.testBit_zero]
      · have : ¬ i < k + 1 := by omega
        have hlt : v % 2 < 2 ^ (i - k) := by
          have : 2 ^ 1 ≤ 2 ^ (i - k) := Nat.pow_le_pow_right Nat.two_pos (by omega)
          omega
        simp [this, Nat.testBit_lt_two_pow hlt]

theorem ofNat_revNat (x : W64) : BitVec.ofNat 64 (revNat x.toNat 64) = x.reverse := by
  refine BitVec.eq_of_getLsbD_eq fun i hi => ?_
  rw [BitVec.getLsbD_ofNat, testBit_revNat, BitVec.getLsbD_reverse, BitVec.getMsbD]
  simp [hi, BitVec.getLsbD]

/-! ### Values (R91, R94 to R99) -/

theorem ofNat_add_toNat (x y : W64) : BitVec.ofNat 64 (x.toNat + y.toNat) = x + y := by
  simp [BitVec.ofNat_add]

theorem ofInt_sub_toInt (x y : W64) : BitVec.ofInt 64 (x.toInt - y.toInt) = x - y := by
  apply BitVec.eq_of_toInt_eq
  rw [BitVec.toInt_ofInt, BitVec.toInt_sub]

theorem ofNat_mul_two_pow (x : W64) (k : Nat) : BitVec.ofNat 64 (x.toNat * 2 ^ k) = x <<< k := by
  apply BitVec.eq_of_toNat_eq
  rw [BitVec.toNat_ofNat, BitVec.toNat_shiftLeft, Nat.shiftLeft_eq]

theorem ofNat_div_two_pow (x : W64) (k : Nat) : BitVec.ofNat 64 (x.toNat / 2 ^ k) = x >>> k := by
  apply BitVec.eq_of_toNat_eq
  rw [BitVec.toNat_ofNat, BitVec.toNat_ushiftRight, Nat.shiftRight_eq_div_pow,
    Nat.mod_eq_of_lt (Nat.lt_of_le_of_lt (Nat.div_le_self _ _) x.isLt)]

theorem ofInt_div_two_pow (x : W64) (k : Nat) : BitVec.ofInt 64 (x.toInt / 2 ^ k) = x.sshiftRight k := by
  rw [BitVec.sshiftRight, Int.shiftRight_eq_div_pow]
  push_cast
  rfl

theorem csplitOf_eq (x : W64) : csplitOf x =
    if x.toNat / 2 ^ 62 = 2 then BitVec.ofNat 64 (x.toNat / 2 ^ 37 % 2 ^ 25)
    else if x.toNat / 2 ^ 62 = 1 then BitVec.ofNat 64 (2 ^ 62 + x.toNat / 2 ^ 43 % 2 ^ 19)
    else BitVec.allOnes 64 := by
  have h : fld x 63 62 = x.toNat / 2 ^ 62 := by
    rw [fld_eq]
    have := x.isLt
    omega
  unfold csplitOf
  rw [h]
  split
  next h2 => rw [if_pos h2, fld_eq]
  next h1 => rw [if_neg (by omega), if_pos h1, fld_eq]
  next h2 h1 => rw [if_neg h2, if_neg h1]

theorem caddrOf_eq (x y : W64) :
    caddrOf x y = BitVec.ofNat 64 (2 ^ 63 + x.toNat % 2 ^ 25 * 2 ^ 37 + y.toNat % 2 ^ 16) := rfl

theorem getLsbD_lowMask (k i : Nat) :
    (BitVec.ofNat 64 (2 ^ k - 1)).getLsbD i = (decide (i < 64) && decide (i < k)) := by
  rw [BitVec.getLsbD_ofNat, Nat.testBit_two_pow_sub_one]

/-- The low `k` bits of one word below the rest of another. -/
theorem toNat_low_of_other (k : Nat) (t u : W64) :
    ((t &&& ~~~ BitVec.ofNat 64 (2 ^ k - 1)) ||| (u &&& BitVec.ofNat 64 (2 ^ k - 1))).toNat =
      t.toNat / 2 ^ k * 2 ^ k + u.toNat % 2 ^ k := by
  refine Nat.eq_of_testBit_eq fun i => ?_
  rw [Nat.mul_comm, Nat.testBit_two_pow_mul_add _ (Nat.mod_lt _ (Nat.two_pow_pos k)), Nat.testBit_mod_two_pow,
    Nat.testBit_div_two_pow]
  simp only [BitVec.testBit_toNat, BitVec.getLsbD_or, BitVec.getLsbD_and, BitVec.getLsbD_not, getLsbD_lowMask]
  by_cases h64 : i < 64
  · by_cases hk : i < k
    · simp [h64, hk]
    · simp [h64, hk, Nat.sub_add_cancel (Nat.le_of_not_lt hk)]
  · have high (w : W64) : w.getLsbD i = false := BitVec.getLsbD_of_ge w i (Nat.le_of_not_lt h64)
    by_cases hk : i < k
    · simp [high, hk]
    · simp [high, hk, Nat.sub_add_cancel (Nat.le_of_not_lt hk)]

theorem ldihOf_eq (x imm : W64) :
    ldihOf x imm = BitVec.ofNat 64 (imm.toNat % 2 ^ 32 * 2 ^ 32 + x.toNat % 2 ^ 32) := by
  apply BitVec.eq_of_toNat_eq
  have hlow : ldihOf x imm =
      ((imm <<< 32) &&& ~~~ BitVec.ofNat 64 (2 ^ 32 - 1)) ||| (x &&& BitVec.ofNat 64 (2 ^ 32 - 1)) := by
    refine BitVec.eq_of_getLsbD_eq fun i hi => ?_
    change (x &&& BitVec.ofNat 64 (2 ^ 32 - 1) ||| imm <<< 32).getLsbD i = _
    simp only [BitVec.getLsbD_or, BitVec.getLsbD_and, BitVec.getLsbD_not, BitVec.getLsbD_shiftLeft, getLsbD_lowMask]
    by_cases h32 : i < 32 <;> simp [h32, hi]
  have := x.isLt
  have := imm.isLt
  rw [hlow, toNat_low_of_other, BitVec.toNat_shiftLeft, Nat.shiftLeft_eq, BitVec.toNat_ofNat]
  omega

theorem leaAdd_eq (t imm : W64) : leaAdd t imm = addWithinWindow t imm := by
  have h : fld t 63 62 = t.toNat / 2 ^ 62 := by
    rw [fld_eq]
    have := t.isLt
    omega
  have within (k : Nat) (hk : k ≤ 64) : (t &&& ~~~ BitVec.ofNat 64 (2 ^ k - 1)) ||| ((t + imm) &&& BitVec.ofNat 64 (2 ^ k - 1)) =
      BitVec.ofNat 64 (t.toNat / 2 ^ k * 2 ^ k + (t.toNat + imm.toNat) % 2 ^ k) := by
    apply BitVec.eq_of_toNat_eq
    rw [← Nat.mod_eq_of_lt (BitVec.isLt (_ ||| _)), toNat_low_of_other, BitVec.toNat_ofNat, BitVec.toNat_add,
      Nat.mod_mod_of_dvd _ (Nat.pow_dvd_pow 2 hk)]
  unfold leaAdd addWithinWindow
  rw [h]
  split
  next h2 => rw [if_pos h2]; exact within 16 (by decide)
  next h1 => rw [if_neg (by omega), if_pos h1]; exact within 22 (by decide)
  next h2 h1 => rw [if_neg h2, if_neg h1, ofNat_add_toNat]

theorem toNat_extractLow (bits : Nat) (x : W64) : (x.extractLsb' 0 bits).toNat = x.toNat % 2 ^ bits := by
  simp [BitVec.extractLsb'_toNat]

theorem sext_eq (bits : Nat) (h0 : 0 < bits) (x : W64) : sext bits x = (x.extractLsb' 0 bits).signExtend 64 := by
  rw [sext, BitVec.signExtend, sgnOf, BitVec.toInt_eq_toNat_cond, toNat_extractLow]
  have h2 : 2 ^ bits = 2 * 2 ^ (bits - 1) := by rw [← Nat.pow_succ', Nat.succ_eq_add_one, Nat.sub_add_cancel h0]
  congr 1
  by_cases h : x.toNat % 2 ^ bits < 2 ^ (bits - 1)
  · rw [if_pos h, if_pos (by omega)]
  · rw [if_neg h, if_neg (by omega)]
    push_cast
    rfl

theorem zext_eq (bits : Nat) (x : W64) : zext bits x = (x.extractLsb' 0 bits).zeroExtend 64 := by
  apply BitVec.eq_of_toNat_eq
  rw [zext, BitVec.toNat_setWidth, toNat_extractLow, BitVec.toNat_ofNat]

/-! ### The end of a one-cycle instruction -/

/-- One-cycle result `w` for register `d`: what R91 says of the state after it. -/
theorem finish_setXL_one {s : State} {d : Reg} (w : W64) (h : NoPendX s d) :
    ∃ t, finish s (.ok (setXL s d w 1)) = .next t ∧ t.x d = (if d = 0 then 0 else w) ∧
      t.core.pc = s.core.issue.npc ∧ KeepsAllBut s t [d] := by
  rw [setXL_one s d w h]
  refine ⟨_, rfl, ?_, rfl, keepsAllBut_retire_rawX s d w⟩
  rw [retire_x, x_rawX]
  by_cases h0 : d = 0
  · rw [if_neg (fun e => e.2 h0), if_pos h0, h0, x_zero]
  · rw [if_pos ⟨rfl, h0⟩, if_neg h0]

/-- The value an instruction delivers may be replaced by an equal one. -/
theorem ends_in_value {o : Host.Outcome State Fault Refusal} {s : State} {d : Reg} {v w : W64}
    (ho : o = finish s (.ok (setXL s d v 1))) (hv : v = w) : o = finish s (.ok (setXL s d w 1)) := hv ▸ ho

/-- An instruction of one cycle ends in the one write of the value that the rules give for it. -/
theorem exec_eq_of_scalarOneCycle {i : Instr} {d : Reg} {w : W64} {s : State} (h : scalarOneCycle s i = some (d, w)) :
    exec i s = finish s (.ok (setXL s d w 1)) := by
  cases i
  case sext z d a => cases z <;> cases h <;> exact ends_in_value rfl (sext_eq _ (by decide) _)
  case zext z d a => cases z <;> cases h <;> exact ends_in_value rfl (zext_eq _ _)
  all_goals cases h
  case add | addShort | addi | addiShort => exact ends_in_value rfl (ofNat_add_toNat _ _).symm
  case sub | subShort => exact ends_in_value rfl (ofInt_sub_toInt _ _).symm
  case shl | shli | shliShort => exact ends_in_value rfl (ofNat_mul_two_pow _ _).symm
  case shr | shri | shriShort => exact ends_in_value rfl (ofNat_div_two_pow _ _).symm
  case sar | sari => exact ends_in_value rfl (ofInt_div_two_pow _ _).symm
  case min | max => exact ends_in_value rfl (by simp [BitVec.sle])
  case minn | maxn => exact ends_in_value rfl (by simp only [BitVec.le_def])
  case slt | sltShort => exact ends_in_value rfl (by simp [flagWord, BitVec.slt])
  case sltn => exact ends_in_value rfl (by simp [flagWord, BitVec.ult])
  case seq => exact ends_in_value rfl (by simp [flagWord])
  case sne => exact ends_in_value rfl (by simp [flagWord])
  case caddr => exact ends_in_value rfl (caddrOf_eq _ _)
  case csplit => exact ends_in_value rfl (csplitOf_eq _)
  case clz => exact ends_in_value rfl (congrArg _ (firstOne_msb _).symm)
  case ctz => exact ends_in_value rfl (congrArg _ (firstOne_lsb _).symm)
  case popc => exact ends_in_value rfl (congrArg _ (popCount_eq_countP _ _))
  case brev => exact ends_in_value rfl (ofNat_revNat _)
  case lea | leaShort => exact ends_in_value rfl (leaAdd_eq _ _)
  case ldih => exact ends_in_value rfl (ldihOf_eq _ _)
  all_goals exact ends_in_value rfl rfl

/-- Settles O1: each one-cycle form delivers the value of the rules' table, and that one write keeps the frame. -/
theorem scalarResultAndFrame : Obligations.ScalarResultAndFrame := by
  unfold Obligations.ScalarResultAndFrame
  intro i d w s h hp
  rw [exec_eq_of_scalarOneCycle h]
  exact finish_setXL_one w hp

end Sys2Proof.Machine

/-! The words of page 2 and what they decode to (03_encoding R45 to R53; 04_core R101, R104, R105). -/
namespace Sys2Proof.Machine

/-! ### A PAGE word and a base word -/

/-- The chain after one PAGE word. -/
def pageChain (page fx : Nat) : Chain := { Chain.start with pg := some (page, fx) }

/-- The fields of a base word after a PAGE word. -/
def pageForm (page fx op d a b f : Nat) : Form :=
  { page := page, op := op, fx := fx, f2 := BitVec.ofNat 2 f, d := BitVec.ofNat 3 d, a := BitVec.ofNat 3 a,
    b := BitVec.ofNat 3 b, dh := 0, ah := 0, bh := 0, immN := 0, immV := 0, mask := 0, ag := false, stall := 0 }

/-- The base word with the given fields (R45). -/
def baseWord (op d a b f : Nat) : W16 := BitVec.ofNat 16 (2048 * op + 256 * d + 32 * a + 4 * b + f)

theorem opOf_baseWord {op d a b f : Nat} (ho : op < 32) (hd : d < 8) (ha : a < 8) (hb : b < 8) (hf : f < 4) :
    opOf (baseWord op d a b f) = op := by
  simp only [opOf, baseWord, BitVec.extractLsb'_toNat, BitVec.toNat_ofNat, Nat.shiftRight_eq_div_pow]
  omega

theorem form_baseWord (page fx : Nat) {op d a b f : Nat} (ho : op < 32) (hd : d < 8) (ha : a < 8) (hb : b < 8) (hf : f < 4) :
    (pageChain page fx).form (baseWord op d a b f) = pageForm page fx op d a b f := by
  have hlt : 2048 * op + 256 * d + 32 * a + 4 * b + f < 2 ^ 16 := by omega
  have field (lo n v : Nat) (h : (2048 * op + 256 * d + 32 * a + 4 * b + f) / 2 ^ lo % 2 ^ n = v % 2 ^ n) :
      (baseWord op d a b f).extractLsb' lo n = BitVec.ofNat n v := by
    apply BitVec.eq_of_toNat_eq
    rw [BitVec.extractLsb'_toNat, BitVec.toNat_ofNat, Nat.shiftRight_eq_div_pow, baseWord, BitVec.toNat_ofNat,
      Nat.mod_eq_of_lt hlt, h]
  simp only [Chain.form, pageChain, pageForm, Chain.start, Option.getD_some, Option.getD_none, opOf_baseWord ho hd ha hb hf,
    field 8 3 d (by omega), field 5 3 a (by omega), field 2 3 b (by omega), field 0 2 f (by omega)]

/-- The base word ends a chain that has one PAGE word before it. -/
theorem next_baseWord (page fx : Nat) {op d a b f : Nat} (ho : op < 31) (hd : d < 8) (ha : a < 8) (hb : b < 8) (hf : f < 4) :
    (pageChain page fx).next (baseWord op d a b f) =
      match ofForm (pageForm page fx op d a b f) with
      | .ok i => .ended ⟨i, 4, 0, baseWord op d a b f, 1⟩
      | .error e => .bad ⟨e, baseWord op d a b f, 1⟩ := by
  have hop := opOf_baseWord (show op < 32 by omega) hd ha hb hf
  have hc : isChainWord (baseWord op d a b f) = false := by
    rw [isChainWord, hop]
    exact beq_false_of_ne (by omega)
  rw [Chain.next, hc, form_baseWord page fx (by omega) hd ha hb hf]
  rfl

/-- Two words: a PAGE word of page 2, and a base word. -/
theorem decode_page2 {w : W16} {fx op d a b f : Nat} (hw : Chain.start.next w = .more (pageChain 2 fx)) (ho : op < 31)
    (hd : d < 8) (ha : a < 8) (hb : b < 8) (hf : f < 4) :
    decode [w, baseWord op d a b f] =
      match ofForm (pageForm 2 fx op d a b f) with
      | .ok i => .ok ⟨i, 4, 0, baseWord op d a b f, 1⟩
      | .error e => .error ⟨e, baseWord op d a b f, 1⟩ := by
  rw [decode, decodeFrom, hw]
  simp only [decodeFrom, next_baseWord 2 fx ho hd ha hb hf]
  cases ofForm (pageForm 2 fx op d a b f) <;> rfl

theorem decodeInstr_page2 {w : W16} {fx op d a b f : Nat} (hw : Chain.start.next w = .more (pageChain 2 fx)) (ho : op < 31)
    (hd : d < 8) (ha : a < 8) (hb : b < 8) (hf : f < 4) :
    decodeInstr [w, baseWord op d a b f] = (ofForm (pageForm 2 fx op d a b f)).toOption := by
  rw [decodeInstr, decode_page2 hw ho hd ha hb hf]
  cases ofForm (pageForm 2 fx op d a b f) <;> rfl

theorem next_F920 : Chain.start.next 0xF920 = .more (pageChain 2 0) := by decide +kernel

theorem next_F921 : Chain.start.next 0xF921 = .more (pageChain 2 1) := by decide +kernel

theorem ofNat_field_ne_zero {n : Nat} (h : n < 8) (h0 : n ≠ 0) : BitVec.ofNat 3 n ≠ 0#3 := fun e => h0 (by
  have := congrArg BitVec.toNat e
  rw [BitVec.toNat_ofNat] at this
  change n % 8 = 0 at this
  omega)

/-! ### JMPR and NOP (R101, R105) -/

theorem reserved_nop {d a b : Nat} (hd : d < 8) (ha : a < 8) (hb : b < 8) (h : d ≠ 0 ∨ a ≠ 0 ∨ b ≠ 0) :
    (ofForm (pageForm 2 0 3 d a b 3)).toOption = none := by
  rw [show ofForm (pageForm 2 0 3 d a b 3) = (pageForm 2 0 3 d a b 3).take .zero .zero .zero false false .nop from rfl]
  by_cases h0 : d = 0
  · by_cases h1 : a = 0
    · have := ofNat_field_ne_zero hb ((h.resolve_left (not_not.2 h0)).resolve_left (not_not.2 h1))
      subst h0 h1
      simp [Form.take, FieldKind.check, pageForm, this, Except.toOption]
    · subst h0
      simp [Form.take, FieldKind.check, pageForm, ofNat_field_ne_zero ha h1, Except.toOption]
  · simp [Form.take, FieldKind.check, pageForm, ofNat_field_ne_zero hd h0, Except.toOption]

/-! ### DLY (R104) -/

theorem toNat_append_eq_add {m n : Nat} (x : BitVec m) (y : BitVec n) : (x ++ y).toNat = x.toNat * 2 ^ n + y.toNat := by
  rw [BitVec.toNat_append, ← Nat.shiftLeft_add_eq_or_of_lt y.isLt, Nat.shiftLeft_eq]

/-- The eight bits of the immediate that stand in the base word. -/
theorem immRaw_pageForm {page fx op d a b f : Nat} (ha : a < 8) (hb : b < 8) (hf : f < 4) :
    (pageForm page fx op d a b f).immRaw 8 = 32 * a + 4 * b + f := by
  have hlow : ((BitVec.ofNat 3 d ++ BitVec.ofNat 3 a ++ BitVec.ofNat 3 b ++ BitVec.ofNat 2 f : BitVec 11)).toNat =
      256 * (d % 8) + 32 * a + 4 * b + f := by
    simp only [toNat_append_eq_add, BitVec.toNat_ofNat]
    omega
  rw [Form.immRaw, Form.immLow]
  change 0 * 2 ^ 8 + (BitVec.ofNat 3 d ++ BitVec.ofNat 3 a ++ BitVec.ofNat 3 b ++ BitVec.ofNat 2 f : BitVec 11).toNat % 2 ^ 8 = _
  rw [hlow]
  omega

theorem ofForm_dly (d a b f : Nat) : ofForm (pageForm 2 1 4 d a b f) =
    (pageForm 2 1 4 d a b f).immU 8 1 255 fun v => (pageForm 2 1 4 d a b f).take .zero .code .code false true (.dly v) := rfl

theorem ofForm_dly_ok {a b f : Nat} (ha : a < 8) (hb : b < 8) (hf : f < 4) (h1 : 1 ≤ 32 * a + 4 * b + f) :
    ofForm (pageForm 2 1 4 0 a b f) = .ok (.dly (BitVec.ofNat 64 (32 * a + 4 * b + f))) := by
  rw [ofForm_dly, Form.immU, immRaw_pageForm ha hb hf, if_pos ⟨h1, by omega⟩]
  simp [Form.take, FieldKind.check, pageForm]

theorem reserved_dly {d a b f : Nat} (hd : d < 8) (h0 : d ≠ 0) :
    (ofForm (pageForm 2 1 4 d a b f)).toOption = none := by
  rw [ofForm_dly, Form.immU]
  split
  · simp [Form.take, FieldKind.check, pageForm, ofNat_field_ne_zero hd h0, Except.toOption]
  · rfl

/-- The word of `dly #n`. -/
theorem baseWord_dly (d n : Nat) : BitVec.ofNat 16 (0x2000 + 256 * d + n) = baseWord 4 d (n / 32) (n / 4 % 8) (n % 4) :=
  congrArg (BitVec.ofNat 16) (by omega)

/-! ### Only DLY's own word decodes to DLY (R104) -/

/-- Every instruction that the opcode map gives has a property. -/
def Yields (P : Instr → Prop) (r : Except Bad Instr) : Prop := ∀ i, r = .ok i → P i

section Yields
variable {P : Instr → Prop} {r r' : Except Bad Instr} {f : Form} {k : W64 → Except Bad Instr}

theorem yields_error (e : Bad) : Yields P (.error e) := fun _ h => nomatch h

theorem yields_ite {c : Prop} [Decidable c] (h : Yields P r) (h' : Yields P r') : Yields P (if c then r else r') := by
  split
  · exact h
  · exact h'

theorem yields_take {dk ak bk : FieldKind} {mask imm : Bool} {i : Instr} (h : P i) :
    Yields P (f.take dk ak bk mask imm i) := by
  intro j hj
  have : i = j := by
    unfold Form.take at hj
    (repeat' split at hj) <;> cases hj
    rfl
  exact this ▸ h

/-- One literal of the opcode map's pages and opcodes, as the match over both decides it. -/
theorem yields_literal {n k : Nat} {r' : ¬ n = k → Except Bad Instr} (h : Yields P r) (h' : ∀ hne, Yields P (r' hne)) :
    Yields P (dite (n = k) (Eq.ndrec_symm (motive := fun _ => Except Bad Instr) r) r') := by
  by_cases e : n = k
  · subst e
    simpa using h
  · rw [dif_neg e]
    exact h' e

theorem yields_immS {w : Nat} (h : ∀ v, Yields P (k v)) : Yields P (f.immS w k) := h _

theorem yields_immR {w : Nat} {lo hi : Int} (h : ∀ v, Yields P (k v)) : Yields P (f.immR w lo hi k) :=
  yields_ite (h _) (yields_error _)

/-- The value is within the bounds of its field. -/
theorem yields_immU {w lo hi : Nat} (h : ∀ n, lo ≤ n → n ≤ hi → Yields P (k (BitVec.ofNat 64 n))) :
    Yields P (f.immU w lo hi k) := by
  unfold Form.immU
  split
  next hb => exact h _ hb.1 hb.2
  next => exact yields_error _

theorem yields_immReg {w : Nat} (h : ∀ v, Yields P (k v)) : Yields P (f.immReg w k) := yields_ite (h _) (yields_error _)

theorem yields_immNo {w : Nat} (h : ∀ v, Yields P (k v)) : Yields P (f.immNo w k) := yields_ite (yields_error _) (h _)

theorem yields_with3 {α : Type} {o : Option α} {k : α → Except Bad Instr} (h : ∀ v, Yields P (k v)) :
    Yields P (with3 o k) := by
  cases o with
  | none => exact yields_error _
  | some v => exact h v

theorem yields_typed {ok : ETy → Bool} {k : ETy → Except Bad Instr} (h : ∀ v, Yields P (k v)) :
    Yields P (f.typed ok k) := by
  unfold Form.typed
  split
  · exact yields_ite (h _) (yields_error _)
  · exact yields_error _

end Yields

/-- A DLY has a count from 1 to 255 (R104). -/
def DlyInRange : Instr → Prop
  | .dly n => 1 ≤ n.toNat ∧ n.toNat ≤ 255
  | _ => True

theorem dlyInRange_ofNat {n : Nat} (h1 : 1 ≤ n) (h : n ≤ 255) : DlyInRange (.dly (BitVec.ofNat 64 n)) := by
  rw [DlyInRange, BitVec.toNat_ofNat]
  omega

/-- Every row of the opcode map but one gives another instruction, and DLY's own bounds its count. -/
theorem ofForm_dlyInRange (f : Form) : Yields DlyInRange (ofForm f) := by
  unfold ofForm
  delta ofForm.match_1
  beta_reduce
  repeat' with_reducible first
    | exact yields_error _
    | refine yields_literal ?_ fun _ => ?_
    | refine yields_ite ?_ ?_
    | refine yields_take ?_
    | refine yields_typed fun _ => ?_
    | refine yields_with3 fun _ => ?_
    | refine yields_immS fun _ => ?_
    | refine yields_immU fun _ _ _ => ?_
    | refine yields_immR fun _ => ?_
    | refine yields_immReg fun _ => ?_
    | refine yields_immNo fun _ => ?_
  any_goals trivial
  exact dlyInRange_ofNat ‹_› ‹_›

theorem decodeFrom_dlyInRange {ws : List W16} {c : Chain} {d : Decoded} (h : decodeFrom c ws = .ok d) :
    DlyInRange d.instr := by
  induction ws generalizing c with
  | nil => cases h
  | cons w ws ih =>
    unfold decodeFrom at h
    split at h
    next c' _ => exact ih h
    next d' hd =>
      cases h
      unfold Chain.next at hd
      split at hd
      next => split at hd <;> cases hd
      next =>
        split at hd
        next i hi => cases hd; exact ofForm_dlyInRange _ _ hi
        next => cases hd
    next => cases h

theorem dly_range_of_decodeInstr {ws : List W16} {n : W64} (h : decodeInstr ws = some (.dly n)) :
    1 ≤ n.toNat ∧ n.toNat ≤ 255 := by
  unfold decodeInstr at h
  split at h
  next d hd =>
    have := decodeFrom_dlyInRange hd
    rw [Option.some.inj h] at this
    exact this
  next => cases h

/-! ### What NOP, DLY and the short ADD of zeros do (R104, R105) -/

/-- Counting issue cycles and moving on leaves everything else as it was. -/
theorem keepsAllBut_retire_addBusy (s : State) (n : Nat) : KeepsAllBut s (retire (addBusy s n)) [] :=
  ⟨fun _ _ => rfl, fun _ _ => rfl, rfl, ⟨rfl, rfl, rfl, rfl, rfl⟩,
    ⟨rfl, rfl, rfl, rfl, rfl, rfl, rfl, rfl, rfl, rfl, rfl, rfl⟩, fun _ => rfl, ⟨rfl, rfl, rfl, rfl, rfl, rfl⟩⟩

theorem keepsAllBut_retire (s : State) : KeepsAllBut s (retire s) [] := keepsAllBut_retire_addBusy s 0

theorem keepsAllBut_latch (s : State) (d : Decoded) : KeepsAllBut s (latch s d) [] :=
  ⟨fun _ _ => rfl, fun _ _ => rfl, rfl, ⟨rfl, rfl, rfl, rfl, rfl⟩,
    ⟨rfl, rfl, rfl, rfl, rfl, rfl, rfl, rfl, rfl, rfl, rfl, rfl⟩, fun _ => rfl, ⟨rfl, rfl, rfl, rfl, rfl, rfl⟩⟩

/-- Settles O5: the words by the fields of the base word, the range of DLY's count by the one row of the opcode map that gives
it, and the effects by the frame of an instruction that only counts cycles. -/
theorem nopAndDelay : Obligations.NopAndDelay := by
  unfold Obligations.NopAndDelay
  refine ⟨?dly_word, ?dly_zero, ?dly_reserved, fun ws n h => dly_range_of_decodeInstr h, ?dly_effect, ?nop_word, ?nop_stall,
    ?nop_reserved, fun d s => ⟨rfl, keepsAllBut_latch s d⟩,
    fun s => ⟨_, rfl, rfl, rfl, rfl, keepsAllBut_retire s⟩, ?short_word, ?short_effect⟩
  case dly_word =>
    intro n h1 h2
    have hn : n = 32 * (n / 32) + 4 * (n / 4 % 8) + n % 4 := by omega
    have hw := baseWord_dly 0 n
    rw [Nat.mul_zero, Nat.add_zero] at hw
    rw [hw, decode_page2 next_F921 (by decide) (by decide) (by omega) (by omega) (by omega),
      ofForm_dly_ok (by omega) (by omega) (by omega) (by omega), ← hn]
  case dly_zero => decide +kernel
  case dly_reserved =>
    intro d n h1 h7 h2
    rw [baseWord_dly, decodeInstr_page2 next_F921 (by decide) (by omega) (by omega) (by omega) (by omega)]
    exact reserved_dly (by omega) (by omega)
  case dly_effect => exact fun n s _ _ => ⟨_, rfl, rfl, rfl, rfl, rfl, keepsAllBut_retire_addBusy s _⟩
  case nop_word => decide +kernel
  case nop_stall =>
    intro k h1 h7
    interval_cases k <;> decide +kernel
  case nop_reserved =>
    intro d a b hd ha hb h
    rw [show 0x1803 + 256 * d + 32 * a + 4 * b = 2048 * 3 + 256 * d + 32 * a + 4 * b + 3 by omega]
    exact (decodeInstr_page2 next_F920 (by decide) hd ha hb (by decide)).trans (reserved_nop hd ha hb h)
  case short_word => decide +kernel
  case short_effect => exact fun s => rfl

end Sys2Proof.Machine

/-! A traced branch whose record has to wait at its home leaves a packet (25_life R448; 07_ordering R183): the frame that
BranchesAndAlign claims for every state. -/
namespace Sys2Proof.Machine

/-- The core at reset with its trace on, in a ring of 128 slots at address 0 whose first line a host cache holds. -/
def tracedAtHeldLine : State :=
  { State.reset with
    out := { State.reset.out with dbg := [(0, { Dbg.fresh with trcEn := true, trcBase := 1 })] }
    mu := { State.reset.mu with hostHeld := [0] } }

/-- The record of a taken branch waits as a packet. -/
theorem br_leaves_packet {t : State} (h : exec (.br 0) tracedAtHeldLine = .next t) : t.net ≠ tracedAtHeldLine.net := by
  have hlen : (match exec (.br 0) tracedAtHeldLine with | .next u => u.net.length | _ => 0) = 1 := by decide +kernel
  rw [h] at hlen
  change t.net.length = 1 at hlen
  intro e
  rw [e] at hlen
  exact absurd hlen (by decide)

/-- Refutes O4: a branch that is recorded while the line of its record has to wait at its home sends the record as a packet, so the
packets on their way are not those of before. -/
theorem not_branchesAndAlign : ¬ Obligations.BranchesAndAlign := by
  unfold Obligations.BranchesAndAlign
  rintro ⟨-, -, -, -, hbranch, -, -⟩
  obtain ⟨t, ht, -, hframe⟩ := hbranch (.br 0) true 0 tracedAtHeldLine rfl
  exact br_leaves_packet ht hframe.others.2.1

end Sys2Proof.Machine

/-! What landing results, opening a window, writing a trace record and entering a bank change (03_encoding R60 to R62;
04_core R84, R85, R89; 09_context R230 to R232; 25_life R448). -/
namespace Sys2Proof.Machine

/-! ### Results that land -/

theorem Scalars.set_changes (c : Scalars) (r : Reg) (w : W64) : ∃ glob ring, c.set r w = { c with glob := glob, ring := ring } := by
  unfold Scalars.set
  split
  · exact ⟨c.glob, c.ring, rfl⟩
  · split
    · exact ⟨_, c.ring, rfl⟩
    · exact ⟨c.glob, _, rfl⟩

theorem Pend.apply_changes (s : State) (p : Pend) : ∃ glob ring own frames, p.apply s =
    { s with
      core := { s.core with
        sc := { s.core.sc with glob := glob, ring := ring }
        vec := { s.core.vec with own := own } }
      un := { s.un with frames := frames } } := by
  cases p with
  | x r w l =>
    obtain ⟨glob, ring, h⟩ := s.core.sc.set_changes r w
    refine ⟨glob, ring, s.core.vec.own, s.un.frames, ?_⟩
    rw [Pend.apply, rawX, h]
  | v r w l =>
    obtain ⟨own, frames, h⟩ := vset_changes s r w
    exact ⟨s.core.sc.glob, s.core.sc.ring, own, frames, h⟩

theorem foldl_apply_changes (l : List Pend) (s : State) : ∃ glob ring own frames, l.foldl Pend.apply s =
    { s with
      core := { s.core with
        sc := { s.core.sc with glob := glob, ring := ring }
        vec := { s.core.vec with own := own } }
      un := { s.un with frames := frames } } := by
  induction l generalizing s with
  | nil => exact ⟨s.core.sc.glob, s.core.sc.ring, s.core.vec.own, s.un.frames, rfl⟩
  | cons p l ih =>
    obtain ⟨_, _, _, _, hp⟩ := p.apply_changes s
    obtain ⟨glob, ring, own, frames, h⟩ := ih (p.apply s)
    exact ⟨glob, ring, own, frames, by rw [List.foldl_cons, h, hp]⟩

/-- Landing every result changes registers and the cycles the instruction takes, and nothing else (R62). -/
theorem landAll_changes (s : State) : ∃ glob ring own frames busy, landAll s =
    { s with
      core := { s.core with
        sc := { s.core.sc with glob := glob, ring := ring }
        vec := { s.core.vec with own := own }
        pend := []
        issue := { s.core.issue with busy := busy } }
      un := { s.un with frames := frames } } := by
  obtain ⟨glob, ring, own, frames, h⟩ := foldl_apply_changes s.core.pend { s with core := { s.core with pend := [] } }
  unfold landAll
  rw [h]
  dsimp only
  split
  · exact ⟨glob, ring, own, frames, s.core.issue.busy, rfl⟩
  · exact ⟨glob, ring, own, frames, _, rfl⟩

section Landed
variable (s : State)

/-- A reading of the state that no landed result changes. -/
theorem landAll_keeps {α : Type} (f : State → α) (h : ∀ glob ring own frames busy,
    f { s with
      core := { s.core with
        sc := { s.core.sc with glob := glob, ring := ring }
        vec := { s.core.vec with own := own }
        pend := []
        issue := { s.core.issue with busy := busy } }
      un := { s.un with frames := frames } } = f s) : f (landAll s) = f s := by
  obtain ⟨glob, ring, own, frames, busy, e⟩ := landAll_changes s
  rw [e, h]

@[simp] theorem landAll_sys : (landAll s).core.sys = s.core.sys := landAll_keeps s (·.core.sys) fun _ _ _ _ _ => rfl
@[simp] theorem landAll_num : (landAll s).core.num = s.core.num := landAll_keeps s (·.core.num) fun _ _ _ _ _ => rfl
@[simp] theorem landAll_pos : (landAll s).core.pos = s.core.pos := landAll_keeps s (·.core.pos) fun _ _ _ _ _ => rfl
@[simp] theorem landAll_run : (landAll s).core.run = s.core.run := landAll_keeps s (·.core.run) fun _ _ _ _ _ => rfl
@[simp] theorem landAll_pc : (landAll s).core.pc = s.core.pc := landAll_keeps s (·.core.pc) fun _ _ _ _ _ => rfl
@[simp] theorem landAll_npc : (landAll s).core.issue.npc = s.core.issue.npc :=
  landAll_keeps s (·.core.issue.npc) fun _ _ _ _ _ => rfl
@[simp] theorem landAll_wait : (landAll s).core.wait = s.core.wait := landAll_keeps s (·.core.wait) fun _ _ _ _ _ => rfl
@[simp] theorem landAll_mail : (landAll s).core.mail = s.core.mail := landAll_keeps s (·.core.mail) fun _ _ _ _ _ => rfl
@[simp] theorem landAll_ev : (landAll s).core.ev = s.core.ev := landAll_keeps s (·.core.ev) fun _ _ _ _ _ => rfl
@[simp] theorem landAll_pend : (landAll s).core.pend = [] := by
  obtain ⟨_, _, _, _, _, e⟩ := landAll_changes s
  rw [e]
@[simp] theorem landAll_base : (landAll s).core.sc.base = s.core.sc.base := landAll_keeps s (·.core.sc.base) fun _ _ _ _ _ => rfl
@[simp] theorem landAll_res : (landAll s).core.sc.res = s.core.sc.res := landAll_keeps s (·.core.sc.res) fun _ _ _ _ _ => rfl
@[simp] theorem landAll_spilled : (landAll s).core.sc.spilled = s.core.sc.spilled :=
  landAll_keeps s (·.core.sc.spilled) fun _ _ _ _ _ => rfl
@[simp] theorem landAll_wsp : (landAll s).core.sc.wsp = s.core.sc.wsp := landAll_keeps s (·.core.sc.wsp) fun _ _ _ _ _ => rfl
@[simp] theorem landAll_wlimit : (landAll s).core.sc.wlimit = s.core.sc.wlimit :=
  landAll_keeps s (·.core.sc.wlimit) fun _ _ _ _ _ => rfl
@[simp] theorem landAll_spillBusy : (landAll s).core.sc.spillBusy = s.core.sc.spillBusy :=
  landAll_keeps s (·.core.sc.spillBusy) fun _ _ _ _ _ => rfl
@[simp] theorem landAll_others : (landAll s).others = s.others := landAll_keeps s (·.others) fun _ _ _ _ _ => rfl
@[simp] theorem landAll_mem : (landAll s).mem = s.mem := landAll_keeps s (·.mem) fun _ _ _ _ _ => rfl
@[simp] theorem landAll_net : (landAll s).net = s.net := landAll_keeps s (·.net) fun _ _ _ _ _ => rfl
@[simp] theorem landAll_mu : (landAll s).mu = s.mu := landAll_keeps s (·.mu) fun _ _ _ _ _ => rfl
@[simp] theorem landAll_out : (landAll s).out = s.out := landAll_keeps s (·.out) fun _ _ _ _ _ => rfl
@[simp] theorem landAll_cycle : (landAll s).cycle = s.cycle := landAll_keeps s (·.cycle) fun _ _ _ _ _ => rfl

end Landed

/-- Delivering interlocked results changes the interlocks and the cycles the instruction takes (04_core R89). -/
theorem landLocks_changes (s : State) : ∃ locks divUntil busy, landLocks s =
    { s with core := { s.core with locks := locks, divUntil := divUntil, issue := { s.core.issue with busy := busy } } } := by
  unfold landLocks
  extract_lets scalar until_
  split
  · exact ⟨s.core.locks, s.core.divUntil, s.core.issue.busy, rfl⟩
  · exact ⟨_, _, _, rfl⟩

/-! ### A window opened (04_core R84, R85) -/

section Upper
variable (c : Scalars)

theorem foldl_set_changes (l : List Nat) : ∃ glob ring,
    l.foldl (fun c i => c.set (BitVec.ofNat 5 (16 + i)) 0) c = { c with glob := glob, ring := ring } := by
  induction l generalizing c with
  | nil => exact ⟨c.glob, c.ring, rfl⟩
  | cons i l ih =>
    obtain ⟨_, _, hs⟩ := c.set_changes (BitVec.ofNat 5 (16 + i)) 0
    obtain ⟨glob, ring, h⟩ := ih (c.set (BitVec.ofNat 5 (16 + i)) 0)
    exact ⟨glob, ring, by rw [List.foldl_cons, h, hs]⟩

theorem get_foldl_set_zero (l : List Nat) (r : Reg) :
    (l.foldl (fun c i => c.set (BitVec.ofNat 5 (16 + i)) 0) c).get r =
      if ∃ i ∈ l, BitVec.ofNat 5 (16 + i) = r then 0 else c.get r := by
  induction l generalizing c with
  | nil => simp
  | cons i l ih =>
    rw [List.foldl_cons, ih]
    by_cases hl : ∃ j ∈ l, BitVec.ofNat 5 (16 + j) = r
    · rw [if_pos hl, if_pos (hl.imp fun j hj => ⟨List.mem_cons_of_mem _ hj.1, hj.2⟩)]
    · rw [if_neg hl]
      by_cases hi : BitVec.ofNat 5 (16 + i) = r
      · rw [if_pos ⟨i, List.mem_cons_self, hi⟩, hi]
        by_cases h0 : r = 0
        · rw [h0, get_zero]
        · exact get_set_self c 0 h0
      · rw [if_neg, get_set_ne c 0 (Ne.symm hi)]
        rintro ⟨j, hj, e⟩
        rcases List.mem_cons.1 hj with rfl | hj
        · exact hi e
        · exact hl ⟨j, hj, e⟩

theorem get_clearUpper (r : Reg) : c.clearUpper.get r = if 16 ≤ r.toNat then 0 else c.get r := by
  rw [Scalars.clearUpper, get_foldl_set_zero]
  have hr := r.isLt
  refine if_congr ⟨?_, fun h => ⟨r.toNat - 16, List.mem_range.2 (by omega), ?_⟩⟩ rfl rfl
  · rintro ⟨i, hi, rfl⟩
    rw [BitVec.toNat_ofNat]
    have := List.mem_range.1 hi
    omega
  · apply BitVec.eq_of_toNat_eq
    rw [BitVec.toNat_ofNat]
    omega

theorem clearUpper_changes : ∃ glob ring, c.clearUpper = { c with glob := glob, ring := ring } := foldl_set_changes c _

theorem advance_changes : ∃ glob ring, c.advance = { c with glob := glob, ring := ring, base := (c.base + 16) % 136 } := by
  obtain ⟨glob, ring, h⟩ := clearUpper_changes { c with base := (c.base + 16) % 136 }
  exact ⟨glob, ring, by rw [Scalars.advance, h]⟩

@[simp] theorem advance_res : c.advance.res = c.res := by
  obtain ⟨_, _, h⟩ := advance_changes c
  rw [h]
@[simp] theorem advance_spilled : c.advance.spilled = c.spilled := by
  obtain ⟨_, _, h⟩ := advance_changes c
  rw [h]
@[simp] theorem advance_wsp : c.advance.wsp = c.wsp := by
  obtain ⟨_, _, h⟩ := advance_changes c
  rw [h]
@[simp] theorem advance_wlimit : c.advance.wlimit = c.wlimit := by
  obtain ⟨_, _, h⟩ := advance_changes c
  rw [h]

end Upper

theorem toNat_add_sixteen {r : Reg} (h : r.toNat < 16) : (r + 16).toNat = r.toNat + 16 := by
  rw [BitVec.toNat_add]
  change (r.toNat + 16) % 32 = _
  omega

/-- An out of the caller stands in the ring where the callee reads its in (R84). -/
theorem get_base_advanced (c : Scalars) {r : Reg} (h8 : 8 ≤ r.toNat) (h16 : r.toNat < 16) :
    ({ c with base := (c.base + 16) % 136 } : Scalars).get r = c.get (r + 16) := by
  have hr : (r + 16).toNat = r.toNat + 16 := toNat_add_sixteen h16
  have h0 : r ≠ 0 := fun e => by rw [e] at h8; exact absurd h8 (by decide)
  have h0' : r + 16 ≠ 0 := fun e => by rw [e] at hr; exact absurd hr (by simp)
  simp only [Scalars.get, h0, h0', hr, if_false, show ¬ r.toNat < 8 by omega, show ¬ r.toNat + 16 < 8 by omega]
  congr 1
  simp only [ringIx]
  omega

theorem get_advance (c : Scalars) (r : Reg) : c.advance.get r =
    if 16 ≤ r.toNat then 0 else if 8 ≤ r.toNat then c.get (r + 16) else c.get r := by
  rw [Scalars.advance, get_clearUpper]
  refine ite_congr rfl (fun _ => rfl) fun h16 => ?_
  split
  next h8 => exact get_base_advanced c h8 (by omega)
  next h8 => simp only [Scalars.get, show r.toNat < 8 by omega, if_true]

/-- The oldest of eight windows goes to the 128 bytes below WSP, of which there are as many (R85). -/
theorem toNat_wsp_spilled {c : Scalars} (hw : WindowOk c) (h : 128 ≤ c.wsp.toNat) :
    (BitVec.ofNat 64 ((wspOf c + 0x20000 - 128) % 0x20000)).toNat = c.wsp.toNat - 128 := by
  have := hw.pointer.1
  rw [BitVec.toNat_ofNat, wspOf]
  omega

theorem windowIn_sc_full {u : State} (h : u.core.sc.res = 8) : (windowIn u).core.sc =
    ({ u.core.sc with wsp := BitVec.ofNat 64 ((wspOf u.core.sc + 0x20000 - 128) % 0x20000), spilled := u.core.sc.spilled + 1,
                      spillBusy := true } : Scalars).advance := by
  rw [windowIn, if_pos h]
  rfl

theorem windowIn_sc_room {u : State} (h : u.core.sc.res ≠ 8) : (windowIn u).core.sc =
    ({ u.core.sc with res := u.core.sc.res + 1 } : Scalars).advance := by
  rw [windowIn, if_neg h]
  rfl

/-- The new window as `WindowOpened` states it. -/
theorem windowOpened_windowIn {u : State} (hw : WindowOk u.core.sc) (hf : SpillFits u.core.sc) :
    WindowOpened u (windowIn u) := by
  have read (r : Reg) : (windowIn u).x r =
      if 16 ≤ r.toNat then 0 else if 8 ≤ r.toNat then u.x (r + 16) else u.x r := by
    by_cases h : u.core.sc.res = 8
    · rw [State.x, windowIn_sc_full h, get_advance]
      rfl
    · rw [State.x, windowIn_sc_room h, get_advance]
      rfl
  refine ⟨fun r h => ?_, fun r h8 h16 => ?_, fun r h => ?_, ?_, ?_, ?_, ?_⟩
  · rw [read, if_neg (by omega), if_neg (by omega)]
  · rw [read, if_neg (by omega), if_pos h8]
  · rw [read, if_pos h]
  · by_cases h : u.core.sc.res = 8
    · rw [windowIn_sc_full h, advance_res, if_pos h, h]
    · rw [windowIn_sc_room h, advance_res, if_neg h]
  · by_cases h : u.core.sc.res = 8
    · rw [windowIn_sc_full h, advance_spilled, if_pos h]
    · rw [windowIn_sc_room h, advance_spilled, if_neg h]
  · by_cases h : u.core.sc.res = 8
    · rw [windowIn_sc_full h, advance_wsp, if_pos h]
      exact toNat_wsp_spilled hw (by have := hf h; omega)
    · rw [windowIn_sc_room h, advance_wsp, if_neg h]
  · by_cases h : u.core.sc.res = 8
    · rw [windowIn_sc_full h, advance_wlimit]
    · rw [windowIn_sc_room h, advance_wlimit]

/-! ### What a write of the device's own can change -/

/-- Memory, its units, packets and what stands outside the cores may differ, with the numbers they take. -/
def MemoryOnly (s t : State) : Prop := ∃ mem mu net out fresh nextId,
  t = { s with mem := mem, mu := mu, net := net, out := out, fresh := fresh, nextId := nextId }

theorem MemoryOnly.refl (s : State) : MemoryOnly s s := ⟨_, _, _, _, _, _, rfl⟩

theorem MemoryOnly.trans {s t u : State} (h : MemoryOnly s t) (h' : MemoryOnly t u) : MemoryOnly s u := by
  obtain ⟨_, _, _, _, _, _, rfl⟩ := h
  obtain ⟨_, _, _, _, _, _, rfl⟩ := h'
  exact ⟨_, _, _, _, _, _, rfl⟩

theorem MemoryOnly.core {s t : State} (h : MemoryOnly s t) : t.core = s.core := by
  obtain ⟨_, _, _, _, _, _, rfl⟩ := h
  rfl

theorem MemoryOnly.others {s t : State} (h : MemoryOnly s t) : t.others = s.others := by
  obtain ⟨_, _, _, _, _, _, rfl⟩ := h
  rfl

theorem MemoryOnly.un {s t : State} (h : MemoryOnly s t) : t.un = s.un := by
  obtain ⟨_, _, _, _, _, _, rfl⟩ := h
  rfl

theorem MemoryOnly.cycle {s t : State} (h : MemoryOnly s t) : t.cycle = s.cycle := by
  obtain ⟨_, _, _, _, _, _, rfl⟩ := h
  rfl

/-- Steps that change memory only, one for each entry of a list. -/
theorem MemoryOnly.foldl {α : Type} {f : State → α → State} (h : ∀ s a, MemoryOnly s (f s a)) (l : List α) (s : State) :
    MemoryOnly s (l.foldl f s) := by
  induction l generalizing s with
  | nil => exact .refl s
  | cons a l ih => exact (h s a).trans (ih _)

theorem memoryOnly_stackAccess (s : State) (line : Nat) (read : Bool) : MemoryOnly s (stackAccess s line read) := by
  unfold stackAccess
  split
  · exact ⟨_, _, _, _, _, _, rfl⟩
  · exact .refl s

theorem memoryOnly_hbmPut (s : State) (line : Nat) (data : W512) (kid : Option Nat) : MemoryOnly s (hbmPut s line data kid) := by
  unfold hbmPut
  split
  · exact .refl s
  · exact (memoryOnly_stackAccess s line false).trans ⟨_, _, _, _, _, _, rfl⟩

theorem memoryOnly_writeBack (s : State) (line : Nat) (l : L2Line) : MemoryOnly s (writeBack s line l) := by
  unfold writeBack
  split
  · exact memoryOnly_hbmPut _ _ _ _
  · exact .refl s

theorem memoryOnly_l2Evict (s : State) (sb : Nat) : MemoryOnly s (l2Evict s sb) :=
  (MemoryOnly.foldl (fun t (p : Nat × L2Line) => memoryOnly_writeBack t p.1 p.2) _ s).trans ⟨_, _, _, _, _, _, rfl⟩

theorem memoryOnly_l2Room (s : State) (line : Nat) : MemoryOnly s (l2Room s line) := by
  unfold l2Room
  extract_lets inSet victim
  split
  · exact .refl s
  · exact MemoryOnly.trans ⟨_, _, _, _, _, _, rfl⟩ (memoryOnly_l2Evict _ _)

theorem memoryOnly_l2Put (s : State) (line : Nat) (l : L2Line) : MemoryOnly s (l2Put s line l) :=
  (memoryOnly_l2Room s line).trans ⟨_, _, _, _, _, _, rfl⟩

theorem memoryOnly_checkLine (s : State) (line : Nat) : MemoryOnly s (checkLine s line) := by
  unfold checkLine
  split
  · have poisoned : MemoryOnly s (if (tget s.mu.l2 line).any (·.dirty) then
        { s with mu := { s.mu with beneath := tput s.mu.beneath line true } } else poisonLine s line) := by
      split
      · exact ⟨_, _, _, _, _, _, rfl⟩
      · exact ⟨_, _, _, _, _, _, rfl⟩
    exact poisoned.trans ⟨_, _, _, _, _, _, rfl⟩
  · exact .refl s

theorem memoryOnly_homeRead (s : State) (line : Nat) (kid : Option Nat) (cached : Bool) :
    MemoryOnly s (homeRead s line kid cached).1 := by
  have hread := (memoryOnly_stackAccess s line true).trans (memoryOnly_checkLine _ line)
  unfold homeRead
  split
  · split
    · exact .refl s
    · dsimp only
      split
      · exact hread
      · exact hread.trans (memoryOnly_l2Put _ _ _)
  · exact hread

theorem memoryOnly_codeDrop (s : State) (line : Nat) : MemoryOnly s (codeDrop s line) := by
  unfold codeDrop
  split
  · exact .refl s
  · exact ⟨_, _, _, _, _, _, rfl⟩

theorem memoryOnly_homeWriteLine (s : State) (line : Nat) (kid : Option Nat) (cached : Bool) (cells : List Host.Cell) :
    MemoryOnly s (homeWriteLine s line kid cached cells) := by
  refine (memoryOnly_codeDrop s line).trans ?_
  unfold homeWriteLine
  dsimp only
  generalize codeDrop s line = c
  split
  · exact .refl c
  · generalize hold : (if (cells.map (·.1)).dedup.length = 64 then (c, (0 : W512)) else if cached = true then homeRead c line kid true
      else (checkLine c line, hbmLine (checkLine c line) line kid)) = old
    have hread : MemoryOnly c old.1 := by
      rw [← hold]
      split
      · exact .refl c
      · split
        · exact memoryOnly_homeRead _ _ _ _
        · exact memoryOnly_checkLine _ _
    refine hread.trans (MemoryOnly.trans ?_ ⟨_, _, _, _, _, _, rfl⟩)
    split
    · exact memoryOnly_l2Put _ _ _
    · exact memoryOnly_hbmPut _ _ _ _

theorem memoryOnly_ownWrite (s : State) (line : Nat) (cells : List Host.Cell) : MemoryOnly s (ownWrite s line cells) := by
  unfold ownWrite
  split
  · exact ⟨_, _, _, _, _, _, rfl⟩
  · exact memoryOnly_homeWriteLine _ _ _ _ _

theorem memoryOnly_physWrite (s : State) (phys : Nat) (l : List Byte) : MemoryOnly s (physWrite s phys l) :=
  .foldl (fun t _ => memoryOnly_ownWrite t _ _) _ s

/-! ### Trace records (25_life R448) -/

theorem memoryOnly_trace (s : State) (kind : Nat) (target : W64) : MemoryOnly s (trace s kind target) := by
  unfold trace
  extract_lets d slots base w t
  split
  · exact .refl s
  · have ht : MemoryOnly s t := by
      unfold t
      split
      · exact .refl s
      · exact memoryOnly_physWrite _ _ _
    exact ht.trans ⟨_, _, _, _, _, _, rfl⟩

theorem trace_of_noTrace {s : State} (h : NoTrace s) (kind : Nat) (target : W64) : trace s kind target = s := by
  unfold trace
  extract_lets d slots base w t
  rw [if_pos]
  simpa [NoTrace] using h

end Sys2Proof.Machine

/-! Entries into the system bank, as `InSystem` states them (09_context R226, R230 to R232). -/
namespace Sys2Proof.Machine

/-! ### Words of the entry -/

/-- Two fields cleared and one set, one after another, as one mask. -/
theorem clear_set_clear {w a b c v : W64} (h : b &&& ~~~c = b) :
    ((((w &&& ~~~a) ||| 0#64) &&& ~~~b ||| b) &&& ~~~c) ||| v = (w &&& ~~~(a ||| b ||| c)) ||| (b ||| v) := by
  have bitwise : ∀ w a b c v : Bool, (b && !c) = b →
      (((w && !a || false) && !b || b) && !c || v) = (w && !(a || b || c) || (b || v)) := by decide
  refine BitVec.eq_of_getLsbD_eq fun i hi => ?_
  have hb := congrArg (BitVec.getLsbD · i) h
  simp only [BitVec.getLsbD_and, BitVec.getLsbD_or, BitVec.getLsbD_not, BitVec.getLsbD_zero, hi, decide_true,
    Bool.true_and] at hb ⊢
  exact bitwise _ _ _ _ _ hb

theorem status_in_system (w : W64) : setFld (setBit (setBit w 10 false) 14 true) 1 0 1 = statusInSystem w := by
  refine (clear_set_clear (w := w) (a := ones 10 10) (b := ones 14 14) (c := ones 1 0) (v := 1) (by decide)).trans ?_
  rw [statusInSystem, show ones 10 10 ||| ones 14 14 ||| ones 1 0 = 0x4403#64 by decide,
    show ones 14 14 ||| 1 = 0x4001#64 by decide]

theorem modeOf_eq (c : Core) : modeOf c = c.sys.status.toNat % 4 := by
  rw [modeOf, fld_eq, Nat.pow_zero, Nat.div_one]
  rfl

/-- One bit of a word. -/
theorem fld_bit {n : Nat} (w : BitVec n) (i : Nat) : fld w i i = w.toNat / 2 ^ i % 2 := by
  rw [fld_eq, Nat.add_sub_cancel_left, Nat.pow_one]

theorem b2n_stBit (s : State) (i : Nat) : b2n (stBit s i) = s.core.sys.status.toNat / 2 ^ i % 2 := by
  rw [stBit, fld_bit, b2n]
  rcases Nat.mod_two_eq_zero_or_one (s.core.sys.status.toNat / 2 ^ i) with h | h <;> simp [h]

/-- The link word of an entry that does not come from an idle core (R226). -/
theorem toNat_linkWord (s : State) (i : Nat) : (linkWord (modeOf s.core) (stBit s i) false).toNat =
    s.core.sys.status.toNat % 4 + 4 * (s.core.sys.status.toNat / 2 ^ i % 2) := by
  rw [linkWord, modeOf_eq, b2n_stBit, BitVec.toNat_ofNat, b2n, if_neg Bool.false_ne_true]
  omega

/-- The low bits of a word cleared. -/
theorem clearLow (w : W64) (k : Nat) : (w &&& ~~~BitVec.ofNat 64 (2 ^ k - 1)) ||| 0#64 = BitVec.ofNat 64 (w.toNat / 2 ^ k * 2 ^ k) := by
  apply BitVec.eq_of_toNat_eq
  have h := toNat_low_of_other k w 0#64
  rw [BitVec.zero_and, BitVec.toNat_zero, Nat.zero_mod, Nat.add_zero] at h
  rw [h, BitVec.toNat_ofNat, Nat.mod_eq_of_lt (Nat.lt_of_le_of_lt (Nat.div_mul_le_self _ _) w.isLt)]

theorem vectorOf_eq (vec : W64) (cause : BitVec 8) : vectorOf vec cause = handlerAt vec cause.toNat := by
  rw [vectorOf, handlerAt, fld_bit, Nat.pow_zero, Nat.div_one]
  split
  next h =>
    rw [show setFld vec 12 0 0 = BitVec.ofNat 64 (vec.toNat / 2 ^ 13 * 2 ^ 13) from clearLow vec 13, BitVec.ofNat_add]
  next h =>
    rw [show setFld vec 0 0 0 = BitVec.ofNat 64 (vec.toNat / 2 ^ 1 * 2 ^ 1) from clearLow vec 1]
    apply BitVec.eq_of_toNat_eq
    rw [BitVec.toNat_ofNat]
    have := vec.isLt
    omega

/-! ### The state an entry begins in -/

/-- What an entry does first: results land, interlocked ones are delivered, the spill buffer is written (04_core R89). -/
def entryState (s : State) : State := (landLocks (landAll s)).mapSc fun c => { c with spillBusy := false }

theorem entryState_changes (s : State) : ∃ locks divUntil busy, entryState s =
    { landAll s with
      core := { (landAll s).core with
        locks := locks, divUntil := divUntil, issue := { (landAll s).core.issue with busy := busy }
        sc := { (landAll s).core.sc with spillBusy := false } } } := by
  obtain ⟨locks, divUntil, busy, h⟩ := landLocks_changes (landAll s)
  exact ⟨locks, divUntil, busy, by rw [entryState, h]; rfl⟩

theorem entryState_sc (s : State) : (entryState s).core.sc = { (landAll s).core.sc with spillBusy := false } := by
  obtain ⟨_, _, _, h⟩ := entryState_changes s
  rw [h]

@[simp] theorem entryState_sys (s : State) : (entryState s).core.sys = s.core.sys := by
  obtain ⟨_, _, _, h⟩ := entryState_changes s
  rw [h]
  exact landAll_sys s

theorem modeOf_entryState (s : State) : modeOf (entryState s).core = modeOf s.core := by
  rw [modeOf, modeOf, entryState_sys]

theorem stBit_entryState (s : State) (i : Nat) : stBit (entryState s) i = stBit s i := by
  rw [stBit, stBit, entryState_sys]

theorem windowOk_entryState {s : State} (h : WindowOk s.core.sc) : WindowOk (entryState s).core.sc := by
  rw [entryState_sc]
  obtain ⟨hb, hr, hp⟩ := h
  exact ⟨by rwa [landAll_base], by rwa [landAll_res], by rwa [landAll_wsp]⟩

theorem spillFits_entryState {s : State} (h : SpillFits s.core.sc) : SpillFits (entryState s).core.sc := by
  rw [entryState_sc]
  simpa only [SpillFits, limitOf, landAll_res, landAll_wsp, landAll_wlimit] using h

theorem spillCrosses_of_fits {s : State} (h : SpillFits s.core.sc) : spillCrosses s = false := by
  rw [spillCrosses, wspOf]
  by_cases h8 : s.core.sc.res = 8
  · have := h h8
    simp only [h8, decide_true, Bool.true_and, decide_eq_false_iff_not]
    omega
  · simp [h8]

/-! ### What an entry leaves -/

theorem windowIn_changes (s : State) : ∃ sc mem mu, windowIn s =
    { s with core := { s.core with sc := sc }, mem := mem, mu := mu } := by
  unfold windowIn
  split
  · exact ⟨_, _, _, rfl⟩
  · exact ⟨_, s.mem, s.mu, rfl⟩

/-- The state whose window an entry advances. -/
def bankEntered (s : State) (mon dbl idle : Bool) (cause : BitVec 8) (tval epc : W64) : State :=
  emptyFetch (bankIn (if mon then s.mapEv fun e => { e with monDepth := callDepth s.core.sc } else s) mon dbl idle cause tval epc)

theorem bankEntered_sc (s : State) (mon dbl idle : Bool) (cause : BitVec 8) (tval epc : W64) :
    (bankEntered s mon dbl idle cause tval epc).core.sc = s.core.sc := by
  cases mon <;> rfl

theorem bankEntered_fetch (s : State) (mon dbl idle : Bool) (cause : BitVec 8) (tval epc : W64) :
    (bankEntered s mon dbl idle cause tval epc).core.fbuf = none ∧ (bankEntered s mon dbl idle cause tval epc).core.rreg = none :=
  ⟨rfl, rfl⟩

theorem bankEntered_system (s : State) (dbl idle : Bool) (cause : BitVec 8) (tval epc : W64) :
    (bankEntered s false dbl idle cause tval epc).core.sys = { s.core.sys with
      epc := epc, cause := BitVec.ofNat 64 cause.toNat, tval := tval, slink := linkWord (modeOf s.core) (stBit s 10) idle
      status := statusInSystem s.core.sys.status } := by
  rw [← status_in_system]
  rfl

/-- The core after an entry: its bank and its window, at the handler (R231). -/
theorem enter_core (s : State) (mon dbl idle : Bool) (cause : BitVec 8) (tval epc : W64) :
    (enter s mon dbl idle cause tval epc).core =
      { (bankEntered s mon dbl idle cause tval epc).core with
        sc := (windowIn (bankEntered s mon dbl idle cause tval epc)).core.sc
        pc := vectorOf (if mon then s.core.sys.monentry else s.core.sys.tvec) cause
        run := .running, wait := none, issue := { s.core.issue with mark := .trapped } } := by
  have hopen : windowIn (emptyFetch (bankIn (if mon then s.mapEv fun e => { e with monDepth := callDepth s.core.sc } else s) mon
      dbl idle cause tval epc)) = windowIn (bankEntered s mon dbl idle cause tval epc) := rfl
  have hvec : (bankEntered s mon dbl idle cause tval epc).core.sys.monentry = s.core.sys.monentry ∧
      (bankEntered s mon dbl idle cause tval epc).core.sys.tvec = s.core.sys.tvec ∧
      (bankEntered s mon dbl idle cause tval epc).core.issue = s.core.issue := by
    cases mon <;> exact ⟨rfl, rfl, rfl⟩
  obtain ⟨sc, mem, mu, h⟩ := windowIn_changes (bankEntered s mon dbl idle cause tval epc)
  unfold enter
  dsimp only
  rw [(memoryOnly_trace _ _ _).core, hopen, h]
  dsimp only
  rw [hvec.1, hvec.2.1, hvec.2.2]

/-- Two scalar files that agree in every register and window count. -/
structure SameWindow (c c' : Scalars) : Prop where
  glob : c'.glob = c.glob
  ring : c'.ring = c.ring
  base : c'.base = c.base
  res : c'.res = c.res
  spilled : c'.spilled = c.spilled
  wsp : c'.wsp = c.wsp
  wlimit : c'.wlimit = c.wlimit

theorem SameWindow.refl (c : Scalars) : SameWindow c c := ⟨rfl, rfl, rfl, rfl, rfl, rfl, rfl⟩

theorem SameWindow.spillBusy (c : Scalars) (b : Bool) : SameWindow { c with spillBusy := b } c := ⟨rfl, rfl, rfl, rfl, rfl, rfl, rfl⟩

theorem SameWindow.rstack (c : Scalars) (l : List W64) : SameWindow c { c with rstack := l } := ⟨rfl, rfl, rfl, rfl, rfl, rfl, rfl⟩

theorem SameWindow.get {c c' : Scalars} (h : SameWindow c c') (r : Reg) : c'.get r = c.get r := by
  simp only [Scalars.get, h.glob, h.ring, h.base]

/-- A window opened reads only registers and window counts of the two states. -/
theorem WindowOpened.congr {s s' t t' : State} (h : WindowOpened s t) (hs : SameWindow s.core.sc s'.core.sc)
    (ht : SameWindow t.core.sc t'.core.sc) : WindowOpened s' t' := by
  have hx (r : Reg) : s'.x r = s.x r := hs.get r
  have hy (r : Reg) : t'.x r = t.x r := ht.get r
  obtain ⟨hg, hi, hu, hr, hsp, hp, hl⟩ := h
  constructor
  case globals => exact fun r h8 => by rw [hy, hx, hg r h8]
  case ins => exact fun r h8 h16 => by rw [hy, hx, hi r h8 h16]
  case upper => exact fun r h16 => by rw [hy, hu r h16]
  case resident => rw [ht.res, hs.res, hr]
  case spilled => rw [ht.spilled, hs.spilled, hs.res, hsp]
  case pointer => rw [ht.wsp, hs.wsp, hs.res, hp]
  case limit => rw [ht.wlimit, hs.wlimit, hl]

section Entry
variable {s : State} (hw : WindowOk s.core.sc) (hf : SpillFits s.core.sc)
include hw hf

/-- An entry opens a window over the registers as the landed results leave them. -/
theorem windowOpened_enter (mon dbl idle : Bool) (cause : BitVec 8) (tval epc : W64) :
    WindowOpened (landAll s) (enter (entryState s) mon dbl idle cause tval epc) := by
  have hsc := bankEntered_sc (entryState s) mon dbl idle cause tval epc
  have hopen : WindowOpened (bankEntered (entryState s) mon dbl idle cause tval epc)
      (windowIn (bankEntered (entryState s) mon dbl idle cause tval epc)) :=
    windowOpened_windowIn (hsc ▸ windowOk_entryState hw) (hsc ▸ spillFits_entryState hf)
  have hsame : SameWindow (bankEntered (entryState s) mon dbl idle cause tval epc).core.sc (landAll s).core.sc := by
    rw [hsc, entryState_sc]
    exact .spillBusy _ _
  refine hopen.congr hsame ?_
  rw [enter_core]
  exact .refl _

theorem inSystem_enter (cause : BitVec 8) (tval epc : W64) :
    InSystem s (enter (entryState s) false false false cause tval epc) cause.toNat tval epc := by
  have hcore := enter_core (entryState s) false false false cause tval epc
  have hsys : (enter (entryState s) false false false cause tval epc).core.sys = { s.core.sys with
      epc := epc, cause := BitVec.ofNat 64 cause.toNat, tval := tval, slink := linkWord (modeOf s.core) (stBit s 10) false
      status := statusInSystem s.core.sys.status } := by
    rw [hcore]
    dsimp only
    rw [bankEntered_system, entryState_sys, modeOf_entryState, stBit_entryState]
  obtain ⟨hfbuf, hrreg⟩ := bankEntered_fetch (entryState s) false false false cause tval epc
  have hcause := cause.isLt
  constructor
  case epc | value | status => rw [hsys]
  case code =>
    rw [hsys, BitVec.toNat_ofNat]
    omega
  case link =>
    rw [hsys]
    dsimp only
    exact toNat_linkWord s 10
  case pc => rw [hcore, if_neg Bool.false_ne_true, entryState_sys, vectorOf_eq]
  case runs =>
    rw [hcore]
    exact ⟨rfl, rfl⟩
  case fetch =>
    rw [hcore]
    exact ⟨hfbuf, hrreg⟩
  case monitor =>
    rw [hsys]
    exact ⟨rfl, rfl, rfl, rfl⟩
  case window => exact windowOpened_enter hw hf false false false cause tval epc

theorem inSystem_takeInto (cause : BitVec 8) (tval epc : W64) :
    InSystem s (takeInto s .system false cause tval epc) cause.toNat tval epc := by
  have : takeInto s .system false cause tval epc = enter (entryState s) false false false cause tval epc :=
    if_neg (ne_true_of_eq_false (spillCrosses_of_fits (spillFits_entryState hf)))
  rw [this]
  exact inSystem_enter hw hf cause tval epc

end Entry

/-! ### A trap at an instruction -/

theorem withdrawWait_of_awake {s : State} (h : s.core.wait = none) : withdrawWait s = s := by
  unfold withdrawWait
  rw [h]
  dsimp only
  rw [← h]

/-- A trap of a core that waits for nothing and is in no pair goes to its bank, at the instruction (R230, R232). -/
theorem takeSync_eq {s : State} (hp : Plain s) {cause : BitVec 8} (hc : cause ≠ 0x0D ∧ cause ≠ 0x0E) (tval : W64) :
    takeSync s cause tval = takeInto s (routeSync s cause) false cause tval s.core.pc := by
  have hidle : (s.core.run == .idle) = false := beq_false_of_ne hp.busy
  have hpair : pairTraps s = (none, s) := by
    unfold pairTraps
    rw [hp.unpaired]
  unfold takeSync
  rw [withdrawWait_of_awake hp.awake]
  dsimp only
  rw [hpair, hidle]
  dsimp only
  rw [if_neg Bool.false_ne_true, if_neg (not_or.2 hc)]

theorem routeSync_task {s : State} (h : modeOf s.core = 0) (cause : BitVec 8) : routeSync s cause = .system := by
  simp only [routeSync, h]

/-- A trap in task mode goes to the system bank. -/
theorem inSystem_takeSync {s : State} (hp : Plain s) (hf : SpillFits s.core.sc) (hm : modeOf s.core = 0) {cause : BitVec 8}
    (hc : cause ≠ 0x0D ∧ cause ≠ 0x0E) (tval : W64) :
    InSystem s (takeSync s cause tval) cause.toNat tval s.core.pc := by
  rw [takeSync_eq hp hc, routeSync_task hm]
  exact inSystem_takeInto hp.window hf cause tval s.core.pc

end Sys2Proof.Machine

/-! CALL and RET: the window opened, the bytes of the oldest one, the window closed or reloaded (04_core R84 to R86, R102). -/
namespace Sys2Proof.Machine

/-! ### Bytes of a stored window -/

theorem length_bytesOf (v k : Nat) : (bytesOf v k).length = k := by
  induction k generalizing v with
  | zero => rfl
  | succ k ih => rw [bytesOf, List.length_cons, ih]

theorem ofBytes_bytesOf (v k : Nat) : ofBytes (bytesOf v k) = v % 256 ^ k := by
  induction k generalizing v with
  | zero => rw [bytesOf, ofBytes, Nat.pow_zero, Nat.mod_one]
  | succ k ih =>
    rw [bytesOf, ofBytes, ih, BitVec.toNat_ofNat]
    change v % 256 + 256 * (v / 256 % 256 ^ k) = _
    rw [Nat.pow_succ', Nat.mod_mul]

theorem wordOf_bytesOf (w : W64) : wordOf (bytesOf w.toNat 8) = w := by
  apply BitVec.eq_of_toNat_eq
  rw [wordOf, ofBytes_bytesOf, BitVec.toNat_ofNat]
  have := w.isLt
  omega

/-- Part of the bytes read is the bytes of the part. -/
theorem mread_part (m : List (Nat × Byte)) (a i n k : Nat) (h : i + n ≤ k) :
    mread m (a + i) n = ((mread m a k).drop i).take n := by
  induction i generalizing a k with
  | zero =>
    rw [List.drop_zero, Nat.add_zero]
    induction n generalizing a k with
    | zero => rfl
    | succ n ih =>
      cases k with
      | zero => omega
      | succ k => rw [mread, mread, List.take_succ_cons, ih (a + 1) k (by omega)]
  | succ i ih =>
    cases k with
    | zero => omega
    | succ k => rw [mread, List.drop_succ_cons, ← ih (a + 1) k (by omega), Nat.add_assoc, Nat.add_comm 1]

theorem flatMap_part {α β : Type} (f : α → List β) (n : Nat) (hf : ∀ x, (f x).length = n) (l : List α) (k : Nat)
    (hk : k < l.length) : ((l.flatMap f).drop (n * k)).take n = f l[k] := by
  induction l generalizing k with
  | nil => exact absurd hk (Nat.not_lt_zero k)
  | cons x l ih =>
    rw [List.flatMap_cons]
    cases k with
    | zero => rw [Nat.mul_zero, List.drop_zero, List.take_left' (hf x)]; rfl
    | succ k =>
      rw [Nat.mul_succ, Nat.add_comm, ← List.drop_drop, List.drop_left' (hf x)]
      exact ih k (Nat.lt_of_succ_lt_succ hk)

theorem length_windowBytes (c : Scalars) (b : Nat) : (c.windowBytes b).length = 128 := by
  rw [Scalars.windowBytes, List.length_flatMap]
  simp [length_bytesOf]

theorem windowBytes_part (c : Scalars) (b : Nat) {k : Nat} (hk : k < 16) :
    ((c.windowBytes b).drop (8 * k)).take 8 = bytesOf (tgetD c.ring ((b + k) % 136) 0).toNat 8 := by
  rw [Scalars.windowBytes, flatMap_part _ 8 (fun _ => length_bytesOf _ 8) _ _ (by simpa using hk), List.getElem_range]

/-- Word `k` of the bytes that a spill lays. -/
theorem wordOf_spilled (m : List (Nat × Byte)) (c : Scalars) (key b : Nat) {k : Nat} (hk : k < 16) :
    wordOf (mread (mputs m (cellsAt key (c.windowBytes b))) (key + 8 * k) 8) = tgetD c.ring ((b + k) % 136) 0 := by
  have hall := mread_mputs_cellsAt m key (c.windowBytes b)
  rw [length_windowBytes] at hall
  rw [mread_part _ _ _ _ 128 (by omega), hall, windowBytes_part c b hk, wordOf_bytesOf]

/-! ### The spill (R85) -/

theorem spill_mem (u : State) : (spill u).mem =
    mputs u.mem (cellsAt (localKey u.core.num ((wspOf u.core.sc + 0x20000 - 128) % 0x20000 % 65536))
      (u.core.sc.windowBytes u.core.sc.oldest)) := by
  simp only [spill, mapSc_mem, rawWrite]

theorem windowIn_mem_room {u : State} (h : u.core.sc.res ≠ 8) : (windowIn u).mem = u.mem := by
  rw [windowIn, if_neg h, mapSc_mem, mapSc_mem]

/-- The oldest of eight windows stands in the 128 bytes below WSP. -/
theorem windowIn_mem_full {u : State} (h : u.core.sc.res = 8) (hw : WindowOk u.core.sc) (h128 : 128 ≤ u.core.sc.wsp.toNat) :
    (windowIn u).mem = mputs u.mem (cellsAt (localKey u.core.num (u.core.sc.wsp.toNat - 128))
      (u.core.sc.windowBytes ((u.core.sc.base + 24) % 136))) := by
  have hoff : (wspOf u.core.sc + 0x20000 - 128) % 0x20000 % 65536 = u.core.sc.wsp.toNat - 128 := by
    have := hw.pointer.1
    rw [wspOf]
    omega
  have hold : u.core.sc.oldest = (u.core.sc.base + 24) % 136 := by
    rw [Scalars.oldest, h]
    omega
  rw [windowIn, if_pos h, mapSc_mem, spill_mem, hoff, hold]

/-- x31 is no part of the oldest of eight windows. -/
theorem ring_rawX_31 (s : State) (w : W64) {k : Nat} (hk : k < 16) :
    tgetD (rawX s 31 w).core.sc.ring ((s.core.sc.base + 24 + k) % 136) 0 = tgetD s.core.sc.ring ((s.core.sc.base + 24 + k) % 136) 0 := by
  have : ringIx s.core.sc.base 31 ≠ (s.core.sc.base + 24 + k) % 136 := by
    rw [ringIx]
    omega
  exact tgetD_tputD_ne 0 _ w (Ne.symm this)

/-! ### CALL and CALLR (R102) -/

theorem branch_taken {s : State} (h : NoTrace s) (predicted : Bool) (target : W64) :
    ∃ n, branch s true predicted target = addBusy (setNpc s target) n := by
  refine ⟨if !predicted then 4 else if inBuffer s target then 1 else 3, ?_⟩
  rw [branch, if_pos rfl]
  dsimp only
  rw [trace_of_noTrace]
  exact h

/-- What a taken branch leaves: the core but for its next pc and the cycles it takes, the other cores and the engines. -/
theorem branch_taken_core (s : State) (predicted : Bool) (target : W64) : ∃ busy,
    (branch s true predicted target).core = { s.core with issue := { s.core.issue with npc := target, busy := busy } } := by
  rw [branch, if_pos rfl]
  exact ⟨_, (memoryOnly_trace _ _ _).core⟩

theorem memoryOnly_branch_taken (s : State) (predicted : Bool) (target : W64) : ∃ n,
    MemoryOnly (addBusy (setNpc s target) n) (branch s true predicted target) := by
  rw [branch, if_pos rfl]
  exact ⟨_, memoryOnly_trace _ _ _⟩

/-- The state whose window a call opens: results landed, the return address in x31. -/
def callerReady (s : State) : State := rawX (landAll s) 31 s.core.issue.npc

/-- The state in which a call jumps: its window open, the return address on the return stack. -/
def calleeReady (s : State) : State :=
  (windowIn (callerReady s)).mapSc fun c => { c with rstack := (s.core.issue.npc :: c.rstack).take 8 }

theorem calleeReady_sc (s : State) : (calleeReady s).core.sc =
    { (windowIn (callerReady s)).core.sc with rstack := (s.core.issue.npc :: (windowIn (callerReady s)).core.sc.rstack).take 8 } :=
  mapSc_core_sc _ _

theorem calleeReady_mem (s : State) : (calleeReady s).mem = (windowIn (callerReady s)).mem := mapSc_mem _ _

theorem calleeReady_sys (s : State) : (calleeReady s).core.sys = s.core.sys := by
  obtain ⟨sc, mem, mu, hin⟩ := windowIn_changes (callerReady s)
  rw [calleeReady, mapSc_core_sys, hin]
  exact landAll_sys s

section Call
variable {s : State} (hf : SpillFits s.core.sc) (hb : s.core.sc.res = 8 → s.core.sc.spillBusy = false)
include hf hb

theorem callEff_eq (target : W64) (predicted : Bool) :
    callEff s target predicted = .ok (branch (calleeReady s) true predicted target) := by
  have hcross : spillCrosses (landAll s) = false :=
    spillCrosses_of_fits (by simpa only [SpillFits, limitOf, landAll_res, landAll_wsp, landAll_wlimit] using hf)
  have hbusy : ¬ ((landAll s).core.sc.res = 8 ∧ (landAll s).core.sc.spillBusy = true) := by
    rw [landAll_res, landAll_spillBusy]
    exact fun h => absurd (hb h.1) (ne_false_of_eq_true h.2)
  unfold callEff
  dsimp only
  rw [if_neg (ne_true_of_eq_false hcross), if_neg hbusy, landAll_npc]
  rfl

/-- A call with an even target ends in the jump from its open window. -/
theorem exec_of_callTarget {i : Instr} {target : W64} (h : callTarget s i = some target)
    (heven : ∀ a, i = .callr a → target.toNat % 2 = 0) :
    ∃ predicted, exec i s = .next (retire (branch (calleeReady s) true predicted target)) := by
  cases i <;> cases h
  case call imm => exact ⟨true, congrArg (finish s) (callEff_eq hf hb _ true)⟩
  case callShort imm => exact ⟨true, congrArg (finish s) (callEff_eq hf hb _ true)⟩
  case callr a =>
    have h0 : fld ((landAll s).x a) 0 0 ≠ 1 := by
      rw [fld_bit, Nat.pow_zero, Nat.div_one, heven a rfl]
      decide
    refine ⟨false, ?_⟩
    change finish s (if fld ((landAll s).x a) 0 0 = 1 then _ else _) = _
    rw [if_neg h0, callEff_eq hf hb]
    rfl

end Call

theorem callerReady_keeps (s : State) : (callerReady s).core.sc.base = s.core.sc.base ∧ (callerReady s).core.sc.res = s.core.sc.res ∧
    (callerReady s).core.sc.wsp = s.core.sc.wsp ∧ (callerReady s).core.sc.wlimit = s.core.sc.wlimit := by
  have hsc : (callerReady s).core.sc = (landAll s).core.sc.set 31 s.core.issue.npc := rfl
  rw [hsc, set_base, set_res, set_wsp, set_wlimit]
  exact ⟨landAll_base s, landAll_res s, landAll_wsp s, landAll_wlimit s⟩

theorem windowOk_callerReady {s : State} (h : WindowOk s.core.sc) : WindowOk (callerReady s).core.sc := by
  obtain ⟨hb, hr, hw, -⟩ := callerReady_keeps s
  exact ⟨hb ▸ h.base, hr ▸ h.resident, hw ▸ h.pointer⟩

theorem spillFits_callerReady {s : State} (h : SpillFits s.core.sc) : SpillFits (callerReady s).core.sc := by
  obtain ⟨-, hr, hw, hl⟩ := callerReady_keeps s
  simpa only [SpillFits, limitOf, hr, hw, hl] using h

/-- The window a call opens. -/
theorem windowOpened_call {s : State} (hw : WindowOk s.core.sc) (hf : SpillFits s.core.sc) (predicted : Bool) (target : W64) :
    WindowOpened (callerReady s) (retire (branch (calleeReady s) true predicted target)) := by
  refine (windowOpened_windowIn (windowOk_callerReady hw) (spillFits_callerReady hf)).congr (.refl _) ?_
  obtain ⟨busy, h⟩ := branch_taken_core (calleeReady s) predicted target
  rw [retire_core_sc, h]
  dsimp only
  rw [calleeReady_sc]
  exact .rstack _ _

theorem noTrace_calleeReady {s : State} (h : NoTrace s) : NoTrace (calleeReady s) := by
  obtain ⟨sc, mem, mu, hin⟩ := windowIn_changes (callerReady s)
  have hdbg : (calleeReady s).out = s.out ∧ (calleeReady s).core.pos = s.core.pos := by
    rw [calleeReady, hin]
    exact ⟨landAll_out s, landAll_pos s⟩
  rw [NoTrace, getDbg, hdbg.1, hdbg.2]
  exact h

/-- Settles O6: the call jumps from the window it has opened, and of eight windows the bytes of the oldest stand below WSP. -/
theorem callOpensWindow : Obligations.CallOpensWindow := by
  unfold Obligations.CallOpensWindow
  intro i target s h heven hp hf hb htrace
  obtain ⟨predicted, hexec⟩ := exec_of_callTarget hf hb h heven
  obtain ⟨n, hbranch⟩ := branch_taken (noTrace_calleeReady htrace) predicted target
  have hopen := windowOpened_call hp.window hf predicted target
  obtain ⟨sc, mem, mu, hin⟩ := windowIn_changes (callerReady s)
  obtain ⟨hbase, hres, hwsp, hlimit⟩ := callerReady_keeps s
  rw [hbranch] at hexec hopen
  have hmem : (retire (addBusy (setNpc (calleeReady s) target) n)).mem = (windowIn (callerReady s)).mem := by
    rw [retire_mem, addBusy_mem, setNpc_mem, calleeReady_mem]
  refine ⟨retire (addBusy (setNpc (calleeReady s) target) n), hexec, ?_, hopen, ?_, fun h8 a => ?_, fun h8 => ?_⟩
  · rw [retire_core_pc, addBusy_core_issue, setNpc_core_issue]
  · rw [retire_core_sys, addBusy_core_sys, setNpc_core_sys, calleeReady_sys]
  · rw [hmem, windowIn_mem_room (by omega)]
    exact congrArg (mget · a) (landAll_mem s)
  · have h128 : 128 ≤ s.core.sc.wsp.toNat := Nat.le_trans (Nat.le_add_left _ _) (hf h8)
    have hstored := windowIn_mem_full (hres.trans h8) (windowOk_callerReady hp.window) (hwsp ▸ h128)
    rw [hwsp, hbase, show (callerReady s).core.num = s.core.num from landAll_num s,
      show (callerReady s).mem = s.mem from landAll_mem s] at hstored
    refine ⟨fun k hk => ?_, fun a ha => ?_⟩
    · rw [hmem, hstored, landAll_num, landAll_wsp, landAll_base,
        show localKey s.core.num (s.core.sc.wsp.toNat - 128 + 8 * k) = localKey s.core.num (s.core.sc.wsp.toNat - 128) + 8 * k
          from (Nat.add_assoc _ _ _).symm, wordOf_spilled _ _ _ _ hk]
      have := ring_rawX_31 (landAll s) s.core.issue.npc hk
      rw [landAll_base] at this
      rw [callerReady, Nat.mod_add_mod, this]
    · rw [hmem, hstored]
      exact mget_mputs_cellsAt_out _ _ _ _ (by rw [length_windowBytes]; exact ha)

/-! ### A window closed or reloaded (R84 to R86) -/

/-- Word `i` of a stored window in ring places from `b` on, other places as they were. -/
theorem ring_loadWindow (c : Scalars) (b : Nat) (l : List Byte) (j : Nat) :
    (∀ k, k < 16 → j = (b + k) % 136 → tgetD (c.loadWindow b l).ring j 0 = wordOf ((l.drop (8 * k)).take 8)) ∧
      ((∀ k, k < 16 → j ≠ (b + k) % 136) → tgetD (c.loadWindow b l).ring j 0 = tgetD c.ring j 0) := by
  suffices h : ∀ n, n ≤ 16 →
      (∀ k, k < n → j = (b + k) % 136 → tgetD ((List.range n).foldl (fun c i =>
        { c with ring := tputD 0 c.ring ((b + i) % 136) (wordOf ((l.drop (8 * i)).take 8)) }) c).ring j 0 =
          wordOf ((l.drop (8 * k)).take 8)) ∧
      ((∀ k, k < n → j ≠ (b + k) % 136) → tgetD ((List.range n).foldl (fun c i =>
        { c with ring := tputD 0 c.ring ((b + i) % 136) (wordOf ((l.drop (8 * i)).take 8)) }) c).ring j 0 = tgetD c.ring j 0) from
    h 16 (Nat.le_refl _)
  intro n hn
  induction n with
  | zero => exact ⟨fun k hk => absurd hk (Nat.not_lt_zero k), fun _ => rfl⟩
  | succ n ih =>
    obtain ⟨hin, hout⟩ := ih (by omega)
    rw [List.range_succ, List.foldl_append]
    refine ⟨fun k hk hj => ?_, fun hj => ?_⟩
    · by_cases e : k = n
      · subst e
        rw [hj]
        exact tgetD_tputD_self 0 _ _ _
      · exact (tgetD_tputD_ne 0 _ _ (by omega)).trans (hin k (by omega) hj)
    · exact (tgetD_tputD_ne 0 _ _ (hj n (by omega))).trans (hout fun k hk => hj k (by omega))

theorem loadWindow_changes (c : Scalars) (b : Nat) (l : List Byte) : ∃ ring, c.loadWindow b l = { c with ring := ring } := by
  rw [Scalars.loadWindow]
  generalize List.range 16 = is
  induction is generalizing c with
  | nil => exact ⟨c.ring, rfl⟩
  | cons i is ih =>
    obtain ⟨ring, h⟩ := ih { c with ring := tputD 0 c.ring ((b + i) % 136) (wordOf ((l.drop (8 * i)).take 8)) }
    exact ⟨ring, by rw [List.foldl_cons, h]⟩

/-- The scalar file of a window that moves back to a resident one. -/
theorem windowOut_sc_resident {s : State} (h : 1 < s.core.sc.res) :
    (windowOut s).core.sc = { s.core.sc.back with res := s.core.sc.res - 1 } := by
  rw [windowOut, if_pos h, mapSc_core_sc]

/-- The scalar file of a window reloaded from WSP. -/
theorem windowOut_sc_stored {s : State} (h : ¬ 1 < s.core.sc.res) : (windowOut s).core.sc =
    { s.core.sc.back.loadWindow s.core.sc.back.base (mread s.mem (localKey s.core.num (wspOf s.core.sc % 65536)) 128) with
      wsp := BitVec.ofNat 64 ((wspOf s.core.sc + 128) % 0x20000), spilled := s.core.sc.spilled - 1 } := by
  rw [windowOut, if_neg h, addBusy_core_sc, mapSc_core_sc]

theorem addBusy_mapSc (s : State) (f : Scalars → Scalars) (n : Nat) : addBusy (s.mapSc f) n =
    { s with core := { s.core with sc := f s.core.sc, issue := { s.core.issue with busy := s.core.issue.busy + n } } } := rfl

/-- A window that moves back changes the scalar file and the cycles the instruction takes. -/
theorem windowOut_changes (s : State) : ∃ sc busy, windowOut s =
    { s with core := { s.core with sc := sc, issue := { s.core.issue with busy := busy } } } := by
  unfold windowOut
  dsimp only
  split
  · exact ⟨_, s.core.issue.busy, rfl⟩
  · exact ⟨_, _, addBusy_mapSc _ _ _⟩

/-- A register of the window before, by its place in the ring. -/
theorem get_of_ge_eight (c : Scalars) {r : Reg} (h : 8 ≤ r.toNat) : c.get r = tgetD c.ring (ringIx c.base r.toNat) 0 := by
  have h0 : r ≠ 0 := fun e => by rw [e] at h; exact absurd h (by decide)
  rw [Scalars.get, if_neg h0, if_neg (by omega)]

theorem get_of_lt_eight (c c' : Scalars) (hg : c'.glob = c.glob) {r : Reg} (h : r.toNat < 8) : c'.get r = c.get r := by
  simp only [Scalars.get, h, if_true, hg]

theorem toNat_sub_sixteen {r : Reg} (h : 16 ≤ r.toNat) : (r - 16).toNat = r.toNat - 16 := by
  have := r.isLt
  rw [BitVec.toNat_sub]
  change (32 - 16 + r.toNat) % 32 = _
  omega

/-- The ins of the callee are the outs of the caller (R84). -/
theorem ringIx_back {base r : Nat} (h : 24 ≤ r) : ringIx ((base + 120) % 136) r = ringIx base (r - 16) := by
  simp only [ringIx]
  omega

/-- A register of the caller, read in the file of a window that has moved back. -/
theorem get_windowOut {s : State} {c : Scalars} (hglob : c.glob = s.core.sc.glob) (hbase : c.base = (s.core.sc.base + 120) % 136)
    (hring : ∀ q, 24 ≤ q → q < 32 → tgetD c.ring ((s.core.sc.base + q + 112) % 136) 0 =
      tgetD s.core.sc.ring ((s.core.sc.base + q + 112) % 136) 0) :
    (∀ r : Reg, r.toNat < 8 → c.get r = s.x r) ∧ (∀ r : Reg, 24 ≤ r.toNat → c.get r = s.x (r - 16)) := by
  refine ⟨fun r h8 => get_of_lt_eight _ _ hglob h8, fun r h24 => ?_⟩
  have hr := toNat_sub_sixteen (r := r) (by omega)
  rw [State.x, get_of_ge_eight _ (by omega), get_of_ge_eight _ (by omega), hbase, hr, ringIx_back h24]
  have hix : ringIx s.core.sc.base (r.toNat - 16) = (s.core.sc.base + r.toNat + 112) % 136 := by
    rw [ringIx]
    omega
  rw [hix, hring _ h24 r.isLt]

section Close
variable {s : State}

/-- One of several resident windows closes: the caller's registers stand in the ring. -/
theorem windowClosed_resident (h : 1 < s.core.sc.res) :
    WindowClosed s (windowOut (landAll s)) ∧ ∀ r : Reg, r.toNat < 8 → (windowOut (landAll s)).x r = (landAll s).x r := by
  have hsc := windowOut_sc_resident (s := landAll s) (by rwa [landAll_res])
  obtain ⟨hglob, hout⟩ := get_windowOut (s := landAll s) (c := (windowOut (landAll s)).core.sc) (by rw [hsc]; rfl)
    (by rw [hsc]; rfl) (fun q _ _ => by rw [hsc]; rfl)
  refine ⟨?_, hglob⟩
  constructor
  case outs => exact hout
  case resident => rw [hsc, if_pos h, landAll_res]
  case spilled => rw [hsc, if_pos h]; exact landAll_spilled s
  case pointer => rw [hsc, if_pos h]; exact congrArg BitVec.toNat (landAll_wsp s)
  case inner =>
    intro r h8 h24
    rw [if_pos h, State.x, get_of_ge_eight _ h8, hsc]
    change tgetD (landAll s).core.sc.ring (ringIx (((landAll s).core.sc.base + 120) % 136) r.toNat) 0 = _
    rw [landAll_base, ringIx, Nat.mod_add_mod]

/-- The one resident window closes: the caller's registers are read from WSP. -/
theorem windowClosed_stored (hw : WindowOk s.core.sc) (h : ¬ 1 < s.core.sc.res) (hoff : s.core.sc.wsp.toNat < 0x10000) :
    WindowClosed s (windowOut (landAll s)) ∧ ∀ r : Reg, r.toNat < 8 → (windowOut (landAll s)).x r = (landAll s).x r := by
  have hsc := windowOut_sc_stored (s := landAll s) (by rwa [landAll_res])
  have hkey : wspOf (landAll s).core.sc % 65536 = s.core.sc.wsp.toNat := by
    rw [wspOf, landAll_wsp]
    omega
  rw [hkey, landAll_num, landAll_mem] at hsc
  generalize hl : mread s.mem (localKey s.core.num s.core.sc.wsp.toNat) 128 = l at hsc
  have hres := hw.resident.1
  obtain ⟨ring, hload⟩ := loadWindow_changes (landAll s).core.sc.back (landAll s).core.sc.back.base l
  have hring := ring_loadWindow (landAll s).core.sc.back (landAll s).core.sc.back.base l
  rw [hload] at hsc hring
  have hb : (landAll s).core.sc.back.base = (s.core.sc.base + 120) % 136 := by rw [Scalars.back, landAll_base]
  rw [hb] at hring
  obtain ⟨hglob, hout⟩ := get_windowOut (s := landAll s) (c := (windowOut (landAll s)).core.sc) (by rw [hsc]; rfl)
    (by rw [hsc]; rfl) (fun q h24 h32 => by
      rw [hsc, landAll_base]
      exact (hring _).2 fun k hk => by omega)
  refine ⟨?_, hglob⟩
  constructor
  case outs => exact hout
  case resident =>
    rw [hsc, if_neg h]
    change (landAll s).core.sc.res = 1
    rw [landAll_res]
    omega
  case spilled =>
    rw [hsc, if_neg h, landAll_spilled]
  case pointer =>
    rw [hsc, if_neg h, wspOf, landAll_wsp, BitVec.toNat_ofNat]
    omega
  case inner =>
    intro r h8 h24
    rw [if_neg h, State.x, get_of_ge_eight _ h8, hsc]
    change tgetD ring (ringIx (landAll s).core.sc.back.base r.toNat) 0 = _
    rw [hb]
    have hword := (hring (ringIx ((s.core.sc.base + 120) % 136) r.toNat)).1 (r.toNat - 8) (by omega) rfl
    refine hword.trans ?_
    rw [← hl, ← mread_part _ _ _ _ _ (by omega), localKey, localKey, Nat.add_assoc]

theorem windowClosed_windowOut (hw : WindowOk s.core.sc) (hb : WindowBelow s) :
    WindowClosed s (windowOut (landAll s)) ∧ ∀ r : Reg, r.toNat < 8 → (windowOut (landAll s)).x r = (landAll s).x r := by
  by_cases h : 1 < s.core.sc.res
  · exact windowClosed_resident h
  · obtain ⟨-, -, hoff, -⟩ := hb.resolve_left h
    exact windowClosed_stored hw h hoff

/-- No line of the window stored below is poisoned (R86). -/
theorem reloadPoison_none (hb : WindowBelow s) : (if (landAll s).core.sc.res = 1 then reloadPoison (landAll s) else none) = none := by
  split
  next h =>
    rw [landAll_res] at h
    obtain ⟨-, -, hoff, hclean⟩ := hb.resolve_left (by omega)
    have hkey : wspOf (landAll s).core.sc % 65536 = s.core.sc.wsp.toNat := by
      rw [wspOf, landAll_wsp]
      omega
    have hpoison (k : Nat) : isPoisoned (landAll s) k = isPoisoned s k := by rw [isPoisoned, landAll_mu, isPoisoned]
    have h0 := hclean 0 (by decide)
    have h64 := hclean 64 (by decide)
    rw [Nat.add_zero] at h0
    rw [localKey, ← Nat.add_assoc] at h64
    unfold reloadPoison
    dsimp only
    rw [hkey, landAll_num, hpoison, hpoison, h0, localKey, h64]
    rfl
  next => rfl

/-- There is a window to move back to, so no call-depth trap. -/
theorem not_empty_of_below (hb : WindowBelow s) : ¬ ((landAll s).core.sc.res = 1 ∧ (landAll s).core.sc.spilled = 0) := by
  rw [landAll_res, landAll_spilled]
  rcases hb with h | ⟨-, h, -⟩ <;> omega

end Close

end Sys2Proof.Machine

/-! RET, and RET directly after CALL (04_core R84, R85, R102). -/
namespace Sys2Proof.Machine

/-! ### The state in which a return jumps -/

/-- The state in which a return jumps: its window moved back, its address off the return stack, the user handler it ends left. -/
def returnReady (s : State) : State :=
  let u := (windowOut s).mapSc fun c => { c with rstack := c.rstack.drop 1 }
  if uin u && callDepth u.core.sc == u.core.ev.uinDepth then
    (u.mapSys fun r => { r with status := setBit r.status 6 false }).mapEv fun e => reloadBack e 0
  else u

theorem returnReady_sc (s : State) : (returnReady s).core.sc =
    { (windowOut s).core.sc with rstack := (windowOut s).core.sc.rstack.drop 1 } := by
  unfold returnReady
  dsimp only
  split
  · rw [mapEv_core_sc, mapSys_core_sc, mapSc_core_sc]
  · rw [mapSc_core_sc]

theorem sameWindow_returnReady (s : State) : SameWindow (windowOut s).core.sc (returnReady s).core.sc := by
  rw [returnReady_sc]
  exact .rstack _ _

/-- What a return leaves as it was: the vector registers, the engines and the core's place. -/
theorem returnReady_keeps (s : State) : (returnReady s).core.vec = s.core.vec ∧ (returnReady s).core.pos = s.core.pos ∧
    (returnReady s).un = s.un := by
  obtain ⟨sc, busy, h⟩ := windowOut_changes s
  unfold returnReady
  dsimp only
  split
  · rw [h]
    exact ⟨rfl, rfl, rfl⟩
  · rw [h]
    exact ⟨rfl, rfl, rfl⟩

theorem vget_congr {s t : State} (hv : t.core.vec = s.core.vec) (hp : t.core.pos = s.core.pos) (hu : t.un = s.un) (r : Reg) :
    t.v r = s.v r := by
  simp only [State.v, vget, hv, hp, hu]

theorem keepsV_returned (s : State) (hit : Bool) (target : W64) : KeepsV s (retire (branch (returnReady s) true hit target)) [] := by
  intro r _
  obtain ⟨hvec, hpos, hun⟩ := returnReady_keeps s
  obtain ⟨busy, hcore⟩ := branch_taken_core (returnReady s) hit target
  obtain ⟨n, hmem⟩ := memoryOnly_branch_taken (returnReady s) hit target
  rw [retire_v]
  refine vget_congr ?_ ?_ (hmem.un.trans hun) r
  · rw [hcore]
    exact hvec
  · rw [hcore]
    exact hpos

/-- The window a return leaves is the one the move back gives. -/
theorem sameWindow_returned (s : State) (hit : Bool) (target : W64) :
    SameWindow (windowOut s).core.sc (retire (branch (returnReady s) true hit target)).core.sc := by
  obtain ⟨busy, hcore⟩ := branch_taken_core (returnReady s) hit target
  rw [retire_core_sc, hcore]
  exact sameWindow_returnReady s

theorem returned_pc (s : State) (hit : Bool) (target : W64) :
    (retire (branch (returnReady s) true hit target)).core.pc = target := by
  obtain ⟨busy, hcore⟩ := branch_taken_core (returnReady s) hit target
  rw [retire_core_pc, hcore]

/-! ### RET -/

/-- A return with a window to move back to and an even address jumps there. -/
theorem retEff_eq {s : State} (hne : ¬ ((landAll s).core.sc.res = 1 ∧ (landAll s).core.sc.spilled = 0))
    (heven : ((landAll s).x 15).toNat % 2 = 0)
    (hclean : (if (landAll s).core.sc.res = 1 then reloadPoison (landAll s) else none) = none) :
    ∃ hit, retEff s = .ok (branch (returnReady (landAll s)) true hit ((landAll s).x 15)) := by
  have hbit : ¬ fld ((landAll s).x 15) 0 0 = 1 := by
    rw [fld_bit]
    omega
  refine ⟨(landAll s).core.sc.rstack.head? == some ((landAll s).x 15), ?_⟩
  unfold retEff
  dsimp only
  rw [if_neg hne, if_neg hbit, hclean]
  rfl

theorem WindowClosed.congr {s t t' : State} (h : WindowClosed s t) (ht : SameWindow t.core.sc t'.core.sc) : WindowClosed s t' := by
  have hx (r : Reg) : t'.x r = t.x r := ht.get r
  obtain ⟨ho, hr, hs, hp, hi⟩ := h
  constructor
  case outs => exact fun r h24 => by rw [hx, ho r h24]
  case resident => rw [ht.res, hr]
  case spilled => rw [ht.spilled, hs]
  case pointer => rw [ht.wsp, hp]
  case inner => exact fun r h8 h24 => by rw [hx, hi r h8 h24]

/-- Settles O7: the return jumps from the window that has moved back. -/
theorem returnClosesOrReloadsWindow : Obligations.ReturnClosesOrReloadsWindow := by
  unfold Obligations.ReturnClosesOrReloadsWindow
  intro i s hi hp hb heven
  obtain ⟨hit, heff⟩ := retEff_eq (not_empty_of_below hb) heven (reloadPoison_none hb)
  have hexec : exec i s = finish s (retEff s) := by rcases hi with rfl | rfl <;> rfl
  obtain ⟨hclosed, hglob⟩ := windowClosed_windowOut hp.window hb
  have hsame := sameWindow_returned (landAll s) hit ((landAll s).x 15)
  exact ⟨_, by rw [hexec, heff]; rfl, returned_pc _ _ _, hclosed.congr hsame,
    fun r h8 => (hsame.get r).trans (hglob r h8), keepsV_returned _ _ _⟩

/-! ### RET directly after CALL -/

theorem ring_foldl_set (l : List Nat) (c : Scalars) {j : Nat} (hl : ∀ i ∈ l, i < 16)
    (hj : ∀ q, 16 ≤ q → q < 32 → j ≠ ringIx c.base q) :
    tgetD (l.foldl (fun c i => c.set (BitVec.ofNat 5 (16 + i)) 0) c).ring j 0 = tgetD c.ring j 0 := by
  induction l generalizing c with
  | nil => rfl
  | cons i l ih =>
    have hi := hl i List.mem_cons_self
    have hq : (BitVec.ofNat 5 (16 + i)).toNat = 16 + i := by rw [BitVec.toNat_ofNat]; omega
    have h0 : BitVec.ofNat 5 (16 + i) ≠ 0 := fun e => by rw [e] at hq; exact absurd hq (by change 0 ≠ 16 + i; omega)
    have hset : (c.set (BitVec.ofNat 5 (16 + i)) 0).ring = tputD 0 c.ring (ringIx c.base (16 + i)) 0 := by
      rw [Scalars.set, if_neg h0, hq, if_neg (by omega)]
    rw [List.foldl_cons, ih _ (fun k hk => hl k (List.mem_cons_of_mem _ hk)) (by rwa [set_base]), hset]
    exact tgetD_tputD_ne 0 _ _ (hj _ (by omega) (by omega))

/-- The locals and ins of the caller stand in the ring while the callee's window is open (R84). -/
theorem ring_advance (c : Scalars) {r : Nat} (h8 : 8 ≤ r) (h24 : r < 24) :
    tgetD c.advance.ring (ringIx c.base r) 0 = tgetD c.ring (ringIx c.base r) 0 := by
  rw [Scalars.advance, Scalars.clearUpper, ring_foldl_set]
  · exact fun i hi => List.mem_range.1 hi
  · intro q h16 h32
    simp only [ringIx]
    omega

theorem advance_base (c : Scalars) : c.advance.base = (c.base + 16) % 136 := by
  obtain ⟨_, _, h⟩ := advance_changes c
  rw [h]

/-- The window opened reads the ring of before one window further on. -/
theorem ring_windowIn (u : State) : (windowIn u).core.sc.base = (u.core.sc.base + 16) % 136 ∧ ∀ r, 8 ≤ r → r < 24 →
    tgetD (windowIn u).core.sc.ring (ringIx u.core.sc.base r) 0 = tgetD u.core.sc.ring (ringIx u.core.sc.base r) 0 := by
  by_cases h : u.core.sc.res = 8
  · rw [windowIn_sc_full h]
    exact ⟨advance_base _, fun r h8 h24 => ring_advance _ h8 h24⟩
  · rw [windowIn_sc_room h]
    exact ⟨advance_base _, fun r h8 h24 => ring_advance _ h8 h24⟩

/-- The scalar registers of a state after a call, as far as a return reads them. -/
theorem sameWindow_called (s : State) (predicted : Bool) (target : W64) :
    SameWindow (windowIn (callerReady s)).core.sc (retire (branch (calleeReady s) true predicted target)).core.sc := by
  obtain ⟨busy, h⟩ := branch_taken_core (calleeReady s) predicted target
  rw [retire_core_sc, h]
  dsimp only
  rw [calleeReady_sc]
  exact .rstack _ _

theorem called_pend (s : State) (predicted : Bool) (target : W64) :
    (retire (branch (calleeReady s) true predicted target)).core.pend = [] := by
  obtain ⟨busy, h⟩ := branch_taken_core (calleeReady s) predicted target
  obtain ⟨sc, mem, mu, hin⟩ := windowIn_changes (callerReady s)
  rw [retire_core_pend, h]
  dsimp only
  rw [calleeReady, hin]
  exact landAll_pend s

/-- A window opened and moved back is the caller's: its globals and outs, its ins and locals in the ring. -/
theorem x_returned_of_opened {c t u : State} (hopen : WindowOpened c t) (hclosed : WindowClosed t u) (hland : landAll t = t)
    (hres : 1 < t.core.sc.res) (hglob : ∀ r : Reg, r.toNat < 8 → u.x r = t.x r)
    (hring : SameWindow (windowIn c).core.sc t.core.sc) (r : Reg) : u.x r = c.x r := by
  obtain ⟨hbase, hcell⟩ := ring_windowIn c
  by_cases h8 : r.toNat < 8
  · rw [hglob r h8, hopen.globals r h8]
  · by_cases h24 : r.toNat < 24
    · rw [hclosed.inner r (by omega) h24, if_pos hres, hland, hring.ring, hring.base, hbase, State.x, get_of_ge_eight _ (by omega),
        ← hcell r.toNat (by omega) h24]
      congr 1
      simp only [ringIx]
      omega
    · have hr := toNat_sub_sixteen (r := r) (by omega)
      have hlt := r.isLt
      have hback : r - 16 + 16 = r := by rw [BitVec.sub_add_cancel]
      rw [hclosed.outs r (by omega), hland, hopen.ins (r - 16) (by omega) (by omega), hback]

/-- Settles O8: the return finds the address the call put in x15 and the caller's registers in the ring. -/
theorem returnAfterCallRestoresCaller : Obligations.ReturnAfterCallRestoresCaller := by
  unfold Obligations.ReturnAfterCallRestoresCaller
  intro imm s t u hp hpend hf hbusy heven hcall hret
  obtain ⟨predicted, hexec⟩ := exec_of_callTarget hf (fun _ => hbusy) (i := .call imm) rfl (fun a h => by cases h)
  have hopen := windowOpened_call hp.window hf predicted (s.core.pc + 2 * imm)
  have hwin := sameWindow_called s predicted (s.core.pc + 2 * imm)
  have hnone := called_pend s predicted (s.core.pc + 2 * imm)
  have ht := Host.Outcome.next.inj (hexec.symm.trans hcall)
  rw [ht] at hopen hwin hnone
  obtain ⟨-, hcres, -, -⟩ := callerReady_keeps s
  have hcspilled : (callerReady s).core.sc.spilled = s.core.sc.spilled := (set_spilled _ _ _).trans (landAll_spilled s)
  have hland : landAll t = t := landAll_of_none t hnone
  have hone := hp.window.resident.1
  have hres := hopen.resident
  have hspilled := hopen.spilled
  rw [hcres] at hres hspilled
  rw [hcspilled] at hspilled
  have hmore : 1 < t.core.sc.res := by
    rw [hres]
    split <;> omega
  have hback : t.x 15 = s.core.issue.npc :=
    (hopen.ins 15 (by decide) (by decide)).trans (get_set_self _ _ (by decide))
  obtain ⟨hit, heff⟩ := retEff_eq (not_empty_of_below (.inl hmore)) (by rwa [hland, hback]) (reloadPoison_none (.inl hmore))
  obtain ⟨hclosed, hglob⟩ := windowClosed_resident hmore
  have hsame := sameWindow_returned (landAll t) hit ((landAll t).x 15)
  have hpc := returned_pc (landAll t) hit ((landAll t).x 15)
  have hu := Host.Outcome.next.inj ((congrArg (finish t) heff).symm.trans hret)
  rw [hu] at hsame hpc
  replace hclosed := hclosed.congr hsame
  have hx := x_returned_of_opened hopen hclosed hland hmore
    (fun r h8 => (hsame.get r).trans ((hglob r h8).trans (congrArg (·.x r) hland))) hwin
  refine ⟨by rw [hpc, hland, hback], ?_, fun r hr => ?_, ?_⟩
  · rw [callDepth, callDepth, hclosed.resident, hclosed.spilled, if_pos hmore, if_pos hmore, hres, hspilled]
    split <;> omega
  · rw [hx r]
    exact (get_set_ne _ _ (by simpa using hr)).trans (congrArg (·.x r) (landAll_of_none s hpend))
  · rw [hx 31]
    exact get_set_self _ _ (by decide)

end Sys2Proof.Machine

/-! A TRET from the reserved mode 3, with no window to move back to and an odd EPC (09_context R226, R248): what
TrapReturnFromSystem says of a TRET with no window does not exclude it. -/
namespace Sys2Proof.Machine

/-- A core that runs in its one window with STATUS.MODE = 3, which names no mode, and an odd EPC. -/
def oddEpcInModeThree : State :=
  (State.reset.mapSys fun r => { r with status := 3, epc := 1 }).mapCore fun c => { c with run := .running }

theorem plain_oddEpcInModeThree : Plain oddEpcInModeThree where
  awake := by decide +kernel
  busy := by decide +kernel
  unpaired := by unfold Unpaired; decide +kernel
  window := ⟨by decide +kernel, by decide +kernel, by decide +kernel⟩

/-- The odd EPC is refused first, with cause 0x03. -/
theorem tret_oddEpcInModeThree_code {t : State} (h : exec .tret oddEpcInModeThree = .next t) : t.core.sys.monwhy.toNat = 3 := by
  have hcode : (match exec .tret oddEpcInModeThree with | .next u => u.core.sys.monwhy.toNat | _ => 0) = 3 := by decide +kernel
  rwa [h] at hcode

/-- Refutes O14: in mode 3, which the last clause allows, the odd EPC of a TRET with no window to move back to is what traps. -/
theorem not_trapReturnFromSystem : ¬ Obligations.TrapReturnFromSystem := by
  unfold Obligations.TrapReturnFromSystem
  rintro ⟨-, -, hnone⟩
  obtain ⟨t, ht, hin⟩ := hnone oddEpcInModeThree plain_oddEpcInModeThree (by decide +kernel) (by decide +kernel) (by decide +kernel)
    (by decide +kernel) (by decide +kernel)
  have hcode := hin.code
  rw [tret_oddEpcInModeThree_code ht] at hcode
  exact absurd hcode (by decide +kernel)

end Sys2Proof.Machine

/-! An access that is not aligned to its size traps before any effect (04_core R89; 05_vector R135; 06_memory R157). -/
namespace Sys2Proof.Machine

/-! ### Each effect checks the alignment first -/

section Misaligned
variable (s : State) {ea : W64} {n : Nat} (hm : ea.toNat % n ≠ 0)
include hm

theorem loadCore_misaligned : loadCore s ea n = trap 0x03 ea := if_pos hm
theorem ldEff_misaligned (d : Reg) : ldEff s d ea n = trap 0x03 ea := by rw [ldEff, loadCore_misaligned s hm]; rfl
theorem stEff_misaligned (w : W64) : stEff s ea n w = trap 0x03 ea := if_pos (by rwa [length_bytesOf])
theorem ldfEff_misaligned (d : Reg) : ldfEff s d ea n = trap 0x03 ea := if_pos hm
theorem ldaqEff_misaligned (c : Scope) (d : Reg) : ldaqEff s c n d ea = trap 0x03 ea := if_pos hm
theorem ldfTaggedEff_misaligned (tag : W64) : ldfTaggedEff s ea n tag = trap 0x03 ea := if_pos hm
theorem stfEff_misaligned (w : W64) (tag : Option W64) : stfEff s ea n w tag = trap 0x03 ea := if_pos hm
theorem strlEff_misaligned (c : Scope) (w : W64) : strlEff s c ea n w = trap 0x03 ea := if_pos hm
theorem waitaEff_misaligned (d : Reg) (limit : W64) : waitaEff s n d ea limit = trap 0x03 ea := if_pos hm
theorem atomCore_misaligned (op : AOp) (d : Reg) (expect arg : W64) : atomCore s op n d ea expect arg = trap 0x03 ea := if_pos hm

end Misaligned

/-- Every scalar access checks its address first (R157). -/
theorem exec_of_scalarAccess_misaligned {i : Instr} {ea : W64} {n : Nat} {s : State} (h : scalarAccess s i = some (ea, n))
    (hm : ea.toNat % n ≠ 0) : exec i s = finish s (trap 0x03 ea) := by
  cases i <;> cases h
  case ld | ldx | ldDShort | ldWShort => exact congrArg (finish s) (ldEff_misaligned s hm _)
  case st | stx | stDShort | stWShort => exact congrArg (finish s) (stEff_misaligned s hm _)
  case ldf => exact congrArg (finish s) (ldfEff_misaligned s hm _)
  case ldfTagged => exact congrArg (finish s) (ldfTaggedEff_misaligned s hm _)
  case stf => exact congrArg (finish s) (stfEff_misaligned s hm _ _)
  case waita => exact congrArg (finish s) (waitaEff_misaligned s hm _ _)
  case ldaq => exact congrArg (finish s) (ldaqEff_misaligned s hm _ _)
  case strl => exact congrArg (finish s) (strlEff_misaligned s hm _ _)
  all_goals exact congrArg (finish s) (atomCore_misaligned s hm _ _ _ _)

/-! ### The lowest masked-on unit (R135) -/

/-- The masked-on units begin with the lowest of them. -/
theorem vUnits_lowest {s : State} {m : Msk} {t : ETy} {k : Nat} (hk : UnitOn s t m k) (hlow : ∀ j, j < k → ¬ UnitOn s t m j)
    (at_ : Nat → W64) : ∃ rest, vUnits s m t at_ = (k, at_ k) :: rest := by
  obtain ⟨hlt, hon⟩ := hk
  obtain ⟨c, hc⟩ := Nat.exists_eq_add_of_lt hlt
  have hnone : (List.range k).filter (fun i => mskOn s m 8 i) = [] :=
    List.filter_eq_nil_iff.2 fun j hj hjon => hlow j (List.mem_range.1 hj) ⟨Nat.lt_trans (List.mem_range.1 hj) hlt, hjon⟩
  rw [vUnits, hc, Nat.add_assoc, List.range_add, List.range_succ_eq_map, List.map_cons, List.filter_append, hnone, List.nil_append,
    Nat.add_zero, List.filter_cons_of_pos hon, List.map_cons]
  exact ⟨_, rfl⟩

theorem checkEls_misaligned (s : State) (a : Acs) {n i : Nat} {ea : W64} (hm : ea.toNat % n ≠ 0) (rest : List (Nat × W64)) :
    checkEls s a n ((i, ea) :: rest) = trap 0x03 ea := if_pos hm

section VectorMisaligned
variable {s : State} {t : ETy} {m : Msk} {k : Nat} (hk : UnitOn s t m k) (hlow : ∀ j, j < k → ¬ UnitOn s t m j)
  {at_ : Nat → W64} (hm : (at_ k).toNat % unitBytes t ≠ 0)
include hk hlow hm

theorem vldEff_misaligned (d : Reg) (fixed : Bool) : vldEff s t d m fixed at_ = trap 0x03 (at_ k) := by
  obtain ⟨rest, h⟩ := vUnits_lowest hk hlow at_
  rw [vldEff, loadEls, h, checkEls_misaligned s .load hm]
  rfl

theorem vstEff_misaligned (d : Reg) : vstEff s t d m at_ = trap 0x03 (at_ k) := by
  obtain ⟨rest, h⟩ := vUnits_lowest hk hlow at_
  rw [vstEff, storeEls, h, checkEls_misaligned s .store hm]
  rfl

end VectorMisaligned

/-- Every vector access checks its lowest masked-on unit first (R135). -/
theorem exec_of_vectorAccess_misaligned {i : Instr} {t : ETy} {d : Reg} {m : Msk} {ea : Nat → W64} {k : Nat} {s : State}
    (h : vectorLoad s i = some (t, d, m, ea) ∨ vectorStore s i = some (t, d, m, ea)) (hk : UnitOn s t m k)
    (hlow : ∀ j, j < k → ¬ UnitOn s t m j) (hm : (ea k).toNat % unitBytes t ≠ 0) :
    exec i s = finish s (trap 0x03 (ea k)) := by
  rcases h with h | h
  · cases i <;> cases h
    case inl.vld | inl.vldF32Short =>
      exact congrArg (fun r => finish s (bankCycle s _ r)) (vldEff_misaligned hk hlow hm _ _)
    case inl.vlds | inl.vldx => exact congrArg (finish s) (vldEff_misaligned hk hlow hm _ _)
  · cases i <;> cases h
    case inr.vst | inr.vstF32Short =>
      exact congrArg (fun r => finish s (bankCycle s _ r)) (vstEff_misaligned hk hlow hm _)
    case inr.vsts | inr.vstx => exact congrArg (finish s) (vstEff_misaligned hk hlow hm _)

/-- Settles O23: the alignment is the first check of a scalar access and of the lowest unit of a vector access. -/
theorem misalignedAccessTraps : Obligations.MisalignedAccessTraps := by
  unfold Obligations.MisalignedAccessTraps
  refine ⟨fun i ea n s h hm hp hf hmode => ?_, fun i ty d m ea k s h hk hlow hm hp hf hmode => ?_⟩
  · exact ⟨_, exec_of_scalarAccess_misaligned h hm, inSystem_takeSync hp hf hmode (by decide) ea⟩
  · exact ⟨_, exec_of_vectorAccess_misaligned h hk hlow hm, inSystem_takeSync hp hf hmode (by decide) (ea k)⟩

end Sys2Proof.Machine

/-! PREF, IFENCE and DISCARD (04_core R82; 06_memory R167 to R169). -/
namespace Sys2Proof.Machine

/-! ### What a translation and a line read leave -/

/-- Memory only, but for the entries of the core's TLB. -/
def LookedUp (s t : State) : Prop := ∃ tlb, MemoryOnly { s with core := { s.core with tlb := tlb } } t

theorem MemoryOnly.lookedUp {s t : State} (h : MemoryOnly s t) : LookedUp s t := ⟨s.core.tlb, h⟩

theorem LookedUp.memory {s t u : State} (h : LookedUp s t) (h' : MemoryOnly t u) : LookedUp s u := by
  obtain ⟨tlb, h⟩ := h
  exact ⟨tlb, h.trans h'⟩

theorem LookedUp.core {s t : State} (h : LookedUp s t) : ∃ tlb, t.core = { s.core with tlb := tlb } := by
  obtain ⟨tlb, h⟩ := h
  exact ⟨tlb, h.core⟩

theorem LookedUp.un {s t : State} (h : LookedUp s t) : t.un = s.un := by
  obtain ⟨tlb, h⟩ := h
  exact h.un

theorem memoryOnly_walkReads (s : State) (asid va : Nat) : MemoryOnly s (walkReads s asid va) := by
  unfold walkReads
  dsimp only
  split
  · exact .refl s
  · exact .foldl (fun t line => memoryOnly_homeRead t line none true) _ s

theorem memoryOnly_ctlbLookup (s : State) (cl asid va : Nat) : MemoryOnly s (ctlbLookup s cl asid va).1 := by
  unfold ctlbLookup
  split
  · exact ⟨_, _, _, _, _, _, rfl⟩
  · dsimp only
    split
    · exact .refl s
    · split
      · exact ⟨_, _, _, _, _, _, rfl⟩
      · split
        · exact (memoryOnly_walkReads s asid va).trans ⟨_, _, _, _, _, _, rfl⟩
        · exact memoryOnly_walkReads s asid va

theorem lookedUp_tlbLookup (s : State) (asid va : Nat) (fetch : Bool) : LookedUp s (tlbLookup s asid va fetch).1 := by
  have h := memoryOnly_ctlbLookup s (clusterOf s.core.pos) asid va
  unfold tlbLookup
  split
  · exact h.lookedUp
  · split
    · exact (MemoryOnly.refl s).lookedUp
    · split
      next t e hit =>
        rw [hit] at h
        obtain ⟨_, _, _, _, _, _, rfl⟩ := h
        exact ⟨_, _, _, _, _, _, _, rfl⟩
      next => exact h.lookedUp

theorem lookedUp_resolve {s t : State} {ea : W64} {a : Acs} {p : Place × Nat} (h : resolve s ea a = .ok (t, p)) : LookedUp s t := by
  have hlook := lookedUp_tlbLookup s (curAsid s.core) ea.toNat (a == .fetch)
  unfold resolve at h
  dsimp only at h
  split at h
  · split at h
    · cases h
    · split at h
      · cases h
      · cases h
      next e hit =>
        rw [hit] at hlook
        split at h
        · cases h
        · split at h
          · split at h <;> cases h
            exact hlook
          · split at h <;> cases h
            exact hlook
          · cases h
            exact hlook
  · split_ifs at h <;> cases h <;> exact (MemoryOnly.refl s).lookedUp
  · split_ifs at h <;> cases h
    exact (MemoryOnly.refl s).lookedUp
  · cases h

theorem memoryOnly_rdcFill (s : State) (d line : Nat) (place : Place) (data : W512) (c : Clock) :
    MemoryOnly s (rdcFill s d line place data c) := by
  have hroom : MemoryOnly s (rdcRoom s line d) := by
    unfold rdcRoom
    dsimp only
    split
    · exact .refl s
    · exact ⟨_, _, _, _, _, _, rfl⟩
  unfold rdcFill
  split
  · exact .refl s
  · exact hroom.trans ⟨_, _, _, _, _, _, rfl⟩

/-- The state a read leaves, whether it answers, is poisoned or waits. -/
def readState (s : State) : Except ReadStop (State × W512 × Clock) → State
  | .ok r => r.1
  | .error (.poison _ t) => t
  | .error .waits => s

theorem memoryOnly_homeNow (s : State) (place : Place) (line : Nat) : MemoryOnly s (readState s (homeNow s place line)) := by
  have answer {t : State} (h : MemoryOnly s t) (data : W512) (c : Clock) :
      MemoryOnly s (readState s (if isPoisoned t line then .error (.poison line t) else .ok (t, data, c))) := by
    split
    · exact h
    · exact h
  have stack (p : Place) : MemoryOnly s (readState s (
      if stackWaits s (line * 64) || (ownedBy s line).isSome then .error .waits
      else
        let r := homeRead s line p.kid p.cached
        if stackDead r.1 (line * 64) then .error (.poison line (poisonLine r.1 line))
        else if !p.cached && poisonBeneath r.1 line then .error (.poison line r.1)
        else if !p.cached then .ok (r.1, r.2, match homeOf r.1 place with | some h => (getDie r.1 h).vc | none => Clock.zero)
        else if isPoisoned r.1 line then .error (.poison line r.1)
          else .ok (r.1, r.2, match homeOf r.1 place with | some h => (getDie r.1 h).vc | none => Clock.zero))) := by
    have hread := memoryOnly_homeRead s line p.kid p.cached
    split
    · exact .refl s
    · dsimp only
      split
      · exact hread.trans ⟨_, _, _, _, _, _, rfl⟩
      · split
        · exact hread
        · split
          · exact hread
          · exact answer hread _ _
  unfold homeNow
  dsimp only
  split
  · exact .refl s
  · cases place with
    | aperture => exact .refl s
    | loc n => exact answer (.refl s) _ _
    | scr c => exact answer (.refl s) _ _
    | peer c k => exact answer (.refl s) _ _
    | hbm d c k => exact stack (.hbm d c k)
    | host c => exact stack (.host c)

theorem memoryOnly_missLine (s : State) (d : Nat) (place : Place) (line : Nat) :
    MemoryOnly s (readState s (missLine s d place line)) := by
  have hhome : MemoryOnly s (readState s (homeLine s place line)) := by
    unfold homeLine
    split
    · exact .refl s
    · exact memoryOnly_homeNow s place line
  unfold missLine
  dsimp only
  split
  · exact .refl s
  · split
    next t data c e =>
      rw [e] at hhome
      refine MemoryOnly.trans hhome ?_
      change MemoryOnly t (replied t d place c)
      unfold replied
      split
      · split
        · exact .refl t
        · exact ⟨_, _, _, _, _, _, rfl⟩
      · exact .refl t
    next e he =>
      rw [he] at hhome
      exact hhome

theorem memoryOnly_readLine (s : State) (d : Nat) (place : Place) (line : Nat) :
    MemoryOnly s (readState s (readLine s d place line)) := by
  have hmiss := memoryOnly_missLine s d place line
  unfold readLine
  split
  · split
    · split
      · exact .refl s
      · exact .refl s
    · split
      next t data c e =>
        rw [e] at hmiss
        exact MemoryOnly.trans hmiss (memoryOnly_rdcFill t d line place data c)
      next e he =>
        rw [he] at hmiss
        exact hmiss
  · exact hmiss

/-! ### PREF (R167) -/

theorem memoryOnly_prefLine (s : State) (place : Place) (line : Nat) : MemoryOnly s (prefLine s place line) := by
  have h := memoryOnly_readLine s (dieOf s.core.pos) place line
  unfold prefLine
  split
  next e =>
    rw [e] at h
    exact h
  next e =>
    rw [e] at h
    exact h
  next => exact .refl s

theorem memoryOnly_snoop (s : State) (cells : List Host.Cell) : MemoryOnly s (snoop s cells) := by
  unfold snoop
  split
  · exact .refl s
  · exact ⟨_, _, _, _, _, _, rfl⟩

theorem lookedUp_prefEff (s : State) (code : Nat) (ea : W64) : LookedUp s (prefEff s code ea) := by
  unfold prefEff
  split
  next t place key h =>
    have ht := lookedUp_resolve h
    split
    · dsimp only
      split
      · exact ht.memory (.foldl (fun u i => memoryOnly_prefLine u place _) _ t)
      · split
        · exact ht.memory (((memoryOnly_prefLine t place _).trans (memoryOnly_codeDrop _ _)).trans (memoryOnly_snoop _ _))
        · exact ht.memory (memoryOnly_prefLine t place _)
    · exact (MemoryOnly.refl s).lookedUp
  next => exact MemoryOnly.lookedUp ⟨_, _, _, _, _, _, rfl⟩
  next => exact (MemoryOnly.refl s).lookedUp

/-- What a hint leaves as it was. -/
theorem pref_keeps (c : Code3) (a : Reg) (imm : W64) (s : State) :
    ∃ t, exec (.pref c a imm) s = .next t ∧ t.core.pc = s.core.issue.npc ∧ KeepsX s t [] ∧ KeepsV s t [] ∧
      t.core.sys = s.core.sys ∧ KeepsWindow s t := by
  have h := lookedUp_prefEff s c.toNat (leaAdd (s.x a) imm)
  refine ⟨retire (prefEff s c.toNat (leaAdd (s.x a) imm)), rfl, ?_⟩
  generalize prefEff s c.toNat (leaAdd (s.x a) imm) = t at h
  obtain ⟨tlb, hcore⟩ := h.core
  refine ⟨?_, fun r _ => ?_, fun r _ => ?_, ?_, ?_⟩
  · rw [retire_core_pc, hcore]
  · rw [retire_x, State.x, hcore]
    rfl
  · rw [retire_v]
    exact vget_congr (by rw [hcore]) (by rw [hcore]) h.un r
  · rw [retire_core_sys, hcore]
  · rw [KeepsWindow, retire_core_sc, hcore]
    exact ⟨rfl, rfl, rfl, rfl, rfl⟩

/-! ### IFENCE (R168) -/

theorem ifence_keeps (s : State) : ∃ t, exec .ifence s = .next t ∧ t.core.pc = s.core.issue.npc ∧ t.core.fbuf = none ∧
    t.core.rreg = none ∧ KeepsAllBut s t [] := by
  refine ⟨retire (emptyFetch s), rfl, rfl, rfl, rfl, ?_⟩
  constructor
  case scalars => exact fun r _ => rfl
  case vectors => exact fun r _ => rfl
  case system => rfl
  case window => exact ⟨rfl, rfl, rfl, rfl, rfl⟩
  case units => exact ⟨rfl, rfl, rfl, rfl, rfl, rfl, rfl, rfl, rfl, rfl, rfl, rfl⟩
  case bytes => exact fun a => rfl
  case device => exact ⟨rfl, rfl, rfl, rfl, rfl, rfl⟩

/-! ### DISCARD (R169) -/

theorem memoryOnly_dropLines (s : State) (key n : Nat) : MemoryOnly s (dropLines s key n) := by
  unfold dropLines
  extract_lets inside partly u t
  have hu : MemoryOnly s u := ⟨_, _, _, _, _, _, rfl⟩
  have ht : MemoryOnly u t := .foldl (fun t (p : Nat × L2Line) => memoryOnly_writeBack t p.1 p.2) _ u
  exact (hu.trans ht).trans ⟨_, _, _, _, _, _, rfl⟩

theorem tget_eq_none_of_forall {α : Type} {l : Tbl α} {k : Nat} (h : ∀ p ∈ l, p.1 ≠ k) : tget l k = none := by
  induction l with
  | nil => rfl
  | cons p l ih =>
    rw [tget, if_neg (h p List.mem_cons_self)]
    exact ih fun q hq => h q (List.mem_cons_of_mem _ hq)

/-- A line wholly inside the range is in no cache (R169). -/
theorem dropLines_inside (s : State) {key n line : Nat} (hlo : key ≤ line * 64) (hhi : line * 64 + 64 ≤ key + n) :
    tget (dropLines s key n).mu.l2 line = none ∧
      ∀ die, die < 4 → tget (dropLines s key n).mu.rdc (rdcKey line die) = none := by
  refine ⟨tget_eq_none_of_forall ?_, fun die hdie => tget_eq_none_of_forall ?_⟩
  · intro p hp e
    obtain ⟨q, hq, rfl⟩ := List.mem_map.1 hp
    have hout := (List.mem_filter.1 hq).2
    have hkey : q.1 = line := by
      rw [← e]
      split <;> rfl
    simp [hkey, hlo, hhi] at hout
  · intro p hp e
    have hout := (List.mem_filter.1 hp).2
    have hkey : p.1 / 4 = line := by
      rw [e, rdcKey]
      omega
    simp [hkey, hlo, hhi] at hout

section Discard
variable {s : State} {a b : Reg} {e : TlbEnt}

/-- The state after a page: its lines dropped, the range behind it. -/
def pageDropped (s : State) (a b : Reg) (e : TlbEnt) : State :=
  rawX (rawX (if (leafPlace e (s.x a).toNat).1.paged then dropLines s (leafPlace e (s.x a).toNat).2 (s.x b).toNat else s) b 0)
    a (s.x a + s.x b)

theorem discardGo_page (h : s.core.tlb.find? (fun f => f.serves (curAsid s.core) (s.x a).toNat) = some e)
    (hperm : permits e .store (inTask s.core) = true) (hpos : 0 < (s.x b).toNat) (hva : (s.x a).toNat < 2 ^ 52)
    (hpage : ((s.x a).toNat + (s.x b).toNat - 1) / 2 ^ pageBits e.size = (s.x a).toNat / 2 ^ pageBits e.size)
    (hexcl : s.mu.excl = []) (f : Nat) : discardGo a b (f + 1) s = discardGo a b f (pageDropped s a b e) := by
  have hlook : tlbLookup s (curAsid s.core) (s.x a).toNat false = (s, .hit e) := by
    simp only [tlbLookup, h]
    rfl
  have htop : fld (s.x a) 63 52 = 0 := by
    rw [fld_eq]
    omega
  have hall : min (s.x b).toNat (((s.x a).toNat / 2 ^ pageBits e.size + 1) * 2 ^ pageBits e.size - (s.x a).toNat) = (s.x b).toNat := by
    have hlt := Nat.lt_mul_div_succ ((s.x a).toNat + (s.x b).toNat - 1) (Nat.two_pow_pos (pageBits e.size))
    rw [hpage, Nat.mul_comm] at hlt
    exact Nat.min_eq_left (by omega)
  have hfree (k n : Nat) : ownsAny s k n = false := by rw [ownsAny, hexcl]; rfl
  rw [discardGo]
  dsimp only
  rw [if_neg (by omega), if_neg (by rw [htop]; exact fun h => h rfl), hlook]
  dsimp only
  rw [hperm, hall, hfree, Bool.and_false, Nat.sub_self, BitVec.ofNat_toNat, BitVec.setWidth_eq]
  rfl

theorem discardGo_over {t : State} (h : t.x b = 0) (f : Nat) : discardGo a b (f + 1) t = .ok t := by
  rw [discardGo, h]
  rfl

theorem pageDropped_memory (s : State) (a b : Reg) (e : TlbEnt) : ∃ u, MemoryOnly s u ∧
    pageDropped s a b e = rawX (rawX u b 0) a (s.x a + s.x b) := by
  unfold pageDropped
  split
  · exact ⟨_, memoryOnly_dropLines _ _ _, rfl⟩
  · exact ⟨_, .refl s, rfl⟩

/-- The registers after a page: the end of the range, and nothing left of it. -/
theorem x_pageDropped (hab : a ≠ b) (ha : a ≠ 0) (hb : b ≠ 0) : (pageDropped s a b e).x a = s.x a + s.x b ∧
    (pageDropped s a b e).x b = 0 ∧ KeepsX s (pageDropped s a b e) [a, b] := by
  obtain ⟨u, hu, heq⟩ := pageDropped_memory s a b e
  rw [heq]
  refine ⟨get_set_self _ _ ha, ?_, fun r hr => ?_⟩
  · exact (get_set_ne _ _ (Ne.symm hab)).trans (get_set_self _ _ hb)
  · simp only [List.mem_cons, List.not_mem_nil, or_false, not_or] at hr
    refine (get_set_ne _ _ hr.1).trans ((get_set_ne _ _ hr.2).trans ?_)
    rw [hu.core]
    rfl

theorem discard_page (hab : a ≠ b) (ha : a ≠ 0) (hpos : 0 < (s.x b).toNat) (hend : (s.x a).toNat + (s.x b).toNat ≤ 2 ^ 52)
    (h : s.core.tlb.find? (fun f => f.serves (curAsid s.core) (s.x a).toNat) = some e)
    (hperm : permits e .store (inTask s.core) = true)
    (hpage : ((s.x a).toNat + (s.x b).toNat - 1) / 2 ^ pageBits e.size = (s.x a).toNat / 2 ^ pageBits e.size)
    (hexcl : s.mu.excl = []) : exec (.discard a b) s = .next (retire (pageDropped s a b e)) := by
  have hb : b ≠ 0 := fun e => by rw [e] at hpos; exact absurd hpos (by rw [x_zero]; decide)
  have hne : ¬ s.x b = 0 := fun e => by rw [e] at hpos; exact absurd hpos (by decide)
  have htop : fld (s.x a) 63 62 = 0 := by
    rw [fld_eq]
    omega
  change finish s _ = _
  rw [if_neg hne, if_neg (by rw [htop]; exact fun h => h rfl), discardPages, if_neg hab,
    discardGo_page h hperm hpos (by omega) hpage hexcl, discardGo_over (x_pageDropped hab ha hb).2.1]
  rfl

end Discard

/-- Settles O26: a hint changes memory units and the TLB alone, IFENCE the fetch buffer alone, and DISCARD of one page its lines and
the two registers that name the range. -/
theorem prefetchDiscardAndFetchFence : Obligations.PrefetchDiscardAndFetchFence := by
  unfold Obligations.PrefetchDiscardAndFetchFence
  refine ⟨pref_keeps, ifence_keeps, fun a b e s hab ha hpos hend h hperm hpage hexcl => ?_⟩
  have hb : b ≠ 0 := fun e => by rw [e] at hpos; exact absurd hpos (by rw [x_zero]; decide)
  obtain ⟨hxa, hxb, hkeeps⟩ := x_pageDropped (s := s) (e := e) hab ha hb
  refine ⟨_, discard_page hab ha hpos hend h hperm hpage hexcl, ?_, hkeeps, hxa, hxb, fun line hlo hhi hpaged => ?_⟩
  · obtain ⟨u, hu, heq⟩ := pageDropped_memory s a b e
    rw [heq]
    exact congrArg (·.issue.npc) hu.core
  · rw [pageDropped, if_pos hpaged]
    exact dropLines_inside s hlo hhi

end Sys2Proof.Machine

/-! Two messages of one age in an inbox (10_queue R259): what DoneDispatchesOrIdles says of the message that DONE dispatches
does not exclude them, and the model takes an entry out of the inbox by its age. -/
namespace Sys2Proof.Machine

/-- A request and a system message of one age. -/
def requestOfAgeOne : Msg :=
  { handler := 0x100, sender := 3, tag := 9, cls := 0, alen := 0, stime := 77, payload := 0, src := .core 3, origin := .plain,
    clock := Clock.zero, far := false, age := 1, arrived := 80, attaching := false }
def systemOfAgeOne : Msg := { requestOfAgeOne with cls := 3, handler := 0x200 }

/-- A core in task mode that ends its handler with both in its inbox. -/
def twoOfAgeOne : State :=
  (State.reset.mapSys fun r => { r with status := 0 }).mapCore fun c => { c with
    run := .running, mail := { c.mail with inbox := [requestOfAgeOne, systemOfAgeOne] } }

theorem canEnd_twoOfAgeOne : CanEnd twoOfAgeOne where
  ready := ⟨by decide +kernel, by decide +kernel, by decide +kernel, by unfold Unpaired; decide +kernel⟩
  mode := by decide +kernel
  bank := by decide +kernel
  user := by decide +kernel
  spill := by decide +kernel
  failed := by decide +kernel
  untraced := by unfold NoTrace; decide +kernel
  debts := fun m h => by
    rw [show twoOfAgeOne.core.mail.insvc = none by decide +kernel] at h
    cases h
  queue := by decide +kernel
  replay := by decide +kernel

/-- The system message is the first candidate, and the request, the first entry of its age, is dispatched. -/
theorem done_twoOfAgeOne_insvc {t : State} (h : exec .done twoOfAgeOne = .next t) : t.core.mail.insvc = some requestOfAgeOne := by
  have hmsg : (match exec .done twoOfAgeOne with | .next u => u.core.mail.insvc | _ => none) = some requestOfAgeOne := by
    decide +kernel
  rwa [h] at hmsg

/-- Refutes O35: of two entries of one age the message of R259's choice need not be the one that is taken. -/
theorem not_doneDispatchesOrIdles : ¬ Obligations.DoneDispatchesOrIdles := by
  unfold Obligations.DoneDispatchesOrIdles
  intro h
  obtain ⟨t, ht, -, -, -, -, -, -, -, -, hserved, -⟩ :=
    (h .done twoOfAgeOne (.inl rfl) canEnd_twoOfAgeOne).1 systemOfAgeOne [requestOfAgeOne] (by decide +kernel)
  rw [done_twoOfAgeOne_insvc ht] at hserved
  exact absurd hserved (by decide +kernel)

end Sys2Proof.Machine

/-! A core that leaves an ALIGN with evicted slots places its reload claim, which serves the head of its pool's reload queue
(04_core R103; 05_vector R112, R116): what WaitAndInterruptEvents says of the cores of the quad that wait in no ALIGN. -/
namespace Sys2Proof.Machine

/-- Core 0 waits in an ALIGN with nothing evicted, core 1 in one with an evicted slot, and core 2 for the reload of its own, whose
claim stands at the head of the queue. -/
def alignsBesideReload : State :=
  let waits (c : Core) (w : WaitFor) (x : Slot) : Core :=
    { c with run := .waiting, wait := some ⟨0, w⟩, vec := { c.vec with s1 := x } }
  { State.reset with
    core := waits State.reset.core .align .unmapped
    others := [(1, waits (Core.reset 1) .align .evicted), (2, waits (Core.reset 2) .reload .evicted)]
    un := { State.reset.un with pools := [(0, { Pool.fresh with reloads := [.slots 2] })] } }

theorem numberedCores_alignsBesideReload : NumberedCores alignsBesideReload := by
  intro n
  by_cases h0 : n = 0
  · subst h0
    decide +kernel
  · by_cases h1 : n = 1
    · subst h1
      decide +kernel
    · by_cases h2 : n = 2
      · subst h2
        decide +kernel
      · have hnone : tget alignsBesideReload.others n = none :=
          (if_neg (Ne.symm h1)).trans (if_neg (Ne.symm h2))
        rw [getCore, if_neg (show n ≠ alignsBesideReload.core.num from h0), tgetD, hnone]
        rfl

/-- The release of core 0's quad maps the slot of core 2. -/
theorem alignRelease_maps_slot {t : State} (h : exec .alignRelease alignsBesideReload = .next t) :
    (getCore t 2).vec.s1 ≠ .evicted := by
  have hslot : (match exec .alignRelease alignsBesideReload with | .next u => (getCore u 2).vec.s1 | _ => .evicted) ≠ .evicted := by
    decide +kernel
  rwa [h] at hslot

/-- Refutes O47: core 2 waits in no ALIGN, and ALIGN_RELEASE changes it. -/
theorem not_waitAndInterruptEvents : ¬ Obligations.WaitAndInterruptEvents := by
  unfold Obligations.WaitAndInterruptEvents
  rintro ⟨-, halign, -⟩
  obtain ⟨t, ht, -, -, -, hothers, -⟩ := halign 0 alignsBesideReload (by decide +kernel) numberedCores_alignsBesideReload
    (by decide +kernel) (by decide +kernel) (by decide +kernel) (by decide +kernel) (by decide +kernel)
    (by unfold NoDebug; decide +kernel)
  have hkept := hothers 2 (by decide +kernel)
  refine alignRelease_maps_slot ht ?_
  rw [hkept]
  decide +kernel

end Sys2Proof.Machine

/-! A restore from a kept record that bears the number of another core (09_context R228, R243): ContextStartAndDebugEvents does
not ask that what is kept for core n be numbered n. -/
namespace Sys2Proof.Machine

/-- Core 0 restores context 0, whose descriptor holds LIFE 1 and a range of one core; the core kept for it there, which left its
handler unfinished, is numbered 1. -/
def strayRecord : State :=
  { State.reset with
    core := { Core.reset 0 with
      run := .switching, job := some { saving := false, load := some 0, deadline := 0, began := 0, alt := false } }
    mem := [(0, 1), (12, 1)]
    un := { Units.reset with kept := [(0, { Core.reset 1 with former := .running })] } }

/-- The restore waits for nothing. -/
theorem strayRecord_restores : ∃ u, restoreImage 0 0 (focus strayRecord 0) = .ok u := by
  have hok : (match restoreImage 0 0 (focus strayRecord 0) with | .ok _ => true | .error _ => false) = true := by decide +kernel
  cases hrestored : restoreImage 0 0 (focus strayRecord 0) with
  | ok u => exact ⟨u, rfl⟩
  | error u =>
    rw [hrestored] at hok
    exact absurd hok Bool.noConfusion

/-- The image of the core reads as zeros, which save no handle. -/
theorem strayRecord_image : ∃ v im, imageOf (focus strayRecord 0) 0 0 = .ok (v, im) ∧ savedHandles im = [] := by
  have hnone : (match imageOf (focus strayRecord 0) 0 0 with | .ok r => savedHandles r.2 | .error _ => [0]) = [] := by
    decide +kernel
  cases himage : imageOf (focus strayRecord 0) 0 0 with
  | ok r =>
    rw [himage] at hnone
    exact ⟨r.1, r.2, rfl, hnone⟩
  | error u =>
    rw [himage] at hnone
    exact absurd hnone (List.cons_ne_nil _ _)

/-- What is loaded stands under number 1, and core 0 has no context. -/
theorem strayRecord_bare {t : State} (h : exec .restoreComplete strayRecord = .next t) : noCtx (getCore t 0) = true := by
  have hbare : (match exec .restoreComplete strayRecord with | .next u => noCtx (getCore u 0) | _ => false) = true := by
    decide +kernel
  rwa [h] at hbare

/-- Refutes O50: core 0 has no context after the restore of the core kept for it, for that core is numbered 1. -/
theorem not_contextStartAndDebugEvents : ¬ Obligations.ContextStartAndDebugEvents := by
  unfold Obligations.ContextStartAndDebugEvents
  rintro ⟨-, -, hswitch, -⟩
  obtain ⟨u, hrestored⟩ := strayRecord_restores
  obtain ⟨v, im, himage, hhandles⟩ := strayRecord_image
  obtain ⟨-, hload⟩ := hswitch 0 { saving := false, load := some 0, deadline := 0, began := 0, alt := false } strayRecord
    ⟨rfl, rfl⟩ rfl rfl
  obtain ⟨-, hkept⟩ := hload 0 rfl rfl (by decide) (by decide +kernel) (by decide +kernel)
  obtain ⟨t, ht, hctx, -⟩ := hkept { Core.reset 1 with former := .running } u v im rfl Run.noConfusion hrestored himage hhandles
  rw [strayRecord_bare ht] at hctx
  exact absurd hctx.symm Bool.noConfusion

end Sys2Proof.Machine

/-! Vector results of fixed latency: what a read answers before and after they land (03_encoding R59 to R61; 05_vector R106,
R107). -/
namespace Sys2Proof.Machine

/-! ### Reads beside a result that lands -/

theorem slotOf_ne_zero_of_mapped {s : State} {r : Reg} {f : Nat} (h : s.core.vec.slot (slotOf r) = .mapped f) :
    slotOf r ≠ 0 := fun e => by
  rw [e] at h
  cases h

/-- Two registers of one frame hold one value (R107). -/
theorem v_vset_sameFrame {s : State} {q r : Reg} (w : W512) (h : SameFrame s r q) : (vset s q w).v r = w := by
  obtain ⟨-, h8, f, hr, hq⟩ := h
  have hk : frameKey (quadOf s.core.pos) f q.toNat = frameKey (quadOf s.core.pos) f r.toNat := by simp only [frameKey, h8]
  simp only [State.v, vset, vget, slotOf_ne_zero_of_mapped hr, slotOf_ne_zero_of_mapped hq, hr, hq, hk, if_false,
    tgetD_tputD_self]

section Congr

variable {s u : State} {r : Reg} (hslot : ∀ k, u.core.vec.slot k = s.core.vec.slot k)
include hslot

/-- Whether a result changes register `r`, and to what, depends on the slots alone. -/
theorem v_apply_congr (hv : u.v r = s.v r) (p : Pend) : (p.apply u).v r = (p.apply s).v r := by
  cases p with
  | x q w l => exact hv
  | v q w l =>
    change (vset u q w).v r = (vset s q w).v r
    by_cases hq : r = q
    · subst hq
      by_cases hr : Holds s r
      · rw [v_vset_self w hr, v_vset_self w ((holds_congr hslot).2 hr)]
      · rw [v_of_not_holds (mt (holds_congr (vset_slot s r w)).1 hr),
          v_of_not_holds (mt ((holds_congr (vset_slot u r w)).trans (holds_congr hslot)).1 hr)]
    · by_cases hf : SameFrame s r q
      · rw [v_vset_sameFrame w hf, v_vset_sameFrame w ((sameFrame_congr hslot).2 hf)]
      · rw [v_vset_ne w hq hf, v_vset_ne w hq (mt (sameFrame_congr hslot).1 hf), hv]

theorem v_foldl_apply_congr (hv : u.v r = s.v r) (l : List Pend) :
    (l.foldl Pend.apply u).v r = (l.foldl Pend.apply s).v r := by
  induction l generalizing s u with
  | nil => exact hv
  | cons p l ih => exact ih (fun k => by simp [hslot]) (v_apply_congr hslot hv p)

/-- One more result on its way is not seen before it lands, nor ever in a register it does not go to. -/
theorem vAt_of_one_more (hv : u.v r = s.v r) {p : Pend} {before after : List Pend} {n : Nat}
    (hs : s.core.pend = before ++ after) (hu : u.core.pend = before ++ p :: after) (hp : n < p.lands ∨ Passes s r p) :
    vAt u n r = vAt s n r := by
  by_cases hn : p.lands ≤ n
  · simp only [vAt, landDue, hs, hu, List.filter_append, List.filter_cons, hn, decide_true, if_true, List.foldl_append,
      List.foldl_cons]
    refine v_foldl_apply_congr (fun k => by simp [hslot]) ?_ _
    rw [Passes.v_apply ((passes_congr fun k => ?_).2 (hp.resolve_left (Nat.not_lt.2 hn)))]
    · refine v_foldl_apply_congr ?_ ?_ _
      · exact hslot
      · exact hv
    · simp [hslot]
  · simp only [vAt, landDue, hs, hu, List.filter_append, List.filter_cons, hn, decide_false, if_false, Bool.false_eq_true]
    refine v_foldl_apply_congr ?_ ?_ _
    · exact hslot
    · exact hv

end Congr

/-! ### A result of fixed latency without flags -/

theorem flags_or_zero (f : Flags) : f ||| 0 = f := BitVec.or_zero

theorem raise_zero (s : State) : raise s 0 = s := if_pos rfl

/-- What a vector instruction that ends in `t` leaves when it raises no flag: nothing has changed, and from the cycle `due` on
register `d` holds `val`. -/
structure LandsV (s t : State) (d : Reg) (due : Nat) (val : W512) : Prop where
  pc : t.core.pc = s.core.issue.npc
  frame : KeepsAllBut s t []
  value : ∀ n, due ≤ n → (Holds s d → vAt t n d = val) ∧ (¬ Holds s d → vAt t n d = 0)
  before : ∀ n, n < due → vAt t n d = vAt s n d
  others : ∀ n r, r ≠ d → ¬ SameFrame s r d → vAt t n r = vAt s n r

theorem landsV_setVL {s : State} {d : Reg} (hq : QuietV s d) (val : W512) (lat : Nat) :
    LandsV s (retire (setVL s d val lat)) d (s.cycle + lat) val := by
  have hval := (writesV_setVL hq 0 val lat).value
  rw [raise_zero] at hval
  rw [setVL_clear s d val lat (hq d (.inl rfl))] at hval ⊢
  obtain ⟨before, after, hs, ht⟩ := pendInsert_split (.v d val (s.cycle + lat)) s.core.pend
  rw [ht] at hval ⊢
  constructor
  case pc => rfl
  case frame =>
    exact ⟨fun _ _ => rfl, fun _ _ => rfl, rfl, ⟨rfl, rfl, rfl, rfl, rfl⟩,
      ⟨rfl, rfl, rfl, rfl, rfl, rfl, rfl, rfl, rfl, rfl, rfl, rfl⟩, fun _ => rfl, ⟨rfl, rfl, rfl, rfl, rfl, rfl⟩⟩
  case value => exact hval
  case before =>
    intro n hn
    refine vAt_of_one_more (p := .v d val (s.cycle + lat)) ?_ ?_ hs ?_ (.inl hn)
    exacts [fun _ => rfl, rfl, rfl]
  case others =>
    intro n r hne hf
    have hpass : Passes s r (.v d val (s.cycle + lat)) := fun q hq => by
      refine beq_eq_false_iff_ne.2 ?_
      rintro rfl
      rcases hq with rfl | ⟨hslot, h8, f, hd, hr⟩
      · exact hne rfl
      · exact hf ⟨hslot.symm, h8.symm, f, hr, hd⟩
    refine vAt_of_one_more ?_ ?_ hs ?_ (.inr hpass)
    exacts [fun _ => rfl, rfl, rfl]

/-- A register that holds packed lanes gives them. -/
theorem givesV_of_pack {s t : State} {d : Reg} {n w : Nat} {g : Nat → Nat} (hg : ∀ k, g k < 2 ^ w)
    (h : (Holds s d → vAt t n d = pack w ((List.range (512 / w)).map g)) ∧ (¬ Holds s d → vAt t n d = 0)) :
    GivesV s t n d w g := by
  refine ⟨fun hd i hi => ?_, h.2⟩
  rw [h.1 hd, elem_pack_range hg hi, if_pos hi]

theorem onFlags_zero (s : State) (m : Msk) (w n : Nat) (f : Nat → Nat) : onFlags s m w n (fun k => (f k, 0)) = 0 := by
  induction n with
  | zero => rfl
  | succ n ih =>
    rw [onFlags_succ, ih]
    exact (ite_congr rfl (fun _ => flags_or_zero 0) fun _ => rfl).trans (ite_self _)

/-- Lanes without flags under a mask, of fixed latency. -/
theorem landsV_vecL {s : State} {d : Reg} {m : Msk} {w : Nat} (hq : QuietV s d) (f : Nat → Nat) (lat : Nat) :
    ∃ t, finish s (vecL s d lat w (maskMerge s m w (s.v d) ((List.range (512 / w)).map fun k => (f k, 0)))) = .next t ∧
      LandsV s t d (s.cycle + lat) (pack w ((List.range (512 / w)).map (underMask s m w d f))) := by
  rw [maskMerge_range, onFlags_zero, vecL, raise_zero]
  exact ⟨_, rfl, landsV_setVL hq _ lat⟩

end Sys2Proof.Machine

/-! Integer vector instructions by lanes (05_vector R106, R109, R124). -/
namespace Sys2Proof.Machine

/-! ### Elements as numbers -/

theorem wrapTo_lt (w : Nat) (z : Int) : wrapTo w z < 2 ^ w := by
  have hpos : (0 : Int) < 2 ^ w := Int.pow_pos (by decide)
  have hlt := Int.emod_lt_of_pos z hpos
  unfold wrapTo
  zify
  rwa [Int.toNat_of_nonneg (Int.emod_nonneg z hpos.ne')]

theorem sgnOf_eq_toInt {w : Nat} (hw : 0 < w) (x : Nat) : sgnOf w x = (BitVec.ofNat w x).toInt := by
  obtain ⟨k, rfl⟩ := Nat.exists_eq_succ_of_ne_zero hw.ne'
  have hhalf : x % 2 ^ (k + 1) < 2 ^ k ↔ 2 * (x % 2 ^ (k + 1)) < 2 ^ (k + 1) := by rw [Nat.pow_succ]; omega
  rw [sgnOf, BitVec.toInt_eq_toNat_cond, BitVec.toNat_ofNat, Nat.succ_sub_one]
  simp only [Nat.succ_eq_add_one, hhalf]
  push_cast
  rfl

/-- The number the model takes from a code is the element's (R106). -/
theorem sgnOf_eq_laneInt (t : ETy) (x : Nat) : (if t.isI then sgnOf (tyWidth t) x else (x : Int)) = laneInt t x := by
  rw [laneInt, sgnOf_eq_toInt (tyWidth_pos t)]

theorem laneInt_emod (t : ETy) {x : Nat} (hx : x < 2 ^ tyWidth t) : laneInt t x % 2 ^ tyWidth t = x := by
  have hc : (x : Int) % 2 ^ tyWidth t = x := by
    rw [Int.emod_eq_of_lt (Int.natCast_nonneg x)]
    exact_mod_cast hx
  unfold laneInt
  split
  · have hpow : (2 : Int) ^ tyWidth t = ((2 ^ tyWidth t : Nat) : Int) := by push_cast; rfl
    rw [BitVec.toInt_ofNat', hpow, Int.bmod_emod, ← hpow, hc]
  · exact hc

theorem wrapTo_laneInt (t : ETy) {x : Nat} (hx : x < 2 ^ tyWidth t) : wrapTo (tyWidth t) (laneInt t x) = x := by
  rw [wrapTo, laneInt_emod t hx, Int.toNat_natCast]

theorem laneInt_inj (t : ETy) {x y : Nat} (hx : x < 2 ^ tyWidth t) (hy : y < 2 ^ tyWidth t) :
    laneInt t x = laneInt t y ↔ x = y :=
  ⟨fun h => by rw [← wrapTo_laneInt t hx, h, wrapTo_laneInt t hy], congrArg _⟩

theorem isF_of_isIN {t : ETy} (h : (t.isI || t.isN) = true) : t.isF = false := by
  cases t <;> first | rfl | cases h

/-! ### The model's integer functions -/

theorem int2_eq (t : ETy) (g : Int → Int → Int) (x y : Nat) :
    int2 t g x y = (wrapTo (tyWidth t) (g (laneInt t x) (laneInt t y)), 0) := by
  simp only [int2, sgnOf_eq_laneInt, wrapTo]

theorem int1_eq (t : ETy) (g : Int → Int) (x : Nat) : int1 t g x = (wrapTo (tyWidth t) (g (laneInt t x)), 0) :=
  int2_eq t _ x 0

theorem arith2_of_isIN {s : State} {t : ETy} (h : (t.isI || t.isN) = true) (f : FV → FV → FR) (g : Int → Int → Int)
    (x y : Nat) : arith2 s t f g x y = (wrapTo (tyWidth t) (g (laneInt t x) (laneInt t y)), 0) := by
  rw [arith2, isF_of_isIN h, if_neg Bool.false_ne_true, int2_eq]


/-! ### The instructions of R124 -/

section Lanes

variable {s : State} {t : ETy} {d a b : Reg} {m : Msk} {lat : Nat} {f : Nat → Nat}

/-- An instruction ends in lanes `f` without flags in register `d`, `lat` cycles after it issues. -/
def EndsInLanes (s : State) (i : Instr) (t : ETy) (d : Reg) (m : Msk) (lat : Nat) (f : Nat → Nat) : Prop :=
  exec i s = finish s (vecL s d lat (tyWidth t) (maskMerge s m (tyWidth t) (s.v d)
    ((List.range (512 / tyWidth t)).map fun k => (f k, 0))))

theorem endsInLanes_map2 {i : Instr} {g : Nat → Nat → Nat × Flags}
    (hi : exec i s = finish s (vecL s d lat (tyWidth t) (map2 s t d a b m g)))
    (hg : ∀ k, g (elem (s.v a) (tyWidth t) k) (elem (s.v b) (tyWidth t) k) = (f k, 0)) : EndsInLanes s i t d m lat f := by
  rw [EndsInLanes, hi, map2_eq, funext hg]

theorem endsInLanes_map1 {i : Instr} {g : Nat → Nat × Flags}
    (hi : exec i s = finish s (vecL s d lat (tyWidth t) (map1 s t d a m g)))
    (hg : ∀ k, g (elem (s.v a) (tyWidth t) k) = (f k, 0)) : EndsInLanes s i t d m lat f := by
  rw [EndsInLanes, hi, map1_eq, funext hg]

theorem min_laneInt {x y : Nat} (hx : x < 2 ^ tyWidth t) (hy : y < 2 ^ tyWidth t) :
    wrapTo (tyWidth t) (min (laneInt t x) (laneInt t y)) = if laneInt t x ≤ laneInt t y then x else y := by
  rw [min_def, apply_ite (wrapTo _), wrapTo_laneInt t hx, wrapTo_laneInt t hy]

theorem max_laneInt {x y : Nat} (hx : x < 2 ^ tyWidth t) (hy : y < 2 ^ tyWidth t) :
    wrapTo (tyWidth t) (max (laneInt t x) (laneInt t y)) = if laneInt t x ≤ laneInt t y then y else x := by
  rw [max_def, apply_ite (wrapTo _), wrapTo_laneInt t hx, wrapTo_laneInt t hy]

/-- What the instructions of R124 give on an integer type: lanes without flags, after 2 or 4 cycles. -/
theorem endsInLanes_of_integerLane {i : Instr} (h : integerLane s i = some (t, d, m, f)) (ht : (t.isI || t.isN) = true) :
    (∀ k, f k < 2 ^ tyWidth t) ∧ ∃ lat, 2 ≤ lat ∧ lat ≤ 4 ∧ EndsInLanes s i t d m lat f := by
  have two : 2 ≤ 2 ∧ 2 ≤ 4 := by decide
  have four : 2 ≤ 4 ∧ 4 ≤ 4 := by decide
  have lt : ∀ (v : W512) k, elem v (tyWidth t) k < 2 ^ tyWidth t := fun v k => elem_lt v _ k
  cases i <;> simp only [integerLane, Option.ite_none_right_eq_some, reduceCtorEq, Option.some.injEq, Prod.mk.injEq] at h
  case vadd | vsub =>
    obtain ⟨rfl, rfl, rfl, rfl⟩ := h
    exact ⟨fun _ => wrapTo_lt _ _, 2, two.1, two.2, endsInLanes_map2 rfl fun k => arith2_of_isIN ht _ _ _ _⟩
  case vmul =>
    obtain ⟨rfl, rfl, rfl, rfl⟩ := h
    exact ⟨fun _ => wrapTo_lt _ _, 4, four.1, four.2, endsInLanes_map2 rfl fun k => arith2_of_isIN ht _ _ _ _⟩
  case vmin =>
    obtain ⟨rfl, rfl, rfl, rfl⟩ := h
    refine ⟨fun k => ?_, 2, two.1, two.2, endsInLanes_map2 rfl fun k => ?_⟩
    · dsimp only
      split <;> exact lt _ k
    · rw [arith2_of_isIN ht, min_laneInt (lt _ k) (lt _ k)]
  case vmax =>
    obtain ⟨rfl, rfl, rfl, rfl⟩ := h
    refine ⟨fun k => ?_, 2, two.1, two.2, endsInLanes_map2 rfl fun k => ?_⟩
    · dsimp only
      split <;> exact lt _ k
    · rw [arith2_of_isIN ht, max_laneInt (lt _ k) (lt _ k)]
  case vabs =>
    obtain ⟨hI, rfl, rfl, rfl, rfl⟩ := h
    refine ⟨fun _ => wrapTo_lt _ _, 2, two.1, two.2, endsInLanes_map1 rfl fun k => ?_⟩
    rw [isF_of_isIN ht, if_neg Bool.false_ne_true, int1_eq]
    congr 2
    split <;> omega
  case vneg =>
    obtain ⟨hI, rfl, rfl, rfl, rfl⟩ := h
    refine ⟨fun _ => wrapTo_lt _ _, 2, two.1, two.2, endsInLanes_map1 rfl fun k => ?_⟩
    rw [isF_of_isIN ht, if_neg Bool.false_ne_true, int1_eq]
  case vand =>
    obtain ⟨rfl, rfl, rfl, rfl⟩ := h
    exact ⟨fun k => Nat.and_lt_two_pow _ (lt _ k), 2, two.1, two.2, endsInLanes_map2 rfl fun _ => rfl⟩
  case vor =>
    obtain ⟨rfl, rfl, rfl, rfl⟩ := h
    exact ⟨fun k => Nat.or_lt_two_pow (lt _ k) (lt _ k), 2, two.1, two.2, endsInLanes_map2 rfl fun _ => rfl⟩
  case vxor =>
    obtain ⟨rfl, rfl, rfl, rfl⟩ := h
    exact ⟨fun k => Nat.xor_lt_two_pow (lt _ k) (lt _ k), 2, two.1, two.2, endsInLanes_map2 rfl fun _ => rfl⟩
  case vnot =>
    obtain ⟨rfl, rfl, rfl, rfl⟩ := h
    refine ⟨fun k => ?_, 2, two.1, two.2, endsInLanes_map1 rfl fun _ => rfl⟩
    exact Nat.sub_lt_of_lt (Nat.sub_lt (Nat.two_pow_pos _) Nat.one_pos)
  case vshl =>
    obtain ⟨rfl, rfl, rfl, rfl⟩ := h
    refine ⟨fun _ => Nat.mod_lt _ (Nat.two_pow_pos _), 2, two.1, two.2, endsInLanes_map2 rfl fun k => ?_⟩
    rw [vCount, Nat.shiftLeft_eq]
  case vshr =>
    obtain ⟨rfl, rfl, rfl, rfl⟩ := h
    refine ⟨fun k => Nat.lt_of_le_of_lt (Nat.div_le_self _ _) (lt _ k), 2, two.1, two.2, endsInLanes_map2 rfl fun k => ?_⟩
    rw [vCount, Nat.shiftRight_eq_div_pow]
  case vsar =>
    obtain ⟨rfl, rfl, rfl, rfl⟩ := h
    refine ⟨fun _ => wrapTo_lt _ _, 2, two.1, two.2, endsInLanes_map2 rfl fun k => ?_⟩
    rw [vSar, int1_eq, vCount]

theorem EndsInLanes.landsV {i : Instr} (h : EndsInLanes s i t d m lat f) (hq : QuietV s d) : ∃ u, exec i s = .next u ∧
    LandsV s u d (s.cycle + lat) (pack (tyWidth t) ((List.range (512 / tyWidth t)).map (underMask s m (tyWidth t) d f))) := by
  rw [h]
  exact landsV_vecL hq f lat

end Lanes

/-- Settles O27: the lanes of each instruction, and that a result of fixed latency changes its register alone. -/
theorem integerVectorResult : Obligations.IntegerVectorResult := by
  unfold Obligations.IntegerVectorResult
  intro i t d m f s h ht hq
  obtain ⟨hf, lat, h2, h4, hlanes⟩ := endsInLanes_of_integerLane h ht
  obtain ⟨u, hu, hl⟩ := hlanes.landsV hq
  refine ⟨u, hu, hl.pc, hl.frame, fun n hn => ?_, fun n hn => hl.before n (by omega), hl.others⟩
  exact givesV_of_pack (fun k => underMask_lt (hf k)) (hl.value n (by omega))

end Sys2Proof.Machine

/-! Compares, selections, mask instructions, integer sums and element moves (05_vector R127 to R129, R132, R138). -/
namespace Sys2Proof.Machine

/-! ### Compares (R127) -/

theorem packNat_concat (w : Nat) (l : List Nat) (x : Nat) :
    packNat w (l ++ [x]) = packNat w l + x % 2 ^ w * 2 ^ (w * l.length) := by
  induction l with
  | nil => simp [packNat]
  | cons e l ih =>
    rw [List.cons_append, packNat, ih, packNat, List.length_cons, Nat.mul_succ, Nat.add_comm (w * l.length), Nat.pow_add]
    ring

theorem cmpOne_of_isIN {t : ETy} (h : (t.isI || t.isN) = true) (c : Cond) {x y : Nat} (hx : x < 2 ^ tyWidth t)
    (hy : y < 2 ^ tyWidth t) : cmpOne t c x y = (integerCond c (laneInt t x) (laneInt t y), 0) := by
  simp only [cmpOne, isF_of_isIN h, Bool.false_eq_true, if_false, sgnOf_eq_laneInt]
  cases c <;> simp only [integerCond, laneInt_inj t hx hy, bne, beq_eq_decide, decide_not, ne_eq]

section Compare

variable (s : State) (t : ETy) (c : Cond) (d a b : Reg) (m : Msk)

/-- The mask bit a compare of an integer type writes for element `i` (R109, R127). -/
def compareBit (i : Nat) : Nat :=
  if mskOn s m (tyWidth t) i || m.ag then
    (if integerCond c (laneInt t (elem (s.v a) (tyWidth t) i)) (laneInt t (elem (s.v b) (tyWidth t) i)) then 1 else 0)
  else elem (s.v d) 1 i

theorem compareBit_lt (i : Nat) : compareBit s t c d a b m i < 2 ^ 1 := by
  unfold compareBit
  split
  · split <;> decide
  · exact elem_lt _ _ _

theorem cmpMask_of_isIN {t : ETy} (h : (t.isI || t.isN) = true) : cmpMask s t c d a b m =
    (packNat 1 ((List.range (512 / tyWidth t)).map (compareBit s t c d a b m)), 0) := by
  unfold cmpMask
  extract_lets w old go
  have hgo : ∀ n i, go (n, 0) i = (n + compareBit s t c d a b m i * 2 ^ i, 0) := fun n i => by
    have hcmp : cmpOne t c (elem (s.v a) w i) (elem (s.v b) w i) = _ := cmpOne_of_isIN h c (elem_lt _ _ _) (elem_lt _ _ _)
    have hold : old >>> i % 2 = elem (s.v d) 1 i := by rw [elem, Nat.mul_one, Nat.pow_one]
    simp only [go, compareBit, hcmp, hold, flags_or_zero, b2n]
    cases mskOn s m w i <;> cases m.ag <;> rfl
  induction 512 / w with
  | zero => rfl
  | succ n ih =>
    rw [List.range_succ, List.foldl_append, ih, List.map_append, List.map_singleton, packNat_concat,
      Nat.mod_eq_of_lt (compareBit_lt s t c d a b m n), List.length_map, List.length_range, Nat.one_mul]
    exact hgo _ n

end Compare

/-! ### Scalar results that land -/

theorem x_apply_of_other {p : Pend} {r : Reg} (h : p.same (.x r 0 0) = false) (s : State) : (p.apply s).x r = s.x r := by
  cases p with
  | x q w l => exact x_rawX_ne s w fun e => by simp [Pend.same, e] at h
  | v q w l => exact x_vset s q w r

theorem x_foldl_apply {l : List Pend} {r : Reg} (h : ∀ p ∈ l, p.same (.x r 0 0) = false) (s : State) :
    (l.foldl Pend.apply s).x r = s.x r := by
  induction l generalizing s with
  | nil => rfl
  | cons p l ih =>
    rw [List.foldl_cons, ih fun q hq => h q (List.mem_cons_of_mem _ hq), x_apply_of_other (h p List.mem_cons_self)]

/-- A scalar result that is due is in its register once no other one goes there. -/
theorem xAt_of_due {t : State} {r : Reg} {w : W64} {l n : Nat} {before after : List Pend} (hr : r ≠ 0)
    (hp : t.core.pend = before ++ .x r w l :: after) (ha : ∀ p ∈ after, p.same (.x r 0 0) = false) (hl : l ≤ n) :
    xAt t n r = w := by
  simp only [xAt, landDue, hp, List.filter_append, List.filter_cons, Pend.lands, hl, decide_true, if_true, List.foldl_append,
    List.foldl_cons]
  rw [x_foldl_apply fun p hp => ha p (List.mem_of_mem_filter hp), Pend.apply, x_rawX_self _ _ hr]

/-- A scalar result of more than one cycle changes nothing before it lands. -/
theorem retire_setXL_frame {s : State} {d : Reg} (h : NoPendX s d) (w : W64) {lat : Nat} (hlat : 1 < lat) :
    let t := retire (setXL s d w lat)
    t.core.pc = s.core.issue.npc ∧ KeepsAllBut s t [] ∧
      ∀ n, s.cycle + lat ≤ n → xAt t n d = if d = 0 then 0 else w := by
  by_cases h0 : d = 0
  · subst h0
    exact ⟨rfl, keepsAllBut_retire s, fun n _ => x_zero _⟩
  · rw [setXL_late s d w lat hlat h0 h, if_neg h0]
    obtain ⟨before, after, hs, ht⟩ := pendInsert_split (.x d w (s.cycle + lat)) s.core.pend
    refine ⟨rfl, ⟨fun _ _ => rfl, fun _ _ => rfl, rfl, ⟨rfl, rfl, rfl, rfl, rfl⟩,
      ⟨rfl, rfl, rfl, rfl, rfl, rfl, rfl, rfl, rfl, rfl, rfl, rfl⟩, fun _ => rfl, ⟨rfl, rfl, rfl, rfl, rfl, rfl⟩⟩,
      fun n hn => xAt_of_due h0 ht (fun p hp => h p (hs ▸ List.mem_append_right _ hp)) hn⟩

/-- An interlocked scalar result is in its register when the instruction ends, and nothing else has changed. -/
theorem retire_setXI_frame {s : State} {d : Reg} (h : NoPendX s d) (w : W64) (lat : Nat) :
    let t := retire (setXI s d w lat)
    t.core.pc = s.core.issue.npc ∧ KeepsAllBut s t [d] ∧ t.x d = if d = 0 then 0 else w := by
  by_cases h0 : d = 0
  · subst h0
    exact ⟨rfl, keepsAllBut_retire_rawX s 0 0, x_zero _⟩
  · rw [setXI_clear s d w lat h0 h, if_neg h0]
    obtain ⟨locks, hl⟩ := lockAt_changes (rawX s d w) (xPlace s.core.sc d) lat
    rw [hl]
    obtain ⟨hx, hv, hsys, hwin, hunits, hbytes, hdev⟩ := keepsAllBut_retire_rawX s d w
    exact ⟨rfl, ⟨hx, hv, hsys, hwin, hunits, hbytes, hdev⟩, x_rawX_self s w h0⟩

/-! ### Mask instructions (R138) -/

theorem lowMask_eq (v : W512) : lowMask v = v.setWidth 64 := BitVec.ofNat_toNat 64 v

theorem maskReg_eq (w : W64) : maskReg w = w.setWidth 512 := BitVec.ofNat_toNat 512 w

theorem setWidth_lowOnes {k : Nat} (hk : k ≤ 64) :
    (BitVec.ofNat 64 (2 ^ k - 1)).setWidth 512 = BitVec.ofNat 512 (2 ^ k - 1) := by
  have hpow : 2 ^ k ≤ 2 ^ 64 := Nat.pow_le_pow_right Nat.two_pos hk
  have hpos := Nat.two_pow_pos k
  apply BitVec.eq_of_toNat_eq
  rw [BitVec.toNat_setWidth, BitVec.toNat_ofNat, BitVec.toNat_ofNat, Nat.mod_eq_of_lt (a := 2 ^ k - 1) (b := 2 ^ 64) (by omega)]

/-- `cases h` leaves the mask instructions that write a vector register. -/
theorem exec_of_maskResult {i : Instr} {d : Reg} {w : W64} {s : State} (h : maskResult s i = some (d, w)) :
    exec i s = finish s (.ok (setVL s d (w.setWidth 512) 2)) := by
  cases i <;> cases h
  case mset =>
    rw [setWidth_lowOnes (Nat.min_le_left _ _)]
    rfl
  all_goals
    rw [← maskReg_eq]
    simp only [← lowMask_eq]
    rfl

/-- `cases h` leaves the mask instructions that write a scalar register. -/
theorem exec_of_maskCount {i : Instr} {d : Reg} {w : W64} {s : State} (h : maskCount s i = some (d, w)) :
    exec i s = finish s (.ok (setXL s d w 2)) := by
  have low : ∀ (v : W512) j, j < 64 → v.getLsbD j = (lowMask v).getLsbD j := fun v j hj => by simp [lowMask_eq, hj]
  cases i <;> cases h
  case mpopc =>
    rename_i a
    have hcount : (List.range 64).countP (fun j => (s.v a).getLsbD j) = popCount (lowMask (s.v a)).toNat 64 := by
      rw [popCount_eq_countP]
      exact List.countP_congr fun j hj => by rw [low _ j (List.mem_range.1 hj)]; rfl
    rw [hcount]
    rfl
  case mfirst =>
    rename_i a
    have hfirst : firstOne (fun j => (s.v a).getLsbD j) = ctzNat (lowMask (s.v a)).toNat 64 := by
      obtain ⟨hle, hbelow, hat⟩ := ctzNat_spec (lowMask (s.v a)).toNat 64
      exact firstOne_eq hle (fun j hj => (low _ j (by omega)).trans (hbelow j hj)) fun hk => (low _ _ hk).trans (hat hk)
    rw [hfirst]
    rfl

/-! ### Integer sums (R129) -/

section Sum

variable {s : State} {t : ETy} {a : Reg} {m : Msk}

/-- The number an element adds to an integer sum: none where the mask is off. -/
def sumTerm (s : State) (t : ETy) (a : Reg) (m : Msk) (k : Nat) : Nat :=
  if mskOn s m (tyWidth t) k then elem (s.v a) (tyWidth t) k else 0

theorem sumTerm_lt (k : Nat) : sumTerm s t a m k < 2 ^ tyWidth t := by
  unfold sumTerm
  split
  · exact elem_lt _ _ _
  · exact Nat.two_pow_pos _

theorem redIn_sum_of_isIN (h : (t.isI || t.isN) = true) :
    redIn s t .sum a m = (List.range (512 / tyWidth t)).map fun k => (sumTerm s t a m k, 0) := by
  simp only [redIn, redId, isF_of_isIN h, Bool.false_eq_true, if_false]
  rfl

theorem redOp_sum_of_isIN (h : (t.isI || t.isN) = true) (x y : Nat × Flags) : redOp s t .sum x y =
    (wrapTo (tyWidth t) (laneInt t x.1 + laneInt t y.1), x.2 ||| y.2) := by
  simp only [redOp, arith2_of_isIN h, flags_or_zero]

theorem wrapTo_congr {w : Nat} {x y : Int} (h : x % 2 ^ w = y % 2 ^ w) : wrapTo w x = wrapTo w y := congrArg Int.toNat h

theorem laneInt_wrapTo_emod (z : Int) : laneInt t (wrapTo (tyWidth t) z) % 2 ^ tyWidth t = z % 2 ^ tyWidth t := by
  rw [laneInt_emod t (wrapTo_lt _ z), wrapTo, Int.toNat_of_nonneg (Int.emod_nonneg _ (by positivity))]

/-- A tree of integer sums is the sum of its leaves modulo 2^w, without flags. -/
theorem laneTree_sum (h : (t.isI || t.isN) = true) {leaf : Nat → Nat} (hleaf : ∀ k, leaf k < 2 ^ tyWidth t) (n i : Nat) :
    laneTree (redOp s t .sum) leaf n i =
      (wrapTo (tyWidth t) ((List.range (2 ^ n)).map fun j => laneInt t (leaf (i + j))).sum, 0) := by
  induction n generalizing i with
  | zero => simp [laneTree, wrapTo_laneInt t (hleaf i)]
  | succ n ih =>
    have hsplit : (List.range (2 ^ (n + 1))).map (fun j => laneInt t (leaf (i + j))) =
        (List.range (2 ^ n)).map (fun j => laneInt t (leaf (i + j))) ++
          (List.range (2 ^ n)).map fun j => laneInt t (leaf (i + 2 ^ n + j)) := by
      rw [Nat.pow_succ, Nat.mul_two, List.range_add, List.map_append, List.map_map]
      simp only [Function.comp_def, Nat.add_assoc]
    rw [laneTree, ih, ih, redOp_sum_of_isIN h, hsplit, List.sum_append]
    refine Prod.ext (wrapTo_congr ?_) (flags_or_zero 0)
    rw [Int.add_emod, laneInt_wrapTo_emod, laneInt_wrapTo_emod, ← Int.add_emod]

theorem lanes_of_isIN (h : (t.isI || t.isN) = true) : ∃ k, 512 / tyWidth t = 2 ^ k ∧ k ≤ 7 := by
  cases t
  case i8 | n8 => exact ⟨6, rfl, by decide⟩
  case i16 | n16 => exact ⟨5, rfl, by decide⟩
  case i32 | n32 => exact ⟨4, rfl, by decide⟩
  case i64 | n64 => exact ⟨3, rfl, by decide⟩
  all_goals cases h

theorem laneInt_zero : laneInt t 0 = 0 := by simp [laneInt]

/-- The sum of the elements that are on, each as a number (R129). -/
def laneSum (s : State) (t : ETy) (a : Reg) (m : Msk) : Int :=
  (((List.range (512 / tyWidth t)).filter fun k => mskOn s m (tyWidth t) k).map fun k =>
    laneInt t (elem (s.v a) (tyWidth t) k)).sum

/-- The elements that are off add nothing. -/
theorem sum_sumTerm (l : List Nat) : (l.map fun k => laneInt t (sumTerm s t a m k)).sum =
    ((l.filter fun k => mskOn s m (tyWidth t) k).map fun k => laneInt t (elem (s.v a) (tyWidth t) k)).sum := by
  induction l with
  | nil => rfl
  | cons k l ih =>
    rw [List.map_cons, List.sum_cons, ih, List.filter_cons, sumTerm]
    split
    · rw [List.map_cons, List.sum_cons]
    · rw [laneInt_zero, Int.zero_add]

theorem treeVal_sum_of_isIN (h : (t.isI || t.isN) = true) : treeVal s t .sum (redIn s t .sum a m) =
    (wrapTo (tyWidth t) (laneSum s t a m), 0) := by
  obtain ⟨k, hk, h7⟩ := lanes_of_isIN h
  obtain ⟨extra, he⟩ := Nat.exists_eq_add_of_le h7
  have htree := treeGo_leaves (redOp s t .sum) (sumTerm s t a m) 0 k extra
  have hsum := laneTree_sum (s := s) h (sumTerm_lt (s := s) (a := a) (m := m)) k 0
  simp only [Nat.zero_add] at htree hsum
  rw [treeVal, redIn_sum_of_isIN h, hk, he, htree, hsum, sum_sumTerm, laneSum, hk]
  rfl

end Sum

/-- Settles O28, clause by clause: a compare packs its mask bits, an integer sum is the tree of its terms, and every result but a
count lands in a vector register. -/
theorem compareSelectMaskAndSum : Obligations.CompareSelectMaskAndSum := by
  unfold Obligations.CompareSelectMaskAndSum
  refine ⟨?compare, ?select, ?mask, ?count, ?sum⟩
  case compare =>
    intro c t d a b m s ht hq
    have hexec : exec (.vcmp c t d a b m) s = finish s (.ok (setVL s d
        (pack 1 ((List.range (512 / tyWidth t)).map (compareBit s t c d a b m))) 2)) := by
      change finish s (.ok (setVL (raise s (cmpMask s t c d a b m).2) d (BitVec.ofNat 512 (cmpMask s t c d a b m).1) 2)) = _
      rw [cmpMask_of_isIN s c d a b m ht, raise_zero, pack]
    have hl := landsV_setVL hq (pack 1 ((List.range (512 / tyWidth t)).map (compareBit s t c d a b m))) 2
    refine ⟨_, hexec, hl.pc, hl.frame, fun n hn => ⟨fun hd i hi => ?_, (hl.value n hn).2⟩⟩
    rw [(hl.value n hn).1 hd]
    exact elem_pack_range (compareBit_lt s t c d a b m) hi
  case select =>
    intro t d a b m s hq
    have hl := landsV_setVL hq (pack (tyWidth t) (selElems s t a b m)) 2
    have hexec : exec (.vsel t d a b m) s = finish s (.ok (setVL s d (pack (tyWidth t) (selElems s t a b m)) 2)) :=
      congrArg (fun u => finish s (.ok (setVL u d (pack (tyWidth t) (selElems s t a b m)) 2))) (raise_zero s)
    refine ⟨_, hexec, hl.pc, hl.frame, fun n hn => givesV_of_pack (fun k => ?_) (hl.value n hn)⟩
    split
    · exact elem_lt _ _ _
    · exact elem_lt _ _ _
  case mask =>
    intro i d w s h hq
    have hl := landsV_setVL hq (w.setWidth 512) 2
    exact ⟨_, exec_of_maskResult h, hl.pc, hl.frame, hl.value⟩
  case count =>
    intro i d w s h hp
    exact ⟨_, exec_of_maskCount h, retire_setXL_frame hp w (by decide)⟩
  case sum =>
    intro t d a m s ht hq
    have hexec : exec (.vred .sum t d a m) s =
        finish s (.ok (setVL s d (BitVec.ofNat 512 (wrapTo (tyWidth t) (laneSum s t a m))) 6)) := by
      change finish s (.ok (setVL (raise s (treeVal s t .sum (redIn s t .sum a m)).2) d
        (BitVec.ofNat 512 (treeVal s t .sum (redIn s t .sum a m)).1) 6)) = _
      rw [treeVal_sum_of_isIN ht, raise_zero]
    have hl := landsV_setVL hq (BitVec.ofNat 512 (wrapTo (tyWidth t) (laneSum s t a m))) 6
    refine ⟨_, hexec, hl.pc, hl.frame, fun n hn => ⟨fun hd i hi => ?_, (hl.value n hn).2⟩⟩
    rw [(hl.value n hn).1 hd]
    exact elem_ofNat_of_lt (wrapTo_lt _ _) hi

/-! ### Element moves (R132) -/

theorem extWord_eq (t : ETy) (x : Nat) : extWord t x = BitVec.ofInt 64 (laneInt t x) := by
  rw [← sgnOf_eq_laneInt, extWord]
  split
  · rfl
  · exact (BitVec.ofInt_natCast 64 x).symm

theorem underMask_none (s : State) (w : Nat) (d : Reg) (f : Nat → Nat) : underMask s Msk.none w d f = f := by
  funext i
  simp [underMask, mskOn, Msk.none]

/-- VINS makes its register anew from the old elements and the new one. -/
theorem insElem_eq (v : W512) (w i x : Nat) : insElem v w i x =
    pack w ((List.range (512 / w)).map fun k => if k = i then x else elem v w k) := by
  rw [insElem, elems]
  congr 1
  refine List.ext_getElem (by simp) fun k _ _ => ?_
  simp only [List.getElem_set, List.getElem_map, List.getElem_range, eq_comm]

/-- `cases h` leaves the element moves that write a vector register. -/
theorem writesV_of_moveLane {i : Instr} {t : ETy} {d : Reg} {m : Msk} {f : Nat → Nat} {s : State}
    (h : moveLane s i = some (t, d, m, f)) (hq : QuietV s d) :
    (∀ k, f k < 2 ^ tyWidth t) ∧ ∃ u, exec i s = .next u ∧
      WritesV s u d 0 s.cycle (pack (tyWidth t) ((List.range (512 / tyWidth t)).map (underMask s m (tyWidth t) d f))) := by
  cases i <;> cases h
  case vperm =>
    rename_i a b
    have hexec : exec (.vperm t d a b m) s = finish s (vecI s d 3 (tyWidth t) (map1 s t d b m fun k =>
        (elem (s.v a) (tyWidth t) (k % (512 / tyWidth t)), 0))) := rfl
    rw [map1_eq, maskMerge_range, onFlags_zero] at hexec
    exact ⟨fun _ => elem_lt _ _ _, _, hexec, writesV_setVI hq 0 _ 3⟩
  case vbcast =>
    rename_i a
    have hexec : exec (.vbcast t d a m) s = finish s (vecI s d 3 (tyWidth t) (map1 s t d d m fun _ =>
        ((s.x a).toNat % 2 ^ tyWidth t, 0))) := rfl
    rw [map1_eq, maskMerge_range, onFlags_zero] at hexec
    exact ⟨fun _ => Nat.mod_lt _ (Nat.two_pow_pos _), _, hexec, writesV_setVI hq 0 _ 3⟩
  case vins =>
    rename_i a b
    have hexec : exec (.vins t d a b) s = finish s (.ok (setVI s d (insElem (s.v d) (tyWidth t)
        ((s.x b).toNat % (512 / tyWidth t)) ((s.x a).toNat % 2 ^ tyWidth t)) 3)) := rfl
    rw [underMask_none, hexec, insElem_eq]
    refine ⟨fun k => ?_, _, rfl, ?_⟩
    · dsimp only
      split
      · exact Nat.mod_lt _ (Nat.two_pow_pos _)
      · exact elem_lt _ _ _
    · have hw := writesV_setVI hq 0 (pack (tyWidth t) ((List.range (512 / tyWidth t)).map fun k =>
        if k = (s.x b).toNat % (512 / tyWidth t) then (s.x a).toNat % 2 ^ tyWidth t else elem (s.v d) (tyWidth t) k)) 3
      rwa [raise_zero] at hw

/-- Settles O29: the lanes of the moves into a vector register, and VEXT's number. -/
theorem elementMoves : Obligations.ElementMoves := by
  unfold Obligations.ElementMoves
  refine ⟨?move, ?extract⟩
  case move =>
    intro i t d m f s h hq
    obtain ⟨hf, u, hu, hw⟩ := writesV_of_moveLane h hq
    exact ⟨u, hu, hw.pc, hw.frame, givesV_of_pack (fun k => underMask_lt (hf k)) (hw.value _ (Nat.le_refl _))⟩
  case extract =>
    intro t d a b s hp
    refine ⟨_, rfl, ?_⟩
    rw [extWord_eq]
    exact retire_setXI_frame hp _ 3

end Sys2Proof.Machine

/-! A stream descriptor in the local memory of a core of another chip, while the links to that chip retrain (16_copy R365; 23_link
R427, R429): FrameAndStreamInstructions does not ask that the core in focus be one of this chip's 8,192. -/
namespace Sys2Proof.Machine

/-- A core of chip 1, numbered 8192, whose x1 names a descriptor with every count 1 at the start of its local memory; the one link
to chip 1 retrains. -/
def streamBehindRetraining : State :=
  { State.reset with
    core := { Core.reset 8192 with
      pos := 0, run := .running, issue := { Issue.reset with npc := 4 }
      sc := Scalars.reset.set 1 (BitVec.ofNat 64 (localKey 8192 0)), vec := { Vectors.reset with s3 := .mapped 0 } }
    mem := [(localKey 8192 12, 1), (localKey 8192 14, 1), (localKey 8192 24, 1)]
    out := { Outside.reset with links := [(0, { Link.fresh with peer := 1, st := .retraining })] } }

theorem ownBlock_streamBehindRetraining : OwnBlock streamBehindRetraining (streamBehindRetraining.x 1) 8 4 := by
  intro i hi
  have hcases : i = 0 ∨ i = 1 ∨ i = 2 ∨ i = 3 := by omega
  rcases hcases with rfl | rfl | rfl | rfl
  all_goals
    refine ⟨⟨?_, ?_, ?_, ?_, ?_⟩, ⟨?_, ?_, ?_, ?_⟩⟩
    all_goals decide +kernel

/-- The first load of the descriptor waits for the link, and STRM with it. -/
theorem strm_streamBehindRetraining_pc {t : State} (h : exec (.strm 24 1) streamBehindRetraining = .next t) : t.core.pc = 0 := by
  have hpc : (match exec (.strm 24 1) streamBehindRetraining with | .next u => u.core.pc | _ => 4) = 0 := by decide +kernel
  rwa [h] at hpc

/-- Refutes O33: a STRM whose descriptor can be read but for the link to its chip does not complete. -/
theorem not_frameAndStreamInstructions : ¬ Obligations.FrameAndStreamInstructions := by
  unfold Obligations.FrameAndStreamInstructions
  rintro ⟨-, -, -, -, -, -, hstrm, -⟩
  obtain ⟨t, x, ht, hpc, -⟩ := hstrm 24 1 0 streamBehindRetraining rfl ownBlock_streamBehindRetraining (by decide +kernel)
    (by decide +kernel) (by decide +kernel) (by decide +kernel)
  rw [strm_streamBehindRetraining_pc ht] at hpc
  exact absurd hpc (by decide +kernel)

end Sys2Proof.Machine

/-! The acknowledgement of a failed store of a context that is not on its core (06_memory R159; 09_context R242): the clause of
MessageAndPoolEvents on acknowledgements asks that nothing be kept of that context, and not that the core run it. -/
namespace Sys2Proof.Machine

/-- A store of core 0 in context 5 that has failed at address 64. -/
def failedStoreOfFive : Packet :=
  { id := 0, src := .core 0, ctx := 5, asid := 0, die := 0, stamp := Clock.zero, sent := 0, window := 0, addr := 64
    body := .store (.loc 0) [], st := .acked (some 64), counted := false, park := none }

/-- Core 0 runs in no context, and the acknowledgement of that store is on its way. -/
def ackOfAbsentContext : State := { State.reset with net := [failedStoreOfFive] }

/-- The core holds no error for a context it does not run. -/
theorem storeAck_ackOfAbsentContext_ferr {t : State} (h : exec .storeAck ackOfAbsentContext = .next t) :
    (getCore t 0).ev.ferr = none := by
  have hferr : (match exec .storeAck ackOfAbsentContext with | .next u => (getCore u 0).ev.ferr | _ => some 0) = none := by
    decide +kernel
  rwa [h] at hferr

/-- Refutes O48: the address of a failed store is not held at a core that runs another context than the store's. -/
theorem not_messageAndPoolEvents : ¬ Obligations.MessageAndPoolEvents := by
  unfold Obligations.MessageAndPoolEvents
  rintro ⟨-, -, -, hack, -⟩
  obtain ⟨t, ht, -, hferr, -⟩ := hack failedStoreOfFive 0 (some 64) ackOfAbsentContext rfl rfl rfl rfl (by decide +kernel) rfl
    rfl rfl (Nat.le_refl 0)
  rw [storeAck_ackOfAbsentContext_ferr ht] at hferr
  exact absurd hferr (by decide +kernel)

end Sys2Proof.Machine

/-! A core of another chip while the links to that chip retrain (06_memory R149, R162; 23_link R427, R429): the statements on accesses
of the own local memory do not ask that the core in focus be one of this chip's 8,192, and the home of such a core's local memory
answers over the link. -/
namespace Sys2Proof.Machine

/-- A core of chip 1, numbered 8192, whose x1 names the start of its local memory; the one link to chip 1 retrains. -/
def ownMemoryBehindRetraining : State :=
  { State.reset with
    core := { Core.reset 8192 with
      pos := 0, run := .running, issue := { Issue.reset with npc := 4 }
      sc := Scalars.reset.set 1 (BitVec.ofNat 64 (localKey 8192 0)) }
    out := { Outside.reset with links := [(0, { Link.fresh with peer := 1, st := .retraining })] } }

theorem ownAccess_ownMemoryBehindRetraining : OwnAccess ownMemoryBehindRetraining (ownMemoryBehindRetraining.x 1) 8 := by
  refine ⟨?_, ?_, ?_, ?_, ?_⟩ <;> decide +kernel

theorem ownReadable_ownMemoryBehindRetraining : OwnReadable ownMemoryBehindRetraining (ownMemoryBehindRetraining.x 1) 8 := by
  refine ⟨?_, ?_, ?_, ?_⟩ <;> decide +kernel

/-- An instruction that leaves the pc where it is does not complete there. -/
theorem not_completes_of_pc {o : Host.Outcome State Fault Refusal} {pc : W64}
    (hpc : (match o with | .next t => t.core.pc | _ => pc) ≠ pc) {t : State} (h : o = .next t) : t.core.pc ≠ pc := by
  rwa [h] at hpc

/-- Refutes O18: the blocking far load waits for the link to the chip of its core, and LDF with it. -/
theorem not_interlockedLoadAndWait : ¬ Obligations.InterlockedLoadAndWait := by
  unfold Obligations.InterlockedLoadAndWait
  rintro ⟨hload, -⟩
  obtain ⟨t, ht, hpc, -⟩ := hload (.ldf .d 2 1) 2 _ _ ownMemoryBehindRetraining rfl ownAccess_ownMemoryBehindRetraining
    ownReadable_ownMemoryBehindRetraining (fun p hp => nomatch hp) (fun _ => rfl)
  exact not_completes_of_pc (by decide +kernel) ht hpc

/-- Refutes O21: the read of the old word waits for the link to the chip of its core, and the atomic with it. -/
theorem not_atomicOnOwnMemory : ¬ Obligations.AtomicOnOwnMemory := by
  unfold Obligations.AtomicOnOwnMemory
  intro h
  obtain ⟨t, ht, hpc, -⟩ := h (.atomAdd .d 2 1 0) .add 2 _ _ 0 ownMemoryBehindRetraining rfl (by decide)
    ownAccess_ownMemoryBehindRetraining ownReadable_ownMemoryBehindRetraining (fun p hp => nomatch hp)
  exact not_completes_of_pc (by decide +kernel) ht hpc

end Sys2Proof.Machine

/-! A fence whose die has stepped its release counter 2^31 times (07_ordering R174, R177): the clock that a fence merges when no reply
has come is zero, and in R177's serial order zero stands above such a counter. -/
namespace Sys2Proof.Machine

/-- Die 0 after 2^31 releases of its own and one of die 1's; core 0 has nothing on its way. -/
def manyReleases : State :=
  { State.reset with mu := { MemUnits.reset with dies := [(0, { Die.fresh with vc := ⟨2 ^ 31, 1, 0, 0⟩ })] } }

theorem settled_manyReleases : Settled manyReleases where
  results := rfl
  stores := by decide +kernel
  marks := rfl
  peer := rfl
  failed := rfl
  awake := rfl
  unpaired := rfl

/-- The release counter is back at zero after the fence. -/
theorem fence_manyReleases_releaseCount {t : State} (h : exec (.fence .device) manyReleases = .next t) : releaseCount t = 0 := by
  have hcount : (match exec (.fence .device) manyReleases with | .next u => releaseCount u | _ => 1) = 0 := by decide +kernel
  rwa [h] at hcount

/-- Refutes O25: the acquire of a full FENCE at .device sets the release counter, which has just stepped, to zero. -/
theorem not_fencesAndFailedStores : ¬ Obligations.FencesAndFailedStores := by
  unfold Obligations.FencesAndFailedStores
  rintro ⟨hfence, -⟩
  obtain ⟨t, ht, -, -, -, -, -, -, hcount⟩ := hfence (.fence .device) .device manyReleases (.inl rfl) settled_manyReleases
  have hstep := hcount (by decide) (by decide) (by decide +kernel)
  rw [fence_manyReleases_releaseCount ht] at hstep
  exact absurd hstep (by decide +kernel)

end Sys2Proof.Machine

/-! Accesses of the own local memory (06_memory R144, R157, R158, R160; 07_ordering R176): where such an address lies, and what holds a
store back. -/
namespace Sys2Proof.Machine

/-! ### Addresses -/

section Own
variable {s : State} {ea : W64} {n : Nat}

/-- An address in the window of the own local memory, in every mode and for every access (R144, R146). -/
theorem resolve_own (h : OwnAccess s ea n) (a : Acs) : resolve s ea a = .ok (s, .loc s.core.num, ownKey s ea) := by
  obtain ⟨hwindow, hnum, hupper, -, -⟩ := h
  have hwin : fld ea 63 62 = 2 := by rw [fld_eq, hwindow]; rfl
  have hup : fld ea 36 16 = 0 := by rw [fld_eq]; exact hupper
  have hn : fld ea 61 37 = s.core.num := by rw [fld_eq]; exact hnum
  have hoff : fld ea 15 0 = ea.toNat % 2 ^ 16 := by rw [fld_eq, Nat.pow_zero, Nat.div_one]
  unfold resolve
  simp only [hwin, hup, hn, hoff, ne_eq, not_true_eq_false, if_false, if_true]
  rfl

theorem watchAt_of_unwatched (h : OwnAccess s ea n) (store : Bool) : watchAt s ea n store = s := by
  rw [watchAt, if_pos (by rw [h.unwatched]; rfl)]

theorem settleMarks_of_none (h : s.core.marks = []) : settleMarks s = s := by rw [settleMarks, if_pos (by rw [h]; rfl)]

theorem not_held (h : s.core.marks = []) : held s = false := by rw [held, h]; rfl

@[simp] theorem ownLocal_own (s : State) : ownLocal s (.loc s.core.num) = true := beq_self_eq_true _

@[simp] theorem getCore_num (s : State) : getCore s s.core.num = s.core := if_pos rfl

/-- Every byte of an aligned access lies in one line (R157). -/
theorem lineKeyOf_own (hal : ea.toNat % n = 0) (hn : n ∣ 64) {k : Nat} (hlo : ownKey s ea ≤ k) (hhi : k < ownKey s ea + n) :
    lineKeyOf k = lineKeyOf (ownKey s ea) := by
  obtain ⟨c, hc⟩ := hn
  obtain ⟨q, hq⟩ := Nat.dvd_of_mod_eq_zero hal
  have hpos : 0 < n := Nat.pos_of_ne_zero fun h => by rw [h, Nat.zero_mul] at hc; cases hc
  have hkey : n ∣ ownKey s ea := by
    have h64 : n ∣ 64 := ⟨c, hc⟩
    refine Nat.dvd_add (Nat.dvd_add ?_ ?_) ?_
    · exact h64.trans (by decide)
    · exact h64.trans (Dvd.dvd.mul_left (by decide) _)
    · exact (Nat.dvd_mod_iff (h64.trans (by decide))).2 ⟨q, hq⟩
  obtain ⟨j, hj⟩ := hkey
  have hline (m : Nat) : lineKeyOf m = m / n / c := by rw [lineKeyOf, hc, Nat.div_div_eq_div_mul]
  have hquot : k / n = ownKey s ea / n := by
    rw [hj, Nat.mul_div_cancel_left _ hpos]
    exact Nat.div_eq_of_lt_le (by rw [Nat.mul_comm, ← hj]; exact hlo) (by rw [Nat.mul_comm, Nat.mul_succ, ← hj]; exact hhi)
  rw [hline, hline, hquot]

/-! ### What holds a store back (R158, R176) -/

theorem homeOf_own (s : State) : homeOf s (.loc s.core.num) = if s.core.num < nCores then some (dieOf s.core.pos) else none := by
  rw [homeOf, getCore_num]

theorem not_lateCells_own (h : OwnWritable s ea n) (hal : ea.toNat % n = 0) (hn : n ∣ 64) {l : List Byte} (hl : l.length = n) :
    lateCells s s.net (.loc s.core.num) (cellsAt (ownKey s ea) l) = false := by
  rw [lateCells, homeOf_own]
  split
  next d hd =>
    have hdie : d = dieOf s.core.pos := by
      split at hd <;> cases hd
      rfl
    refine List.any_eq_false.2 fun line hline => ?_
    obtain ⟨c, hc, rfl⟩ := List.mem_map.1 (List.mem_dedup.1 hline)
    obtain ⟨hlo, hhi⟩ := mem_cellsAt hc
    rw [lineKeyOf_own hal hn hlo (hl ▸ hhi), hdie]
    exact Bool.eq_false_iff.1 h.heard
  next => rfl

/-- Writing a byte of memory only marks JOINs whose counter has come to zero (11_kernel R292). -/
theorem noteCounter_changes (s : State) (ctx : Nat) (place : Place) (cells : List Host.Cell) :
    ∃ joins, noteCounter s ctx place cells = { s with un := { s.un with joins := joins } } := by
  unfold noteCounter
  extract_lets hit zero
  split
  · exact ⟨_, rfl⟩
  · exact ⟨s.un.joins, rfl⟩

theorem storeAt_own (h : OwnWritable s ea n) (hm : s.core.marks = []) (hal : ea.toNat % n = 0) (hn : n ∣ 64) {l : List Byte}
    (hl : l.length = n) : storeAt s ea (.loc s.core.num) (ownKey s ea) l =
      .ok (noteCounter (rawWrite s (cellsAt (ownKey s ea) l)) (ctxNum s.core) (.loc s.core.num) (cellsAt (ownKey s ea) l)) := by
  unfold storeAt
  simp only [settleMarks_of_none hm, not_held hm, ownLocal_own, not_lateCells_own h hal hn hl, hl, h.ahead, Bool.or_self,
    Bool.false_eq_true, reduceCtorEq, if_false, if_true]

end Own

/-! ### ST and STX (R160) -/

theorem szBytes_dvd (z : Sz) : szBytes z ∣ 64 := by cases z <;> decide

/-- A scalar store stores its register's low bytes, at an address of one of the sizes of R157. -/
theorem exec_of_plainStore {i : Instr} {ea : W64} {n : Nat} {w : W64} {s : State} (h : plainStore s i = some (ea, n, w)) :
    exec i s = finish s (stEff s ea n w) ∧ n ∣ 64 := by
  cases i <;> cases h
  case st | stx => exact ⟨rfl, szBytes_dvd _⟩
  case stDShort | stWShort => exact ⟨rfl, by decide⟩

/-- Cells written in the own local memory at the end of an instruction, and nothing else. -/
theorem accessFrame_rawWrite (s : State) (k : Nat) (l : List Byte) (ctx : Nat) (place : Place) :
    AccessFrame s (retire (noteCounter (rawWrite s (cellsAt k l)) ctx place (cellsAt k l))) [] k l.length := by
  obtain ⟨joins, h⟩ := noteCounter_changes (rawWrite s (cellsAt k l)) ctx place (cellsAt k l)
  rw [h]
  exact ⟨fun _ _ => rfl, fun _ _ => rfl, rfl, ⟨rfl, rfl, rfl, rfl, rfl⟩, ⟨rfl, rfl, rfl, rfl, rfl, rfl, rfl, rfl, rfl, rfl, rfl, rfl⟩,
    fun a ha => mget_mputs_cellsAt_out s.mem k a l ha, rfl, rfl, ⟨joins, rfl⟩, rfl, rfl⟩

/-- Settles O19: nothing holds the store back, and it writes its own bytes at once. -/
theorem storeToOwnMemory : Obligations.StoreToOwnMemory := by
  unfold Obligations.StoreToOwnMemory
  intro i ea n w s hi hown hm hw
  obtain ⟨hexec, hn⟩ := exec_of_plainStore hi
  have hlen := length_bytesOf w.toNat n
  have heff : stEff s ea n w = storeAt s ea (.loc s.core.num) (ownKey s ea) (bytesOf w.toNat n) := by
    rw [stEff, storeCore, if_neg (by rw [hlen, hown.aligned]; decide), resolve_own hown, hlen]
    exact congrArg (storeAt · _ _ _ _) (watchAt_of_unwatched hown true)
  rw [hexec, heff, storeAt_own hw hm hown.aligned hn hlen]
  have hframe := accessFrame_rawWrite s (ownKey s ea) (bytesOf w.toNat n) (ctxNum s.core) (.loc s.core.num)
  obtain ⟨joins, hj⟩ := noteCounter_changes (rawWrite s (cellsAt (ownKey s ea) (bytesOf w.toNat n))) (ctxNum s.core)
    (.loc s.core.num) (cellsAt (ownKey s ea) (bytesOf w.toNat n))
  have hread := mread_mputs_cellsAt s.mem (ownKey s ea) (bytesOf w.toNat n)
  rw [hlen] at hframe hread
  refine ⟨_, rfl, by rw [hj]; rfl, hframe, ?_⟩
  rw [hj]
  exact hread

end Sys2Proof.Machine

/-! An access to the local memory of a core outside the context's range (06_memory R146; 09_context R246): every scalar access
translates its address before it does anything else. -/
namespace Sys2Proof.Machine

/-! ### An address that is refused -/

section Refused
variable {s : State} {ea : W64} {n : Nat} (hal : ea.toNat % n = 0) {e : Stop} (hr : ∀ a, resolve s ea a = .error e)
include hal hr

theorem ldEff_refused (d : Reg) : ldEff s d ea n = .error e := by simp [ldEff, loadCore, hal, hr]
theorem stEff_refused (w : W64) : stEff s ea n w = .error e := by simp [stEff, storeCore, length_bytesOf, hal, hr]
theorem ldfEff_refused (d : Reg) : ldfEff s d ea n = .error e := by simp [ldfEff, hal, hr]
theorem ldaqEff_refused (c : Scope) (d : Reg) : ldaqEff s c n d ea = .error e := by simp [ldaqEff, hal, hr]
theorem ldfTaggedEff_refused (tag : W64) : ldfTaggedEff s ea n tag = .error e := by simp [ldfTaggedEff, hal, hr]
theorem stfEff_refused (w : W64) (tag : Option W64) : stfEff s ea n w tag = .error e := by simp [stfEff, hal, hr]
theorem strlEff_refused (c : Scope) (w : W64) : strlEff s c ea n w = .error e := by simp [strlEff, hal, hr]
theorem waitaEff_refused (d : Reg) (limit : W64) : waitaEff s n d ea limit = .error e := by simp [waitaEff, hal, hr]
theorem atomCore_refused (op : AOp) (d : Reg) (expect arg : W64) : atomCore s op n d ea expect arg = .error e := by
  simp [atomCore, hal, hr]

/-- An aligned scalar access to an address that is refused ends as its translation does (R144, R157). -/
theorem exec_of_scalarAccess_refused {i : Instr} (h : scalarAccess s i = some (ea, n)) : exec i s = finish s (.error e) := by
  cases i <;> cases h
  case ld | ldx | ldDShort | ldWShort => exact congrArg (finish s) (ldEff_refused hal hr _)
  case st | stx | stDShort | stWShort => exact congrArg (finish s) (stEff_refused hal hr _)
  case ldf => exact congrArg (finish s) (ldfEff_refused hal hr _)
  case ldfTagged => exact congrArg (finish s) (ldfTaggedEff_refused hal hr _)
  case stf => exact congrArg (finish s) (stfEff_refused hal hr _ _)
  case waita => exact congrArg (finish s) (waitaEff_refused hal hr _ _)
  case ldaq => exact congrArg (finish s) (ldaqEff_refused hal hr _ _)
  case strl => exact congrArg (finish s) (strlEff_refused hal hr _ _)
  all_goals exact congrArg (finish s) (atomCore_refused hal hr _ _ _ _)

end Refused

/-- Outside the monitor a window of a core outside the context's range is a violation (R146). -/
theorem resolve_outside {s : State} {ea : W64} (hwindow : ea.toNat / 2 ^ 62 = 2) (hupper : ea.toNat / 2 ^ 16 % 2 ^ 21 = 0)
    (hother : ea.toNat / 2 ^ 37 % 2 ^ 25 ≠ s.core.num) (hmode : modeOf s.core ≠ 2) (hctx : noCtx s.core = false)
    (hout : inRange s (curCtx s.core) (ea.toNat / 2 ^ 37 % 2 ^ 25) = false) (a : Acs) : resolve s ea a = .error .freeze := by
  have hwin : fld ea 63 62 = 2 := by rw [fld_eq, hwindow]; rfl
  have hup : fld ea 36 16 = 0 := by rw [fld_eq]; exact hupper
  have hn : fld ea 61 37 = ea.toNat / 2 ^ 37 % 2 ^ 25 := fld_eq ea 61 37
  have hmon : inMonitor s.core = false := by rw [inMonitor]; exact beq_false_of_ne hmode
  unfold resolve
  simp only [hwin, hup, hn, hother, hmon, hctx, hout, ne_eq, not_true_eq_false, Bool.not_false, Bool.and_false, Bool.or_self,
    Bool.false_eq_true, if_false]

/-! ### The core frozen (R246) -/

/-- A notice changes no core but for the notices it holds, and no unit of the device but those that notices wait in. -/
theorem sendNotice_changes (s : State) (n : Nat) (x : Notice) : ∃ others notices mu out, sendNotice s n x =
    { s with core := { s.core with ev := { s.core.ev with notices := notices } }, others := others, mu := mu, out := out } := by
  unfold sendNotice modCore
  dsimp only
  split
  · split
    · exact ⟨s.others, _, s.mu, _, rfl⟩
    · exact ⟨_, s.core.ev.notices, s.mu, _, rfl⟩
  · exact ⟨s.others, s.core.ev.notices, _, _, rfl⟩

theorem memoryOnly_freezeLife (s : State) (ctx : Nat) : MemoryOnly s (freezeLife s ctx) := memoryOnly_physWrite _ _ _

/-- The core in focus as a violation leaves it, with its results landed. -/
def stopped (s : State) : State :=
  { landAll s with core := { (landAll s).core with run := .frozen, issue := { (landAll s).core.issue with mark := .trapped } } }

theorem freezeCore_eq (s : State) : freezeCore s =
    let t := freezeLife (stopped s) (curCtx s.core)
    sendNotice t (noticeCore t (dieOf (landAll s).core.pos)) (mkNotice 1 (curCtx s.core) (landAll s).core.num 0) := rfl

theorem freezeCore_changes (s : State) : (∃ notices, (freezeCore s).core =
    { (stopped s).core with ev := { (stopped s).core.ev with notices := notices } }) ∧ (freezeCore s).un = (landAll s).un := by
  have ht := memoryOnly_freezeLife (stopped s) (curCtx s.core)
  rw [freezeCore_eq]
  generalize freezeLife (stopped s) (curCtx s.core) = t at ht
  obtain ⟨others, notices, mu, out, h⟩ := sendNotice_changes t (noticeCore t (dieOf (landAll s).core.pos))
    (mkNotice 1 (curCtx s.core) (landAll s).core.num 0)
  dsimp only
  rw [h, ← ht.core]
  exact ⟨⟨notices, rfl⟩, ht.un⟩

/-- Settles O24: the translation of the address freezes the core, whose results land before that. -/
theorem accessOutsideContextFreezes : Obligations.AccessOutsideContextFreezes := by
  unfold Obligations.AccessOutsideContextFreezes
  intro i ea n s hi hal hwindow hupper hother hmode hctx hout
  refine ⟨freezeCore s, exec_of_scalarAccess_refused hal (resolve_outside hwindow hupper hother hmode hctx hout) hi, ?_⟩
  obtain ⟨⟨notices, hcore⟩, hun⟩ := freezeCore_changes s
  have hvec : (freezeCore s).core.vec = (landAll s).core.vec := by rw [hcore]; rfl
  have hpos : (freezeCore s).core.pos = (landAll s).core.pos := by rw [hcore]; rfl
  refine ⟨by rw [hcore]; rfl, by rw [hcore]; exact landAll_pc s, fun r _ => ?_, fun r _ => vget_congr hvec hpos hun r,
    by rw [hcore]; exact landAll_sys s⟩
  rw [State.x, hcore]
  rfl

end Sys2Proof.Machine

/-! Far accesses and posted atomics leave as one packet (06_memory R158, R161, R162). -/
namespace Sys2Proof.Machine

/-! ### Counting flits (22_resident R418) -/

/-- A change of the core in focus that a reading of a core does not see. -/
theorem getCore_mapCore {β : Type} (g : Core → β) {s : State} {f : Core → Core} (hg : g (f s.core) = g s.core)
    (hnum : (f s.core).num = s.core.num) (n : Nat) : g (getCore (s.mapCore f) n) = g (getCore s n) := by
  unfold getCore
  rw [mapCore_core, hnum, mapCore_others]
  split
  · exact hg
  · rfl

/-- The state with another resident task on the core in focus. -/
def withTask (s : State) (task : Resident) : State := s.mapCore fun c => { c with task := task }

@[simp] theorem withTask_un (s : State) (task : Resident) : (withTask s task).un = s.un := rfl

theorem countFlits_changes (s : State) (dest k : Nat) : ∃ task, countFlits s dest k = withTask s task := by
  unfold countFlits
  split
  · exact ⟨s.core.task, rfl⟩
  · exact ⟨_, rfl⟩

theorem getCore_withTask {β : Type} (g : Core → β) {s : State} {task : Resident} (hg : g { s.core with task := task } = g s.core)
    (n : Nat) : g (getCore (withTask s task) n) = g (getCore s n) := getCore_mapCore g hg rfl n

theorem ctxNum_task (c : Core) (task : Resident) : ctxNum { c with task := task } = ctxNum c := by
  rw [ctxNum, ctxNum, noCtx, noCtx, curCtx, curCtx]

/-- Whether a core is a member of a live checked pair does not depend on its resident task. -/
theorem partnerOf_withTask (s : State) (task : Resident) (n : Nat) : partnerOf (withTask s task) n = partnerOf s n := by
  have hctx : ctxNum (getCore (withTask s task) n) = ctxNum (getCore s n) := getCore_withTask ctxNum (ctxNum_task _ _) n
  have hpair : pairOf (withTask s task) n = pairOf s n := by
    simp only [pairOf, pairIn, hctx, withTask_un]
  have hres : (fun m => residentIn (getCore (withTask s task) m)) = fun m => residentIn (getCore s m) :=
    funext fun m => getCore_withTask residentIn (funext fun c => by rw [residentIn, residentIn, ctxNum_task]) m
  unfold partnerOf
  rw [hpair]
  cases pairOf s n with
  | none => rfl
  | some g => exact congrArg (fun f : Nat → Nat → Bool => if g.2.members.all (fun m => f m g.2.ctx) then
      (g.2.members.find? (fun m => m != n)).map (fun m => (g.1, m)) else none) hres

theorem CanSend.withTask {s : State} (h : CanSend s) (task : Resident) : CanSend (withTask s task) where
  marks := h.marks
  room := by
    have hmail : (getCore (Machine.withTask s task) s.core.num).mail = (getCore s s.core.num).mail := getCore_withTask (task := task) Core.mail rfl _
    have halone := h.unpaired
    have hsame : unacked (Machine.withTask s task) s.core.num = unacked s s.core.num := by
      rw [Unpaired] at halone
      unfold unacked
      rw [partnerOf_withTask, halone, hmail]
      rfl
    exact hsame ▸ h.room
  tagged := h.tagged
  mcast := h.mcast
  unpaired := (partnerOf_withTask s task _).trans h.unpaired
  number := h.number

/-! ### One packet on its way (R158) -/

/-- A packet to the own local memory is on its way, and nothing else has changed. -/
theorem launch_own {s : State} (hnum : s.core.num < nCores) {addr : W64} {body : Body} (hb : body.place = some (.loc s.core.num)) :
    launch s (corePacket s addr body) =
      { s with net := s.net ++ [corePacket s addr body], nextId := s.nextId + 1 } := by
  have hleaves : leaves s (corePacket s addr body).die (.loc s.core.num) (corePacket s addr body).body.lines = s := by
    rw [leaves, homeOf_own, if_pos hnum]
    exact if_pos rfl
  have hpeer : (corePacket s addr body).toPeer = false := by
    have hchip : (Place.loc s.core.num).chip = none := if_neg (Nat.not_le.2 hnum)
    cases body <;> cases hb
    all_goals
      rw [Packet.toPeer, Packet.peerChip]
      exact congrArg Option.isSome hchip
  unfold launch
  rw [show (corePacket s addr body).body.place = some (.loc s.core.num) from hb]
  dsimp only
  rw [hleaves, hpeer, if_neg Bool.false_ne_true, show max s.nextId ((corePacket s addr body).id + 1) = s.nextId + 1 from
    Nat.max_eq_right (Nat.le_succ _)]

/-- A core that may send does (R158). -/
theorem sendPacket_of_canSend {s : State} (h : CanSend s) {addr : W64} {body : Body} (hb : body.place = some (.loc s.core.num)) :
    sendPacket s addr body = .ok { s with net := s.net ++ [corePacket s addr body], nextId := s.nextId + 1 } := by
  unfold sendPacket sendPacketAs
  dsimp only
  rw [settleMarks_of_none h.marks, not_held h.marks, show partnerOf s s.core.num = none from h.unpaired,
    if_neg Bool.false_ne_true, if_neg (Nat.not_le.2 h.room)]
  exact congrArg Except.ok (launch_own h.number hb)

/-- What is left of a state when a packet has gone: the flits counted toward its destination, and the far loads outstanding. -/
def sentOne (s : State) (addr : W64) (body : Body) (task : Resident) (tagged : Nat) : State :=
  { s with
    core := { s.core with task := task, tagged := tagged }
    net := s.net ++ [corePacket s addr body], nextId := s.nextId + 1 }

section Sent
variable {s : State} {ea : W64} {n : Nat} (hown : OwnAccess s ea n) (hs : CanSend s)
include hown hs

theorem stfEff_own (w : W64) (tag : Option W64) : ∃ task, stfEff s ea n w tag =
    .ok (sentOne s ea (match tag with
      | none => .store (.loc s.core.num) (cellsAt (ownKey s ea) (bytesOf w.toNat n))
      | some g => .farStore (.loc s.core.num) (cellsAt (ownKey s ea) (bytesOf w.toNat n)) (BitVec.ofNat 16 g.toNat))
      task s.core.tagged) := by
  obtain ⟨task, ht⟩ := countFlits_changes s s.core.num 1
  refine ⟨task, ?_⟩
  unfold stfEff
  rw [if_neg (by rw [hown.aligned]; decide), resolve_own hown]
  dsimp only
  rw [watchAt_of_unwatched hown, if_neg (by rintro ⟨h, -⟩; cases h), if_neg (fun h => h hs.mcast), countFar, ht]
  cases tag <;> exact sendPacket_of_canSend (hs.withTask task) rfl

theorem ldfTaggedEff_own (tag : W64) : ∃ task, ldfTaggedEff s ea n tag =
    .ok (sentOne s ea (.farLoad (.loc s.core.num) (ownKey s ea) n (BitVec.ofNat 16 tag.toNat)) task (s.core.tagged + 1)) := by
  obtain ⟨task, ht⟩ := countFlits_changes s s.core.num 1
  refine ⟨task, ?_⟩
  have hwait : ¬ (64 ≤ s.core.tagged ∨ s.core.mail.mcast ≠ []) := by
    rintro (h | h)
    · exact absurd hs.tagged (Nat.not_lt.2 h)
    · exact h hs.mcast
  have hsent := launch_own (s := withTask s task) hs.number (addr := ea)
    (body := .farLoad (.loc s.core.num) (ownKey s ea) n (BitVec.ofNat 16 tag.toNat)) rfl
  have hwatch : watchAt (withTask s task) ea n false = withTask s task :=
    if_pos (congrArg List.isEmpty hown.unwatched)
  unfold ldfTaggedEff
  rw [if_neg (by rw [hown.aligned]; decide), resolve_own hown]
  dsimp only
  rw [if_neg (by rintro ⟨h, -⟩; cases h), if_neg hwait, countFar, ht, hwatch, (hs.withTask task).unpaired, hsent]
  rfl

theorem atomCore_posted_own (op : AOp) (expect arg : W64) : atomCore s op n 0 ea expect arg =
    .ok (sentOne s ea (.atomic (.loc s.core.num) (ownKey s ea) n op expect arg) s.core.task s.core.tagged) := by
  unfold atomCore
  rw [if_neg (by rw [hown.aligned]; decide), resolve_own hown]
  dsimp only
  rw [watchAt_of_unwatched hown, watchAt_of_unwatched hown, if_neg (by rintro ⟨⟩), if_pos rfl, sendPacket_of_canSend hs rfl]
  exact congrArg Except.ok (if_pos rfl)

end Sent

theorem atomEff_posted_own {s : State} {z : Wd} {a : Reg} (hown : OwnAccess s (s.x a) (wdBytes z)) (hs : CanSend s) (op : AOp) (b : Reg) :
    atomEff s op z 0 a b = .ok (sentOne s (s.x a) (.atomic (.loc s.core.num) (ownKey s (s.x a)) (wdBytes z) op 0 (s.x b))
      s.core.task s.core.tagged) := by
  rw [atomEff, x_zero, atomCore_posted_own hown hs]

theorem exec_of_posted {s : State} {i : Instr} {op : AOp} {ea arg : W64} {n : Nat} (h : atomicOf s i = some (op, 0, ea, n, arg))
    (hown : OwnAccess s ea n) (hs : CanSend s) :
    exec i s = finish s (.ok (sentOne s ea (.atomic (.loc s.core.num) (ownKey s ea) n op 0 arg) s.core.task s.core.tagged)) := by
  cases i <;> cases h
  all_goals exact congrArg (finish s) (atomEff_posted_own hown hs _ _)

/-- The tagged far loads that an instruction adds to those outstanding (R161). -/
def farLoads : Instr → Nat
  | .ldfTagged _ _ _ => 1
  | _ => 0


/-- An atomic is among what is sent when it is posted. -/
theorem exec_of_sent_atomic {i : Instr} {op : AOp} {d : Reg} {ea ea' : W64} {n n' : Nat} {arg : W64} {body : Body} {s : State}
    (hi : atomicOf s i = some (op, d, ea', n', arg))
    (h : (if d = 0 then some (ea', n', Body.atomic (.loc s.core.num) (ownKey s ea') n' op 0 arg) else none) = some (ea, n, body))
    (hown : OwnAccess s ea n) (hs : CanSend s) :
    exec i s = .next (retire (sentOne s ea body s.core.task s.core.tagged)) := by
  split at h
  next h0 =>
    subst h0
    cases h
    exact exec_of_posted hi hown hs
  next => cases h

/-- A far access or a posted atomic ends with its packet on its way. -/
theorem exec_of_sentAccess {i : Instr} {ea : W64} {n : Nat} {body : Body} {s : State} (h : sentAccess s i = some (ea, n, body))
    (hown : OwnAccess s ea n) (hs : CanSend s) : ∃ task, exec i s =
      .next (retire (sentOne s ea body task (s.core.tagged + farLoads i))) := by
  cases i
  case stf z d a b =>
    cases h
    obtain ⟨task, ht⟩ := stfEff_own hown hs (s.x d) (if b = 0 then none else some (s.x b))
    refine ⟨task, (congrArg (finish s) ht).trans ?_⟩
    by_cases hb : b = 0
    · simp only [hb, if_true]; rfl
    · simp only [hb, if_false]; rfl
  case ldfTagged z a b =>
    cases h
    obtain ⟨task, ht⟩ := ldfTaggedEff_own hown hs (s.x b)
    exact ⟨task, congrArg (finish s) ht⟩
  case atomAdd | atomAnd | atomOr | atomXor | atomMin | atomMax | atomMinn | atomMaxn | atomSwap | cas | binc =>
    exact ⟨_, exec_of_sent_atomic rfl h hown hs⟩
  all_goals cases h

/-- Settles O22: what retires is the state as it was, with one packet more. -/
theorem farAccessLeavesAsPacket : Obligations.FarAccessLeavesAsPacket := by
  unfold Obligations.FarAccessLeavesAsPacket
  intro i ea n body s h hown hs
  obtain ⟨task, hexec⟩ := exec_of_sentAccess h hown hs
  exact ⟨_, hexec, rfl, rfl, fun _ _ => rfl, fun _ _ => rfl, rfl, ⟨rfl, rfl, rfl, rfl, rfl⟩, fun _ => rfl, rfl, rfl, rfl⟩

end Sys2Proof.Machine

/-! Lines of bytes read at a local memory, and the word that an atomic stores (06_memory R162 to R165). -/
namespace Sys2Proof.Machine

/-! ### Bytes of a line -/

theorem length_mread (m : List (Nat × Byte)) (a n : Nat) : (mread m a n).length = n := by
  induction n generalizing a with
  | zero => rfl
  | succ n ih => rw [mread, List.length_cons, ih]

theorem ofBytes_lt (l : List Byte) : ofBytes l < 256 ^ l.length := by
  induction l with
  | nil => exact Nat.one_pos
  | cons b r ih =>
    rw [ofBytes, List.length_cons, Nat.pow_succ']
    have := b.isLt
    omega

theorem ofBytes_div (l : List Byte) (k : Nat) : ofBytes l / 256 ^ k = ofBytes (l.drop k) := by
  induction k generalizing l with
  | zero => rw [Nat.pow_zero, Nat.div_one, List.drop_zero]
  | succ k ih =>
    cases l with
    | nil => exact Nat.zero_div _
    | cons b r =>
      have hb : (b.toNat + 256 * ofBytes r) / 256 = ofBytes r := by have := b.isLt; omega
      rw [Nat.pow_succ', ← Nat.div_div_eq_div_mul, ofBytes, hb, ih, List.drop_succ_cons]

theorem bytesOf_ofBytes (l : List Byte) (n : Nat) (h : n ≤ l.length) : bytesOf (ofBytes l) n = l.take n := by
  induction n generalizing l with
  | zero => rfl
  | succ n ih =>
    cases l with
    | nil => cases h
    | cons b r =>
      have hb : BitVec.ofNat 8 (b.toNat + 256 * ofBytes r) = b := by
        apply BitVec.eq_of_toNat_eq
        rw [BitVec.toNat_ofNat]
        have := b.isLt
        omega
      have hr : (b.toNat + 256 * ofBytes r) / 256 = ofBytes r := by have := b.isLt; omega
      rw [ofBytes, bytesOf, hb, hr, ih r (Nat.le_of_succ_le_succ h), List.take_succ_cons]

/-- A register as wide as a list of bytes holds their number. -/
theorem toNat_ofNat_ofBytes {w : Nat} {l : List Byte} (h : w = 8 * l.length) : (BitVec.ofNat w (ofBytes l)).toNat = ofBytes l := by
  subst h
  rw [BitVec.toNat_ofNat, Nat.mod_eq_of_lt (Nat.pow_mul 2 8 _ ▸ ofBytes_lt l)]

/-- The bytes of a line that memory holds are the bytes of memory. -/
theorem lineBytes_mread (m : List (Nat × Byte)) {key n : Nat} (h : key % 64 + n ≤ 64) :
    lineBytes (lineOf (mread m (lineKeyOf key * 64) 64)) (key % 64) n = mread m key n := by
  have hlen := length_mread m (lineKeyOf key * 64) 64
  have hpow : 2 ^ (8 * (key % 64)) = 256 ^ (key % 64) := Nat.pow_mul 2 8 _
  have hkey : lineKeyOf key * 64 + key % 64 = key := Nat.div_add_mod' key 64
  rw [lineBytes, lineOf, toNat_ofNat_ofBytes (by rw [hlen]), Nat.shiftRight_eq_div_pow, hpow, ofBytes_div,
    bytesOf_ofBytes _ _ (by rw [List.length_drop, hlen]; omega), ← mread_part _ _ _ _ _ h, hkey]

/-- A read that one line answers. -/
theorem readGo_line {rd : State → Nat → Except ReadStop (State × W512 × Clock)} {s t : State} {key n : Nat} {data : W512} {c : Clock}
    (h0 : 0 < n) (h : key % 64 + n ≤ 64) (hrd : rd s (lineKeyOf key) = .ok (t, data, c)) :
    readGo rd (n / 64 + 2) s key n = .ok (t, lineBytes data (key % 64) n, c) := by
  have hmin : min n (64 - key % 64) = n := by omega
  simp [readGo, hmin, hrd, Nat.pos_iff_ne_zero.1 h0]

/-! ### The word an atomic stores (R163 to R165) -/

theorem sgnOf_mod {w : Nat} (hw : 0 < w) (x : Nat) : sgnOf w (x % 2 ^ w) = (BitVec.ofNat w x).toInt := by
  rw [sgnOf_eq_toInt hw]
  exact congrArg BitVec.toInt (BitVec.eq_of_toNat_eq (by rw [BitVec.toNat_ofNat, BitVec.toNat_ofNat, Nat.mod_mod]))

theorem atomNew_eq (op : AOp) {w : Nat} (hw : 0 < w) (old expect arg : Nat) : atomNew op w old expect arg =
    (atomicWord op (BitVec.ofNat w old) (BitVec.ofNat w expect) (BitVec.ofNat w arg)).toNat := by
  cases op with
  | add => simp [atomNew, atomicWord]
  | and => simp [atomNew, atomicWord]
  | or => simp [atomNew, atomicWord]
  | xor => simp [atomNew, atomicWord]
  | min =>
    simp only [atomNew, atomicWord, sgnOf_mod hw]
    split <;> simp
  | max =>
    simp only [atomNew, atomicWord, sgnOf_mod hw]
    by_cases hle : (BitVec.ofNat w old).toInt ≤ (BitVec.ofNat w arg).toInt
    · by_cases hge : (BitVec.ofNat w arg).toInt ≤ (BitVec.ofNat w old).toInt
      · have heq := BitVec.eq_of_toInt_eq (Int.le_antisymm hle hge)
        rw [if_pos hge, if_pos hle, ← heq, BitVec.toNat_ofNat]
      · rw [if_neg hge, if_pos hle, BitVec.toNat_ofNat]
    · rw [if_pos (Int.le_of_not_le hle), if_neg hle, BitVec.toNat_ofNat]
  | minn =>
    simp only [atomNew, atomicWord, BitVec.toNat_ofNat, min_def]
    split <;> simp
  | maxn =>
    simp only [atomNew, atomicWord, BitVec.toNat_ofNat, max_def]
    split <;> simp
  | swap => simp [atomNew, atomicWord]
  | cas =>
    have heq : BitVec.ofNat w old = BitVec.ofNat w expect ↔ old % 2 ^ w = expect % 2 ^ w := by
      rw [← BitVec.toNat_inj, BitVec.toNat_ofNat, BitVec.toNat_ofNat]
    simp only [atomNew, atomicWord, heq]
    split <;> simp
  | binc =>
    simp only [atomNew, atomicWord, BitVec.toNat_ofNat]
    split <;> simp

end Sys2Proof.Machine

/-! Accesses at their homes (06_memory R158, R162; 07_ordering R171, R177). -/
namespace Sys2Proof.Machine

/-! ### The packet that an event names -/

theorem find_of_findPacket {s : State} {id : Nat} {p : Packet} (h : findPacket s id = some p) :
    s.net.find? (fun q => q.id == id) = some p := by
  unfold findPacket at h
  split at h
  next q hq =>
    dsimp only at h
    split at h
    · cases h
      exact hq
    · cases h
  next => cases h

theorem id_of_findPacket {s : State} {id : Nat} {p : Packet} (h : findPacket s id = some p) : p.id = id :=
  beq_iff_eq.1 (List.find?_some (find_of_findPacket h) :)

theorem mem_mapFirst {α : Type} {p : α → Bool} (f : α → α) {l : List α} {x : α} (h : l.find? p = some x) : f x ∈ mapFirst p f l := by
  induction l with
  | nil => cases h
  | cons y r ih =>
    unfold mapFirst
    cases hy : p y with
    | true =>
      rw [List.find?_cons_of_pos hy] at h
      cases h
      exact List.mem_cons_self
    | false =>
      rw [List.find?_cons_of_neg (by rw [hy]; exact Bool.false_ne_true)] at h
      exact List.mem_cons_of_mem _ (ih h)

theorem endPacket_core {s : State} {p : Packet} {m : Nat} (hsrc : p.src = .core m) (err : Option W64) : endPacket s p err =
    { s with net := mapFirst (fun q => q.id == p.id) (fun q => { q with st := .acked err }) s.net } := by
  rw [endPacket, hsrc]
  rfl

/-- The packet of a core that its home has applied is acknowledged. -/
theorem applied_endPacket {s t : State} {p : Packet} {m : Nat} (h : findPacket s s.arg.a = some p) (hsrc : p.src = .core m)
    (hnet : t.net = s.net) (err : Option W64) : Applied (endPacket t p err) p := by
  have hfind : t.net.find? (fun q => q.id == p.id) = some p := by
    rw [hnet, id_of_findPacket h]
    exact find_of_findPacket h
  rw [endPacket_core hsrc]
  exact ⟨err, mem_mapFirst _ hfind⟩

/-! ### A local memory that a context reaches (R146; 09_context R242) -/

section Local
variable {s : State} {ctx n : Nat}

theorem servedAt_reached (h : Reached s ctx n) (key : Nat) : servedAt s ctx (.loc n) key = .ok (s, .loc n, key) := by
  have himage : imageVa s ctx n (key % 65536) = none := by
    unfold imageVa
    split
    · rfl
    next hctx => rw [h.here.resolve_left hctx]; rfl
  simp only [servedAt, himage]

theorem servedGo_reached (h : Reached s ctx n) (cells acc : List Host.Cell) :
    servedGo ctx (.loc n) cells (s, .loc n, acc) = .ok (s, .loc n, acc ++ cells) := by
  induction cells generalizing acc with
  | nil => rw [servedGo, List.append_nil]
  | cons c l ih => simp only [servedGo, servedAt_reached h, ih, List.append_assoc, List.cons_append, List.nil_append]

theorem servedCells_reached (h : Reached s ctx n) (cells : List Host.Cell) :
    servedCells s ctx (.loc n) cells = .ok (s, .loc n, cells) := servedGo_reached h cells []

theorem corePresent_reached (h : Reached s ctx n) : corePresent s n = true := by
  rw [corePresent, if_pos h.core.1, coreHere, decide_eq_true h.core.1, decide_eq_true h.core.2]
  rfl

theorem homeOf_loc (h : n < nCores) : homeOf s (.loc n) = some (dieOf (getCore s n).pos) := if_pos h

theorem writeReady_local {p : Packet} (hn : n < nCores) (hh : HomeHears s p n) (cells : List Host.Cell) :
    writeReady s (.loc n) cells p.die p.stamp = true := by
  unfold writeReady
  simp only [homeOf_loc hn, Bool.or_eq_true, beq_iff_eq]
  exact hh

theorem noWait_local (hn : n < nCores) : linkWaits s (.loc n) = false := by
  rw [linkWaits, show (Place.loc n).chip = none from if_neg (Nat.not_le.2 hn)]
  rfl

/-- A line of a local memory that is not poisoned answers with its bytes (R149). -/
theorem homeNow_local (hn : n < nCores) {line : Nat} (hp : isPoisoned s line = false) :
    homeNow s (.loc n) line = .ok (s, lineOf (mread s.mem (line * 64) 64), (getDie s (dieOf (getCore s n).pos)).vc) := by
  unfold homeNow
  simp only [noWait_local hn, hp, homeOf_loc hn, Bool.false_eq_true, if_false]

/-- Cells written in a local memory change its bytes, what the units of memory note, and JOINs that come to zero. -/
theorem write_local_changes (s : State) (n : Nat) (cells marked : List Host.Cell) (d : Nat) (v : Clock) (ctx : Nat) :
    ∃ mu joins, noteCounter (applyWrite s (.loc n) cells d v) ctx (.loc n) marked =
      { s with mem := mputs s.mem cells, mu := mu, un := { s.un with joins := joins } } := by
  obtain ⟨joins, hj⟩ := noteCounter_changes (applyWrite s (.loc n) cells d v) ctx (.loc n) marked
  rw [hj]
  unfold applyWrite
  dsimp only
  split
  · split
    · exact ⟨_, joins, rfl⟩
    · exact ⟨_, joins, rfl⟩
  · exact ⟨_, joins, rfl⟩

end Local

/-- A store reaches the local memory it names (R158, R171). -/
theorem remoteStore_local {p : Packet} {n off m : Nat} {l : List Byte} {s : State} (hp : findPacket s s.arg.a = some p)
    (hb : p.body = .store (.loc n) (cellsAt (localKey n off) l)) (hsrc : p.src = .core m) (hr : Reached s p.ctx n)
    (hh : HomeHears s p n) (hport : heldAtPort s p (.loc n) = none) :
    ∃ t, exec .remoteAccessAtHome s = .next t ∧ mread t.mem (localKey n off) l.length = l ∧
      KeepsBytesBut s t (localKey n off) l.length ∧ Applied t p ∧ CoresKept s t := by
  obtain ⟨mu, joins, hw⟩ := write_local_changes s n (cellsAt (localKey n off) l) (cellsAt (localKey n off) l) p.die p.stamp p.ctx
  have happly : applyCells s p (.loc n) (cellsAt (localKey n off) l) =
      .ok { s with mem := mputs s.mem (cellsAt (localKey n off) l), mu := mu, un := { s.un with joins := joins } } := by
    unfold applyCells
    rw [if_neg (by rintro ⟨⟩), servedCells_reached hr]
    simp only [writeReady_local hr.core.1 hh, if_true, hsrc, hw]
  have hserve : serveAccess s s.arg.a = endPacket
      { s with mem := mputs s.mem (cellsAt (localKey n off) l), mu := mu, un := { s.un with joins := joins } } p none := by
    have hthere : placeThere s (.loc n) (cellsAt (localKey n off) l) = true := corePresent_reached hr
    unfold serveAccess servePacket
    simp only [hp, hb, Body.place, Option.bind_some, hport, Option.getD_none, hthere, happly, Bool.not_true, Bool.false_eq_true, if_false]
  refine ⟨_, congrArg Host.Outcome.next hserve, ?_, ?_, applied_endPacket hp hsrc (by exact rfl) none, ?_⟩
  all_goals rw [endPacket_core hsrc]
  · exact mread_mputs_cellsAt s.mem (localKey n off) l
  · exact fun a ha => mget_mputs_cellsAt_out s.mem _ a l ha
  · exact ⟨rfl, rfl⟩

theorem localKey_aligned {n off k : Nat} (hk : k = 4 ∨ k = 8) (hoff : off % k = 0) : localKey n off % 64 + k ≤ 64 := by
  have hkey : localKey n off % 64 = off % 64 := by rw [localKey]; omega
  rw [hkey]
  rcases hk with rfl | rfl <;> omega

/-- A posted atomic is executed at the local memory it names (R162). -/
theorem postedAtomic_local {p : Packet} {n off m k : Nat} {op : AOp} {expect arg : W64} {s : State}
    (hp : findPacket s s.arg.a = some p) (hb : p.body = .atomic (.loc n) (localKey n off) k op expect arg) (hsrc : p.src = .core m)
    (hr : Reached s p.ctx n) (hh : HomeHears s p n) (hk : k = 4 ∨ k = 8) (hoff : off % k = 0) (hwhole : Whole s n off k)
    (hport : heldAtPort s p (.loc n) = none) :
    let old := BitVec.ofNat (8 * k) (ofBytes (mread s.mem (localKey n off) k))
    ∃ t, exec .atomicAtHome s = .next t ∧ KeepsBytesBut s t (localKey n off) k ∧ Applied t p ∧ CoresKept s t ∧
      mread t.mem (localKey n off) k =
        bytesOf (atomicWord op old (BitVec.ofNat (8 * k) expect.toNat) (BitVec.ofNat (8 * k) arg.toNat)).toNat k := by
  have hpos : 0 < k := by omega
  have hpoison : isPoisoned s (lineKeyOf (localKey n off)) = false := hwhole 0 hpos
  have hread : readNow s (.loc n) (localKey n off) k =
      .ok (s, mread s.mem (localKey n off) k, (getDie s (dieOf (getCore s n).pos)).vc) := by
    rw [← lineBytes_mread s.mem (localKey_aligned hk hoff)]
    exact readGo_line hpos (localKey_aligned hk hoff) (homeNow_local hr.core.1 hpoison)
  intro old
  rw [← atomNew_eq op (by omega)]
  generalize hnew : bytesOf (atomNew op (8 * k) (ofBytes (mread s.mem (localKey n off) k)) expect.toNat arg.toNat) k = new
  have hlen : new.length = k := by rw [← hnew, length_bytesOf]
  obtain ⟨mu, joins, hw⟩ := write_local_changes s n (cellsAt (localKey n off) new)
    (cellsAt (localKey n off) (List.replicate k 0)) p.die p.stamp p.ctx
  have hatom : ∃ c, atomHome s p.ctx p.die p.stamp (.loc n) (localKey n off) k op expect.toNat arg.toNat =
      .done { s with mem := mputs s.mem (cellsAt (localKey n off) new), mu := mu, un := { s.un with joins := joins } }
        (ofBytes (mread s.mem (localKey n off) k)) c := by
    unfold atomHome
    rw [servedAt_reached hr]
    simp only [writeReady_local hr.core.1 hh, hread, hnew, hw, Bool.not_true, Bool.false_eq_true, if_false]
    exact ⟨_, rfl⟩
  obtain ⟨c, hatom⟩ := hatom
  have hserve : serveAtomic s s.arg.a = endPacket
      { s with mem := mputs s.mem (cellsAt (localKey n off) new), mu := mu, un := { s.un with joins := joins } } p none := by
    have hthere : placeThere s (.loc n) [(localKey n off, 0)] = true := corePresent_reached hr
    unfold serveAtomic
    simp only [hp, hb, hthere, hport, hatom, Option.getD_none, Bool.not_true, Bool.false_eq_true, if_false]
  have hframe := fun a ha => mget_mputs_cellsAt_out s.mem (localKey n off) a new ha
  have hmem := mread_mputs_cellsAt s.mem (localKey n off) new
  rw [hlen] at hframe hmem
  refine ⟨_, congrArg Host.Outcome.next hserve, ?_, applied_endPacket hp hsrc (by exact rfl) none, ?_, ?_⟩
  all_goals rw [endPacket_core hsrc]
  · exact hframe
  · exact ⟨rfl, rfl⟩
  · exact hmem

/-! ### A write from another die (07_ordering R177) -/

/-- Packets and what the dies have heard are as they were. -/
def KeepsTraffic (s t : State) : Prop := t.net = s.net ∧ t.mu.dies = s.mu.dies

theorem KeepsTraffic.trans {s t u : State} (h : KeepsTraffic s t) (h' : KeepsTraffic t u) : KeepsTraffic s u :=
  ⟨h'.1.trans h.1, h'.2.trans h.2⟩

theorem KeepsTraffic.foldl {α : Type} {f : State → α → State} (h : ∀ s a, KeepsTraffic s (f s a)) (l : List α) (s : State) :
    KeepsTraffic s (l.foldl f s) := by
  induction l generalizing s with
  | nil => exact ⟨rfl, rfl⟩
  | cons a l ih => exact (h s a).trans (ih _)

theorem keepsTraffic_stackAccess (s : State) (line : Nat) (read : Bool) : KeepsTraffic s (stackAccess s line read) := by
  unfold stackAccess
  split <;> exact ⟨rfl, rfl⟩

theorem keepsTraffic_hbmPut (s : State) (line : Nat) (data : W512) (kid : Option Nat) : KeepsTraffic s (hbmPut s line data kid) := by
  unfold hbmPut
  split
  · exact ⟨rfl, rfl⟩
  · exact (keepsTraffic_stackAccess s line false).trans ⟨rfl, rfl⟩

theorem keepsTraffic_writeBack (s : State) (line : Nat) (l : L2Line) : KeepsTraffic s (writeBack s line l) := by
  unfold writeBack
  split
  · exact keepsTraffic_hbmPut _ _ _ _
  · exact ⟨rfl, rfl⟩

theorem keepsTraffic_l2Put (s : State) (line : Nat) (l : L2Line) : KeepsTraffic s (l2Put s line l) := by
  refine KeepsTraffic.trans (t := l2Room s line) ?_ ⟨rfl, rfl⟩
  unfold l2Room l2Evict
  dsimp only
  split
  · exact ⟨rfl, rfl⟩
  · exact KeepsTraffic.trans (t := { s with fresh := s.fresh + 1 }) ⟨rfl, rfl⟩
      ((KeepsTraffic.foldl (fun t (p : Nat × L2Line) => keepsTraffic_writeBack t p.1 p.2) _ _).trans ⟨rfl, rfl⟩)

theorem keepsTraffic_checkLine (s : State) (line : Nat) : KeepsTraffic s (checkLine s line) := by
  unfold checkLine poisonLine
  dsimp only
  split
  · split <;> exact ⟨rfl, rfl⟩
  · exact ⟨rfl, rfl⟩

theorem keepsTraffic_homeRead (s : State) (line : Nat) (kid : Option Nat) (cached : Bool) :
    KeepsTraffic s (homeRead s line kid cached).1 := by
  have hread := (keepsTraffic_stackAccess s line true).trans (keepsTraffic_checkLine _ line)
  unfold homeRead
  split
  · split
    · exact ⟨rfl, rfl⟩
    · dsimp only
      split
      · exact hread
      · exact hread.trans (keepsTraffic_l2Put _ _ _)
  · exact hread

theorem keepsTraffic_codeDrop (s : State) (line : Nat) : KeepsTraffic s (codeDrop s line) := by
  unfold codeDrop
  split <;> exact ⟨rfl, rfl⟩

theorem keepsTraffic_homeWriteLine (s : State) (line : Nat) (kid : Option Nat) (cached : Bool) (cells : List Host.Cell) :
    KeepsTraffic s (homeWriteLine s line kid cached cells) := by
  refine (keepsTraffic_codeDrop s line).trans ?_
  unfold homeWriteLine
  dsimp only
  generalize codeDrop s line = c
  split
  · exact ⟨rfl, rfl⟩
  · generalize hold : (if (cells.map (·.1)).dedup.length = 64 then (c, (0 : W512)) else if cached = true then homeRead c line kid true
      else (checkLine c line, hbmLine (checkLine c line) line kid)) = old
    have hread : KeepsTraffic c old.1 := by
      rw [← hold]
      split
      · exact ⟨rfl, rfl⟩
      · split
        · exact keepsTraffic_homeRead _ _ _ _
        · exact keepsTraffic_checkLine _ _
    refine hread.trans (KeepsTraffic.trans (t := if cached = true then l2Put old.1 line _ else hbmPut old.1 line _ kid) ?_ ⟨rfl, rfl⟩)
    split
    · exact keepsTraffic_l2Put _ _ _
    · exact keepsTraffic_hbmPut _ _ _ _

theorem keepsTraffic_homeWrite_hbm (s : State) (h : Nat) (c : Bool) (kid : Nat) (cells : List Host.Cell) :
    KeepsTraffic s (homeWrite s (.hbm h c kid) cells) :=
  .foldl (fun t line => keepsTraffic_homeWriteLine t line _ c (cells.filter fun x => lineKeyOf x.1 == line)) _ s

theorem memoryOnly_homeWrite_hbm (s : State) (h : Nat) (c : Bool) (kid : Nat) (cells : List Host.Cell) :
    MemoryOnly s (homeWrite s (.hbm h c kid) cells) :=
  .foldl (fun t line => memoryOnly_homeWriteLine t line _ c (cells.filter fun x => lineKeyOf x.1 == line)) _ s

theorem noteCounter_of_not_local (s : State) (ctx : Nat) {place : Place} (h : ∀ n, place ≠ .loc n) (cells : List Host.Cell) :
    noteCounter s ctx place cells = s := by
  unfold noteCounter
  extract_lets hit zero
  refine if_neg (Bool.eq_false_iff.1 (List.any_eq_false.2 fun j _ => ?_))
  simp [hit, h]

@[simp] theorem getDie_putDie (s : State) (d : Nat) (x : Die) : getDie (putDie s d x) d = x := by
  simp [getDie, putDie, tgetD, tget_tput_self]

@[simp] theorem getDie_hear_vc (s : State) (h d : Nat) (v : Clock) : (getDie (hear s h d v) h).vc = (getDie s h).vc.merge v := by
  simp only [hear, getDie_putDie]

/-- A write to HBM is applied once its home has heard what it must (R177). -/
theorem crossDieWrite {p : Packet} {h kid m : Nat} {c : Bool} {cells : List Host.Cell} {s : State}
    (hp : findPacket s s.arg.a = some p) (hb : p.body = .store (.hbm h c kid) cells) (hdie : h ≠ p.die) (hsrc : p.src = .core m)
    (hexcl : s.mu.excl = []) (hheld : s.mu.hostHeld = []) (hup : ∀ x ∈ cells, stackStOf s x.1 = .up)
    (hheard : heardAll s h p.die p.stamp = true) :
    ∃ t, exec .crossDieWriteApply s = .next t ∧ t.mem = (homeWrite s (.hbm h c kid) cells).mem ∧
      t.mu.l2 = (homeWrite s (.hbm h c kid) cells).mu.l2 ∧ (getDie t h).vc = (getDie s h).vc.merge p.stamp ∧
      Applied t p ∧ CoresKept s t := by
  have hthere : placeThere s (.hbm h c kid) cells = true := by
    have hlive : cells.any (fun x => stackDead s x.1) = false :=
      List.any_eq_false.2 fun x hx => by rw [stackDead, hup x hx]; decide
    simp only [placeThere, hlive, Bool.not_false]
  have hready : writeReady s (.hbm h c kid) cells p.die p.stamp = true := by
    have hflows : cells.any (fun x => stackWaits s x.1) = false :=
      List.any_eq_false.2 fun x hx => by rw [stackWaits, hup x hx]; decide
    simp [writeReady, anyOwned, hostHolds, homeOf, hexcl, hheld, hflows, hheard]
  generalize hw : homeWrite s (.hbm h c kid) cells = w
  have htraffic : KeepsTraffic s w := hw ▸ keepsTraffic_homeWrite_hbm s h c kid cells
  have hmem : MemoryOnly s w := hw ▸ memoryOnly_homeWrite_hbm s h c kid cells
  have happly : applyCells s p (.hbm h c kid) cells = .ok (hear w h p.die p.stamp) := by
    have hwrite : applyWrite s (.hbm h c kid) cells p.die p.stamp = hear w h p.die p.stamp := by
      rw [← hw]
      exact if_neg hdie
    have hplace (n : Nat) : Place.hbm h c kid ≠ .loc n := fun e => nomatch e
    unfold applyCells servedCells
    rw [if_neg (by rintro ⟨⟩)]
    simp only [hready, if_true, hsrc, hwrite, noteCounter_of_not_local _ _ hplace]
  have hserve : serveAccess s s.arg.a = endPacket (hear w h p.die p.stamp) p none := by
    unfold serveAccess servePacket heldAtPort
    simp only [hp, hb, Body.place, Option.bind_some, Place.localCore, Option.getD_none, hthere, happly, Bool.not_true,
      Bool.false_eq_true, if_false]
  have hcrosses : (p.crosses s).isSome = true := by
    simp [Packet.crosses, hb, Body.place, homeOf, Option.filter, hdie]
  have hexec : exec .crossDieWriteApply s = .next (endPacket (hear w h p.die p.stamp) p none) := by
    refine congrArg Host.Outcome.next ?_
    rw [find_of_findPacket hp]
    exact (if_pos hcrosses).trans hserve
  have hvc : (getDie w h).vc = (getDie s h).vc := by rw [getDie, getDie, htraffic.2]
  refine ⟨_, hexec, ?_, ?_, ?_, applied_endPacket hp hsrc (by exact htraffic.1) none, ?_⟩
  all_goals rw [endPacket_core hsrc]
  · rfl
  · rfl
  · exact (getDie_hear_vc w h p.die p.stamp).trans (by rw [hvc])
  · exact ⟨hmem.core, hmem.others⟩

end Sys2Proof.Machine

/-! Beats between the dies and the sweep of a die's RDC (07_ordering R177, R178). -/
namespace Sys2Proof.Machine

/-- A beat on its way from a die to another, in a state that has sent those before it. -/
def sendBeat (die : Nat) (t : State) (e : Nat) : State :=
  if e = die then t
  else
    { t with
      net := t.net ++ [{
        id := t.nextId, src := .home die 0, ctx := 256, asid := 0, die := die, stamp := (getDie t die).vc, sent := t.cycle
        window := 0, addr := 0, body := .beat e, st := .flying, counted := false, park := none }]
      nextId := t.nextId + 1 }

theorem sendBeats_eq (s : State) (die : Nat) : sendBeats s die =
    let t := (List.range 4).foldl (sendBeat die) s
    putDie t die { getDie t die with beatDue := false, lastBeat := t.cycle } := rfl

/-- Beats of a die to those of a list carry its clock, and nothing else has changed. -/
theorem foldl_sendBeat (die : Nat) (l : List Nat) (s : State) : ∃ ps id,
    l.foldl (sendBeat die) s = { s with net := s.net ++ ps, nextId := id } ∧
      ps.map (·.body) = (l.filter (fun e => e != die)).map .beat ∧
      ∀ p ∈ ps, p.die = die ∧ p.stamp = (getDie s die).vc ∧ p.st = .flying := by
  induction l generalizing s with
  | nil => exact ⟨[], s.nextId, by rw [List.append_nil]; rfl, rfl, fun _ h => nomatch h⟩
  | cons e l ih =>
    by_cases he : e = die
    · rw [List.foldl_cons, sendBeat, if_pos he, List.filter_cons_of_neg (by simp [he])]
      exact ih s
    · obtain ⟨ps, id, h, hbodies, hps⟩ := ih (sendBeat die s e)
      rw [sendBeat, if_neg he] at h hps
      rw [List.foldl_cons, sendBeat, if_neg he, List.filter_cons_of_pos (by simpa using he), h]
      refine ⟨_ :: ps, id, by rw [List.append_assoc]; rfl, by rw [List.map_cons, List.map_cons, hbodies], fun p hp => ?_⟩
      rcases List.mem_cons.1 hp with rfl | hp
      · exact ⟨rfl, rfl, rfl⟩
      · exact hps p hp

/-- A beat that is due leaves for each other die (R177). -/
theorem clockBeat_sends {die : Nat} {s : State} (harg : s.arg.a = die) (hdue : (getDie s die).beatDue = true)
    (hlast : (getDie s die).lastBeat + 256 ≤ s.cycle) :
    ∃ t ps, exec .clockBeat s = .next t ∧ t.net = s.net ++ ps ∧
      ps.map (·.body) = ((List.range 4).filter (fun e => e != die)).map .beat ∧
      (∀ p ∈ ps, p.die = die ∧ p.stamp = (getDie s die).vc ∧ p.st = .flying) ∧ (getDie t die).beatDue = false ∧
      (getDie t die).vc = (getDie s die).vc ∧ CoresKept s t ∧ t.mem = s.mem := by
  obtain ⟨ps, id, h, hbodies, hps⟩ := foldl_sendBeat die (List.range 4) s
  have hexec : exec .clockBeat s = .next (sendBeats s die) := by
    refine congrArg Host.Outcome.next ?_
    rw [harg, beatOf]
    exact if_pos ⟨hdue, hlast⟩
  rw [sendBeats_eq, h] at hexec
  exact ⟨_, ps, hexec, rfl, hbodies, hps, by rw [getDie_putDie], by rw [getDie_putDie]; rfl, ⟨rfl, rfl⟩, rfl⟩

theorem dropFirst_eq_erase {p : Packet} {l : List Packet} (hone : ∀ q ∈ l, q.id = p.id → q = p) :
    dropFirst (fun q => q.id == p.id) l = l.erase p := by
  induction l with
  | nil => rfl
  | cons q r ih =>
    rw [dropFirst, List.erase_cons, ih fun x hx => hone x (List.mem_cons_of_mem q hx)]
    by_cases hq : q = p
    · simp [hq]
    · have hid : q.id ≠ p.id := fun h => hq (hone q List.mem_cons_self h)
      simp [hq, hid]

/-- The oldest beat between two dies is received (R177). -/
theorem beatArrival_hears {p : Packet} {s : State} (hp : s.net.find? (fun q => q.die == s.arg.a && q.body == .beat s.arg.b) = some p)
    (hahead : bridgeAhead s s.arg.a s.arg.b (s.net.takeWhile (fun q => q.id != p.id)) = false) (hone : ∀ q ∈ s.net, q.id = p.id → q = p) :
    ∃ t, exec .beatArrival s = .next t ∧ t.net = s.net.erase p ∧
      (getDie t s.arg.b).vc = (getDie s s.arg.b).vc.merge p.stamp ∧
      tget (getDie t s.arg.b).heard s.arg.a = some ((tgetD (getDie s s.arg.b).heard s.arg.a Clock.zero).merge p.stamp) ∧
      CoresKept s t ∧ t.mem = s.mem := by
  have hexec : exec .beatArrival s = .next (hear (dropPacket s p.id) s.arg.b s.arg.a p.stamp) := by
    refine congrArg Host.Outcome.next ?_
    rw [beatArrives, hp]
    exact if_neg (by rw [hahead]; exact Bool.false_ne_true)
  refine ⟨_, hexec, dropFirst_eq_erase hone, getDie_hear_vc _ _ _ _, ?_, ⟨rfl, rfl⟩, rfl⟩
  rw [hear, getDie_putDie, tget_tput_self]
  rfl

/-- The sweep drops the lines of its die that trail the floor, and no other (R178). -/
theorem rdcSweep_drops (s : State) : ∃ t, exec .rdcSweep s = .next t ∧ CoresKept s t ∧ t.mem = s.mem ∧ ∀ e, e ∈ t.mu.rdc ↔ e ∈ s.mu.rdc ∧
    ¬ (e.1 % 4 = s.arg.a ∧ ∃ d, d < 4 ∧ 2 ^ 30 ≤ ((getDie s s.arg.a).floor.get d - e.2.clock.get d).toNat ∧
      ((getDie s s.arg.a).floor.get d - e.2.clock.get d).toNat < 2 ^ 31) := by
  have htrails (floor fill : Clock) : trails floor fill = true ↔
      ∃ d, d < 4 ∧ 2 ^ 30 ≤ (floor.get d - fill.get d).toNat ∧ (floor.get d - fill.get d).toNat < 2 ^ 31 := by
    simp only [trails, List.any_eq_true, List.mem_range, Bool.and_eq_true, decide_eq_true_eq]
  refine ⟨_, rfl, ⟨rfl, rfl⟩, rfl, fun e => ?_⟩
  rw [← htrails, ← beq_iff_eq, ← Bool.and_eq_true, Bool.not_eq_true, ← Bool.not_eq_true']
  exact List.mem_filter

end Sys2Proof.Machine

/-! The HBM stacks: retraining, rows and refresh intervals (06_memory R155, R156). -/
namespace Sys2Proof.Machine

@[simp] theorem getStack_putStack (s : State) (n : Nat) (x : Stack) : getStack (putStack s n x) n = x := by
  simp [getStack, putStack, tgetD, tget_tput_self]

section Stack
variable {s : State} {n : Nat} (harg : s.arg.a = n)
include harg

/-- An up stack whose ratio is to change waits for its retraining. -/
theorem ratioChangeRequest_pends (hup : (getStack s n).st = .up) (hne : s.arg.b % 4 ≠ (getStack s n).ratio) :
    ∃ t, exec .ratioChangeRequest s = .next t ∧ (getStack t n).st = .pending ∧ (getStack t n).newRatio = s.arg.b % 4 ∧
      (getStack t n).ratio = (getStack s n).ratio ∧ CoresKept s t ∧ t.mem = s.mem := by
  have hexec : exec .ratioChangeRequest s = .next (putStack s n { getStack s n with
      newRatio := s.arg.b % 4, st := .pending, requested := true }) := by
    refine congrArg Host.Outcome.next ?_
    rw [harg, setNewRatio]
    exact if_pos ⟨hup, hne⟩
  refine ⟨_, hexec, ?_, ?_, ?_, ⟨rfl, rfl⟩, rfl⟩
  all_goals rw [getStack_putStack]

omit harg in
/-- No save streams to a stack while no core switches contexts. -/
theorem savesTo_of_noneSwitches (h : NoneSwitches s) : savesTo s n = [] := by
  refine List.filter_eq_nil_iff.2 fun c hc => ?_
  have hrun : c.run ≠ .switching := by
    rcases List.mem_cons.1 hc with rfl | hc
    · exact h.1
    · obtain ⟨p, hp, rfl⟩ := List.mem_map.1 hc
      exact h.2 p hp
  unfold streamsTo
  split
  next hs _ => exact absurd hs hrun
  next => exact Bool.false_ne_true

/-- A pending stack retrains when no save streams to it. -/
theorem stackRetrainStart_retrains (hst : (getStack s n).st = .pending) (hnone : NoneSwitches s) :
    ∃ t, exec .stackRetrainStart s = .next t ∧ (getStack t n).st = .retraining ∧ CoresKept s t ∧ t.mem = s.mem := by
  have hexec : exec .stackRetrainStart s = .next (putStack s n { getStack s n with st := .retraining, tries := 0 }) := by
    refine congrArg Host.Outcome.next ?_
    dsimp only
    rw [harg, savesTo_of_noneSwitches hnone]
    exact if_pos ⟨hst, rfl⟩
  exact ⟨_, hexec, by rw [getStack_putStack], ⟨rfl, rfl⟩, rfl⟩

/-- A stack that is up or pending is forced into retraining. -/
theorem forcedRetrain_retrains (hst : (getStack s n).st = .up ∨ (getStack s n).st = .pending) (hnone : NoneSwitches s) :
    ∃ t, exec .forcedRetrain s = .next t ∧ (getStack t n).st = .retraining ∧ CoresKept s t ∧ t.mem = s.mem := by
  have hexec : exec .forcedRetrain s = .next (putStack s n { getStack s n with st := .retraining, tries := 0 }) := by
    refine congrArg Host.Outcome.next ?_
    rw [harg, forceRetrain]
    dsimp only
    rw [if_pos hst, savesTo_of_noneSwitches hnone]
    rfl
  exact ⟨_, hexec, by rw [getStack_putStack], ⟨rfl, rfl⟩, rfl⟩

/-- A training that ends well leaves the stack up, with the ratio that was asked for. -/
theorem stackRetrainComplete_up (hst : (getStack s n).st = .retraining) (hf : s.arg.f = true) :
    ∃ t, exec .stackRetrainComplete s = .next t ∧ (getStack t n).st = .up ∧
      (getStack t n).ratio = (if (getStack s n).requested then (getStack s n).newRatio else (getStack s n).ratio) ∧
      (getStack t n).retrains = (getStack s n).retrains + 1 ∧ CoresKept s t ∧ t.mem = s.mem := by
  have hexec : exec .stackRetrainComplete s = .next (putStack s n { getStack s n with
      st := .up, ratio := if (getStack s n).requested then (getStack s n).newRatio else (getStack s n).ratio
      requested := false, tries := 0, retrains := (getStack s n).retrains + 1 }) := by
    refine congrArg Host.Outcome.next ?_
    dsimp only
    rw [harg, if_neg (not_not_intro hst), if_pos hf]
  refine ⟨_, hexec, ?_, ?_, ?_, ⟨rfl, rfl⟩, rfl⟩
  all_goals rw [getStack_putStack]

omit harg in
theorem getCore_modCore {s : State} {n : Nat} {f : Core → Core} (hnum : (f s.core).num = s.core.num) :
    getCore (modCore s n f) n = f (getCore s n) := by
  unfold modCore getCore
  split
  next hn => exact if_pos (hn.trans hnum.symm)
  next => rw [tgetD, tget_tput_self, Option.getD_some]

omit harg in
/-- A core that has room for a notice holds it, and no stack and no byte of memory has changed. -/
theorem sendNotice_of_room {s : State} {n : Nat} (x : Notice) (h : (getCore s n).ev.notices = []) :
    (getCore (sendNotice s n x) n).ev.notices = [x] ∧ (sendNotice s n x).mu = s.mu ∧ (sendNotice s n x).mem = s.mem := by
  have hsend : sendNotice s n x = modCore { s with out := { s.out with deluk := s.out.deluk ++ [.notice x] } } n
      (fun c => { c with ev := { c.ev with notices := c.ev.notices ++ [x] } }) :=
    if_pos (show (getCore s n).ev.notices.length < 16 by rw [h]; decide)
  rw [hsend]
  refine ⟨?_, ?_, ?_⟩
  · rw [getCore_modCore rfl]
    exact congrArg (· ++ [x]) h
  all_goals
    unfold modCore
    split <;> rfl

/-- The third failure in a row fails the stack, and the monitor is told. -/
theorem stackRetrainComplete_failed (hst : (getStack s n).st = .retraining) (hf : s.arg.f = false) (htries : 2 ≤ (getStack s n).tries)
    (hnone : (getCore s (noticeCore s (n / 3))).ev.notices = []) :
    ∃ t y, exec .stackRetrainComplete s = .next t ∧ (getStack t n).st = .failed ∧
      (getCore t (noticeCore s (n / 3))).ev.notices = [y] ∧ y.info.toNat / 2 ^ 60 = 3 ∧ t.mem = s.mem := by
  have hexec : exec .stackRetrainComplete s = .next (sendNotice (putStack s n { getStack s n with st := .failed })
      (noticeCore s (n / 3)) (mkNotice 3 0 n 0)) := by
    refine congrArg Host.Outcome.next ?_
    dsimp only
    rw [harg, if_neg (not_not_intro hst), if_neg (by rw [hf]; exact Bool.false_ne_true), if_neg (Nat.not_lt.2 htries)]
  obtain ⟨hnotice, hmu, hmem⟩ := sendNotice_of_room (s := putStack s n { getStack s n with st := .failed }) (mkNotice 3 0 n 0) hnone
  refine ⟨_, mkNotice 3 0 n 0, hexec, ?_, hnotice, ?_, hmem⟩
  · rw [getStack, hmu]
    exact congrArg Stack.st (getStack_putStack s n _)
  · rw [mkNotice, BitVec.toNat_ofNat]
    omega

/-- After 32 ms the counts of activations begin again. -/
theorem refreshIntervalEnd_clears (h : (getStack s n).interval + 32000000 ≤ s.out.time) :
    ∃ t, exec .refreshIntervalEnd s = .next t ∧ (getStack t n).acts = [] ∧ (getStack t n).interval = s.out.time ∧
      CoresKept s t ∧ t.mem = s.mem := by
  have hexec : exec .refreshIntervalEnd s = .next (putStack s n { getStack s n with acts := [], interval := s.out.time }) := by
    refine congrArg Host.Outcome.next ?_
    dsimp only
    rw [harg, if_pos h]
  refine ⟨_, hexec, ?_, ?_, ⟨rfl, rfl⟩, rfl⟩
  all_goals rw [getStack_putStack]

omit harg in
/-- What stands at the places of a bank after two of its rows have been exchanged. -/
theorem rowAt_exchanged (x : Stack) (b c o : Nat) :
    let y := { x with perm := tput (tput x.perm (rowKey b c) (rowAt x b o)) (rowKey b o) (rowAt x b c) }
    rowAt y b o = rowAt x b c ∧ rowAt y b c = rowAt x b o ∧ ∀ r, r ≠ o → r ≠ c → rowAt y b r = rowAt x b r := by
  have hkey {q r : Nat} (h : q ≠ r) : rowKey b q ≠ rowKey b r := fun e => h (Nat.add_left_cancel e)
  intro y
  refine ⟨?_, ?_, fun r hro hrc => ?_⟩
  · simp [y, rowAt, tgetD, tget_tput_self]
  · by_cases hco : c = o
    · subst hco
      simp [y, rowAt, tgetD, tget_tput_self]
    · simp [y, rowAt, tgetD, tget_tput_ne _ _ (hkey hco), tget_tput_self]
  · simp [y, rowAt, tgetD, tget_tput_ne _ _ (hkey hro), tget_tput_ne _ _ (hkey hrc)]

/-- A row of 4,096 activations is exchanged with another of its bank. -/
theorem rowExchange_exchanges (hacts : 4096 ≤ tgetD (getStack s n).acts (rowKey s.arg.b s.arg.c) 0)
    (hfree : tget (getStack s n).busy s.arg.b = none) :
    ∃ t o, exec .rowExchange s = .next t ∧ tget (getStack t n).busy s.arg.b = some s.cycle ∧
      (getStack t n).rowSwaps = (getStack s n).rowSwaps + 1 ∧
      rowAt (getStack t n) s.arg.b o = rowAt (getStack s n) s.arg.b s.arg.c ∧
      rowAt (getStack t n) s.arg.b s.arg.c = rowAt (getStack s n) s.arg.b o ∧
      (∀ r, r ≠ o → r ≠ s.arg.c → rowAt (getStack t n) s.arg.b r = rowAt (getStack s n) s.arg.b r) ∧ CoresKept s t ∧
      t.mem = s.mem := by
  generalize ho : (Config.bankRow (Config.freeNat s.fresh)).2 = o
  have hexec : exec .rowExchange s = .next (putStack { s with fresh := s.fresh + 1 } n { getStack s n with
      acts := tdel (getStack s n).acts (rowKey s.arg.b s.arg.c)
      perm := tput (tput (getStack s n).perm (rowKey s.arg.b s.arg.c) (rowAt (getStack s n) s.arg.b o)) (rowKey s.arg.b o)
        (rowAt (getStack s n) s.arg.b s.arg.c)
      busy := tput (getStack s n).busy s.arg.b s.cycle, rowSwaps := (getStack s n).rowSwaps + 1 }) := by
    refine congrArg Host.Outcome.next ?_
    dsimp only
    rw [harg, ho]
    refine if_neg ?_
    rintro (h | h)
    · exact Nat.not_lt.2 hacts h
    · rw [hfree] at h
      cases h
  obtain ⟨hto, htc, hother⟩ := rowAt_exchanged (getStack s n) s.arg.b s.arg.c o
  refine ⟨_, o, hexec, ?_, ?_, ?_, ?_, ?_, ⟨rfl, rfl⟩, rfl⟩
  all_goals rw [getStack_putStack]
  · exact tget_tput_self _ _ _
  · exact hto
  · exact htc
  · exact hother

/-- A bank is free 1,536 cycles after its exchange began. -/
theorem rowExchangeComplete_frees {c : Nat} (hbusy : tget (getStack s n).busy s.arg.b = some c) (hc : c + 1536 ≤ s.cycle) :
    ∃ t, exec .rowExchangeComplete s = .next t ∧ tget (getStack t n).busy s.arg.b = none ∧ CoresKept s t ∧ t.mem = s.mem := by
  have hexec : exec .rowExchangeComplete s = .next (putStack s n { getStack s n with busy := tdel (getStack s n).busy s.arg.b }) := by
    refine congrArg Host.Outcome.next ?_
    dsimp only
    rw [harg, hbusy]
    exact if_pos hc
  exact ⟨_, hexec, by rw [getStack_putStack]; exact tget_tdel_self _ _, ⟨rfl, rfl⟩, rfl⟩

end Stack

end Sys2Proof.Machine

/-! The device's own reads (06_memory R152; 08_page R216, R217; 11_kernel R278): what they leave of the state. -/
namespace Sys2Proof.Machine

theorem memoryOnly_ctlbNow (s : State) (cl asid va : Nat) : MemoryOnly s (ctlbNow s cl asid va).1 := by
  unfold ctlbNow
  split
  · exact ⟨_, _, _, _, _, _, rfl⟩
  · dsimp only
    split
    · exact (memoryOnly_walkReads s asid va).trans ⟨_, _, _, _, _, _, rfl⟩
    · exact memoryOnly_walkReads s asid va

theorem memoryOnly_devResolve {s t : State} {cl ctx asid : Nat} {ea : W64} {a : Acs} {p : Place × Nat}
    (h : devResolve s cl ctx asid ea a = .ok (t, p)) : MemoryOnly s t := by
  have hlook := memoryOnly_ctlbNow s cl asid ea.toNat
  unfold devResolve engResolveBy at h
  split at h
  · split at h
    · cases h
    · split at h
      · cases h
      · cases h
      next e hit =>
        rw [hit] at hlook
        dsimp only at h
        split at h
        · cases h
        · split at h
          · split at h <;> cases h
            exact hlook
          · split at h <;> cases h
            exact hlook
          · cases h
            exact hlook
  · dsimp only at h
    split_ifs at h
    cases h
    exact .refl s
  · dsimp only at h
    split_ifs at h
    cases h
    exact .refl s
  · cases h

theorem memoryOnly_servedAt {s : State} {ctx : Nat} {place : Place} {key : Nat} {r : State × Place × Nat}
    (h : servedAt s ctx place key = .ok r) : MemoryOnly s r.1 := by
  unfold servedAt at h
  split at h
  next n =>
    split at h
    · cases h
      exact .refl s
    next va _ =>
      have hlook := memoryOnly_ctlbNow s (clusterOf (getCore s n).pos) (ctxAsid s ctx) va
      split at h
      next t e hit =>
        rw [hit] at hlook
        cases h
        exact hlook
      next => cases h
  · cases h
    exact .refl s

/-- The state a read of several lines leaves. -/
def readEnd (s : State) : Except ReadStop (State × List Byte × Clock) → State
  | .ok r => r.1
  | .error (.poison _ t) => t
  | .error .waits => s

theorem memoryOnly_readGo {rd : State → Nat → Except ReadStop (State × W512 × Clock)}
    (hrd : ∀ t line, MemoryOnly t (readState t (rd t line))) (fuel : Nat) (s : State) (key n : Nat) :
    MemoryOnly s (readEnd s (readGo rd fuel s key n)) := by
  induction fuel generalizing s key n with
  | zero => exact .refl s
  | succ fuel ih =>
    unfold readGo
    split
    · exact .refl s
    · dsimp only
      have hline := hrd s (lineKeyOf key)
      split
      next e he =>
        rw [he] at hline
        cases e <;> exact hline
      next t data c he =>
        rw [he] at hline
        have hrest := ih t (key + min n (64 - key % 64)) (n - min n (64 - key % 64))
        split
        next e her =>
          rw [her] at hrest
          cases e with
          | waits => exact .refl s
          | poison _ u => exact hline.trans hrest
        next u rest c' her =>
          rw [her] at hrest
          exact hline.trans hrest

theorem memoryOnly_readHome (s : State) (d : Nat) (place : Place) (key n : Nat) : MemoryOnly s (readEnd s (readHome s d place key n)) :=
  memoryOnly_readGo (fun t line => memoryOnly_missLine t d place line) _ s key n

/-- A read of the device's own that answers changes memory only. -/
theorem memoryOnly_vaRead {s t : State} {cl ctx va n : Nat} {l : List Byte} (h : vaRead s cl ctx va n = .ok (t, l)) : MemoryOnly s t := by
  unfold vaRead devRead at h
  generalize hres : devResolve s cl ctx (ctxAsid s ctx) (BitVec.ofNat 64 va) .load = res at h
  unfold readThrough at h
  split at h
  next u l' b hgot =>
    cases h
    split at hgot
    · cases hgot
    · cases hgot
    · cases hgot
    · cases hgot
    next v place key _ =>
      have hv := memoryOnly_devResolve hres
      split at hgot
      · cases hgot
      next r hserved =>
        have hr := memoryOnly_servedAt hserved
        have hread := memoryOnly_readHome r.1 (cl / 32) r.2.1 r.2.2 n
        split at hgot
        next he =>
          cases hgot
          rw [he] at hread
          exact (hv.trans hr).trans hread
        next he =>
          cases hgot
          rw [he] at hread
          exact (hv.trans hr).trans hread
        · cases hgot
  · cases h
  · cases h
  · cases h

end Sys2Proof.Machine

/-! The host: its accesses, its cache and its doorbells (07_ordering R183; 11_kernel R278; 23_link R433). -/
namespace Sys2Proof.Machine

/-! ### Accesses -/

theorem sendNotice_keeps (s : State) (n : Nat) (x : Notice) :
    (sendNotice s n x).mem = s.mem ∧ (sendNotice s n x).out.links = s.out.links := by
  unfold sendNotice modCore
  dsimp only
  split
  · split <;> exact ⟨rfl, rfl⟩
  · exact ⟨rfl, rfl⟩

/-- A violation freezes and quarantines the host port. -/
theorem hostViolation_quarantines (s : State) : (getLink (hostViolation s) 24).st = .quarantined ∧
    (getLink (hostViolation s) 24).frozen = true ∧ (hostViolation s).mem = s.mem := by
  have hlink : getLink (hostViolation s) 24 = { getLink s 24 with st := .quarantined, frozen := true } := by
    unfold hostViolation getLink
    rw [(sendNotice_keeps _ _ _).2]
    simp [putLink, tgetD, tget_tput_self]
  rw [hlink]
  exact ⟨rfl, rfl, (sendNotice_keeps _ _ _).1⟩

/-- A write whose home is its own die tells that home nothing. -/
theorem applyWrite_at_home (s : State) (place : Place) (cells : List Host.Cell) (v : Clock) :
    applyWrite s place cells ((homeOf s place).getD 0) v = homeWrite s place cells := by
  unfold applyWrite
  cases homeOf s place with
  | none => rfl
  | some h => exact if_pos rfl

theorem rdcStale_keeps (s : State) (lines : List Nat) :
    (rdcStale s lines).mem = s.mem ∧ (rdcStale s lines).mu.l2 = s.mu.l2 ∧ (rdcStale s lines).out = s.out := by
  unfold rdcStale
  split <;> exact ⟨rfl, rfl, rfl⟩

section Host
variable {s : State} (hup : hostUp s = true)
include hup

theorem hostWrite_outside (n : Nat) (data : W512) {a : Nat} (hh : hdmOf s a = none) : hostWrite s a n data = hostViolation s := by
  simp [hostWrite, hup, hh]

theorem hostRead_outside (n : Nat) {a : Nat} (hh : hdmOf s a = none) : hostRead s a n = hostViolation s := by
  simp [hostRead, hup, hh]

section Served
variable {h : Hdm} {a : Nat} (hh : hdmOf s a = some h)
include hh

theorem hostRead_refused {cause : Nat} (n : Nat) (hr : hostResolve s h a .load = .error (.cause cause)) :
    hostRead s a n = hostReply s none := by
  simp [hostRead, hup, hh, hr]

theorem hostWrite_refused {cause : Nat} (n : Nat) (data : W512) (hw : h.hctl.toNat / 2 ^ 62 % 2 = 1)
    (hr : hostResolve s h a .store = .error (.cause cause)) : hostWrite s a n data = hostReply s none := by
  have hwr : fld h.hctl 62 62 ≠ 0 := by rw [fld_bit, hw]; decide
  simp [hostWrite, hup, hh, hwr, hr]

/-- The bytes of the host's write are applied at their home (R183). -/
theorem hostWrite_applied {u : State} {place : Place} {key : Nat} (n : Nat) (data : W512) (hw : h.hctl.toNat / 2 ^ 62 % 2 = 1)
    (hr : hostResolve s h a .store = .ok (u, place, key)) (hap : place ≠ .aperture)
    (hthere : placeThere u place (cellsAt key (bytesOf data.toNat n)) = true)
    (hready : writeReady u place (cellsAt key (bytesOf data.toNat n)) ((homeOf u place).getD 0) Clock.zero = true) :
    hostWrite s a n data = hostReply (rdcStale (homeWrite u place (cellsAt key (bytesOf data.toNat n)))
      (cellLines (cellsAt key (bytesOf data.toNat n)))) (some []) := by
  have hwr : fld h.hctl 62 62 ≠ 0 := by rw [fld_bit, hw]; decide
  simp [hostWrite, hup, hh, hwr, hr, hap, hthere, hready, applyWrite_at_home]

/-- The host gets the bytes it reads, and holds their line when it lies in HBM (R433, R183). -/
theorem hostRead_answered {u v : State} {place : Place} {key : Nat} {l : List Byte} {c : Clock} (n : Nat)
    (hr : hostResolve s h a .load = .ok (u, place, key))
    (hread : readHome u ((homeOf u place).getD 0) place key n = .ok (v, l, c)) :
    hostRead s a n = hostReply (hostTakes v place key) (some l) := by
  simp [hostRead, hup, hh, hr, hread]

end Served

end Host

theorem hostTakes_keeps (s : State) (place : Place) (key : Nat) :
    (hostTakes s place key).mem = s.mem ∧ (hostTakes s place key).out = s.out := by
  unfold hostTakes
  split
  · split <;> exact ⟨rfl, rfl⟩
  · exact ⟨rfl, rfl⟩

theorem mem_hostHeld_hostTakes (s : State) (d : Nat) (c : Bool) (kid key : Nat) :
    lineKeyOf key ∈ (hostTakes s (.hbm d c kid) key).mu.hostHeld := by
  unfold hostTakes
  dsimp only
  split
  next h => exact List.contains_iff_mem.1 h
  next => exact List.mem_append_right _ List.mem_cons_self

/-! ### Doorbells (R278) -/

/-- The bell that a ring adds, and the state in which its command processor reads: it has acquired. -/
def ringBell (s : State) : Bell := ⟨s.arg.a, s.cycle, subqAddr s s.arg.a, subqCp s s.arg.a, none⟩

def ringState (s : State) : State :=
  let u := raiseFloor s (subqCp s s.arg.a) (chipClock s)
  { u with un := { u.un with doorbells := u.un.doorbells ++ [ringBell s] } }

/-- One bell read for its command processor, beside those read before it. -/
def readBellInto (cp : Nat) (acc : State × List Bell) (b : Bell) : State × List Bell :=
  if b.cp = cp then
    let q := readBell acc.1 b
    (q.1, acc.2 ++ q.2.toList)
  else (acc.1, acc.2 ++ [b])

theorem readBells_eq (s : State) (cp : Nat) : readBells s cp =
    let r := s.un.doorbells.foldl (readBellInto cp) (s, [])
    r.1.mapUn (fun u => { u with doorbells := r.2 }) := rfl

/-- Bells whose TAIL has been read stand as they are. -/
theorem foldl_readBellInto {cp : Nat} {l : List Bell} (h : ∀ b ∈ l, b.tail.isSome = true) (s : State) (acc : List Bell) :
    l.foldl (readBellInto cp) (s, acc) = (s, acc ++ l) := by
  induction l generalizing acc with
  | nil => rw [List.append_nil]; rfl
  | cons b l ih =>
    have hb : readBellInto cp (s, acc) b = (s, acc ++ [b]) := by
      unfold readBellInto readBell
      rw [if_pos (h b List.mem_cons_self)]
      exact ite_self _
    rw [List.foldl_cons, hb, ih fun x hx => h x (List.mem_cons_of_mem b hx), List.append_assoc]
    rfl

theorem rdcFresh_of_none_stale {s : State} (h : ∀ l ∈ s.mu.rdc, l.2.stale = false) (die : Nat) : rdcFresh s die = s :=
  if_neg (Bool.eq_false_iff.1 (List.any_eq_false.2 fun l hl => by rw [h l hl]; exact Bool.false_ne_true))

/-- A doorbell latches the TAIL that its command processor reads. -/
theorem hostDoorbell_latches {s v : State} {l : List Byte} (hup : hostUp s = true) (hlife : ctxLife s s.arg.a = 1)
    (hbells : ∀ b ∈ s.un.doorbells, b.tail.isSome = true) (hstale : ∀ l ∈ s.mu.rdc, l.2.stale = false)
    (hread : vaRead (ringState s) (subqCp s s.arg.a * 32) s.arg.a (subqAddr s s.arg.a) 64 = .ok (v, l)) :
    ∃ t, exec .hostDoorbell s = .next t ∧
      t.un.doorbells = s.un.doorbells ++ [{ ringBell s with tail := some (qHeadOf l).tail }] ∧ CoresKept s t ∧ t.mem = v.mem := by
  have hring : ringDoorbell s s.arg.a = readBells (ringState s) (subqCp s s.arg.a) := by
    unfold ringDoorbell
    rw [if_neg (not_not_intro hlife)]
    dsimp only
    rw [rdcFresh_of_none_stale hstale]
    rfl
  have hbell : readBellInto (subqCp s s.arg.a) (ringState s, s.un.doorbells) (ringBell s) =
      (v, s.un.doorbells ++ [{ ringBell s with tail := some (qHeadOf l).tail }]) := by
    have hnew : readBell (ringState s) (ringBell s) = (v, some { ringBell s with tail := some (qHeadOf l).tail }) := by
      unfold readBell
      rw [if_neg (by exact Bool.false_ne_true)]
      simp only [ringBell, hread]
    unfold readBellInto
    rw [if_pos (show (ringBell s).cp = subqCp s s.arg.a from rfl)]
    dsimp only
    rw [hnew]
    rfl
  have hall : (ringState s).un.doorbells.foldl (readBellInto (subqCp s s.arg.a)) (ringState s, []) =
      (v, s.un.doorbells ++ [{ ringBell s with tail := some (qHeadOf l).tail }]) := by
    have hlist : (ringState s).un.doorbells = s.un.doorbells ++ [ringBell s] := rfl
    rw [hlist, List.foldl_append, foldl_readBellInto hbells, List.nil_append]
    exact hbell
  have hexec : exec .hostDoorbell s = .next (readBells (ringState s) (subqCp s s.arg.a)) := by
    refine congrArg Host.Outcome.next ?_
    rw [if_pos hup, hring]
  rw [readBells_eq, hall] at hexec
  have hv := memoryOnly_vaRead hread
  exact ⟨_, hexec, rfl, ⟨hv.core, hv.others⟩, rfl⟩

/-! ### The host's cache (R183) -/

/-- A line of host memory that is written back stands in memory. -/
theorem mem_writeBack_host (s : State) {line : Nat} (l : L2Line) (hfar : ¬ line * 64 < hbmEnd) :
    (writeBack s line l).mem = if l.dirty then mputs s.mem (cellsAt (line * 64) (bytesOf l.data.toNat 64)) else s.mem := by
  have hlive : ¬ stackDead s (line * 64) = true := by
    rw [stackDead, stackStOf, if_neg hfar]
    decide
  have hput : ∀ kid, (hbmPut s line l.data kid).mem = mputs s.mem (cellsAt (line * 64) (bytesOf l.data.toNat 64)) := fun kid => by
    rw [hbmPut, if_neg hlive]
    dsimp only
    rw [stackAccess, if_neg hfar]
  unfold writeBack
  split
  · exact hput _
  · rfl

/-- The device's changed line of host memory is given up to a read of the host. -/
theorem hostCacheSnoop_writes {l : L2Line} {s : State} (hl : tget s.mu.l2 (lineKeyOf (hostKey s.arg.a)) = some l) :
    ∃ t, exec .hostCacheSnoop s = .next t ∧ tget t.mu.l2 (lineKeyOf (hostKey s.arg.a)) = some { l with dirty := false } ∧
      (l.dirty = true → mread t.mem (64 * lineKeyOf (hostKey s.arg.a)) 64 = bytesOf l.data.toNat 64) ∧
      KeepsBytesBut s t (64 * lineKeyOf (hostKey s.arg.a)) 64 ∧ CoresKept s t := by
  have hfar : ¬ lineKeyOf (hostKey s.arg.a) * 64 < hbmEnd := by
    rw [lineKeyOf, hostKey, hbmEnd]
    omega
  have hexec : exec .hostCacheSnoop s = .next ((writeBack s (lineKeyOf (hostKey s.arg.a)) l).mapMu
      (fun m => { m with l2 := tput m.l2 (lineKeyOf (hostKey s.arg.a)) { l with dirty := false } })) := by
    refine congrArg Host.Outcome.next ?_
    dsimp only
    rw [hl]
  generalize lineKeyOf (hostKey s.arg.a) = line at hfar hexec ⊢
  have hmem := mem_writeBack_host s l hfar
  have hkept := memoryOnly_writeBack s line l
  refine ⟨_, hexec, tget_tput_self _ _ _, fun hd => ?_, fun a ha => ?_, ⟨hkept.core, hkept.others⟩⟩
  · have hread := mread_mputs_cellsAt s.mem (line * 64) (bytesOf l.data.toNat 64)
    rw [length_bytesOf] at hread
    rw [if_pos hd] at hmem
    exact (congrArg (mread · (64 * line) 64) hmem).trans (Nat.mul_comm line 64 ▸ hread)
  · refine (congrArg (mget · a) hmem).trans ?_
    split
    · refine mget_mputs_cellsAt_out _ _ _ _ ?_
      rw [length_bytesOf]
      omega
    · rfl

/-- A line that the host answers for is no longer its own. -/
theorem backInvalidateResponse_frees {s : State} (hone : s.mu.snooped.Nodup) (hmem : lineKeyOf s.arg.a ∈ s.mu.snooped) :
    ∃ t, exec .backInvalidateResponse s = .next t ∧ lineKeyOf s.arg.a ∉ t.mu.hostHeld ∧
      lineKeyOf s.arg.a ∉ t.mu.snooped ∧ CoresKept s t ∧ t.mem = s.mem := by
  refine ⟨_, congrArg Host.Outcome.next (if_pos (List.contains_iff_mem.2 hmem)), ?_, hone.not_mem_erase, ⟨rfl, rfl⟩, rfl⟩
  intro h
  simpa using (List.mem_filter.1 h).2

end Sys2Proof.Machine

/-! Page walks that end, and the bytes of a key (08_page R213, R216, R217). -/
namespace Sys2Proof.Machine

/-! ### Walks -/

/-- A translation that a cluster's TLB does not hold yet enters it. -/
theorem mem_ctlbAdd {l : List TlbEnt} {e : TlbEnt} (h : ∀ f ∈ l, f.asid = e.asid → f.size = e.size → f.vpage ≠ e.vpage) :
    e ∈ ctlbAdd l e := by
  have hnot : ∀ f ∈ l, (f.asid == e.asid && f.size == e.size && f.vpage == e.vpage) = false := fun f hf => by
    by_contra hsame
    simp only [Bool.not_eq_false, Bool.and_eq_true, beq_iff_eq] at hsame
    exact h f hf hsame.1.1 hsame.1.2 hsame.2
  unfold ctlbAdd
  dsimp only
  rw [if_neg]
  · exact List.mem_append_right _ List.mem_cons_self
  · refine Bool.eq_false_iff.1 (List.any_eq_false.2 fun f hf => ?_)
    rw [hnot f (List.mem_of_mem_filter hf)]
    exact Bool.false_ne_true

/-- The one walk of a cluster ends in its TLB. -/
theorem pageWalkComplete_fills {e : TlbEnt} {s : State} (hwalk : getWalks s s.arg.a = [⟨s.arg.b, s.arg.w.toNat, some e⟩])
    (hnew : ∀ f ∈ getCtlb s s.arg.a, f.asid = e.asid → f.size = e.size → f.vpage ≠ e.vpage) :
    ∃ t, exec .pageWalkComplete s = .next t ∧ e ∈ getCtlb t s.arg.a ∧ getWalks t s.arg.a = [] ∧ CoresKept s t ∧
      t.mem = s.mem := by
  have hend : endWalk s s.arg.a s.arg.b s.arg.w.toNat =
      putWalks (putCtlb s s.arg.a (ctlbAdd (getCtlb s s.arg.a) e)) s.arg.a [] := by
    unfold endWalk
    rw [hwalk]
    simp [dropFirst, startWalk]
  refine ⟨_, congrArg Host.Outcome.next hend, ?_, ?_, ⟨rfl, rfl⟩, rfl⟩
  · have hentries : getCtlb (putWalks (putCtlb s s.arg.a (ctlbAdd (getCtlb s s.arg.a) e)) s.arg.a []) s.arg.a =
        ctlbAdd (getCtlb s s.arg.a) e := by simp [getCtlb, putWalks, putCtlb, tgetD, tget_tput_self]
    rw [hentries]
    exact mem_ctlbAdd hnew
  · simp [getWalks, putWalks, tgetD, tget_tdel_self]

/-! ### Keys -/

/-- Byte `j` of 64. -/
def byteAt (v : BitVec 512) (j : Nat) : Nat := v.toNat / 2 ^ (8 * j) % 2 ^ 8

theorem testBit_byteAt (v : BitVec 512) (j i : Nat) : (byteAt v j).testBit i = (decide (i < 8) && v.getLsbD (8 * j + i)) := by
  rw [byteAt, Nat.testBit_mod_two_pow, Nat.testBit_div_two_pow, BitVec.getLsbD, Nat.add_comm]

/-- A key is zero when each of its bytes is. -/
theorem eq_zero_of_bytes {v : BitVec 512} (h : ∀ j, j < 64 → byteAt v j = 0) : v = 0 := by
  refine BitVec.eq_of_getLsbD_eq fun k hk => ?_
  have hbit := congrArg (·.testBit (k % 8)) (h (k / 8) (by omega))
  simpa [testBit_byteAt, Nat.mod_lt, Nat.div_add_mod] using hbit

/-- One byte of 64 replaced. -/
def putByte (v : BitVec 512) (off : Nat) (b : Byte) : BitVec 512 :=
  (v &&& ~~~ ((0xFF#512) <<< (8 * off))) ||| (BitVec.ofNat 512 b.toNat <<< (8 * off))

theorem putByte_bit (v : BitVec 512) {off k : Nat} (b : Byte) (hk : k < 512) :
    (putByte v off b).getLsbD k = if 8 * off ≤ k ∧ k < 8 * off + 8 then b.getLsbD (k - 8 * off) else v.getLsbD k := by
  have hones : ∀ m, (0xFF#512).getLsbD m = decide (m < 8) := fun m => by
    rw [BitVec.getLsbD_ofNat, show (0xFF : Nat) = 2 ^ 8 - 1 from rfl, Nat.testBit_two_pow_sub_one, ← Bool.decide_and]
    exact decide_eq_decide.2 (by omega)
  have hbyte : (BitVec.ofNat 512 b.toNat).getLsbD (k - 8 * off) = b.getLsbD (k - 8 * off) := by
    simp [BitVec.getLsbD]
  unfold putByte
  rw [BitVec.getLsbD_or, BitVec.getLsbD_and, BitVec.getLsbD_not, BitVec.getLsbD_shiftLeft, BitVec.getLsbD_shiftLeft, hones,
    hbyte]
  rcases Nat.lt_or_ge k (8 * off) with hlow | hlow
  · rw [if_neg (by omega)]
    simp [hk, hlow]
  · rcases Nat.lt_or_ge k (8 * off + 8) with hhigh | hhigh
    · rw [if_pos ⟨hlow, hhigh⟩]
      simp [hk, Nat.not_lt.2 hlow, show k - 8 * off < 8 by omega]
    · rw [if_neg (by omega), BitVec.getLsbD_of_ge b _ (by omega)]
      simp [hk, Nat.not_lt.2 hlow, show ¬ k - 8 * off < 8 by omega]

theorem byteAt_putByte (v : BitVec 512) {off j : Nat} (b : Byte) (hoff : off < 64) (hj : j < 64) :
    byteAt (putByte v off b) j = if j = off then b.toNat else byteAt v j := by
  refine Nat.eq_of_testBit_eq fun i => ?_
  rw [testBit_byteAt]
  rcases Nat.lt_or_ge i 8 with hi | hi
  · rw [putByte_bit v b (by omega)]
    split
    next h =>
      obtain rfl : j = off := by omega
      simp [hi, BitVec.getLsbD]
    next h =>
      rw [if_neg (by omega), testBit_byteAt]
  · rw [decide_eq_false (Nat.not_lt.2 hi), Bool.false_and]
    split
    · exact (Nat.testBit_lt_two_pow (b.isLt.trans_le (Nat.pow_le_pow_right (by decide) hi))).symm
    · rw [testBit_byteAt, decide_eq_false (Nat.not_lt.2 hi), Bool.false_and]

/-- A key with one byte replaced is other than zero when that byte is or another one. -/
theorem putByte_ne_zero_iff (v : BitVec 512) {off : Nat} (b : Byte) (hoff : off < 64) :
    (putByte v off b != 0) = true ↔ b.toNat ≠ 0 ∨ ∃ j, j < 64 ∧ j ≠ off ∧ byteAt v j ≠ 0 := by
  rw [bne_iff_ne]
  constructor
  · intro hne
    by_contra hnone
    push Not at hnone
    obtain ⟨hb, hv⟩ := hnone
    refine hne (eq_zero_of_bytes fun j hj => ?_)
    rw [byteAt_putByte v b hoff hj]
    split
    · exact hb
    next h => exact hv j hj h
  · intro hsome hzero
    have hbytes : ∀ j, j < 64 → (if j = off then b.toNat else byteAt v j) = 0 := fun j hj => by
      rw [← byteAt_putByte v b hoff hj, hzero]
      simp [byteAt]
    rcases hsome with hb | ⟨j, hj, hjoff, hv⟩
    · exact hb (by simpa using hbytes off hoff)
    · exact hv (by simpa [hjoff] using hbytes j hj)

theorem keyByte_eq (x : KeySt) (off : Nat) (b : Byte) : keyByte x off b =
    if x.have_ ||| (1#64 <<< off) = BitVec.allOnes 64 then
      { bytes := 0, have_ := 0, installed := putByte x.bytes off b != 0, value := putByte x.bytes off b }
    else { x with bytes := putByte x.bytes off b, have_ := x.have_ ||| (1#64 <<< off) } := rfl

theorem keyWrite_byte {s : State} {k off : Nat} (hoff : off < 64) (data : W512) : keyWrite s k off (bytesOf data.toNat 1) =
    s.mapMu (fun m => { m with keys := tput m.keys k (keyByte (tgetD s.mu.keys k KeySt.fresh) off (BitVec.ofNat 8 data.toNat)) }) := by
  simp [keyWrite, bytesOf, List.range_succ, Nat.mod_eq_of_lt hoff]

section OneByte
variable {s : State} {k off : Nat} (hoff : off < 64) (ha : s.arg.a = k) (hb : s.arg.b = off) (hc : s.arg.c = 1)
include hoff ha hb hc

/-- The key after the byte. -/
theorem keyWrite_next : ∃ t, exec .keyWrite s = .next t ∧ CoresKept s t ∧
    tget t.mu.keys k = some (keyByte (tgetD s.mu.keys k KeySt.fresh) off (BitVec.ofNat 8 s.arg.line.toNat)) := by
  refine ⟨_, congrArg Host.Outcome.next ((congr (congr (congrArg _ ha) hb) (congrArg _ hc)).trans (keyWrite_byte hoff _)),
    ⟨rfl, rfl⟩, tget_tput_self _ _ _⟩

/-- A byte that is not the last one stays with the key until the others come. -/
theorem keyWrite_gathers (hgot : (tgetD s.mu.keys k KeySt.fresh).have_ ||| (1#64 <<< off) ≠ BitVec.allOnes 64) :
    ∃ t y, exec .keyWrite s = .next t ∧ tget t.mu.keys k = some y ∧
      y.have_ = (tgetD s.mu.keys k KeySt.fresh).have_ ||| (1#64 <<< off) ∧
      y.installed = (tgetD s.mu.keys k KeySt.fresh).installed ∧
      (∀ j, j < 64 → byteAt y.bytes j =
        if j = off then s.arg.line.toNat % 2 ^ 8 else byteAt (tgetD s.mu.keys k KeySt.fresh).bytes j) ∧ CoresKept s t := by
  obtain ⟨t, hexec, hkept, hkey⟩ := keyWrite_next hoff ha hb hc
  rw [keyByte_eq, if_neg hgot] at hkey
  exact ⟨t, _, hexec, hkey, rfl, rfl, fun j hj => byteAt_putByte _ _ hoff hj, hkept⟩

/-- The last byte installs the key, or removes it when all are zero. -/
theorem keyWrite_installs (hgot : (tgetD s.mu.keys k KeySt.fresh).have_ ||| (1#64 <<< off) = BitVec.allOnes 64) :
    ∃ t y, exec .keyWrite s = .next t ∧ tget t.mu.keys k = some y ∧ y.have_ = 0 ∧ CoresKept s t ∧
      (∀ j, j < 64 → byteAt y.value j =
        if j = off then s.arg.line.toNat % 2 ^ 8 else byteAt (tgetD s.mu.keys k KeySt.fresh).bytes j) ∧
      (y.installed = true ↔ (s.arg.line.toNat % 2 ^ 8 ≠ 0 ∨ ∃ j, j < 64 ∧ j ≠ off ∧
        byteAt (tgetD s.mu.keys k KeySt.fresh).bytes j ≠ 0)) := by
  obtain ⟨t, hexec, hkept, hkey⟩ := keyWrite_next hoff ha hb hc
  rw [keyByte_eq, if_pos hgot] at hkey
  exact ⟨t, _, hexec, hkey, rfl, hkept, fun j hj => byteAt_putByte _ _ hoff hj, putByte_ne_zero_iff _ _ hoff⟩

end OneByte

end Sys2Proof.Machine

/-! The events of memory and of the host together. -/
namespace Sys2Proof.Machine

/-- Settles O49, clause by clause: the accesses at their homes, the beats, the stacks, the host, the walks and the keys. -/
theorem memoryAndHostEvents : Obligations.MemoryAndHostEvents := by
  unfold Obligations.MemoryAndHostEvents
  refine ⟨?store, ?atomic, ?crossDie, ?beatLeaves, ?beatArrives, rdcSweep_drops, ?stack, ?host, ?cache, ?answer, ?walk, ?key⟩
  case store =>
    intro p n off m l s hp hb hsrc hr hh _ _ hport
    exact remoteStore_local hp hb hsrc hr hh hport
  case atomic =>
    intro p n off m k op expect arg s hp hb hsrc hr hh hk hoff _ hwhole hport
    exact postedAtomic_local hp hb hsrc hr hh hk hoff hwhole hport
  case crossDie =>
    intro p h kid m c cells s hp hb hdie hsrc hexcl hheld hup hheard
    exact crossDieWrite hp hb hdie hsrc hexcl hheld hup hheard
  case beatLeaves =>
    intro die s harg _ hdue hlast
    exact clockBeat_sends harg hdue hlast
  case beatArrives =>
    intro p s hp hahead hone
    exact beatArrival_hears hp hahead hone
  case stack =>
    intro n s harg
    exact ⟨ratioChangeRequest_pends harg, stackRetrainStart_retrains harg, forcedRetrain_retrains harg,
      stackRetrainComplete_up harg, stackRetrainComplete_failed harg, refreshIntervalEnd_clears harg,
      rowExchange_exchanges harg, fun _ => rowExchangeComplete_frees harg⟩
  case host =>
    intro s hup
    refine ⟨?outside, ?written, ?writeRefused, ?readRefused, ?readAnswered, ?doorbell⟩
    case outside =>
      intro hh
      obtain ⟨hst, hfrozen, hmem⟩ := hostViolation_quarantines s
      exact ⟨_, _, congrArg Host.Outcome.next (hostWrite_outside hup _ _ hh), congrArg Host.Outcome.next (hostRead_outside hup _ hh),
        hst, hfrozen, hst, hfrozen, hmem, hmem⟩
    case written =>
      intro h u place key hh hw hr hap cells hthere hready
      obtain ⟨hmem, hl2, hout⟩ := rdcStale_keeps (homeWrite u place cells) (cellLines cells)
      exact ⟨_, congrArg Host.Outcome.next (hostWrite_applied hup hh _ _ hw hr hap hthere hready), hmem, hl2,
        congrArg (fun o : Outside => o.hostOut ++ [some []]) hout⟩
    case writeRefused =>
      intro h cause hh hw hr
      exact ⟨_, congrArg Host.Outcome.next (hostWrite_refused hup hh _ _ hw hr), rfl⟩
    case readRefused =>
      intro h cause hh hr
      exact ⟨_, congrArg Host.Outcome.next (hostRead_refused hup hh _ hr), rfl⟩
    case readAnswered =>
      intro h u v place key l c hh hr hread
      obtain ⟨hmem, hout⟩ := hostTakes_keeps v place key
      refine ⟨_, congrArg Host.Outcome.next (hostRead_answered hup hh _ hr hread), hmem,
        congrArg (fun o : Outside => o.hostOut ++ [some l]) hout, ?_⟩
      rintro ⟨d, k, kid, rfl⟩
      exact mem_hostHeld_hostTakes v d k kid key
    case doorbell =>
      intro v l hlife hbells hstale _ _ _ _ hread
      exact hostDoorbell_latches hup hlife hbells hstale hread
  case cache =>
    intro l s hl
    exact hostCacheSnoop_writes hl
  case answer =>
    intro s hone hmem
    exact backInvalidateResponse_frees hone hmem
  case walk =>
    intro e s hwalk hnew
    exact pageWalkComplete_fills hwalk hnew
  case key =>
    intro k off s ha hb hoff hc
    exact ⟨keyWrite_gathers hoff ha hb hc, keyWrite_installs hoff ha hb hc⟩

end Sys2Proof.Machine

/-! STRL on a word of the own local memory (07_ordering R173, R177, R203, R205): the release finds nothing to wait for and steps the
counter of its die, and the beats that this sends hold no store back. -/
namespace Sys2Proof.Machine

/-! ### The release step of a die (R177) -/

/-- The beats of a die are packets that write nothing, and its clock stands (R177). -/
theorem sendBeats_changes (s : State) (die : Nat) : ∃ ps id,
    sendBeats s die = putDie { s with net := s.net ++ ps, nextId := id } die
        { getDie s die with beatDue := false, lastBeat := s.cycle } ∧
      ∀ p ∈ ps, p.body.cells = [] := by
  obtain ⟨ps, id, h, hbodies, -⟩ := foldl_sendBeat die (List.range 4) s
  refine ⟨ps, id, by rw [sendBeats_eq, h]; rfl, fun p hp => ?_⟩
  obtain ⟨e, -, he⟩ := List.mem_map.1 (hbodies ▸ List.mem_map_of_mem (f := Packet.body) hp)
  rw [← he]
  rfl

theorem getDie_sendBeats (s : State) (die : Nat) :
    getDie (sendBeats s die) die = { getDie s die with beatDue := false, lastBeat := s.cycle } := by
  obtain ⟨ps, id, h, -⟩ := sendBeats_changes s die
  rw [h, getDie_putDie]

/-- A release step changes the clocks of the dies and the packets on their way, to which it adds beats. -/
theorem stepRelease_changes (s : State) (die : Nat) : ∃ ps id dies,
    stepRelease s die = { s with net := s.net ++ ps, nextId := id, mu := { s.mu with dies := dies } } ∧
      ∀ p ∈ ps, p.body.cells = [] := by
  unfold stepRelease
  extract_lets x
  split
  next => exact ⟨[], s.nextId, s.mu.dies, by rw [List.append_nil], fun _ h => nomatch h⟩
  next =>
    obtain ⟨ps, id, h, hps⟩ := sendBeats_changes
      (putDie s die { x with vc := x.vc.set die (x.vc.get die + 1), lastStep := some s.cycle }) die
    exact ⟨ps, id, _, h, hps⟩

/-- What the die has received of the others stands. -/
theorem stepRelease_heard (s : State) (die : Nat) : (getDie (stepRelease s die) die).heard = (getDie s die).heard := by
  unfold stepRelease
  extract_lets x
  split
  next => rfl
  next => rw [getDie_sendBeats, getDie_putDie]

theorem Clock.get_set (c : Clock) (d : Nat) (v : BitVec 32) : (c.set d v).get d = v := by
  match d with
  | 0 | 1 | 2 | _ + 3 => rfl

/-- The counter steps once in a cycle. -/
theorem stepRelease_counts {s : State} {die : Nat} (h : (getDie s die).lastStep ≠ some s.cycle) :
    (getDie (stepRelease s die) die).vc.get die = (getDie s die).vc.get die + 1 := by
  rw [stepRelease, if_neg h, getDie_sendBeats, getDie_putDie, Clock.get_set]

/-! ### A release that finds nothing to wait for (R173, R203) -/

/-- The state in which a release with nothing to wait for is complete. -/
def released (s : State) (scope : Scope) : State := if steps scope then stepRelease s (dieOf s.core.pos) else s

theorem fenceHead_settled {s : State} (h : Settled s) : fenceHead s = .ok s := by
  have hferr : checkFerr s = .ok s := by rw [checkFerr, h.awake, h.failed]
  have hnone : partnerOf s s.core.num = none := h.unpaired
  rw [fenceHead, landAll_of_none s h.results, hferr]
  change pairPoint s = .ok s
  rw [pairPoint, pairPointAs, hnone]

theorem releaseIds_settled {s : State} (h : Settled s) (scope : Scope) : releaseIds s scope = [] := by
  rw [releaseIds, h.stores]
  split <;> rfl

theorem released_changes (s : State) (scope : Scope) : ∃ ps id dies,
    released s scope = { s with net := s.net ++ ps, nextId := id, mu := { s.mu with dies := dies } } ∧
      ∀ p ∈ ps, p.body.cells = [] := by
  unfold released
  split
  next => exact stepRelease_changes s _
  next => exact ⟨[], s.nextId, s.mu.dies, by rw [List.append_nil], fun _ h => nomatch h⟩

theorem released_heard (s : State) (scope : Scope) :
    (getDie (released s scope) (dieOf s.core.pos)).heard = (getDie s (dieOf s.core.pos)).heard := by
  unfold released
  split
  next => exact stepRelease_heard s _
  next => rfl

theorem released_core (s : State) (scope : Scope) : (released s scope).core = s.core := by
  obtain ⟨ps, id, dies, h, -⟩ := released_changes s scope
  rw [h]

theorem released_mem (s : State) (scope : Scope) : (released s scope).mem = s.mem := by
  obtain ⟨ps, id, dies, h, -⟩ := released_changes s scope
  rw [h]

theorem released_v (s : State) (scope : Scope) (r : Reg) : (released s scope).v r = s.v r := by
  obtain ⟨ps, id, dies, h, -⟩ := released_changes s scope
  rw [h]; rfl

/-- At .device and .system the counter of the die has stepped. -/
theorem releaseCount_released {s : State} {scope : Scope} (hscope : 4 ≤ scopeCode scope)
    (hstep : (getDie s (dieOf s.core.pos)).lastStep ≠ some s.cycle) :
    releaseCount (released s scope) = releaseCount s + 1 := by
  rw [releaseCount, released_core, released, if_pos (show steps scope = true from decide_eq_true hscope)]
  exact stepRelease_counts hstep

/-- The release of a settled core has nothing to wait for (R173). -/
theorem relNow_settled {s : State} (h : Settled s) (scope : Scope) : relNow s scope = .ok (released s scope) := by
  have hpend : (released s scope).core.pend = [] := by rw [released_core]; exact h.results
  simp only [relNow, settleMarks_of_none h.marks, h.awake, h.peer, ite_self, releaseIds_settled h, List.isEmpty_nil, Bool.not_true,
    Bool.not_false, Bool.and_true, Bool.false_eq_true, if_false, windowMet, if_true]
  exact congrArg Except.ok (landAll_of_none _ hpend)

/-! ### The store after the release (R205) -/

theorem mem_flying {s : State} {p : Packet} : p ∈ flying s ↔ p ∈ s.net ∨ p ∈ s.mu.parked.flatMap (·.2) := by
  unfold flying
  split
  next h => rw [List.isEmpty_iff.1 h]; simp
  next => exact List.mem_append

/-- The packets that a release adds write nothing. -/
theorem mem_net_released {s : State} {scope : Scope} {p : Packet} (h : p ∈ (released s scope).net) :
    p ∈ s.net ∨ p.body.cells = [] := by
  obtain ⟨ps, id, dies, hrel, hps⟩ := released_changes s scope
  rw [hrel] at h
  exact (List.mem_append.1 h).imp_right (hps p)

theorem mem_flying_released {s : State} {scope : Scope} {p : Packet} (h : p ∈ flying (released s scope)) :
    p ∈ flying s ∨ p.body.cells = [] := by
  have hparked : (released s scope).mu.parked = s.mu.parked := by
    obtain ⟨ps, id, dies, hrel, -⟩ := released_changes s scope
    rw [hrel]
  rw [mem_flying, hparked] at h
  rw [mem_flying]
  rcases h with h | h
  · exact (mem_net_released h).imp_left .inl
  · exact .inl (.inr h)

/-- Beats write nothing, so no store waits for them (R158, R176, R177). -/
theorem ownWritable_released {s : State} {ea : W64} {n : Nat} (h : OwnWritable s ea n) (scope : Scope) :
    OwnWritable (released s scope) ea n := by
  have hcore := released_core s scope
  constructor
  case ahead =>
    rw [ownKey, hcore]
    refine List.any_eq_false.2 fun p hp => ?_
    rw [hcore]
    rcases mem_flying_released hp with hp | hp
    · exact List.any_eq_false.1 h.ahead p hp
    · simp [hp]
  case heard =>
    rw [ownKey, hcore]
    refine List.any_eq_false.2 fun p hp => ?_
    rw [released_heard]
    rcases mem_net_released hp with hp | hp
    · exact List.any_eq_false.1 h.heard p hp
    · simp [hp, Body.lines]

/-- A store that nothing holds back writes its bytes and moves no clock. -/
theorem storeAt_own_frame {s : State} {ea : W64} {n : Nat} {l : List Byte} (hw : OwnWritable s ea n) (hm : s.core.marks = [])
    (hal : ea.toNat % n = 0) (hn : n ∣ 64) (hl : l.length = n) :
    ∃ t, storeAt s ea (.loc s.core.num) (ownKey s ea) l = .ok t ∧ (retire t).core.pc = s.core.issue.npc ∧
      AccessFrame s (retire t) [] (ownKey s ea) n ∧ mread (retire t).mem (ownKey s ea) n = l ∧
      releaseCount (retire t) = releaseCount s := by
  have hframe := accessFrame_rawWrite s (ownKey s ea) l (ctxNum s.core) (.loc s.core.num)
  have hread := mread_mputs_cellsAt s.mem (ownKey s ea) l
  obtain ⟨joins, hj⟩ := noteCounter_changes (rawWrite s (cellsAt (ownKey s ea) l)) (ctxNum s.core) (.loc s.core.num)
    (cellsAt (ownKey s ea) l)
  rw [hl] at hframe hread
  refine ⟨_, storeAt_own hw hm hal hn hl, ?_, hframe, ?_, ?_⟩
  · rw [hj]; rfl
  · rw [hj]; exact hread
  · rw [hj]; rfl

/-- STRL of a settled core on a word of the own local memory: the release, then the store. -/
theorem strlEff_own {s : State} {ea : W64} {n : Nat} (hown : OwnAccess s ea n) (hset : Settled s) (scope : Scope) (w : W64) :
    strlEff s scope ea n w =
      stepsOnce (storeAt (released s scope) ea (.loc s.core.num) (ownKey s ea) (bytesOf w.toNat n)) := by
  have hnone : partnerOf s s.core.num = none := hset.unpaired
  simp only [strlEff, hown.aligned, ne_eq, not_true_eq_false, if_false, resolve_own hown, watchAt_of_unwatched hown,
    fenceHead_settled hset, relNow_settled hset, keepPaired, hnone]

/-- Settles O20: the release has nothing to wait for and steps the counter, and then nothing holds the store back. -/
theorem storeReleaseToOwnMemory : Obligations.StoreReleaseToOwnMemory := by
  unfold Obligations.StoreReleaseToOwnMemory
  intro c z d a s hown hw hset
  have hcore := released_core s c
  have hkey : ownKey (released s c) (s.x a) = ownKey s (s.x a) := by rw [ownKey, hcore, ownKey]
  obtain ⟨t, hstore, hpc, hframe, hread, hcount⟩ := storeAt_own_frame (ownWritable_released hw c) (hcore ▸ hset.marks) hown.aligned
    (szBytes_dvd z) (length_bytesOf (s.x d).toNat _)
  rw [hcore, hkey] at hstore
  have heff : strlEff s c (s.x a) (szBytes z) (s.x d) = .ok t := by
    rw [strlEff_own hown hset, hstore]
    rfl
  refine ⟨retire t, congrArg (finish s) heff, hpc.trans (by rw [hcore]), fun r hr => ?_, fun r hr => ?_, ?_, fun k hk => ?_,
    hkey ▸ hread, fun hscope hstep => ?_⟩
  · exact (hframe.scalars r hr).trans (congrArg (·.sc.get r) hcore)
  · exact (hframe.vectors r hr).trans (released_v s c r)
  · exact hframe.system.trans (by rw [hcore])
  · exact (hframe.bytes k (by rwa [hkey])).trans (by rw [released_mem])
  · rw [hcount, releaseCount_released hscope hstep]

end Sys2Proof.Machine

/-! What the reads of page walks change (06_memory R150; 08_page R207, R217). -/
namespace Sys2Proof.Machine

/-! ### Reads at the homes of tables -/

/-- Memory, L2, the stacks and what is noted of their lines may differ, and the walks under way: what the reads of a walk change. -/
def Walked (s t : State) : Prop := ∃ mem fresh boot hbm l2 checkDiff beneath lineKey poison walks,
  t = { s with
    mem := mem, fresh := fresh, out := { s.out with boot := boot }
    mu := { s.mu with
      hbm := hbm, l2 := l2, checkDiff := checkDiff, beneath := beneath, lineKey := lineKey, poison := poison, walks := walks } }

theorem Walked.refl (s : State) : Walked s s := ⟨_, _, _, _, _, _, _, _, _, _, rfl⟩

theorem Walked.trans {s t u : State} (h : Walked s t) (h' : Walked t u) : Walked s u := by
  obtain ⟨_, _, _, _, _, _, _, _, _, _, rfl⟩ := h
  obtain ⟨_, _, _, _, _, _, _, _, _, _, rfl⟩ := h'
  exact ⟨_, _, _, _, _, _, _, _, _, _, rfl⟩

theorem Walked.foldl {α : Type} {f : State → α → State} (h : ∀ s a, Walked s (f s a)) (l : List α) (s : State) :
    Walked s (l.foldl f s) := by
  induction l generalizing s with
  | nil => exact .refl s
  | cons a l ih => exact (h s a).trans (ih _)

theorem Walked.memoryOnly {s t : State} (h : Walked s t) : MemoryOnly s t := by
  obtain ⟨_, _, _, _, _, _, _, _, _, _, rfl⟩ := h
  exact ⟨_, _, _, _, _, _, rfl⟩

/-- Packets, those parked at ports, lines that engines own and the clusters' TLBs stand. -/
theorem Walked.keeps {s t : State} (h : Walked s t) :
    t.net = s.net ∧ t.mu.parked = s.mu.parked ∧ t.mu.excl = s.mu.excl ∧ t.mu.ctlb = s.mu.ctlb := by
  obtain ⟨_, _, _, _, _, _, _, _, _, _, rfl⟩ := h
  exact ⟨rfl, rfl, rfl, rfl⟩

theorem walked_stackAccess (s : State) (line : Nat) (read : Bool) : Walked s (stackAccess s line read) := by
  unfold stackAccess
  split
  · exact ⟨_, _, _, _, _, _, _, _, _, _, rfl⟩
  · exact .refl s

theorem walked_writeBack (s : State) (line : Nat) (l : L2Line) : Walked s (writeBack s line l) := by
  unfold writeBack hbmPut
  split
  · split
    · exact .refl s
    · exact (walked_stackAccess s line false).trans ⟨_, _, _, _, _, _, _, _, _, _, rfl⟩
  · exact .refl s

theorem walked_l2Put (s : State) (line : Nat) (l : L2Line) : Walked s (l2Put s line l) := by
  refine Walked.trans (t := l2Room s line) ?_ ⟨_, _, _, _, _, _, _, _, _, _, rfl⟩
  unfold l2Room l2Evict
  dsimp only
  split
  · exact .refl s
  · exact Walked.trans (t := { s with fresh := s.fresh + 1 }) ⟨_, _, _, _, _, _, _, _, _, _, rfl⟩
      ((Walked.foldl (fun t (p : Nat × L2Line) => walked_writeBack t p.1 p.2) _ _).trans ⟨_, _, _, _, _, _, _, _, _, _, rfl⟩)

theorem walked_checkLine (s : State) (line : Nat) : Walked s (checkLine s line) := by
  unfold checkLine poisonLine
  dsimp only
  split
  · split <;> exact ⟨_, _, _, _, _, _, _, _, _, _, rfl⟩
  · exact .refl s

theorem walked_homeRead (s : State) (line : Nat) (kid : Option Nat) (cached : Bool) : Walked s (homeRead s line kid cached).1 := by
  have hread := (walked_stackAccess s line true).trans (walked_checkLine _ line)
  unfold homeRead
  split
  · split
    · exact .refl s
    · dsimp only
      split
      · exact hread
      · exact hread.trans (walked_l2Put _ _ _)
  · exact hread

theorem walked_walkReads (s : State) (asid va : Nat) : Walked s (walkReads s asid va) := by
  unfold walkReads
  dsimp only
  split
  · exact .refl s
  · exact .foldl (fun t line => walked_homeRead t line none true) _ s

theorem walked_vaReads (s : State) (asid : Nat) (va : W64) : Walked s (vaReads s asid va) := by
  unfold vaReads
  split
  · exact .refl s
  · exact walked_walkReads s asid va.toNat

/-! ### Walks that start and are walked again (R217) -/

theorem walked_putWalks (s : State) (cl : Nat) (l : List Walk) : Walked s (putWalks s cl l) :=
  ⟨_, _, _, _, _, _, _, _, _, _, rfl⟩

theorem walked_startWalk (l : List Walk) (s : State) : Walked s (startWalk l s).1 := by
  induction l generalizing s with
  | nil => exact .refl s
  | cons w l ih =>
    unfold startWalk
    split
    · exact ih s
    · dsimp only
      split
      · exact walked_walkReads s w.asid w.va
      · exact (walked_walkReads s w.asid w.va).trans (ih _)

theorem walked_startWalks (k : Nat) (p : State × List Walk) : Walked p.1 (startWalks k p).1 := by
  induction k generalizing p with
  | zero => exact .refl p.1
  | succ k ih =>
    unfold startWalks
    split
    · exact .refl p.1
    · exact (walked_startWalk p.2 p.1).trans (ih _)

/-- One walk of a cluster, walked again where its result is removed. -/
def walkAgain (gone : TlbEnt → Bool) (p : State × List Walk) (w : Walk) : State × List Walk :=
  if w.ent.any gone then
    (walkReads p.1 w.asid w.va,
      if (walk p.1 w.asid w.va).ok then p.2 ++ [{ w with ent := some (entOf w.asid w.va (walk p.1 w.asid w.va)) }] else p.2)
  else (p.1, p.2 ++ [w])

theorem rewalk_eq (s : State) (gone : TlbEnt → Bool) (l : List Walk) :
    rewalk s gone l = startWalks 64 (l.foldl (walkAgain gone) (s, [])) := rfl

theorem walked_foldl_walkAgain (gone : TlbEnt → Bool) (l : List Walk) (p : State × List Walk) :
    Walked p.1 (l.foldl (walkAgain gone) p).1 := by
  induction l generalizing p with
  | nil => exact .refl p.1
  | cons w l ih =>
    refine Walked.trans (t := (walkAgain gone p w).1) ?_ (ih _)
    unfold walkAgain
    split
    · exact walked_walkReads p.1 w.asid w.va
    · exact .refl p.1

theorem walked_rewalk (s : State) (gone : TlbEnt → Bool) (l : List Walk) : Walked s (rewalk s gone l).1 := by
  rw [rewalk_eq]
  exact (walked_foldl_walkAgain gone l (s, [])).trans (walked_startWalks 64 _)

end Sys2Proof.Machine

/-! The TLBs of clusters and their pins (08_page R216, R223), and the frame of a scalar result behind a look-up. -/
namespace Sys2Proof.Machine

/-! ### A scalar result behind a walk -/

theorem finish_needsMode {s : State} {n : Nat} (h : n ≤ modeOf s.core) (k : Eff) : finish s (needsMode s n k) = finish s k := by
  rw [needsMode, if_neg (Nat.not_lt.2 h)]

theorem setXI_mem {s : State} {d : Reg} (h : NoPendX s d) (w : W64) (lat : Nat) : (setXI s d w lat).mem = s.mem := by
  by_cases h0 : d = 0
  · rw [setXI, if_pos h0]
  · rw [setXI_clear s d w lat h0 h, lockAt_mem]
    rfl

/-- An interlocked result after a look-up: the look-up is all that the frame sees. -/
theorem retire_setXI_lookedUp {s u t : State} {d : Reg} (ht : LookedUp s t) (hmem : t.mem = u.mem) (h : NoPendX s d) (w : W64)
    (lat : Nat) : (retire (setXI t d w lat)).core.pc = s.core.issue.npc ∧ WalkFrame s u (retire (setXI t d w lat)) [d] ∧
      Gives (retire (setXI t d w lat)) d w ∧ (retire (setXI t d w lat)).mu = t.mu := by
  obtain ⟨tlb, hcore⟩ := ht.core
  have hpend : NoPendX t d := fun p hp => h p (by rwa [hcore] at hp)
  obtain ⟨hpc, ⟨hx, hv, hsys, hwin, -, -, hdev⟩, hgives⟩ := retire_setXI_frame hpend w lat
  rw [hcore] at hpc hsys
  rw [KeepsWindow, hcore] at hwin
  refine ⟨hpc, ⟨fun r hr => ?_, fun r hr => ?_, hsys, hwin, (setXI_mem hpend w lat).trans hmem⟩, hgives, hdev.2.2.1⟩
  · exact (hx r hr).trans (congrArg (·.sc.get r) hcore)
  · exact (hv r hr).trans (vget_congr (by rw [hcore]) (by rw [hcore]) ht.un r)

theorem WalkFrame.unitFrame {s t : State} {ds : List Reg} (h : WalkFrame s s t ds) : UnitFrame s t ds :=
  ⟨h.scalars, h.vectors, h.system, h.window, fun a => congrArg (mget · a) h.bytes⟩

/-! ### Cluster TLBs -/

theorem getCtlb_putCtlb_self (s : State) (cl : Nat) (l : List TlbEnt) : getCtlb (putCtlb s cl l) cl = l := by
  rw [getCtlb, putCtlb, tgetD, tget_tput_self, Option.getD_some]

theorem getCtlb_putCtlb_ne (s : State) {cl k : Nat} (l : List TlbEnt) (h : k ≠ cl) :
    getCtlb (putCtlb s cl l) k = getCtlb s k := by
  rw [getCtlb, putCtlb, tgetD, tget_tput_ne _ _ h]
  rfl

theorem getCtlb_congr {s t : State} (h : t.mu.ctlb = s.mu.ctlb) (cl : Nat) : getCtlb t cl = getCtlb s cl := by
  rw [getCtlb, getCtlb, h]

theorem mem_dropFirst_of_not {α : Type} {p : α → Bool} {f : α} (hf : p f = false) (l : List α) :
    f ∈ dropFirst p l ↔ f ∈ l := by
  induction l with
  | nil => rfl
  | cons x r ih =>
    unfold dropFirst
    split
    next hx => rw [List.mem_cons, or_iff_right (fun e => by rw [e, hx] at hf; cases hf)]
    next => rw [List.mem_cons, List.mem_cons, ih]

/-- Pinned entries stay in a cluster TLB that takes an entry which is not pinned, and it gains none (R216). -/
theorem mem_ctlbAdd_of_pin {l : List TlbEnt} {e f : TlbEnt} (he : e.pin = false) (hf : f.pin = true) :
    f ∈ ctlbAdd l e ↔ f ∈ l := by
  have hne : f ≠ e := fun h => by rw [h, he] at hf; cases hf
  unfold ctlbAdd
  dsimp only
  split
  · simp [hf]
  · split
    · simp [hf, hne]
    · simp [mem_dropFirst_of_not, hf, hne]

theorem any_ctlbAdd {l : List TlbEnt} {e : TlbEnt} {p : TlbEnt → Bool} (he : e.pin = false)
    (hp : ∀ f, p f = true → f.pin = true) : (ctlbAdd l e).any p = l.any p := by
  rw [Bool.eq_iff_iff, List.any_eq_true, List.any_eq_true]
  exact exists_congr fun f => and_congr_left fun hf => mem_ctlbAdd_of_pin he (hp f hf)

/-- An entry enters a cluster TLB that pins nothing. -/
theorem mem_ctlbAdd_of_unpinned {l : List TlbEnt} (h : l.any (·.pin) = false) (e : TlbEnt) : e ∈ ctlbAdd l e := by
  unfold ctlbAdd
  dsimp only
  rw [if_neg]
  · exact List.mem_append_right _ List.mem_cons_self
  · rw [Bool.not_eq_true, List.any_eq_false]
    intro f hf
    have hout := (List.mem_filter.1 hf).2
    rw [Bool.eq_false_iff.2 (List.any_eq_false.1 h f (List.mem_of_mem_filter hf)), Bool.or_false, Bool.not_eq_true'] at hout
    exact Bool.eq_false_iff.1 hout

/-! ### A pin in one cluster TLB (R223) -/

/-- Whether an entry pins the page of another, under its ASID or under every one (R216). -/
def pinsPage (e f : TlbEnt) : Bool := f.pin && (f.asid == e.asid || entBit f.w0 6) && f.size == e.size && f.vpage == e.vpage

theorem pin_of_pinsPage {e f : TlbEnt} (h : pinsPage e f = true) : f.pin = true := by
  simp only [pinsPage, Bool.and_eq_true] at h
  exact h.1.1.1

theorem pinsPage_pinned (e : TlbEnt) : pinsPage e { e with pin := true } = true := by simp [pinsPage]

theorem any_pinsPage_of_unpinned {l : List TlbEnt} (h : l.any (·.pin) = false) (e : TlbEnt) : l.any (pinsPage e) = false :=
  List.any_eq_false.2 fun f hf hsame => List.any_eq_false.1 h f hf (pin_of_pinsPage hsame)

theorem pinOne_pinned {l : List TlbEnt} {e : TlbEnt} (h : l.any (pinsPage e) = true) : pinOne l e = (3, l) := if_pos h

theorem pinOne_unpinned {l : List TlbEnt} {e : TlbEnt} (h : l.any (·.pin) = false) :
    (pinOne l e).1 = 0 ∧ (pinOne l e).2.any (pinsPage e) = true := by
  have hpins : l.filter (·.pin) = [] := List.filter_eq_nil_iff.2 (List.any_eq_false.1 h)
  have hset : l.filter (fun f => f.pin && ctlbSet f == ctlbSet e) = [] :=
    List.filter_eq_nil_iff.2 fun f hf hp => List.any_eq_false.1 h f hf (Bool.and_eq_true_iff.1 hp).1
  have hpin : pinOne l e = (0, (ctlbAdd l e).map (fun f => if f == e then { f with pin := true } else f)) := by
    refine (if_neg (Bool.eq_false_iff.1 (any_pinsPage_of_unpinned h e))).trans (if_neg ?_)
    rw [hpins, hset]
    decide
  rw [hpin]
  refine ⟨rfl, List.any_eq_true.2 ⟨{ e with pin := true }, ?_, pinsPage_pinned e⟩⟩
  exact List.mem_map.2 ⟨e, mem_ctlbAdd_of_unpinned h e, if_pos (beq_self_eq_true e)⟩

/-- A pin in a TLB that has pinned the page already, or pins nothing. -/
theorem pinOne_of_room {l : List TlbEnt} {e : TlbEnt} (h : l.any (pinsPage e) = true ∨ l.any (·.pin) = false) :
    (pinOne l e).1 = (if l.any (pinsPage e) then 3 else 0) ∧ (pinOne l e).2.any (pinsPage e) = true := by
  cases hpage : l.any (pinsPage e) with
  | true =>
    rw [pinOne_pinned hpage]
    exact ⟨rfl, hpage⟩
  | false => exact pinOne_unpinned (h.resolve_left (Bool.eq_false_iff.1 hpage))

theorem pinOne_kept {l : List TlbEnt} {e : TlbEnt} (h : (pinOne l e).1 ≠ 0) : (pinOne l e).2 = l := by
  unfold pinOne at h ⊢
  dsimp only at h ⊢
  split_ifs at h ⊢
  · rfl
  · rfl
  · exact absurd rfl h

/-! ### An unpin in one cluster TLB (R223) -/

/-- Whether a pinned entry maps an address under an ASID (R216). -/
def pinsAddr (asid va : Nat) (f : TlbEnt) : Bool := f.pin && f.serves asid va

theorem unpinOne_miss {l : List TlbEnt} {asid va : Nat} (h : l.any (pinsAddr asid va) = false) : unpinOne l asid va = (3, l) :=
  if_neg (Bool.eq_false_iff.1 h)

theorem unpinOne_status (l : List TlbEnt) (asid va : Nat) : (unpinOne l asid va).1 = if l.any (pinsAddr asid va) then 0 else 3 := by
  cases h : l.any (pinsAddr asid va) with
  | true => exact congrArg Prod.fst (if_pos h)
  | false => rw [unpinOne_miss h]; rfl

theorem any_unpinOne (l : List TlbEnt) (asid va : Nat) : (unpinOne l asid va).2.any (pinsAddr asid va) = false := by
  cases h : l.any (pinsAddr asid va) with
  | false => rw [unpinOne_miss h, h]
  | true =>
    have hone : (unpinOne l asid va).2 = l.map (fun f => if pinsAddr asid va f then { f with pin := false } else f) :=
      congrArg Prod.snd (if_pos h)
    rw [hone, List.any_eq_false]
    intro f hf
    obtain ⟨g, -, rfl⟩ := List.mem_map.1 hf
    split
    · simp [pinsAddr]
    next hg => exact hg

theorem unpinOne_kept {l : List TlbEnt} {asid va : Nat} (h : (unpinOne l asid va).1 ≠ 0) : (unpinOne l asid va).2 = l := by
  cases hany : l.any (pinsAddr asid va) with
  | false => rw [unpinOne_miss hany]
  | true => exact absurd ((unpinOne_status l asid va).trans (by rw [hany]; rfl)) h

/-! ### The cluster TLBs named -/

/-- The clusters that x[b] names are the issuing one, or all of its die. -/
theorem mem_pinTargets {pos cl : Nat} {all : Bool} :
    cl ∈ pinTargets pos all ↔ if all then cl / 32 = clusterOf pos / 32 else cl = clusterOf pos := by
  cases all with
  | false => simp [pinTargets]
  | true =>
    simp only [pinTargets, if_true, List.mem_map, List.mem_range, dieOf, clusterOf]
    constructor
    · rintro ⟨i, hi, rfl⟩
      omega
    · intro h
      exact ⟨cl % 32, by omega, by omega⟩

theorem nodup_pinTargets (pos : Nat) (all : Bool) : (pinTargets pos all).Nodup := by
  cases all with
  | false => exact List.nodup_singleton _
  | true => exact List.nodup_range.map fun i j h => Nat.add_left_cancel h

/-- One cluster's TLB in a pin or unpin over several. -/
def pinStep (f : List TlbEnt → Nat × List TlbEnt) (acc : List Nat × State) (cl : Nat) : List Nat × State :=
  ((f (getCtlb acc.2 cl)).1 :: acc.1,
    if (f (getCtlb acc.2 cl)).1 = 0 then putCtlb acc.2 cl (f (getCtlb acc.2 cl)).2 else acc.2)

theorem pinAll_eq (s : State) (f : List TlbEnt → Nat × List TlbEnt) (cls : List Nat) :
    pinAll s f cls = cls.foldl (pinStep f) ([], s) := rfl

section PinAll
variable {f : List TlbEnt → Nat × List TlbEnt}

/-- Pins change the cluster TLBs alone. -/
theorem foldl_pinStep_changes (cls : List Nat) (acc : List Nat × State) : ∃ ctlb,
    (cls.foldl (pinStep f) acc).2 = { acc.2 with mu := { acc.2.mu with ctlb := ctlb } } := by
  induction cls generalizing acc with
  | nil => exact ⟨acc.2.mu.ctlb, rfl⟩
  | cons cl cls ih =>
    obtain ⟨ctlb, h⟩ := ih (pinStep f acc cl)
    rw [List.foldl_cons, h]
    unfold pinStep
    dsimp only
    split
    · exact ⟨ctlb, rfl⟩
    · exact ⟨ctlb, rfl⟩

theorem getCtlb_pinStep_ne (acc : List Nat × State) {cl k : Nat} (h : k ≠ cl) :
    getCtlb (pinStep f acc cl).2 k = getCtlb acc.2 k := by
  unfold pinStep
  dsimp only
  split
  · exact getCtlb_putCtlb_ne acc.2 _ h
  · rfl

theorem getCtlb_foldl_pinStep_of_not_mem {cls : List Nat} {k : Nat} (h : k ∉ cls) (acc : List Nat × State) :
    getCtlb (cls.foldl (pinStep f) acc).2 k = getCtlb acc.2 k := by
  induction cls generalizing acc with
  | nil => rfl
  | cons cl cls ih =>
    obtain ⟨hne, hnot⟩ := List.ne_and_not_mem_of_not_mem_cons h
    rw [List.foldl_cons, ih hnot, getCtlb_pinStep_ne acc hne]

/-- The statuses are those of the clusters' own TLBs. -/
theorem mem_foldl_pinStep {cls : List Nat} (hnodup : cls.Nodup) (acc : List Nat × State) (n : Nat) :
    n ∈ (cls.foldl (pinStep f) acc).1 ↔ n ∈ acc.1 ∨ ∃ cl ∈ cls, (f (getCtlb acc.2 cl)).1 = n := by
  induction cls generalizing acc with
  | nil => simp
  | cons cl cls ih =>
    obtain ⟨hnot, hrest⟩ := List.nodup_cons.1 hnodup
    have hkept : (∃ k ∈ cls, (f (getCtlb (pinStep f acc cl).2 k)).1 = n) ↔ ∃ k ∈ cls, (f (getCtlb acc.2 k)).1 = n :=
      exists_congr fun k => and_congr_right fun hk => by rw [getCtlb_pinStep_ne acc (ne_of_mem_of_not_mem hk hnot)]
    rw [List.foldl_cons, ih hrest, hkept, List.exists_mem_cons_iff, pinStep, List.mem_cons, eq_comm (a := n)]
    tauto

/-- What a named cluster's TLB becomes. -/
theorem getCtlb_foldl_pinStep (hkept : ∀ l, (f l).1 ≠ 0 → (f l).2 = l) {cls : List Nat} (hnodup : cls.Nodup) {cl : Nat}
    (hmem : cl ∈ cls) (acc : List Nat × State) :
    getCtlb (cls.foldl (pinStep f) acc).2 cl = (f (getCtlb acc.2 cl)).2 := by
  induction cls generalizing acc with
  | nil => cases hmem
  | cons k cls ih =>
    obtain ⟨hnot, hrest⟩ := List.nodup_cons.1 hnodup
    rw [List.foldl_cons]
    rcases List.mem_cons.1 hmem with rfl | hmem
    · rw [getCtlb_foldl_pinStep_of_not_mem hnot]
      unfold pinStep
      dsimp only
      split
      · exact getCtlb_putCtlb_self acc.2 cl _
      next h => exact (hkept _ h).symm
    · rw [ih hrest hmem, getCtlb_pinStep_ne acc (ne_of_mem_of_not_mem hmem hnot)]

end PinAll

/-- A pin or unpin that no named cluster TLB lacks the room for: its status, and the TLBs after it. -/
theorem pinAll_named {s : State} {f : List TlbEnt → Nat × List TlbEnt} (hkept : ∀ l, (f l).1 ≠ 0 → (f l).2 = l) (pos : Nat)
    (all : Bool) (hroom : ∀ cl ∈ pinTargets pos all, (f (getCtlb s cl)).1 ≠ 2) :
    let r := pinAll s f (pinTargets pos all)
    ((∀ cl ∈ pinTargets pos all, (f (getCtlb s cl)).1 = 0) → pinStatus r.1 = 0) ∧
      ((∃ cl ∈ pinTargets pos all, (f (getCtlb s cl)).1 = 3) → pinStatus r.1 = 3) ∧
      ∀ cl ∈ pinTargets pos all, getCtlb r.2 cl = (f (getCtlb s cl)).2 := by
  intro r
  have hnodup := nodup_pinTargets pos all
  have hmem (n : Nat) : n ∈ r.1 ↔ ∃ cl ∈ pinTargets pos all, (f (getCtlb s cl)).1 = n :=
    (mem_foldl_pinStep hnodup ([], s) n).trans (or_iff_right List.not_mem_nil)
  have htwo : 2 ∉ r.1 := fun h => by
    obtain ⟨cl, hcl, h2⟩ := (hmem 2).1 h
    exact hroom cl hcl h2
  refine ⟨fun hdone => ?_, fun hstood => ?_, fun cl hcl => getCtlb_foldl_pinStep hkept hnodup hcl ([], s)⟩
  · have hthree : 3 ∉ r.1 := fun h => by
      obtain ⟨cl, hcl, h3⟩ := (hmem 3).1 h
      rw [hdone cl hcl] at h3
      cases h3
    simp [pinStatus, htwo, hthree]
  · simp [pinStatus, htwo, (hmem 3).2 hstood]

/-- A page pinned in every TLB named: each has pinned it already, or pins nothing. -/
theorem pinAll_pins {s : State} {e : TlbEnt} {pos : Nat} {all : Bool} (hroom : ∀ cl ∈ pinTargets pos all,
      (getCtlb s cl).any (pinsPage e) = true ∨ (getCtlb s cl).any (·.pin) = false) :
    let r := pinAll s (fun l => pinOne l e) (pinTargets pos all)
    ((∀ cl ∈ pinTargets pos all, (getCtlb s cl).any (pinsPage e) = false) → pinStatus r.1 = 0) ∧
      ((∃ cl ∈ pinTargets pos all, (getCtlb s cl).any (pinsPage e) = true) → pinStatus r.1 = 3) ∧
      ∀ cl ∈ pinTargets pos all, (getCtlb r.2 cl).any (pinsPage e) = true := by
  have hone (cl : Nat) (hcl : cl ∈ pinTargets pos all) := pinOne_of_room (hroom cl hcl)
  obtain ⟨hzero, hthree, hafter⟩ := pinAll_named (s := s) (f := fun l => pinOne l e) (fun _ => pinOne_kept) pos all
    fun cl hcl => by
      rw [(hone cl hcl).1]
      split <;> decide
  refine ⟨fun h => hzero fun cl hcl => ?_, fun ⟨cl, hcl, h⟩ => hthree ⟨cl, hcl, ?_⟩, fun cl hcl => ?_⟩
  · exact (hone cl hcl).1.trans (by rw [h cl hcl]; rfl)
  · exact (hone cl hcl).1.trans (if_pos h)
  · rw [hafter cl hcl]
    exact (hone cl hcl).2

/-- An address unpinned in every TLB named. -/
theorem pinAll_unpins (s : State) (asid va pos : Nat) (all : Bool) :
    let r := pinAll s (fun l => unpinOne l asid va) (pinTargets pos all)
    ((∀ cl ∈ pinTargets pos all, (getCtlb s cl).any (pinsAddr asid va) = true) → pinStatus r.1 = 0) ∧
      ((∃ cl ∈ pinTargets pos all, (getCtlb s cl).any (pinsAddr asid va) = false) → pinStatus r.1 = 3) ∧
      ∀ cl ∈ pinTargets pos all, (getCtlb r.2 cl).any (pinsAddr asid va) = false := by
  obtain ⟨hzero, hthree, hafter⟩ := pinAll_named (s := s) (f := fun l => unpinOne l asid va) (fun _ => unpinOne_kept) pos all
    fun cl _ => by
      rw [unpinOne_status]
      split <;> decide
  refine ⟨fun h => hzero fun cl hcl => ?_, fun ⟨cl, hcl, h⟩ => hthree ⟨cl, hcl, ?_⟩, fun cl hcl => ?_⟩
  · exact (unpinOne_status _ _ _).trans (if_pos (h cl hcl))
  · exact (unpinOne_status _ _ _).trans (by rw [h]; rfl)
  · rw [hafter cl hcl]
    exact any_unpinOne _ _ _

/-- The status of a pin or unpin is delivered behind what the frame sees of the walk before it. -/
theorem retire_pinAll {s u v : State} {d : Reg} (hv : LookedUp s v) (hmem : v.mem = u.mem) (h : NoPendX s d)
    (f : List TlbEnt → Nat × List TlbEnt) (cls : List Nat) :
    let r := pinAll v f cls
    let t := retire (setXI r.2 d (BitVec.ofNat 64 (pinStatus r.1)) 6)
    t.core.pc = s.core.issue.npc ∧ WalkFrame s u t [d] ∧ (∀ n, pinStatus r.1 = n → Gives t d (BitVec.ofNat 64 n)) ∧
      ∀ cl, getCtlb t cl = getCtlb r.2 cl := by
  intro r t
  obtain ⟨ctlb, hr⟩ := foldl_pinStep_changes (f := f) cls ([], v)
  rw [← pinAll_eq] at hr
  have hlook : LookedUp s r.2 := hv.memory ⟨_, _, _, _, _, _, hr⟩
  have hbytes : r.2.mem = u.mem := (congrArg State.mem hr).trans hmem
  obtain ⟨hpc, hframe, hgives, hmu⟩ := retire_setXI_lookedUp hlook hbytes h (BitVec.ofNat 64 (pinStatus r.1)) 6
  exact ⟨hpc, hframe, fun n hn => hn ▸ hgives, getCtlb_congr (congrArg (·.ctlb) hmu)⟩

end Sys2Proof.Machine

/-! PGQ and PGPIN: the walk, the words and the statuses they deliver (08_page R222, R223). -/
namespace Sys2Proof.Machine

/-! ### The walk that PGQ and a pin begin with (R222, R223) -/

/-- The state behind the walk: its reads, and the TLBs filled where it found a page. -/
def walkedTo (s : State) (asid : Nat) (va : W64) : State :=
  if (walkVa s asid va).ok then walkFills (vaReads s asid va) (entOf asid va.toNat (walkVa s asid va)) else vaReads s asid va

theorem walkedTo_lookedUp (s : State) (asid : Nat) (va : W64) :
    LookedUp s (walkedTo s asid va) ∧ (walkedTo s asid va).mem = (vaReads s asid va).mem := by
  obtain ⟨_, _, _, _, _, _, hread⟩ := (walked_vaReads s asid va).memoryOnly
  unfold walkedTo
  rw [hread]
  split
  · exact ⟨⟨_, _, _, _, _, _, _, rfl⟩, rfl⟩
  · exact ⟨⟨_, _, _, _, _, _, _, rfl⟩, rfl⟩

/-- What the TLB of a cluster pins is what it pinned before the walk. -/
theorem any_getCtlb_walkFills (s : State) {e : TlbEnt} (he : e.pin = false) {p : TlbEnt → Bool}
    (hp : ∀ f, p f = true → f.pin = true) (cl : Nat) : (getCtlb (walkFills s e) cl).any p = (getCtlb s cl).any p := by
  have hfill : getCtlb (walkFills s e) cl =
      getCtlb (putCtlb s (clusterOf s.core.pos) (ctlbAdd (getCtlb s (clusterOf s.core.pos)) e)) cl := rfl
  rw [hfill]
  by_cases hcl : cl = clusterOf s.core.pos
  · rw [hcl, getCtlb_putCtlb_self, any_ctlbAdd he hp]
  · rw [getCtlb_putCtlb_ne s _ hcl]

theorem any_getCtlb_walkedTo (s : State) (asid : Nat) (va : W64) {p : TlbEnt → Bool} (hp : ∀ f, p f = true → f.pin = true)
    (cl : Nat) : (getCtlb (walkedTo s asid va) cl).any p = (getCtlb s cl).any p := by
  obtain ⟨-, -, -, hctlb⟩ := (walked_vaReads s asid va).keeps
  unfold walkedTo
  split
  · rw [any_getCtlb_walkFills (vaReads s asid va) rfl hp, getCtlb_congr hctlb]
  · rw [getCtlb_congr hctlb]

/-! ### PGQ (R222) -/

/-- The low bits of a word. -/
theorem fld_low {n : Nat} (w : BitVec n) (hi : Nat) : fld w hi 0 = w.toNat % 2 ^ (hi + 1) := by
  rw [fld_eq, Nat.pow_zero, Nat.div_one]
  rfl

theorem exec_pgq {s : State} {d a b : Reg} (hmode : 1 ≤ modeOf s.core) (hb : (s.x b).toNat < 2 ^ 9) :
    let asid := (s.x b).toNat % 2 ^ 8
    let w := walkVa s asid (s.x a)
    exec (.pgq d a b) s = .next (retire (setXI (walkedTo s asid (s.x a)) d
      (if w.ok && (s.x b).toNat / 2 ^ 8 == 1 then w.w1 else pgqWord s asid (s.x a) w) 6)) := by
  have htop : fld (s.x b) 63 9 = 0 := by rw [fld_eq, Nat.div_eq_of_lt hb, Nat.zero_mod]
  have hasid : fld (s.x b) 7 0 = (s.x b).toNat % 2 ^ 8 := fld_low _ 7
  have hword : fld (s.x b) 8 8 = (s.x b).toNat / 2 ^ 8 := by
    rw [fld_bit]
    omega
  refine (finish_needsMode hmode _).trans ?_
  rw [pgqEff, if_neg (not_not_intro htop), hasid, hword]
  rfl

section Word
variable (s : State) (asid : Nat) (va : W64) {w : WalkEnd}

theorem b2n_mul (c : Bool) (n : Nat) : b2n c * n = if c then n else 0 := by cases c <;> simp [b2n]

/-- The word of PGQ for a page that is found. -/
theorem pgqWord_leaf (hok : w.ok = true) : pgqWord s asid va w = BitVec.ofNat 64 (2 ^ 63 + w.size * 2 ^ 61 + w.level * 2 ^ 58 +
    (if pinnedAt s (myCluster s) asid va.toNat then 2 ^ 56 else 0) + leafAddr (entOf asid va.toNat w) va.toNat / 1024 * 1024 +
    w.w0.toNat % 2 ^ 10) := by
  have hflags : fld w.w0 9 0 = w.w0.toNat % 2 ^ 10 := fld_low _ 9
  rw [pgqWord, hok, ← b2n_mul, hflags]
  rfl

/-- The word of PGQ where the walk finds no page. -/
theorem pgqWord_none (hok : w.ok = false) : pgqWord s asid va w = BitVec.ofNat 64 (w.level * 2 ^ 58 +
    (if w.mal then 2 ^ 57 else 0) + if pinnedAt s (myCluster s) asid va.toNat then 2 ^ 56 else 0) := by
  rw [pgqWord, hok, ← b2n_mul, ← b2n_mul]
  rfl

end Word

/-- PGQ delivers what the walk finds, and leaves what a walk leaves. -/
theorem pgq_delivers {d a b : Reg} {s : State} (h : NoPendX s d) (hmode : 1 ≤ modeOf s.core) (hb : (s.x b).toNat < 2 ^ 9) :
    let asid := (s.x b).toNat % 2 ^ 8
    let w := walkVa s asid (s.x a)
    ∃ t, exec (.pgq d a b) s = .next t ∧ t.core.pc = s.core.issue.npc ∧ WalkFrame s (vaReads s asid (s.x a)) t [d] ∧
      Gives t d (if w.ok && (s.x b).toNat / 2 ^ 8 == 1 then w.w1 else pgqWord s asid (s.x a) w) := by
  intro asid w
  obtain ⟨hlook, hmem⟩ := walkedTo_lookedUp s asid (s.x a)
  obtain ⟨hpc, hframe, hgives, -⟩ := retire_setXI_lookedUp hlook hmem h
    (if w.ok && (s.x b).toNat / 2 ^ 8 == 1 then w.w1 else pgqWord s asid (s.x a) w) 6
  exact ⟨_, exec_pgq hmode hb, hpc, hframe, hgives⟩

/-! ### PGPIN (R223) -/

/-- A bit of an entry's first word, as a decision. -/
theorem entBit_eq (w0 : W64) (i : Nat) : entBit w0 i = decide (w0.toNat / 2 ^ i % 2 = 1) := by
  rw [entBit, fld_bit]
  rfl

section Pin
variable {s : State} {d a b : Reg} (hmode : 1 ≤ modeOf s.core) (hb : (s.x b).toNat / 2 ^ 8 % 2 ^ 54 = 0)
include hmode hb

/-- What PGPIN does, by its control word. -/
theorem exec_pgpin_eq : exec (.pgpin d a b) s = finish s (
    let asid := (s.x b).toNat % 2 ^ 8
    let w := walkVa s asid (s.x a)
    let cls := pinTargets s.core.pos ((s.x b).toNat / 2 ^ 62 % 2 == 1)
    let pinned := pinAll (walkFills (vaReads s asid (s.x a)) (entOf asid (s.x a).toNat w))
      (fun l => pinOne l (entOf asid (s.x a).toNat w)) cls
    let unpinned := pinAll s (fun l => unpinOne l asid (s.x a).toNat) cls
    if (s.x b).toNat / 2 ^ 63 = 1 then
      if !w.ok then .ok (setXI (vaReads s asid (s.x a)) d 1 6)
      else .ok (setXI pinned.2 d (BitVec.ofNat 64 (pinStatus pinned.1)) 6)
    else .ok (setXI unpinned.2 d (BitVec.ofNat 64 (pinStatus unpinned.1)) 6)) := by
  have hrest : fld (s.x b) 61 8 = 0 := by rw [fld_eq, hb]
  have hasid : fld (s.x b) 7 0 = (s.x b).toNat % 2 ^ 8 := fld_low _ 7
  have hpin : fld (s.x b) 63 63 = (s.x b).toNat / 2 ^ 63 := by
    have := (s.x b).isLt
    rw [fld_bit]
    omega
  refine (finish_needsMode hmode _).trans ?_
  rw [pgpinEff, if_neg (not_not_intro hrest), hasid, hpin, fld_bit]

/-- A pin of a page that is absent. -/
theorem pgpin_absent (h : NoPendX s d) (hpin : (s.x b).toNat / 2 ^ 63 = 1)
    (hok : (walkVa s ((s.x b).toNat % 2 ^ 8) (s.x a)).ok = false) :
    ∃ t, exec (.pgpin d a b) s = .next t ∧ t.core.pc = s.core.issue.npc ∧
      WalkFrame s (vaReads s ((s.x b).toNat % 2 ^ 8) (s.x a)) t [d] ∧ Gives t d 1 := by
  have hexec := exec_pgpin_eq (d := d) (a := a) hmode hb
  rw [if_pos hpin, hok] at hexec
  have hlook := (walked_vaReads s ((s.x b).toNat % 2 ^ 8) (s.x a)).memoryOnly.lookedUp
  obtain ⟨hpc, hframe, hgives, -⟩ := retire_setXI_lookedUp hlook rfl h 1 6
  exact ⟨_, hexec, hpc, hframe, hgives⟩

/-- A pin of a page that every named cluster TLB has pinned already or has room for, since it pins nothing. -/
theorem pgpin_pins (h : NoPendX s d) (hpin : (s.x b).toNat / 2 ^ 63 = 1) {all : Bool}
    (hall : ((s.x b).toNat / 2 ^ 62 % 2 == 1) = all) {asid : Nat} (hasid : (s.x b).toNat % 2 ^ 8 = asid) {e : TlbEnt}
    (hok : (walkVa s asid (s.x a)).ok = true) (he : entOf asid (s.x a).toNat (walkVa s asid (s.x a)) = e)
    (hroom : ∀ cl ∈ pinTargets s.core.pos all, (getCtlb s cl).any (pinsPage e) = true ∨ (getCtlb s cl).any (·.pin) = false) :
    ∃ t, exec (.pgpin d a b) s = .next t ∧ t.core.pc = s.core.issue.npc ∧ WalkFrame s (vaReads s asid (s.x a)) t [d] ∧
      ((∀ cl ∈ pinTargets s.core.pos all, (getCtlb s cl).any (pinsPage e) = false) → Gives t d 0) ∧
      ((∃ cl ∈ pinTargets s.core.pos all, (getCtlb s cl).any (pinsPage e) = true) → Gives t d 3) ∧
      ∀ cl ∈ pinTargets s.core.pos all, (getCtlb t cl).any (pinsPage e) = true := by
  have hexec := exec_pgpin_eq (d := d) (a := a) hmode hb
  have hto : walkedTo s asid (s.x a) = walkFills (vaReads s asid (s.x a)) e := by rw [walkedTo, if_pos hok, he]
  rw [if_pos hpin, hall, hasid, he, hok, ← hto] at hexec
  obtain ⟨hlook, hmem⟩ := walkedTo_lookedUp s asid (s.x a)
  have hpage := any_getCtlb_walkedTo s asid (s.x a) (p := pinsPage e) fun _ => pin_of_pinsPage
  have hpins := any_getCtlb_walkedTo s asid (s.x a) (p := (·.pin)) fun _ hf => hf
  obtain ⟨hzero, hthree, hafter⟩ := pinAll_pins (s := walkedTo s asid (s.x a)) (e := e) (pos := s.core.pos) (all := all)
    fun cl hcl => by rw [hpage, hpins]; exact hroom cl hcl
  obtain ⟨hpc, hframe, hgives, hctlb⟩ := retire_pinAll hlook hmem h (fun l => pinOne l e) (pinTargets s.core.pos all)
  simp only [hpage] at hzero hthree
  exact ⟨_, hexec, hpc, hframe, fun hnone => hgives 0 (hzero hnone), fun hsome => hgives 3 (hthree hsome),
    fun cl hcl => (congrArg (List.any · _) (hctlb cl)).trans (hafter cl hcl)⟩

/-- An unpin in every named cluster TLB. -/
theorem pgpin_unpins (h : NoPendX s d) (hpin : (s.x b).toNat / 2 ^ 63 = 0) {all : Bool}
    (hall : ((s.x b).toNat / 2 ^ 62 % 2 == 1) = all) {asid : Nat} (hasid : (s.x b).toNat % 2 ^ 8 = asid) :
    ∃ t, exec (.pgpin d a b) s = .next t ∧ t.core.pc = s.core.issue.npc ∧ UnitFrame s t [d] ∧
      ((∀ cl ∈ pinTargets s.core.pos all, (getCtlb s cl).any (pinsAddr asid (s.x a).toNat) = true) → Gives t d 0) ∧
      ((∃ cl ∈ pinTargets s.core.pos all, (getCtlb s cl).any (pinsAddr asid (s.x a).toNat) = false) → Gives t d 3) ∧
      ∀ cl ∈ pinTargets s.core.pos all, (getCtlb t cl).any (pinsAddr asid (s.x a).toNat) = false := by
  have hexec := exec_pgpin_eq (d := d) (a := a) hmode hb
  rw [if_neg (by rw [hpin]; decide), hall, hasid] at hexec
  obtain ⟨hzero, hthree, hafter⟩ := pinAll_unpins s asid (s.x a).toNat s.core.pos all
  obtain ⟨hpc, hframe, hgives, hctlb⟩ := retire_pinAll (MemoryOnly.refl s).lookedUp rfl h
    (fun l => unpinOne l asid (s.x a).toNat) (pinTargets s.core.pos all)
  exact ⟨_, hexec, hpc, hframe.unitFrame, fun hevery => hgives 0 (hzero hevery), fun hsome => hgives 3 (hthree hsome),
    fun cl hcl => (congrArg (List.any · _) (hctlb cl)).trans (hafter cl hcl)⟩

/-- An unpin of a page that the own cluster does not pin changes nothing. -/
theorem pgpin_unpin_none (h : NoPendX s d) (hzero : (s.x b).toNat / 2 ^ 62 = 0)
    (hnone : (getCtlb s (myCluster s)).any (pinsAddr ((s.x b).toNat % 2 ^ 8) (s.x a).toNat) = false) :
    ∃ t, exec (.pgpin d a b) s = .next t ∧ t.core.pc = s.core.issue.npc ∧ KeepsAllBut s t [d] ∧ Gives t d 3 := by
  have hexec := exec_pgpin_eq (d := d) (a := a) hmode hb
  have hall : ((s.x b).toNat / 2 ^ 62 % 2 == 1) = false := by rw [hzero]; rfl
  have hown : pinTargets s.core.pos false = [myCluster s] := rfl
  have hpinAll : pinAll s (fun l => unpinOne l ((s.x b).toNat % 2 ^ 8) (s.x a).toNat) [myCluster s] = ([3], s) := by
    rw [pinAll_eq, List.foldl_cons, List.foldl_nil, pinStep]
    dsimp only
    rw [unpinOne_miss hnone]
    rfl
  rw [if_neg (by omega), hall, hown, hpinAll] at hexec
  obtain ⟨hpc, hframe, hgives⟩ := retire_setXI_frame h 3 6
  exact ⟨_, hexec, hpc, hframe, hgives⟩

end Pin

/-! ### Pinned entries as the statement writes them: bit 6 of the first word marks a global one (R208, R216) -/

theorem pinsPage_of_entry (asid va : Nat) (w : WalkEnd) : (fun f : TlbEnt =>
    f.pin && (f.asid == asid || decide (f.w0.toNat / 2 ^ 6 % 2 = 1)) && f.size == w.size && f.vpage == (entOf asid va w).vpage) =
      pinsPage (entOf asid va w) := by
  funext f
  rw [pinsPage, entBit_eq]
  rfl

theorem pinsAddr_of_entry (asid va : Nat) : (fun f : TlbEnt =>
    f.pin && (f.asid == asid || decide (f.w0.toNat / 2 ^ 6 % 2 = 1)) && va / 2 ^ pageBits f.size == f.vpage) =
      pinsAddr asid va := by
  funext f
  rw [pinsAddr, TlbEnt.serves, entBit_eq, Bool.and_assoc]

theorem any_pin_of_all {l : List TlbEnt} (h : l.all (fun f => !f.pin) = true) : l.any (·.pin) = false :=
  List.any_eq_false.2 fun f hf => by simpa using List.all_eq_true.1 h f hf

end Sys2Proof.Machine

/-! TLBINV of a core with nothing on its way (08_page R221). -/
namespace Sys2Proof.Machine

/-! ### The beats of the release name no place (R177) -/

theorem placeless_net_released {s : State} {scope : Scope} {p : Packet} (h : p ∈ (released s scope).net) :
    p ∈ s.net ∨ p.body.place = none := by
  unfold released stepRelease at h
  split at h
  next =>
    extract_lets x at h
    split at h
    next => exact .inl h
    next =>
      obtain ⟨ps, id, hbeats, hbodies, -⟩ := foldl_sendBeat (dieOf s.core.pos) (List.range 4) (putDie s (dieOf s.core.pos)
        { x with vc := x.vc.set (dieOf s.core.pos) (x.vc.get (dieOf s.core.pos) + 1), lastStep := some s.cycle })
      rw [sendBeats_eq, hbeats] at h
      rcases List.mem_append.1 h with h | h
      · exact .inl h
      · obtain ⟨e, -, he⟩ := List.mem_map.1 (hbodies ▸ List.mem_map_of_mem (f := Packet.body) h)
        rw [← he]
        exact .inr rfl
  next => exact .inl h

/-! ### What is removed -/

/-- The entries that the words name are those of the statement's reading. -/
theorem invOf_hits (va w : W64) (e : TlbEnt) : (invOf va w).hits e = invalidated va w e := by
  have hkind : fld w 63 62 = w.toNat / 2 ^ 62 := by
    have := w.isLt
    rw [fld_eq]
    omega
  have hlo : fld va 51 19 * 2 ^ 19 = va.toNat % 2 ^ 52 / 2 ^ 19 * 2 ^ 19 := by
    rw [fld_eq]
    omega
  have hasid : fld w 7 0 = w.toNat % 2 ^ 8 := fld_low w 7
  have hunits : fld w 31 8 = w.toNat / 2 ^ 8 % 2 ^ 24 := fld_eq w 31 8
  simp only [InvCtl.hits, invOf, invalidated, hkind, hlo, hasid, hunits, entBit_eq, pageBits, beq_eq_decide, Bool.and_assoc] <;> rfl

/-- A core without the entries removed, where it lies in scope. -/
def stripCore (own : Nat) (c : InvCtl) (k : Core) : Core :=
  if inScope own k.pos c.scope then { k with tlb := k.tlb.filter (fun e => !c.hits e) } else k

/-- Every TLB in scope without the entries removed. -/
def stripped (s : State) (c : InvCtl) : State :=
  { s with
    core := stripCore s.core.pos c s.core
    others := s.others.map (fun p => (p.1, stripCore s.core.pos c p.2))
    mu := { s.mu with
      ctlb := s.mu.ctlb.map (fun p =>
        (p.1, if clInScope s.core.pos p.1 c.scope then p.2.filter (fun e => !c.hits e) else p.2)) } }

/-- The walks of a cluster in scope, those whose results are removed walked again. -/
def stripWalks (own : Nat) (c : InvCtl) (u : State) (p : Nat × List Walk) : State :=
  if clInScope own p.1 c.scope then putWalks (rewalk u c.hits p.2).1 p.1 (rewalk u c.hits p.2).2 else u

theorem invRemove_eq (s : State) (c : InvCtl) : invRemove s c = s.mu.walks.foldl (stripWalks s.core.pos c) (stripped s c) := rfl

theorem walked_invRemove (s : State) (c : InvCtl) : Walked (stripped s c) (invRemove s c) := by
  rw [invRemove_eq]
  refine .foldl (fun u p => ?_) _ _
  unfold stripWalks
  split
  · exact (walked_rewalk u c.hits p.2).trans (walked_putWalks _ _ _)
  · exact .refl u

theorem inScope_self (pos scope : Nat) : inScope pos pos scope = true := by
  unfold inScope
  split <;> simp

/-- The core that issues lies in every scope. -/
theorem stripped_core (s : State) (c : InvCtl) :
    (stripped s c).core = { s.core with tlb := s.core.tlb.filter (fun e => !c.hits e) } := if_pos (inScope_self _ _)

theorem tget_map {α β : Type} (f : α → β) (t : Tbl α) (k : Nat) :
    tget (t.map (fun p => (p.1, f p.2))) k = (tget t k).map f := by
  induction t with
  | nil => rfl
  | cons p t ih =>
    simp only [List.map_cons, tget, ih]
    split <;> rfl

/-- At scope .device every core's TLB has lost the entries; a core that the table does not list has none. -/
theorem getCore_stripped_tlb (s : State) {c : InvCtl} (hscope : c.scope = 4) (n : Nat) :
    (getCore (stripped s c) n).tlb = (getCore s n).tlb.filter (fun e => !c.hits e) := by
  have hstrip (k : Core) : (stripCore s.core.pos c k).tlb = k.tlb.filter (fun e => !c.hits e) := by
    rw [stripCore, hscope]
    rfl
  have hnum : (stripped s c).core.num = s.core.num := by rw [stripped_core]
  have hothers : (stripped s c).others = s.others.map (fun p => (p.1, stripCore s.core.pos c p.2)) := rfl
  rw [getCore, getCore, hnum, hothers, tgetD, tgetD, tget_map]
  split
  · exact hstrip s.core
  · cases tget s.others n with
    | none => rfl
    | some k => exact hstrip k

theorem getCore_congr {s t : State} (hcore : t.core = s.core) (hothers : t.others = s.others) (n : Nat) :
    getCore t n = getCore s n := by
  rw [getCore, getCore, hcore, hothers]

/-! ### TLBINV (R221) -/

/-- Write-backs change memory and its units, but not the packets parked at ports. -/
theorem foldl_flushFrame_keeps (gone : List TlbEnt) (s : State) :
    MemoryOnly s (gone.foldl flushFrame s) ∧ (gone.foldl flushFrame s).mu.parked = s.mu.parked := by
  induction gone generalizing s with
  | nil => exact ⟨.refl s, rfl⟩
  | cons e gone ih =>
    obtain ⟨hmem, hparked⟩ := ih (flushFrame s e)
    have hwritten : Walked s _ := .foldl (fun t (p : Nat × L2Line) => walked_writeBack t p.1 p.2) (s.mu.l2.filter fun p =>
      decide ((leafPlace e (e.vpage * 2 ^ pageBits e.size)).2 ≤ p.1 * 64) &&
        decide (p.1 * 64 < (leafPlace e (e.vpage * 2 ^ pageBits e.size)).2 + 2 ^ pageBits e.size)) s
    exact ⟨(hwritten.memoryOnly.trans ⟨_, _, _, _, _, _, rfl⟩).trans hmem, hparked.trans hwritten.keeps.2.1⟩

theorem flushed_keeps (wb : Bool) (gone : List TlbEnt) (u : State) :
    let v := if wb then gone.foldl flushFrame u else u
    MemoryOnly u v ∧ (wb = false → v = u) ∧ v.mu.parked = u.mu.parked := by
  cases wb with
  | false => exact ⟨.refl u, fun _ => rfl, rfl⟩
  | true =>
    obtain ⟨hmem, hparked⟩ := foldl_flushFrame_keeps gone u
    refine ⟨hmem, fun h => ?_, hparked⟩
    cases h

section Invalidate
variable {s u : State} {va w : W64} (hnet : s.net = []) (hparked : s.mu.parked = []) (hexcl : s.mu.excl = [])
  (hu : invRemove (released s (scopeOf (fld w 61 59))) (invOf va w) = u)
include hnet hparked hexcl hu

/-- After the release and the removals nothing that used an entry is left to wait for, and no packet is parked. -/
theorem removed_quiet (gone : List TlbEnt) : u.net.any (invPending u (invOf va w) gone) = false ∧
    invEngines u (invOf va w) gone = false ∧ u.mu.parked = [] := by
  have hwalked := walked_invRemove (released s (scopeOf (fld w 61 59))) (invOf va w)
  rw [hu] at hwalked
  obtain ⟨hunet, huparked, huexcl, -⟩ := hwalked.keeps
  obtain ⟨ps, id, dies, hrel, -⟩ := released_changes s (scopeOf (fld w 61 59))
  refine ⟨List.any_eq_false.2 fun p hp => ?_, ?_, huparked.trans ?_⟩
  · rw [hunet] at hp
    have hplace : p.body.place = none := (placeless_net_released hp).resolve_left (by rw [hnet]; exact List.not_mem_nil)
    simp [invPending, hplace]
  · rw [invEngines, huexcl, stripped, hrel, hexcl]
    rfl
  · rw [stripped, hrel]
    exact hparked

/-- TLBINV completes: behind the removals it only writes lines back. -/
theorem tlbinvEff_completes (hset : Settled s) (hscope : fld w 61 59 ≤ 4) (hrest : fld w 57 32 = 0) :
    ∃ v, tlbinvEff s va w = .ok v ∧ MemoryOnly u v ∧ ((invOf va w).wb = false → v = u) := by
  have hrel : relNow s (scopeOf (invOf va w).scope) = .ok (released s (scopeOf (fld w 61 59))) := relNow_settled hset _
  generalize hgone : invEntries (released s (scopeOf (fld w 61 59))) (invOf va w) = gone
  obtain ⟨hpackets, hengines, huparked⟩ := removed_quiet hnet hparked hexcl hu gone
  obtain ⟨hmem, hsame, hflushed⟩ := flushed_keeps (invOf va w).wb gone u
  refine ⟨_, ?_, hmem, hsame⟩
  unfold tlbinvEff
  rw [if_neg (by omega)]
  simp only [hset.awake, hrel, hu, hgone, List.nil_append, hpackets, hengines, Bool.or_self, Bool.false_eq_true, if_false, hflushed,
    huparked, List.filter_nil, List.foldl_nil]

end Invalidate

theorem getCore_retire_tlb (s : State) (n : Nat) : (getCore (retire s) n).tlb = (getCore s n).tlb := by
  rw [getCore, getCore, retire_core_num, retire_others]
  split
  · rfl
  · rfl

/-- What TLBINV leaves: the core but for its TLB, and the TLBs without the entries its words name. -/
theorem tlbinv_removes {a b : Reg} {s : State} (hmode : 1 ≤ modeOf s.core) (hset : Settled s)
    (hrest : (s.x b).toNat / 2 ^ 32 % 2 ^ 26 = 0) (hscope : (s.x b).toNat / 2 ^ 59 % 2 ^ 3 ≤ 4)
    (hnet : s.net = []) (hparked : s.mu.parked = []) (hexcl : s.mu.excl = []) :
    ∃ t, exec (.tlbinv a b) s = .next t ∧ t.core.pc = s.core.issue.npc ∧ KeepsX s t [] ∧ KeepsV s t [] ∧
      t.core.sys = s.core.sys ∧ KeepsWindow s t ∧
      t.core.tlb = s.core.tlb.filter (fun e => !invalidated (s.x a) (s.x b) e) ∧
      ((s.x b).toNat / 2 ^ 59 % 2 ^ 3 = 4 → ∀ n,
        (getCore t n).tlb = (getCore s n).tlb.filter (fun e => !invalidated (s.x a) (s.x b) e)) ∧
      ((s.x b).toNat / 2 ^ 58 % 2 = 0 → s.mu.walks = [] → KeepsBytes s t) := by
  have hcode : fld (s.x b) 61 59 = (s.x b).toNat / 2 ^ 59 % 2 ^ 3 := fld_eq _ _ _
  have hgone : (fun e => !(invOf (s.x a) (s.x b)).hits e) = fun e => !invalidated (s.x a) (s.x b) e :=
    funext fun e => by rw [invOf_hits]
  rw [← hgone, ← hcode]
  generalize hu : invRemove (released s (scopeOf (fld (s.x b) 61 59))) (invOf (s.x a) (s.x b)) = u
  obtain ⟨v, heff, hmem, hsame⟩ := tlbinvEff_completes hnet hparked hexcl hu hset (by rwa [hcode]) ((fld_eq _ _ _).trans hrest)
  have hwalked := walked_invRemove (released s (scopeOf (fld (s.x b) 61 59))) (invOf (s.x a) (s.x b))
  rw [hu] at hwalked
  have hmemory := hwalked.memoryOnly.trans hmem
  obtain ⟨ps, id, dies, hrel, -⟩ := released_changes s (scopeOf (fld (s.x b) 61 59))
  have hun : v.un = s.un := hmemory.un.trans (by rw [hrel]; rfl)
  have hcore : v.core = { s.core with tlb := s.core.tlb.filter (fun e => !(invOf (s.x a) (s.x b)).hits e) } :=
    hmemory.core.trans (by rw [stripped_core, released_core])
  refine ⟨retire v, (finish_needsMode hmode _).trans (congrArg (finish s) heff), congrArg (·.issue.npc) hcore,
    fun r _ => congrArg (·.sc.get r) hcore, fun r _ => vget_congr (by rw [hcore]) (by rw [hcore]) hun r,
    congrArg (·.sys) hcore, ?_, congrArg (·.tlb) hcore, fun hdevice n => ?_, fun hwb hwalks a => ?_⟩
  · rw [KeepsWindow, retire_core_sc, hcore]
    exact ⟨rfl, rfl, rfl, rfl, rfl⟩
  · rw [getCore_retire_tlb, getCore_congr hmemory.core hmemory.others, getCore_stripped_tlb _ hdevice,
      getCore_congr (released_core s _) (by rw [hrel])]
  · have hkept : (invOf (s.x a) (s.x b)).wb = false := by
      change (fld (s.x b) 58 58 == 1) = false
      rw [fld_bit, hwb]
      rfl
    rw [retire_mem, hsame hkept, ← hu, invRemove_eq, hrel]
    dsimp only
    rw [hwalks]
    rfl

end Sys2Proof.Machine

/-! The start of a switch of contexts (09_context R252). -/
namespace Sys2Proof.Machine

/-! ### CTXSW -/

/-- Whether a core is a member of a live checked pair depends on the groups, and on the context and the run state of every core. -/
theorem partnerOf_congr {s t : State} (hgroups : t.un.groups = s.un.groups)
    (hctx : ∀ n, ctxNum (getCore t n) = ctxNum (getCore s n)) (hrun : ∀ n, (getCore t n).run = (getCore s n).run) (n : Nat) :
    partnerOf t n = partnerOf s n := by
  have hpair : pairOf t n = pairOf s n := by simp only [pairOf, pairIn, hgroups, hctx]
  have hresident (m ctx : Nat) : residentIn (getCore t m) ctx = residentIn (getCore s m) ctx := by
    rw [residentIn, residentIn, hctx, hrun]
  unfold partnerOf
  rw [hpair]
  cases pairOf s n with
  | none => rfl
  | some g => simp only [hresident]

/-- The core as it leaves the monitor: its results have landed, and CTXSW is done. -/
def leavingMonitor (s : State) : State :=
  (emptyFetch (landAll s)).mapCore (fun c => { c with retired := c.retired + 1, issue := { c.issue with mark := .done } })

theorem startSwitch_eq (s : State) (xa xb : W64) :
    let j : SwJob := {
      saving := !noCtx s.core, load := if xa = BitVec.allOnes 64 then none else some xa.toNat, deadline := xb
      began := s.cycle, alt := false }
    startSwitch s xa xb = if noCtx s.core then switchOn (leavingMonitor s) j
      else (splitPair (leavingMonitor s)).mapCore (fun c => { c with run := .switching, wait := none, job := some j }) := rfl

theorem leavingMonitor_mem (s : State) : (leavingMonitor s).mem = s.mem := landAll_mem s

/-- A core of no live checked pair leaves the monitor as one. -/
theorem splitPair_leavingMonitor {s : State} (h : Unpaired s) : splitPair (leavingMonitor s) = leavingMonitor s := by
  obtain ⟨glob, ring, own, frames, busy, hland⟩ := landAll_changes s
  have hnum : (leavingMonitor s).core.num = s.core.num := landAll_num s
  have hreads {β : Type} (g : Core → β) (hg : g (leavingMonitor s).core = g s.core) (n : Nat) :
      g (getCore (leavingMonitor s) n) = g (getCore s n) := by
    have hothers : (leavingMonitor s).others = s.others := landAll_others s
    rw [getCore, getCore, hnum, hothers]
    split
    · exact hg
    · rfl
  have hnone : partnerOf (leavingMonitor s) (leavingMonitor s).core.num = none := by
    have hun : (leavingMonitor s).un.groups = s.un.groups := by
      change (landAll s).un.groups = _
      rw [hland]
    have hsys : (leavingMonitor s).core.sys = s.core.sys := landAll_sys s
    rw [hnum, partnerOf_congr hun (hreads ctxNum ?_) (hreads Core.run (landAll_run s))]
    · exact h
    · rw [ctxNum, ctxNum, noCtx, noCtx, curCtx, curCtx, hsys]
  rw [splitPair, hnone]

/-- A context that R252 lets the monitor name. -/
theorem ctxsw_allowed {s : State} {xa : W64} (h : xa = BitVec.allOnes 64 ∨ (xa.toNat < 256 ∧ ctxLife s xa.toNat = 1 ∧
    inRange s xa.toNat s.core.num = true ∧ ctxNum s.core ≠ xa.toNat)) : ctxswBad s xa = false := by
  rcases h with h | ⟨hlt, hlife, hrange, hother⟩
  · simp [ctxswBad, h]
  · have hresident : (!noCtx s.core && curCtx s.core == xa.toNat) = false := by
      cases hno : noCtx s.core with
      | true => rfl
      | false =>
        rw [ctxNum, hno] at hother
        simpa using hother
    have hnumber : decide (255 < xa.toNat) = false := decide_eq_false (by omega)
    simp [ctxswBad, hnumber, hlife, hrange, hresident]

theorem exec_ctxsw {a b : Reg} {s : State} (hmode : modeOf s.core = 2) (h : ctxswBad s (s.x a) = false) :
    exec (.ctxsw a b) s = .next (startSwitch s (s.x a) (s.x b)) := by
  have heff : ctxswEff s (s.x a) (s.x b) = .error (.over (startSwitch s (s.x a) (s.x b))) := by
    rw [ctxswEff, needsMode, if_neg (by omega), h]
    rfl
  exact congrArg (finish s) heff

section Switch
variable {a b : Reg} {s : State} (hmode : modeOf s.core = 2) (hallowed : ctxswBad s (s.x a) = false)
include hmode hallowed

/-- CTXSW of a resident context begins its save. -/
theorem ctxsw_saves (hpair : Unpaired s) (hctx : noCtx s.core = false) :
    ∃ t j, exec (.ctxsw a b) s = .next t ∧ t.core.run = .switching ∧ t.core.job = some j ∧ j.saving = true ∧
      j.load = (if s.x a = BitVec.allOnes 64 then none else some (s.x a).toNat) ∧ j.deadline = s.x b ∧ KeepsBytes s t := by
  have hstart := startSwitch_eq s (s.x a) (s.x b)
  rw [hctx] at hstart
  rw [exec_ctxsw hmode hallowed, hstart, if_neg Bool.false_ne_true, splitPair_leavingMonitor hpair]
  exact ⟨_, _, rfl, rfl, rfl, rfl, rfl, rfl, fun k => congrArg (mget · k) (leavingMonitor_mem s)⟩

/-- CTXSW with no context resident begins the restore of the one it names. -/
theorem ctxsw_restores (hctx : noCtx s.core = true) (hnamed : s.x a ≠ BitVec.allOnes 64) :
    ∃ t j, exec (.ctxsw a b) s = .next t ∧ t.core.run = .switching ∧ t.core.job = some j ∧ j.saving = false ∧
      j.load = some (s.x a).toNat ∧ KeepsBytes s t := by
  have hstart := startSwitch_eq s (s.x a) (s.x b)
  rw [hctx, if_neg hnamed] at hstart
  rw [exec_ctxsw hmode hallowed, hstart, if_pos rfl]
  exact ⟨_, _, rfl, rfl, rfl, rfl, rfl, fun k => congrArg (mget · k) (leavingMonitor_mem s)⟩

/-- CTXSW of no context on a core that has none leaves it idle. -/
theorem ctxsw_idles (hctx : noCtx s.core = true) (hnamed : s.x a = BitVec.allOnes 64) :
    ∃ t, exec (.ctxsw a b) s = .next t ∧ t.core.run = .idle ∧ KeepsBytes s t := by
  have hstart := startSwitch_eq s (s.x a) (s.x b)
  rw [hctx, if_pos hnamed] at hstart
  rw [exec_ctxsw hmode hallowed, hstart, if_pos rfl]
  exact ⟨_, rfl, rfl, fun k => congrArg (mget · k) (leavingMonitor_mem s)⟩

end Switch

/-- Settles O46, clause by clause: the removals of TLBINV, the walk of PGQ, the pins by the clusters named, and the start of a
switch. -/
theorem translationAndContextInstructions : Obligations.TranslationAndContextInstructions := by
  unfold Obligations.TranslationAndContextInstructions
  refine ⟨fun a b s => tlbinv_removes, ?query, ?pin, ?switch⟩
  case query =>
    intro d a b s h hmode hb w pin
    obtain ⟨t, hexec, hpc, hframe, hgives⟩ := pgq_delivers (a := a) h hmode hb
    refine ⟨t, hexec, hpc, hframe, fun hok hword => ?_, fun hok hword => ?_, fun hok => ?_⟩
    · rwa [hok, hword] at hgives
    · rw [hok, hword, pgqWord_leaf _ _ _ hok] at hgives
      exact hgives
    · rw [hok, pgqWord_none _ _ _ hok] at hgives
      exact hgives
  case pin =>
    intro d a b s h hmode hb asid w mine same hit l u
    have hsame : same = pinsPage (entOf asid (s.x a).toNat w) := pinsPage_of_entry asid (s.x a).toNat w
    have hhit : hit = pinsAddr asid (s.x a).toNat := pinsAddr_of_entry asid (s.x a).toNat
    rw [hsame, hhit]
    have hpin (hone : (s.x b).toNat / 2 ^ 63 = 1) (hown : (s.x b).toNat / 2 ^ 62 % 2 = 0) (hok : w.ok = true) :=
      pgpin_pins hmode hb h hone (all := false) (by rw [hown]; rfl) rfl hok rfl
    have hunpin (hzero : (s.x b).toNat / 2 ^ 62 = 0) :=
      pgpin_unpins (a := a) hmode hb h (by omega) (all := false) (by rw [hzero]; rfl) rfl
    have hdie (cl : Nat) : cl ∈ pinTargets s.core.pos true ↔ cl / 32 = myCluster s / 32 := mem_pinTargets
    refine ⟨pgpin_absent hmode hb h, fun hone hok hown hpinned => ?pinned, fun hone hok hown hfree => ?free,
      pgpin_unpin_none hmode hb h, fun hzero hpinned => ?unpin, fun hthree hok hroom => ?pinDie, fun hone => ?unpinDie⟩
    case pinned =>
      obtain ⟨t, hexec, hpc, hframe, -, hgives, -⟩ := hpin hone hown hok (List.forall_mem_singleton.2 (.inl hpinned))
      exact ⟨t, hexec, hpc, hframe, hgives ⟨_, List.mem_singleton_self _, hpinned⟩⟩
    case free =>
      have hunpinned := any_pin_of_all hfree
      obtain ⟨t, hexec, hpc, hframe, hgives, -, hafter⟩ := hpin hone hown hok (List.forall_mem_singleton.2 (.inr hunpinned))
      exact ⟨t, hexec, hpc, hframe, hgives (List.forall_mem_singleton.2 (any_pinsPage_of_unpinned hunpinned _)),
        hafter _ (List.mem_singleton_self _)⟩
    case unpin =>
      obtain ⟨t, hexec, hpc, hframe, hgives, -, hafter⟩ := hunpin hzero
      exact ⟨t, hexec, hpc, hframe, hgives (List.forall_mem_singleton.2 hpinned), hafter _ (List.mem_singleton_self _)⟩
    case pinDie =>
      have hpins := pgpin_pins hmode hb h (by omega) (all := true) (by rw [hthree]; rfl) rfl hok rfl
      simp only [hdie] at hpins
      obtain ⟨t, hexec, hpc, hframe, hzero, hstood, hafter⟩ := hpins fun cl hcl => (hroom cl hcl).imp_right any_pin_of_all
      exact ⟨t, hexec, hpc, hframe, hzero, hstood, hafter⟩
    case unpinDie =>
      have hunpins := pgpin_unpins (a := a) hmode hb h (by omega) (all := true) (by rw [hone]; rfl) rfl
      simp only [hdie] at hunpins
      exact hunpins
  case switch =>
    intro a b s hmode hpair c hnamed
    have hallowed := ctxsw_allowed hnamed
    exact ⟨ctxsw_saves hmode hallowed hpair, ctxsw_restores hmode hallowed, ctxsw_idles hmode hallowed⟩

end Sys2Proof.Machine
